-- ==== Sys2Proof/Word.lean ====
section
/-!
DEFINITION. The plain words of the machine: bytes, cells, the identifiers of fibres (01 R8, 08 R168).
-/
namespace Sys2Proof

/-- A byte of memory. -/
abbrev Byte := BitVec 8

/-- The 32 bits of a window cell (00 R8). -/
abbrev Word := BitVec 32

/-- A pair of cells, or an address (00 R8). -/
abbrev DWord := BitVec 64

/-- A six-bit register field of an instruction word (03 R61). -/
abbrev Fld := BitVec 6

/-- A fibre's identifier, the tuple of R168: node, gang, crew, lane. -/
structure FibId where
  nid : Nat
  gid : Nat
  cid : Nat
  fid : Nat
  deriving DecidableEq, Repr

/-- What a peer's packet asks for in the export window (23 R433, R434): `len` bytes to read, bytes to store, or an AMO or a RED of
that operation with its operands. -/
inductive PeerOp where
  | read (len : Nat)
  | store (data : List Byte)
  | amo (op : Nat) (data : List Byte)
  | red (op : Nat) (data : List Byte)
  deriving DecidableEq, Repr

/-- Identifiers compare lexicographically (R168). -/
def FibId.lt (a b : FibId) : Bool :=
  if a.nid ≠ b.nid then a.nid < b.nid
  else if a.gid ≠ b.gid then a.gid < b.gid
  else if a.cid ≠ b.cid then a.cid < b.cid
  else a.fid < b.fid

/-- The global fibre index GFI (R86, R168). -/
def FibId.gfi (a : FibId) : Nat := a.gid * 1024 + a.cid * 32 + a.fid

end Sys2Proof
end

