-- ==== Sys2Proof/Syntax.lean ====
section
/-!
DEFINITION. The instructions: one constructor per row of spec/opcode_table.json, in the table's order.
The first 341 rows are instruction words; their arguments are the raw fields of the word (03 R61), without the
chain bit C, which belongs to the packet. MBR is the three-word packet of R65. The rows after NOP are the steps that
the device takes on its own and the commands of the host: they have no bits, and their arguments say what they act on.
-/
namespace Sys2Proof

/-- One step of the device: an instruction word, the multi-way branch packet, or an event. -/
inductive Instr where
  /-- ADD (R107). Adds two cells modulo 2^32. -/
  | add (d a b : Fld) (ea eb : Bool)
  /-- SUB (R107). Subtracts two cells modulo 2^32. -/
  | sub (d a b : Fld) (ea eb : Bool)
  /-- MUL (R107). Low 32 bits of the signed product. -/
  | mul (d a b : Fld) (ea eb : Bool)
  /-- MULH (R107). High 32 bits of the signed product. -/
  | mulh (d a b : Fld) (ea eb : Bool)
  /-- MULHU (R107). High 32 bits of the unsigned product. -/
  | mulhu (d a b : Fld) (ea eb : Bool)
  /-- DIV (R108). Signed division truncating toward zero, with fixed edge cases. -/
  | div (d a b : Fld) (ea eb : Bool)
  /-- DIVU (R108). Unsigned division with fixed edge cases. -/
  | divu (d a b : Fld) (ea eb : Bool)
  /-- REM (R108). Signed remainder with the sign of the dividend. -/
  | rem (d a b : Fld) (ea eb : Bool)
  /-- REMU (R108). Unsigned remainder. -/
  | remu (d a b : Fld) (ea eb : Bool)
  /-- AND (R107). Bitwise and of two cells. -/
  | and (d a b : Fld) (ea eb : Bool)
  /-- OR (R107). Bitwise or of two cells. -/
  | or (d a b : Fld) (ea eb : Bool)
  /-- XOR (R107). Bitwise exclusive or of two cells. -/
  | xor (d a b : Fld) (ea eb : Bool)
  /-- ANDN (R107). A and not B. -/
  | andn (d a b : Fld) (ea eb : Bool)
  /-- ORN (R107). A or not B. -/
  | orn (d a b : Fld) (ea eb : Bool)
  /-- SHL (R107). Logical left shift by a cell count. -/
  | shl (d a b : Fld) (ea eb : Bool)
  /-- SHR (R107). Logical right shift by a cell count. -/
  | shr (d a b : Fld) (ea eb : Bool)
  /-- SAR (R107). Arithmetic right shift by a cell count. -/
  | sar (d a b : Fld) (ea eb : Bool)
  /-- ROTL (R107). Rotate left by count mod 32. -/
  | rotl (d a b : Fld) (ea eb : Bool)
  /-- MIN (R107). Signed minimum. -/
  | min (d a b : Fld) (ea eb : Bool)
  /-- MAX (R107). Signed maximum. -/
  | max (d a b : Fld) (ea eb : Bool)
  /-- MINU (R107). Unsigned minimum. -/
  | minu (d a b : Fld) (ea eb : Bool)
  /-- MAXU (R107). Unsigned maximum. -/
  | maxu (d a b : Fld) (ea eb : Bool)
  /-- ADDS (R107). Signed saturating add. -/
  | adds (d a b : Fld) (ea eb : Bool)
  /-- SUBS (R107). Signed saturating subtract. -/
  | subs (d a b : Fld) (ea eb : Bool)
  /-- ADDUS (R107). Unsigned saturating add. -/
  | addus (d a b : Fld) (ea eb : Bool)
  /-- SUBUS (R107). Unsigned saturating subtract. -/
  | subus (d a b : Fld) (ea eb : Bool)
  /-- LEA1 (R107). A plus B shifted left by 1. -/
  | lea1 (d a b : Fld) (ea eb : Bool)
  /-- LEA2 (R107). A plus B shifted left by 2. -/
  | lea2 (d a b : Fld) (ea eb : Bool)
  /-- LEA3 (R107). A plus B shifted left by 3. -/
  | lea3 (d a b : Fld) (ea eb : Bool)
  /-- LEA4 (R107). A plus B shifted left by 4. -/
  | lea4 (d a b : Fld) (ea eb : Bool)
  /-- ADD_D (R109). 64-bit add of pairs. -/
  | addD (d a b : Fld) (ea eb : Bool)
  /-- SUB_D (R109). 64-bit subtract of pairs. -/
  | subD (d a b : Fld) (ea eb : Bool)
  /-- MUL_D (R109). Low 64 bits of the 64-bit product. -/
  | mulD (d a b : Fld) (ea eb : Bool)
  /-- MULH_D (R109). High 64 bits of the signed 64-bit product. -/
  | mulhD (d a b : Fld) (ea eb : Bool)
  /-- MULHU_D (R109). High 64 bits of the unsigned 64-bit product. -/
  | mulhuD (d a b : Fld) (ea eb : Bool)
  /-- AND_D (R109). 64-bit bitwise and. -/
  | andD (d a b : Fld) (ea eb : Bool)
  /-- OR_D (R109). 64-bit bitwise or. -/
  | orD (d a b : Fld) (ea eb : Bool)
  /-- XOR_D (R109). 64-bit bitwise exclusive or. -/
  | xorD (d a b : Fld) (ea eb : Bool)
  /-- SHL_D (R109). 64-bit left shift by a cell count. -/
  | shlD (d a b : Fld) (ea eb : Bool)
  /-- SHR_D (R109). 64-bit logical right shift. -/
  | shrD (d a b : Fld) (ea eb : Bool)
  /-- SAR_D (R109). 64-bit arithmetic right shift. -/
  | sarD (d a b : Fld) (ea eb : Bool)
  /-- MIN_D (R109). 64-bit signed minimum. -/
  | minD (d a b : Fld) (ea eb : Bool)
  /-- MAX_D (R109). 64-bit signed maximum. -/
  | maxD (d a b : Fld) (ea eb : Bool)
  /-- MINU_D (R109). 64-bit unsigned minimum. -/
  | minuD (d a b : Fld) (ea eb : Bool)
  /-- MAXU_D (R109). 64-bit unsigned maximum. -/
  | maxuD (d a b : Fld) (ea eb : Bool)
  /-- ADDW_D (R109). Pair plus sign-extended cell. -/
  | addwD (d a b : Fld) (ea eb : Bool)
  /-- ADDUW_D (R109). Pair plus zero-extended cell. -/
  | adduwD (d a b : Fld) (ea eb : Bool)
  /-- MULW_D (R109). Exact signed 32x32 to 64 product. -/
  | mulwD (d a b : Fld) (ea eb : Bool)
  /-- MULUW_D (R109). Exact unsigned 32x32 to 64 product. -/
  | muluwD (d a b : Fld) (ea eb : Bool)
  /-- MOV (R110). Copies a cell. -/
  | mov (d a : Fld) (ea : Bool)
  /-- NOT (R110). Bitwise complement of a cell. -/
  | not (d a : Fld) (ea : Bool)
  /-- NEG (R110). Wrapping negation. -/
  | neg (d a : Fld) (ea : Bool)
  /-- ABS (R110). Wrapping absolute value. -/
  | abs (d a : Fld) (ea : Bool)
  /-- CLZ (R110). Counts leading zero bits. -/
  | clz (d a : Fld) (ea : Bool)
  /-- CTZ (R110). Counts trailing zero bits. -/
  | ctz (d a : Fld) (ea : Bool)
  /-- POPC (R110). Counts one bits. -/
  | popc (d a : Fld) (ea : Bool)
  /-- BREV (R110). Reverses bit order. -/
  | brev (d a : Fld) (ea : Bool)
  /-- BSWAP (R110). Reverses byte order. -/
  | bswap (d a : Fld) (ea : Bool)
  /-- SEXTB (R110). Sign-extends the low byte. -/
  | sextb (d a : Fld) (ea : Bool)
  /-- SEXTH (R110). Sign-extends the low half. -/
  | sexth (d a : Fld) (ea : Bool)
  /-- ZEXTB (R110). Zero-extends the low byte. -/
  | zextb (d a : Fld) (ea : Bool)
  /-- ZEXTH (R110). Zero-extends the low half. -/
  | zexth (d a : Fld) (ea : Bool)
  /-- MOV_D (R110). Copies a pair. -/
  | movD (d a : Fld) (ea : Bool)
  /-- CLZ_D (R110). Leading zeros of a pair into a cell. -/
  | clzD (d a : Fld) (ea : Bool)
  /-- POPC_D (R110). One bits of a pair into a cell. -/
  | popcD (d a : Fld) (ea : Bool)
  /-- SEXT_D (R110). Sign-extends a cell into a pair. -/
  | sextD (d a : Fld) (ea : Bool)
  /-- ZEXT_D (R110). Zero-extends a cell into a pair. -/
  | zextD (d a : Fld) (ea : Bool)
  /-- EQ (R114). Sets a predicate when two cells are equal. -/
  | eq (d a b : Fld) (ea eb : Bool)
  /-- NE (R114). Sets a predicate when two cells differ. -/
  | ne (d a b : Fld) (ea eb : Bool)
  /-- LT (R114). Signed less-than compare of cells. -/
  | lt (d a b : Fld) (ea eb : Bool)
  /-- LE (R114). Signed less-or-equal compare of cells. -/
  | le (d a b : Fld) (ea eb : Bool)
  /-- LTU (R114). Unsigned less-than compare of cells. -/
  | ltu (d a b : Fld) (ea eb : Bool)
  /-- LEU (R114). Unsigned less-or-equal compare of cells. -/
  | leu (d a b : Fld) (ea eb : Bool)
  /-- EQ_D (R114). Equality compare of pairs. -/
  | eqD (d a b : Fld) (ea eb : Bool)
  /-- NE_D (R114). Inequality compare of pairs. -/
  | neD (d a b : Fld) (ea eb : Bool)
  /-- LT_D (R114). Signed less-than compare of pairs. -/
  | ltD (d a b : Fld) (ea eb : Bool)
  /-- LE_D (R114). Signed less-or-equal compare of pairs. -/
  | leD (d a b : Fld) (ea eb : Bool)
  /-- LTU_D (R114). Unsigned less-than compare of pairs. -/
  | ltuD (d a b : Fld) (ea eb : Bool)
  /-- LEU_D (R114). Unsigned less-or-equal compare of pairs. -/
  | leuD (d a b : Fld) (ea eb : Bool)
  /-- TST (R114). Sets a predicate when A and B share a one bit. -/
  | tst (d a b : Fld) (ea eb : Bool)
  /-- TSTZ (R114). Sets a predicate when A and B share no one bit. -/
  | tstz (d a b : Fld) (ea eb : Bool)
  /-- SEL (R117). Selects one of two cells by a predicate. -/
  | sel (d a b : Fld) (p : BitVec 4) (n : Bool)
  /-- SEL_D (R117). Selects one of two pairs by a predicate. -/
  | selD (d a b : Fld) (p : BitVec 4) (n : Bool)
  /-- SEL_Y (R117). Selects one of two y registers exactly by a predicate. -/
  | selY (d a b : Fld) (p : BitVec 4) (n : Bool)
  /-- PAND (R118). Predicate and. -/
  | pand (d a b : Fld)
  /-- POR (R118). Predicate or. -/
  | por (d a b : Fld)
  /-- PXOR (R118). Predicate exclusive or. -/
  | pxor (d a b : Fld)
  /-- PANDN (R118). Predicate A and not B. -/
  | pandn (d a b : Fld)
  /-- PNOT (R118). Predicate complement. -/
  | pnot (d a : Fld)
  /-- PMOV (R118). Predicate copy. -/
  | pmov (d a : Fld)
  /-- P2W (R118). Writes PW into a cell. -/
  | p2w (d : Fld)
  /-- W2P (R118). Writes PW bits 15:1 from a cell. -/
  | w2p (a : Fld) (ea : Bool)
  /-- PSET (R118). Sets a predicate to 1. -/
  | pset (d : Fld)
  /-- PCLR (R118). Clears a predicate to 0. -/
  | pclr (d : Fld)
  /-- ADDI (R111). Adds a sign-extended 12-bit immediate. -/
  | addi (d a : Fld) (ea : Bool) (i : BitVec 12)
  /-- ANDI (R111). Ands a sign-extended 12-bit immediate. -/
  | andi (d a : Fld) (ea : Bool) (i : BitVec 12)
  /-- ORI (R111). Ors a zero-extended 12-bit immediate. -/
  | ori (d a : Fld) (ea : Bool) (i : BitVec 12)
  /-- XORI (R111). Exclusive-ors a sign-extended 12-bit immediate. -/
  | xori (d a : Fld) (ea : Bool) (i : BitVec 12)
  /-- SHLI (R112). 32-bit left shift by an immediate count. -/
  | shli (d a : Fld) (ea : Bool) (n : Fld)
  /-- SHRI (R112). 32-bit logical right shift by an immediate count. -/
  | shri (d a : Fld) (ea : Bool) (n : Fld)
  /-- SARI (R112). 32-bit arithmetic right shift by an immediate count. -/
  | sari (d a : Fld) (ea : Bool) (n : Fld)
  /-- ROTLI (R112). 32-bit rotate left by an immediate count. -/
  | rotli (d a : Fld) (ea : Bool) (n : Fld)
  /-- SHLI_D (R112). 64-bit left shift by an immediate count. -/
  | shliD (d a : Fld) (ea : Bool) (n : Fld)
  /-- SHRI_D (R112). 64-bit logical right shift by an immediate count. -/
  | shriD (d a : Fld) (ea : Bool) (n : Fld)
  /-- SARI_D (R112). 64-bit arithmetic right shift by an immediate count. -/
  | sariD (d a : Fld) (ea : Bool) (n : Fld)
  /-- ROTLI_D (R112). 64-bit rotate left by an immediate count. -/
  | rotliD (d a : Fld) (ea : Bool) (n : Fld)
  /-- CMPI_EQ (R116). Predicate := cell equals immediate. -/
  | cmpiEq (d a : Fld) (ea : Bool) (i : BitVec 9)
  /-- CMPI_NE (R116). Predicate := cell differs from immediate. -/
  | cmpiNe (d a : Fld) (ea : Bool) (i : BitVec 9)
  /-- CMPI_LT (R116). Predicate := signed cell below immediate. -/
  | cmpiLt (d a : Fld) (ea : Bool) (i : BitVec 9)
  /-- CMPI_LE (R116). Predicate := signed cell at most immediate. -/
  | cmpiLe (d a : Fld) (ea : Bool) (i : BitVec 9)
  /-- CMPI_LTU (R116). Predicate := unsigned cell below immediate. -/
  | cmpiLtu (d a : Fld) (ea : Bool) (i : BitVec 9)
  /-- CMPI_LEU (R116). Predicate := unsigned cell at most immediate. -/
  | cmpiLeu (d a : Fld) (ea : Bool) (i : BitVec 9)
  /-- CMPI_GT (R116). Predicate := signed cell above immediate. -/
  | cmpiGt (d a : Fld) (ea : Bool) (i : BitVec 9)
  /-- CMPI_GE (R116). Predicate := signed cell at least immediate. -/
  | cmpiGe (d a : Fld) (ea : Bool) (i : BitVec 9)
  /-- LI (R113). Loads a sign-extended 19-bit immediate. -/
  | li (d : Fld) (i : BitVec 19)
  /-- LIH (R113). Places a 19-bit immediate in bits 31:13, keeping bits 12:0. -/
  | lih (d : Fld) (i : BitVec 19)
  /-- LD_B (R122). Loads a zero-extended byte from global memory. -/
  | ldB (t a : Fld) (ea : Bool) (o : BitVec 8)
  /-- LD_BS (R122). Loads a sign-extended byte from global memory. -/
  | ldBs (t a : Fld) (ea : Bool) (o : BitVec 8)
  /-- LD_H (R122). Loads a zero-extended half. -/
  | ldH (t a : Fld) (ea : Bool) (o : BitVec 8)
  /-- LD_HS (R122). Loads a sign-extended half. -/
  | ldHs (t a : Fld) (ea : Bool) (o : BitVec 8)
  /-- LD_W (R122). Loads a word. -/
  | ldW (t a : Fld) (ea : Bool) (o : BitVec 8)
  /-- LD_D (R122). Loads 8 bytes into a pair. -/
  | ldD (t a : Fld) (ea : Bool) (o : BitVec 8)
  /-- LD_Q (R122). Loads 16 bytes into a quad. -/
  | ldQ (t a : Fld) (ea : Bool) (o : BitVec 8)
  /-- ST_B (R123). Stores a byte to global memory. -/
  | stB (t a : Fld) (ea : Bool) (o : BitVec 8)
  /-- ST_H (R123). Stores a half. -/
  | stH (t a : Fld) (ea : Bool) (o : BitVec 8)
  /-- ST_W (R123). Stores a word. -/
  | stW (t a : Fld) (ea : Bool) (o : BitVec 8)
  /-- ST_D (R123). Stores a pair. -/
  | stD (t a : Fld) (ea : Bool) (o : BitVec 8)
  /-- ST_Q (R123). Stores a quad as two atomic halves. -/
  | stQ (t a : Fld) (ea : Bool) (o : BitVec 8)
  /-- LDS_B (R120). Loads a zero-extended byte from the scratchpad. -/
  | ldsB (t a : Fld) (ea : Bool) (o : BitVec 8)
  /-- LDS_BS (R120). Loads a sign-extended scratchpad byte. -/
  | ldsBs (t a : Fld) (ea : Bool) (o : BitVec 8)
  /-- LDS_H (R120). Loads a zero-extended scratchpad half. -/
  | ldsH (t a : Fld) (ea : Bool) (o : BitVec 8)
  /-- LDS_HS (R120). Loads a sign-extended scratchpad half. -/
  | ldsHs (t a : Fld) (ea : Bool) (o : BitVec 8)
  /-- LDS_W (R120). Loads a scratchpad word. -/
  | ldsW (t a : Fld) (ea : Bool) (o : BitVec 8)
  /-- LDS_D (R120). Loads 8 scratchpad bytes into a pair. -/
  | ldsD (t a : Fld) (ea : Bool) (o : BitVec 8)
  /-- LDS_Q (R120). Loads 16 scratchpad bytes into a quad. -/
  | ldsQ (t a : Fld) (ea : Bool) (o : BitVec 8)
  /-- STS_B (R120). Stores a byte to the scratchpad. -/
  | stsB (t a : Fld) (ea : Bool) (o : BitVec 8)
  /-- STS_H (R120). Stores a half to the scratchpad. -/
  | stsH (t a : Fld) (ea : Bool) (o : BitVec 8)
  /-- STS_W (R120). Stores a word to the scratchpad. -/
  | stsW (t a : Fld) (ea : Bool) (o : BitVec 8)
  /-- STS_D (R120). Stores a pair to the scratchpad. -/
  | stsD (t a : Fld) (ea : Bool) (o : BitVec 8)
  /-- STS_Q (R120). Stores a quad to the scratchpad. -/
  | stsQ (t a : Fld) (ea : Bool) (o : BitVec 8)
  /-- LDY (R157). Converting load of a VPF element into a y register. -/
  | ldy (t a : Fld) (ea : Bool) (k : BitVec 4) (o : BitVec 8)
  /-- STY (R159). Stores a y register as a VPF element, rounding once. -/
  | sty (t a : Fld) (ea : Bool) (k : BitVec 4) (o : BitVec 8)
  /-- LDC_FP32 (R161). Converting load of fp32 into a y register. -/
  | ldcFp32 (t a : Fld) (ea : Bool) (o : BitVec 8)
  /-- LDC_BF16 (R161). Converting load of bf16. -/
  | ldcBf16 (t a : Fld) (ea : Bool) (o : BitVec 8)
  /-- LDC_FP16 (R161). Converting load of fp16. -/
  | ldcFp16 (t a : Fld) (ea : Bool) (o : BitVec 8)
  /-- LDC_E4M3 (R161). Converting load of e4m3. -/
  | ldcE4m3 (t a : Fld) (ea : Bool) (o : BitVec 8)
  /-- LDC_E5M2 (R161). Converting load of e5m2. -/
  | ldcE5m2 (t a : Fld) (ea : Bool) (o : BitVec 8)
  /-- LDC_INT32 (R161). Converting load of int32. -/
  | ldcInt32 (t a : Fld) (ea : Bool) (o : BitVec 8)
  /-- LDC_UINT32 (R161). Converting load of uint32. -/
  | ldcUint32 (t a : Fld) (ea : Bool) (o : BitVec 8)
  /-- LDC_INT8 (R161). Converting load of int8. -/
  | ldcInt8 (t a : Fld) (ea : Bool) (o : BitVec 8)
  /-- LDC_UINT8 (R161). Converting load of uint8. -/
  | ldcUint8 (t a : Fld) (ea : Bool) (o : BitVec 8)
  /-- STC_FP32 (R161). Converts a y register to fp32 and stores it. -/
  | stcFp32 (t a : Fld) (ea : Bool) (o : BitVec 8)
  /-- STC_BF16 (R161). Converts to bf16 and stores. -/
  | stcBf16 (t a : Fld) (ea : Bool) (o : BitVec 8)
  /-- STC_FP16 (R161). Converts to fp16 and stores. -/
  | stcFp16 (t a : Fld) (ea : Bool) (o : BitVec 8)
  /-- STC_E4M3 (R161). Converts to e4m3 and stores. -/
  | stcE4m3 (t a : Fld) (ea : Bool) (o : BitVec 8)
  /-- STC_E5M2 (R161). Converts to e5m2 and stores. -/
  | stcE5m2 (t a : Fld) (ea : Bool) (o : BitVec 8)
  /-- STC_INT32 (R161). Converts to int32 and stores. -/
  | stcInt32 (t a : Fld) (ea : Bool) (o : BitVec 8)
  /-- STC_UINT32 (R161). Converts to uint32 and stores. -/
  | stcUint32 (t a : Fld) (ea : Bool) (o : BitVec 8)
  /-- STC_INT8 (R161). Converts to int8 and stores. -/
  | stcInt8 (t a : Fld) (ea : Bool) (o : BitVec 8)
  /-- STC_UINT8 (R161). Converts to uint8 and stores. -/
  | stcUint8 (t a : Fld) (ea : Bool) (o : BitVec 8)
  /-- LDF (R310). Reads a full scratchpad granule, or reports empty in p15. -/
  | ldf (t a : Fld) (ea : Bool) (o : BitVec 8)
  /-- LDF_CONS (R310). Reads a full granule and clears its bit in the same access. -/
  | ldfCons (t a : Fld) (ea : Bool) (o : BitVec 8)
  /-- STF (R311). Writes a granule and sets its full bit, as a core-scope release. -/
  | stf (t a : Fld) (ea : Bool) (o : BitVec 8)
  /-- YADD (R147). VPF add rounded once to PRC.L. -/
  | yadd (d a b : Fld) (ea eb : Bool)
  /-- YSUB (R147). VPF subtract rounded once. -/
  | ysub (d a b : Fld) (ea eb : Bool)
  /-- YMUL (R147). VPF multiply rounded once. -/
  | ymul (d a b : Fld) (ea eb : Bool)
  /-- YDIV (R147). VPF divide rounded once. -/
  | ydiv (d a b : Fld) (ea eb : Bool)
  /-- YMIN (R149). Smaller of two VPF values. -/
  | ymin (d a b : Fld) (ea eb : Bool)
  /-- YMAX (R149). Larger of two VPF values. -/
  | ymax (d a b : Fld) (ea eb : Bool)
  /-- YMINM (R149). VPF value of smaller magnitude. -/
  | yminm (d a b : Fld) (ea eb : Bool)
  /-- YMAXM (R149). VPF value of larger magnitude. -/
  | ymaxm (d a b : Fld) (ea eb : Bool)
  /-- YCOPYSIGN (R148). Magnitude of A with the sign of B. -/
  | ycopysign (d a b : Fld) (ea eb : Bool)
  /-- YREM (R147). VPF remainder to the nearest quotient. -/
  | yrem (d a b : Fld) (ea eb : Bool)
  /-- YSCALE (R147). Scales a VPF value by a power of two from a cell. -/
  | yscale (d a b : Fld) (ea eb : Bool)
  /-- YFMA (R147). Fused a*b+d rounded once. -/
  | yfma (d a b : Fld) (ea eb : Bool)
  /-- YFMS (R147). Fused a*b-d rounded once. -/
  | yfms (d a b : Fld) (ea eb : Bool)
  /-- YFNMA (R147). Fused -(a*b)+d rounded once. -/
  | yfnma (d a b : Fld) (ea eb : Bool)
  /-- YMOV (R150). Copies a VPF value rounded to PRC.L. -/
  | ymov (d a : Fld) (ea : Bool)
  /-- YNEG (R150). Negates a VPF value. -/
  | yneg (d a : Fld) (ea : Bool)
  /-- YABS (R150). Absolute value of a VPF value. -/
  | yabs (d a : Fld) (ea : Bool)
  /-- YSQRT (R150). VPF square root. -/
  | ysqrt (d a : Fld) (ea : Bool)
  /-- YRINT (R150). Rounds to an integer by PRC.RM. -/
  | yrint (d a : Fld) (ea : Bool)
  /-- YTRUNC (R150). Rounds to an integer toward zero. -/
  | ytrunc (d a : Fld) (ea : Bool)
  /-- YLOGB (R151). Writes the binary exponent of a VPF value to a cell. -/
  | ylogb (d a : Fld) (ea : Bool)
  /-- YCLASS (R151). Writes the class code of a VPF value to a cell. -/
  | yclass (d a : Fld) (ea : Bool)
  /-- YSIG (R151). Writes the significant bit count to a cell. -/
  | ysig (d a : Fld) (ea : Bool)
  /-- YMANT (R150). Mantissa of a VPF value in [1,2). -/
  | ymant (d a : Fld) (ea : Bool)
  /-- YRECIP (R150). VPF reciprocal. -/
  | yrecip (d a : Fld) (ea : Bool)
  /-- YRSQRT (R150). VPF reciprocal square root. -/
  | yrsqrt (d a : Fld) (ea : Bool)
  /-- YCMP_EQ (R152). Quiet VPF equality compare into a predicate. -/
  | ycmpEq (d a b : Fld) (ea eb : Bool)
  /-- YCMP_LT (R152). Quiet VPF less-than compare. -/
  | ycmpLt (d a b : Fld) (ea eb : Bool)
  /-- YCMP_LE (R152). Quiet VPF less-or-equal compare. -/
  | ycmpLe (d a b : Fld) (ea eb : Bool)
  /-- YCMP_UN (R152). Unordered VPF compare. -/
  | ycmpUn (d a b : Fld) (ea eb : Bool)
  /-- YCMP_EQS (R152). Signalling VPF equality compare. -/
  | ycmpEqs (d a b : Fld) (ea eb : Bool)
  /-- YCMP_LTS (R152). Signalling VPF less-than compare. -/
  | ycmpLts (d a b : Fld) (ea eb : Bool)
  /-- YCMP_LES (R152). Signalling VPF less-or-equal compare. -/
  | ycmpLes (d a b : Fld) (ea eb : Bool)
  /-- YCVT_Y_W (R153). Converts a signed cell to VPF. -/
  | ycvtYW (d a : Fld) (ea : Bool)
  /-- YCVT_Y_UW (R153). Converts an unsigned cell to VPF. -/
  | ycvtYUw (d a : Fld) (ea : Bool)
  /-- YCVT_Y_D (R153). Converts a signed pair to VPF. -/
  | ycvtYD (d a : Fld) (ea : Bool)
  /-- YCVT_Y_UD (R153). Converts an unsigned pair to VPF. -/
  | ycvtYUd (d a : Fld) (ea : Bool)
  /-- YCVT_W_Y (R154). Converts VPF to a saturated signed cell. -/
  | ycvtWY (d a : Fld) (ea : Bool)
  /-- YCVT_UW_Y (R154). Converts VPF to a saturated unsigned cell. -/
  | ycvtUwY (d a : Fld) (ea : Bool)
  /-- YCVT_D_Y (R154). Converts VPF to a saturated signed pair. -/
  | ycvtDY (d a : Fld) (ea : Bool)
  /-- YCVT_UD_Y (R154). Converts VPF to a saturated unsigned pair. -/
  | ycvtUdY (d a : Fld) (ea : Bool)
  /-- SETPRC (R155). Writes PRC from a cell after pending flags land. -/
  | setprc (a : Fld)
  /-- GETPRC (R155). Reads PRC into a cell after pending flags land. -/
  | getprc (d : Fld)
  /-- SETL (R155). Writes PRC.L. -/
  | setl (a : Fld)
  /-- SETRM (R155). Writes PRC.RM. -/
  | setrm (a : Fld)
  /-- GETFLAGS (R155). Reads PRC.FLAGS into a cell. -/
  | getflags (d : Fld)
  /-- CLRFLAGS (R155). Clears selected sticky flags. -/
  | clrflags (a : Fld)
  /-- RND (R155). Writes 32 random bits and advances RNDC. -/
  | rnd (d : Fld)
  /-- BR (R125). Conditional packet-relative branch, popping loops it leaves. -/
  | br (p : BitVec 4) (n : Bool) (o : BitVec 20)
  /-- BRA (R125). Unconditional branch: br with P 0 and N 0. -/
  | bra (o : BitVec 20)
  /-- CALL (R126). Conditional call pushing a frame record and sliding the window. -/
  | call (p : BitVec 4) (n : Bool) (o : BitVec 20)
  /-- RET (R128). Pops a frame record and returns, or ends the fibre, or traps for fill. -/
  | ret
  /-- CALLR (R127). Call to a PC held in a pair. -/
  | callr (a : Fld)
  /-- JMPR (R127). Jump to a PC held in a pair. -/
  | jmpr (a : Fld)
  /-- ERET (R32). Returns from a trap handler, moving spilled frames when asked. -/
  | eret
  /-- ENTER (R21). Reshapes the current window. -/
  | enter (d a : Fld) (i : BitVec 12)
  /-- LOOP (R132). Pushes a hardware loop or skips its body. -/
  | loop (d : Fld) (i : BitVec 19)
  /-- MBR (R65). Multi-way branch packet taking the first true predicate pair. -/
  | mbr (np : BitVec 2) (p1 p2 p3 p4 : BitVec 4) (n1 n2 n3 n4 : Bool) (off1 off2 off3 off4 : BitVec 12)
  /-- END (R212). Ends the fibre. -/
  | endFibre
  /-- SPAWN (R213). Makes a new crew in the gang or reports failure in a cell. -/
  | spawn (d a b : Fld)
  /-- FID (R215). Reads the lane index. -/
  | fid (d : Fld)
  /-- CID (R215). Reads the crew index. -/
  | cid (d : Fld)
  /-- GID (R215). Reads the gang index. -/
  | gid (d : Fld)
  /-- STG (R215). Reads the stage index. -/
  | stg (d : Fld)
  /-- NID (R215). Reads the node identifier. -/
  | nid (d : Fld)
  /-- YIELD (R182). Resets the yield deadline and records the hint. -/
  | yield (h : BitVec 3) (i : BitVec 16)
  /-- SHFL (R219). Reads a cell from an indexed member lane. -/
  | shfl (d a b : Fld)
  /-- SHFL_XOR (R219). Reads a cell from the lane FID xor v. -/
  | shflXor (d a b : Fld)
  /-- SHFL_UP (R219). Reads a cell from lane FID minus v. -/
  | shflUp (d a b : Fld)
  /-- SHFL_DOWN (R219). Reads a cell from lane FID plus v. -/
  | shflDown (d a b : Fld)
  /-- VOTE_ANY (R218). Or of a predicate over present members. -/
  | voteAny (d a b : Fld)
  /-- VOTE_ALL (R218). And of a predicate over present members. -/
  | voteAll (d a b : Fld)
  /-- BALLOT (R218). Gathers members' predicates into a mask. -/
  | ballot (d a b : Fld)
  /-- REDUX_ADD (R218). Sum of a cell over present members. -/
  | reduxAdd (d a b : Fld)
  /-- REDUX_MIN (R218). Signed minimum over present members. -/
  | reduxMin (d a b : Fld)
  /-- REDUX_MAX (R218). Signed maximum over present members. -/
  | reduxMax (d a b : Fld)
  /-- REDUX_YADD (R220). Exact VPF sum over members rounded once, long-latency. -/
  | reduxYadd (d a b : Fld)
  /-- MATCH (R218). Mask of members holding the same cell value. -/
  | matchLanes (d a b : Fld)
  /-- PRESENT (R218). Mask of present members. -/
  | present (d b : Fld)
  /-- OBJ_INIT (R225). Writes the 320 bytes of an announced object. -/
  | objInit (d a b : Fld)
  /-- OBJ_PUSH (R222). Announced push onto a STACK object. -/
  | objPush (d a b : Fld)
  /-- OBJ_POP (R222). Announced pop from a STACK object. -/
  | objPop (d a b : Fld)
  /-- OBJ_ENQ (R222). Announced enqueue onto a QUEUE object. -/
  | objEnq (d a b : Fld)
  /-- OBJ_DEQ (R222). Announced dequeue from a QUEUE object. -/
  | objDeq (d a b : Fld)
  /-- OBJ_ADD (R222). Announced add to a COUNTER object. -/
  | objAdd (d a b : Fld)
  /-- OBJ_ARRIVE (R222). Announced arrival at an ARRIVAL object. -/
  | objArrive (d a b : Fld)
  /-- OBJ_PEEK (R222). Announced peek at any object kind. -/
  | objPeek (d a b : Fld)
  /-- OBJ_HELP (R226). Applies and finishes pending tickets without taking one. -/
  | objHelp (d a b : Fld)
  /-- AMO_ADD (R292). Relaxed atomic add of a word. -/
  | amoAdd (d a b : Fld) (s : BitVec 3)
  /-- AMO_AND (R292). Relaxed atomic and. -/
  | amoAnd (d a b : Fld) (s : BitVec 3)
  /-- AMO_OR (R292). Relaxed atomic or. -/
  | amoOr (d a b : Fld) (s : BitVec 3)
  /-- AMO_XOR (R292). Relaxed atomic exclusive or. -/
  | amoXor (d a b : Fld) (s : BitVec 3)
  /-- AMO_MIN (R292). Relaxed atomic signed minimum. -/
  | amoMin (d a b : Fld) (s : BitVec 3)
  /-- AMO_MAX (R292). Relaxed atomic signed maximum. -/
  | amoMax (d a b : Fld) (s : BitVec 3)
  /-- AMO_MINU (R292). Relaxed atomic unsigned minimum. -/
  | amoMinu (d a b : Fld) (s : BitVec 3)
  /-- AMO_MAXU (R292). Relaxed atomic unsigned maximum. -/
  | amoMaxu (d a b : Fld) (s : BitVec 3)
  /-- AMO_SWAP (R292). Relaxed atomic swap of a word. -/
  | amoSwap (d a b : Fld) (s : BitVec 3)
  /-- AMO_CAS (R292). Relaxed atomic compare-and-swap of a word. -/
  | amoCas (d a b : Fld) (s : BitVec 3)
  /-- AMO_ADD_D (R292). Relaxed atomic 64-bit add. -/
  | amoAddD (d a b : Fld) (s : BitVec 3)
  /-- AMO_SWAP_D (R292). Relaxed atomic 64-bit swap. -/
  | amoSwapD (d a b : Fld) (s : BitVec 3)
  /-- AMO_CAS_D (R292). Relaxed atomic 64-bit compare-and-swap. -/
  | amoCasD (d a b : Fld) (s : BitVec 3)
  /-- AMO_CAS_Q (R295). Relaxed atomic 128-bit compare-and-swap. -/
  | amoCasQ (d a b : Fld) (s : BitVec 3)
  /-- AMO_ADD_AR (R294). Atomic add with release and acquire. -/
  | amoAddAr (d a b : Fld) (s : BitVec 3)
  /-- AMO_AND_AR (R294). Atomic and with release and acquire. -/
  | amoAndAr (d a b : Fld) (s : BitVec 3)
  /-- AMO_OR_AR (R294). Atomic or with release and acquire. -/
  | amoOrAr (d a b : Fld) (s : BitVec 3)
  /-- AMO_XOR_AR (R294). Atomic exclusive or with release and acquire. -/
  | amoXorAr (d a b : Fld) (s : BitVec 3)
  /-- AMO_MIN_AR (R294). Atomic signed minimum with release and acquire. -/
  | amoMinAr (d a b : Fld) (s : BitVec 3)
  /-- AMO_MAX_AR (R294). Atomic signed maximum with release and acquire. -/
  | amoMaxAr (d a b : Fld) (s : BitVec 3)
  /-- AMO_MINU_AR (R294). Atomic unsigned minimum with release and acquire. -/
  | amoMinuAr (d a b : Fld) (s : BitVec 3)
  /-- AMO_MAXU_AR (R294). Atomic unsigned maximum with release and acquire. -/
  | amoMaxuAr (d a b : Fld) (s : BitVec 3)
  /-- AMO_SWAP_AR (R294). Atomic swap with release and acquire. -/
  | amoSwapAr (d a b : Fld) (s : BitVec 3)
  /-- AMO_CAS_AR (R294). Atomic compare-and-swap with release and acquire. -/
  | amoCasAr (d a b : Fld) (s : BitVec 3)
  /-- AMO_ADD_D_AR (R294). Atomic 64-bit add with release and acquire. -/
  | amoAddDAr (d a b : Fld) (s : BitVec 3)
  /-- AMO_SWAP_D_AR (R294). Atomic 64-bit swap with release and acquire. -/
  | amoSwapDAr (d a b : Fld) (s : BitVec 3)
  /-- AMO_CAS_D_AR (R294). Atomic 64-bit compare-and-swap with release and acquire. -/
  | amoCasDAr (d a b : Fld) (s : BitVec 3)
  /-- AMO_CAS_Q_AR (R294). Atomic 128-bit compare-and-swap with release and acquire. -/
  | amoCasQAr (d a b : Fld) (s : BitVec 3)
  /-- RED_ADD (R297). Reduction add of a word, returning nothing. -/
  | redAdd (a b : Fld) (s : BitVec 3)
  /-- RED_AND (R297). Reduction and. -/
  | redAnd (a b : Fld) (s : BitVec 3)
  /-- RED_OR (R297). Reduction or. -/
  | redOr (a b : Fld) (s : BitVec 3)
  /-- RED_XOR (R297). Reduction exclusive or. -/
  | redXor (a b : Fld) (s : BitVec 3)
  /-- RED_MIN (R297). Reduction signed minimum. -/
  | redMin (a b : Fld) (s : BitVec 3)
  /-- RED_MAX (R297). Reduction signed maximum. -/
  | redMax (a b : Fld) (s : BitVec 3)
  /-- RED_FADD_F32 (R298). Reduction fp32 add rounded RNE. -/
  | redFaddF32 (a b : Fld) (s : BitVec 3)
  /-- RED_FADD_BF16 (R298). Reduction bf16 add rounded RNE. -/
  | redFaddBf16 (a b : Fld) (s : BitVec 3)
  /-- RED_ADD_D (R297). Reduction 64-bit add. -/
  | redAddD (a b : Fld) (s : BitVec 3)
  /-- LDA_W (R301). Acquire load of a word at a scope. -/
  | ldaW (d a : Fld) (s : BitVec 3)
  /-- LDA_D (R301). Acquire load of 8 bytes. -/
  | ldaD (d a : Fld) (s : BitVec 3)
  /-- LDA_B (R301). Acquire load of a byte. -/
  | ldaB (d a : Fld) (s : BitVec 3)
  /-- STR_W (R301). Release store of a word at a scope. -/
  | strW (a b : Fld) (s : BitVec 3)
  /-- STR_D (R301). Release store of 8 bytes. -/
  | strD (a b : Fld) (s : BitVec 3)
  /-- STR_B (R301). Release store of a byte. -/
  | strB (a b : Fld) (s : BitVec 3)
  /-- FENCE (R303). Full fence: release then acquire at a scope, optionally checked. -/
  | fence (s : BitVec 3) (k : Bool)
  /-- FENCE_ACQ (R303). Acquire fence after earlier loads return. -/
  | fenceAcq (s : BitVec 3) (k : Bool)
  /-- FENCE_REL (R303). Release fence at a scope. -/
  | fenceRel (s : BitVec 3) (k : Bool)
  /-- WBR (R306). Writes back dirty bytes of a range to the scope's point of coherence. -/
  | wbr (a b : Fld) (s : BitVec 3)
  /-- INVR (R307). Writes back then drops the lines of a range from L1. -/
  | invr (a b : Fld) (s : BitVec 3)
  /-- PREF (R308). Prefetch hint for up to 512 lines of a range. -/
  | pref (a b : Fld) (s : BitVec 3)
  /-- CPB (R337). Per-fibre copy of up to 32 bytes into two scratchpad granules under a batch tag. -/
  | cpb (d a b : Fld) (g : BitVec 2)
  /-- CPW (R338). Waits until a batch-tag counter is 0. -/
  | cpw (g : BitVec 2)
  /-- CPW_LE (R338). Waits until a batch-tag counter is at most a cell value. -/
  | cpwLe (a : Fld) (g : BitVec 2)
  /-- CPT_G2S (R344). Hands a global-to-scratchpad tile transfer to a copy context. -/
  | cptG2s (d a : Fld) (x : BitVec 3)
  /-- CPT_S2G (R344). Hands a scratchpad-to-global row copy to a copy context. -/
  | cptS2g (d a : Fld) (x : BitVec 3)
  /-- CPT_S2G_ATOM (R271). Hands a versioned tile publication to a copy context. -/
  | cptS2gAtom (d a : Fld) (x : BitVec 3)
  /-- CPT_G2S_CONS (R272). Hands a versioned consistent tile read to a copy context. -/
  | cptG2sCons (d a : Fld) (x : BitVec 3)
  /-- CPT_G2G (R344). Hands a global-to-global row copy to a copy context. -/
  | cptG2g (d a : Fld) (x : BitVec 3)
  /-- CPT_GATHER (R344). Hands an indexed row gather into a scratchpad tile. -/
  | cptGather (d a : Fld) (x : BitVec 3)
  /-- CPT_CBK (R344). Hands a codebook table load to a copy context. -/
  | cptCbk (d a : Fld) (x : BitVec 3)
  /-- TWAIT (R346). Waits for a context's operations up to n, or returns p15 0 when n is not issued. -/
  | twait (a : Fld) (x : BitVec 3)
  /-- TREAD (R347). Reads a context's COMPLETED. -/
  | tread (d : Fld) (x : BitVec 3)
  /-- TISSUED (R347). Reads a context's ISSUED. -/
  | tissued (d : Fld) (x : BitVec 3)
  /-- TSTAT (R347). Reads and clears a context's STAT. -/
  | tstat (d : Fld) (x : BitVec 3)
  /-- SHAPE (R349). Requests a matrix shape and returns the grant at once. -/
  | shape (d a : Fld)
  /-- MMA_BF16 (R352). Hands bf16 k-steps to the matrix engine. -/
  | mmaBf16 (d a b : Fld) (p : Bool) (k : BitVec 4)
  /-- MMA_E4M3 (R352). Hands e4m3 k-steps to the matrix engine. -/
  | mmaE4m3 (d a b : Fld) (p : Bool) (k : BitVec 4)
  /-- MMA_E5M2 (R352). Hands e5m2 k-steps to the matrix engine. -/
  | mmaE5m2 (d a b : Fld) (p : Bool) (k : BitVec 4)
  /-- MMA_E4M3E5M2 (R352). Hands mixed e4m3 by e5m2 k-steps to the matrix engine. -/
  | mmaE4m3e5m2 (d a b : Fld) (p : Bool) (k : BitVec 4)
  /-- ACC_ZERO (R354). Zeroes an accumulator tile, its count and promotion number. -/
  | accZero (d : Fld)
  /-- ACC_CHAIN_B (R354). Opens a chain on a tile, with or without reorder permission. -/
  | accChainB (d a : Fld)
  /-- ACC_CHAIN_E (R354). Promotes and closes a tile's chain. -/
  | accChainE (d : Fld)
  /-- ACC_SETPROM (R355). Sets the promotion interval and mode. -/
  | accSetprom (a b : Fld)
  /-- ACC_ST_F32 (R356). Stores a tile's FP32 elements to the scratchpad. -/
  | accStF32 (d a : Fld)
  /-- ACC_ST_BF16 (R356). Stores a tile rounded to bf16 to the scratchpad. -/
  | accStBf16 (d a : Fld)
  /-- ACC_LD_F32 (R357). Loads a tile's FP32 elements from the scratchpad. -/
  | accLdF32 (d a : Fld)
  /-- ACC_FLUSH (R354). Promotes every element of a tile. -/
  | accFlush (d : Fld)
  /-- TASK_TNODE (R389). Submits a node spec and returns a handle or a failure code. -/
  | taskTnode (d a : Fld)
  /-- TASK_TDEP (R390). Adds a dependence to a node, optionally on another node. -/
  | taskTdep (a b : Fld)
  /-- TASK_TSIG (R391). Sends one signal to a node's dependence counter. -/
  | taskTsig (a : Fld)
  /-- TASK_ENQ (R392). Enqueues an 8-cell task entry on the fibre's core. -/
  | taskEnq (a : Fld)
  /-- TASK_DEQ (R393). Dequeues a task entry of the node or returns p15 0. -/
  | taskDeq (d : Fld)
  /-- TASK_CONT (R394). Writes a continuation record and ends the fibre. -/
  | taskCont (a b : Fld)
  /-- TASK_NSELF (R388). Writes the handle of the fibre's own node. -/
  | taskNself (d : Fld)
  /-- ARENA_APTR (R395). Writes the pointer to an arena of the node, or 0. -/
  | arenaAptr (d a : Fld)
  /-- ARENA_AINFO (R396). Copies an arena table entry into a quad. -/
  | arenaAinfo (d a : Fld)
  /-- ARENA_CHECK (R397). Tests in p15 whether an arena access would pass its checks. -/
  | arenaCheck (a b : Fld)
  /-- GETS (R137). Reads a system register half into a cell. -/
  | gets (d b : Fld)
  /-- SETS (R137). Writes a system register half, including W1C clears of LSTAT and FSTAT. -/
  | sets (a b : Fld)
  /-- TRAP (R138). Raises trap 0x0D with a code, committing its chain. -/
  | trap (b : Fld)
  /-- BRK (R138). Raises trap 0x0C, committing its chain. -/
  | brk
  /-- NOP (R139). Changes nothing but the PC. -/
  | nop
  /-- REGROUP (R176). Every fourth clock the bundler regroups a partition's runnable fibres. -/
  | regroup (core part : Nat)
  /-- SENIOR_FORCED_ISSUE (R179). When SEN reaches 63 the senior fibre's ready bundle issues ahead of all others. -/
  | seniorForcedIssue (core part : Nat)
  /-- BACKOFF_EXPIRY (R183). A fibre leaves polling back-off 16 partition clocks after its yield. -/
  | backoffExpiry (who : FibId)
  /-- WATCHDOG (R182). A fibre about to commit with YDL.LEFT 0 takes fault 0x45 and its node ends. -/
  | watchdog (who : FibId)
  /-- Y_RESULT_DELIVERY (R145). A long-latency Y-pipe result is written and its flags ORed passes+6 clocks after entry. -/
  | yResultDelivery (who : FibId) (k : Nat)
  /-- REDUX_YADD_RESULT (R220). The redux.yadd result is written 8+2c clocks after issue. -/
  | reduxYaddResult (who : FibId) (k : Nat)
  /-- LOAD_DATA_ARRIVAL (R122). Data for a load, AMO or lda arrives, is written and fills its destination. -/
  | loadDataArrival (who : FibId) (k : Nat)
  /-- CONVERTING_LOAD_RESOLVE (R158). An ldy or ldc resolves, writing its value or restoring state and raising a precise trap. -/
  | convertingLoadResolve (who : FibId) (k : Nat)
  /-- L1_EVICTION (R246). The L1 evicts a line, writing its dirty bytes back first. -/
  | l1Eviction (core line : Nat)
  /-- HOME_ARRIVAL (R249). A write-back or home-performed access is applied at the line's home in arrival order. -/
  | homeArrival (k : Nat)
  /-- FLUSH_MARKER_ACK (R263). A home acknowledges a flush marker once earlier arrivals on its path are applied. -/
  | flushMarkerAck (k : Nat)
  /-- WALK (R240). A memory-side walk unit translates an IA to a frame or faults. -/
  | walk (who : FibId) (k : Nat)
  /-- WALK_RETRY (R240). A busy walk retries after 64 clocks, faulting after 8 tries. -/
  | walkRetry (who : FibId) (k : Nat)
  /-- MEMORY_SIDE_FAULT (R241). A fault found at the memory side reaches the fibre after issue and is reported. -/
  | memorySideFault (who : FibId) (k : Nat)
  /-- PAGE_FAULT_REPORT (R410). The first page-fault report for a crew stops it, runs ahead for more pages and reports a batch. -/
  | pageFaultReport (nid gid cid : Nat)
  /-- FAULT_RECORD_WRITE (R408). A system fault record is written to the fault queue once an entry is free. -/
  | faultRecordWrite
  /-- RESUME (R409). Host command: replays faulted accesses and runs the suspended crew again. -/
  | resume (nid gid cid : Nat)
  /-- FAIL (R409). Host command: ends the node of a suspended crew with its fault code. -/
  | fail (nid gid cid : Nat)
  /-- END_COMMAND (R409). Host command: ends any node with CODE 0x00. -/
  | endCommand (nid : Nat)
  /-- LAUNCH_QUEUE_TAIL_WRITE (R368). A host write to a launch queue TAIL rings its doorbell. -/
  | launchQueueTailWrite (queue tail : Nat)
  /-- NODE_SPEC_ACCEPT (R366). The device takes a launch queue entry and accepts or refuses its spec once a context is free. -/
  | nodeSpecAccept (queue : Nat)
  /-- COMPARE_MANIFEST (R384). Host command comparing a manifest and spec with the present configuration. -/
  | compareManifest (mani spec : Nat)
  /-- PREEMPT_GANG (R413). Host request that the pre-emption engine save a whole gang. -/
  | preemptGang (nid gid : Nat)
  /-- PREEMPT_CREW (R449). Host request to take one crew of a resident gang off its core. -/
  | preemptCrew (nid gid cid : Nat)
  /-- CREW_RESTORE (R449). A crew taken off its core is restored on the same core ahead of waiting crews. -/
  | crewRestore (nid gid cid : Nat)
  /-- GANG_SWAP (R184). The dispatcher swaps out an idle gang in favour of a waiting gang. -/
  | gangSwap (nid gid : Nat)
  /-- GANG_PLACEMENT (R190). The dispatcher admits a waiting gang to an eligible core. -/
  | gangPlacement (nid gid : Nat)
  /-- GANG_RESTORE (R415). A saved gang is restored on a core with its scratchpad, contexts and tiles. -/
  | gangRestore (nid gid : Nat)
  /-- GANG_RELEASE (R174). An ended gang's scratchpad, slot and engine contexts are released once its engine work completes. -/
  | gangRelease (nid gid : Nat)
  /-- SPAWNED_CREW_START (R214). A spawned crew takes its first step after the spawner's earlier accesses perform. -/
  | spawnedCrewStart (nid gid cid : Nat)
  /-- NODE_COMPLETION (R377). A node whose gangs, engines, continuations and REDs are done completes and signals successors. -/
  | nodeCompletion (nid : Nat)
  /-- ARENA_DRAINED (R380). Once accesses are drained, arena lines are dropped, pages freed and the slot marked dead. -/
  | arenaDrained (slot : Nat)
  /-- ARENA_BIRTH (R379). A runnable node's arena requests are allocated once memory allows. -/
  | arenaBirth (nid : Nat)
  /-- DEPENDENCE_SIGNAL (R371). A signal reaches a node's dependence counter, possibly making it runnable. -/
  | dependenceSignal (k : Nat)
  /-- TASK_QUEUE_REFILL (R374). A spill ring entry moves into a free hardware task queue entry. -/
  | taskQueueRefill (core : Nat)
  /-- CONTINUATION_RESUME (R376). A continuation record whose condition holds resumes as a one-fibre gang. -/
  | continuationResume (nid k : Nat)
  /-- COPY_OP_START (R315). A copy context starts its next accepted operation in sequence order. -/
  | copyOpStart (nid gid ctx : Nat)
  /-- COPY_OP_COMPLETE (R316). A copy operation completes with a status, advancing COMPLETED and STAT. -/
  | copyOpComplete (nid gid ctx seq : Nat)
  /-- COPY_PAGE_RESUME (R316). A copy operation suspended on a page fault goes on once the host has serviced the page. -/
  | copyPageResume (nid gid ctx seq : Nat)
  /-- CPB_LANDING (R325). A cpb's 32 bytes land, setting two granule bits and decrementing its tag counter. -/
  | cpbLanding (nid gid k : Nat)
  /-- MATRIX_WORD_TAKE (R353). The matrix engine takes the gang's next matrix word in issue order and performs it. -/
  | matrixWordTake (nid gid : Nat) (pick : Nat)
  /-- OBJ_ANNOUNCE_STEP (R203). An object sequencer step that installs a ticket or helps for room. -/
  | objAnnounceStep (who : FibId)
  /-- OBJ_APPLY_STEP (R204). An object sequencer step that applies the next ticket and commits it. -/
  | objApplyStep (who : FibId)
  /-- OBJ_FINISH_STEP (R205). An object sequencer step that delivers a committed result to its mailbox and marks the record applied. -/
  | objFinishStep (who : FibId)
  /-- OBJ_COLLECT (R206). The announcer collects its ticket's result from its record or mailbox. -/
  | objCollect (who : FibId)
  /-- RED_BATCH_APPLY (R267). In deterministic mode an ended gang's held REDs are applied after lower GIDs' batches. -/
  | redBatchApply (nid : Nat)
  /-- FLIT_CRC_FAIL (R424). A die flit that fails its CRC is resent from the replay buffer. -/
  | flitCrcFail (link sub : Nat)
  /-- DIE_SUBLINK_RETRAIN (R426). A die sublink that sees errors is retrained, its flits resent on other paths. -/
  | dieSublinkRetrain (link sub : Nat)
  /-- DIE_SUBLINK_FAIL (R426). A die sublink not back in service after 6 us fails. -/
  | dieSublinkFail (link sub : Nat)
  /-- NETWORK_PATH_RETRAIN (R426). A network path that sees errors is retrained. -/
  | networkPathRetrain (peer path : Nat)
  /-- NETWORK_PATH_FAIL (R426). A network path not retrained within T_retrain fails. -/
  | networkPathFail (peer path : Nat)
  /-- TRANSPORT_RESEND (R434). A packet unacknowledged within one round trip is resent on another path. -/
  | transportResend (peer path : Nat)
  /-- PEER_PACKET_ARRIVAL (R434). A transport packet from a peer is placed at its address or refused. -/
  | peerPacketArrival (peer offset : Nat) (op : PeerOp)
  /-- WALK_INVALIDATE (R241). Host command making walk units drop kept entries of a range. -/
  | walkInvalidate (unit lo hi : Nat)
  /-- SET_MASSIF_CACHE_PART (R247). Host sets a column's Massif cache part while no node runs. -/
  | setMassifCachePart (die col mib : Nat)
  /-- SET_POWER (R438). Host sets package design power, effective within 1 ms. -/
  | setPower (watts : Nat)
  /-- FIRMWARE_UPDATE (R437). Host updates one engine's firmware, verified by signature. -/
  | firmwareUpdate (engine digest : Nat) (signed : Bool)
  /-- SUBSTITUTE_SPARE_CORE (R437). Host substitutes a spare core, saving the old core's gangs. -/
  | substituteSpareCore (logical physical : Nat)
  /-- RETIRE_RECALIBRATE (R437). Host retires and recalibrates an HBM channel or die sublink. -/
  | retireRecalibrate (kind index : Nat)
  /-- REPLACE_PORT (R437). Host retires, replaces and retrains a port. -/
  | replacePort (port rate : Nat)
  /-- ATTESTATION_REQUEST (R441). Host nonce request answered with a signed attestation report. -/
  | attestationRequest (nonce : Nat)
  /-- SET_DEVICE_ID (R442). Host writes the device's 19-bit ID before any node runs. -/
  | setDeviceId (devId : Nat)
  /-- MANAGEMENT_REGISTER_WRITE (R431). Host write to a management register with no behaviour of its own. -/
  | managementRegisterWrite (reg value : Nat)
  /-- THERMAL_TRIP (R439). A column reaching 115 C powers the package down and tells the host. -/
  | thermalTrip (die col : Nat)
  /-- SCRUB (R440). Periodic scrubbing reads every line of every array. -/
  | scrub (kind place : Nat) (uncorrectable : Bool)
  /-- DEVICE_RESET (R237). Device reset leaves every arena table entry free with GEN 0. -/
  | deviceReset
  /-- ILLEGAL_INSTRUCTION (R71). A fibre reaches a word or chain that is no instruction (reserved MAJ, reserved sub-code, bad tail, part-way chain entry, illegal chain or stray mbx) and takes trap 0x01. -/
  | illegalInstruction (level : Nat) (word : BitVec 32)
  /-- SENSOR_READING (R189). A column's temperature sensor delivers a new reading, changing COLT.TEMP and VALID and starting or stopping issue-clock throttling. -/
  | sensorReading (die col temp : Nat) (valid : Bool)
  /-- SUBLINK_RETURN_TO_SERVICE (R426). A retraining die sublink completes training and returns to service, restoring D and releasing markers waiting on it. -/
  | sublinkReturnToService (link sub : Nat)
  /-- PATH_RETURN_TO_SERVICE (R426). A retraining network path completes training within T_retrain and returns to service, releasing flush markers that waited on it. -/
  | pathReturnToService (peer path : Nat)
  /-- HOST_MAINBAND_ACCESS (R431). A host load or store over the UCIe mainband reaches device memory, as when it places specs, argument blocks, data sections and page tables. -/
  | hostMainbandAccess (write : Bool) (ia len : Nat) (data : List (BitVec 8))
  /-- UNIT_RETIREMENT (R436). A core with no spare, a network lane or a UCIe module is retired, reducing counts, rates or bandwidth. -/
  | unitRetirement (kind index : Nat)
  deriving DecidableEq, Repr

end Sys2Proof
end

