-- ==== Sys2Proof/WellFormed.lean ====
section
/-!
DEFINITION. What makes an instruction well formed: the field rules of level 5 of R71 (03 R62 to R64, R67, R70), and
the one operand rule of level 3. The operand lists here are the tables of R67 to R69; the machine uses the same lists
for the window checks of R18 and the waits of R63 and R105.
-/
namespace Sys2Proof

/-- The kinds of register operand (R62). -/
inductive RegKind where
  | w | d | q | o | y | p | a
  deriving DecidableEq, Repr

/-- A register operand: its kind, its field value, whether the word reads it, whether it writes it, and its empty
policy (R63; `trap` is the EA or EB bit). -/
structure Opnd where
  kind : RegKind
  f : Fld
  reads : Bool
  writes : Bool
  trap : Bool
  deriving DecidableEq, Repr

/-- A source that waits while it is empty. -/
def src (k : RegKind) (f : Fld) : Opnd := ⟨k, f, true, false, false⟩
/-- A source under an EA or EB bit. -/
def srcE (k : RegKind) (f : Fld) (e : Bool) : Opnd := ⟨k, f, true, false, e⟩
/-- A destination. -/
def dst (k : RegKind) (f : Fld) : Opnd := ⟨k, f, false, true, false⟩
/-- A register that is both read and written. -/
def both (k : RegKind) (f : Fld) : Opnd := ⟨k, f, true, true, false⟩
/-- A register that is named but neither read nor written as a whole. -/
def use (k : RegKind) (f : Fld) : Opnd := ⟨k, f, false, false, false⟩

/-- The register operands of an instruction, D (or T) first, then A, then B (R67 to R69). -/
def opnds : Instr → List Opnd
  | .add d a b ea eb => [dst .w d, srcE .w a ea, srcE .w b eb]
  | .sub d a b ea eb => [dst .w d, srcE .w a ea, srcE .w b eb]
  | .mul d a b ea eb => [dst .w d, srcE .w a ea, srcE .w b eb]
  | .mulh d a b ea eb => [dst .w d, srcE .w a ea, srcE .w b eb]
  | .mulhu d a b ea eb => [dst .w d, srcE .w a ea, srcE .w b eb]
  | .div d a b ea eb => [dst .w d, srcE .w a ea, srcE .w b eb]
  | .divu d a b ea eb => [dst .w d, srcE .w a ea, srcE .w b eb]
  | .rem d a b ea eb => [dst .w d, srcE .w a ea, srcE .w b eb]
  | .remu d a b ea eb => [dst .w d, srcE .w a ea, srcE .w b eb]
  | .and d a b ea eb => [dst .w d, srcE .w a ea, srcE .w b eb]
  | .or d a b ea eb => [dst .w d, srcE .w a ea, srcE .w b eb]
  | .xor d a b ea eb => [dst .w d, srcE .w a ea, srcE .w b eb]
  | .andn d a b ea eb => [dst .w d, srcE .w a ea, srcE .w b eb]
  | .orn d a b ea eb => [dst .w d, srcE .w a ea, srcE .w b eb]
  | .shl d a b ea eb => [dst .w d, srcE .w a ea, srcE .w b eb]
  | .shr d a b ea eb => [dst .w d, srcE .w a ea, srcE .w b eb]
  | .sar d a b ea eb => [dst .w d, srcE .w a ea, srcE .w b eb]
  | .rotl d a b ea eb => [dst .w d, srcE .w a ea, srcE .w b eb]
  | .min d a b ea eb => [dst .w d, srcE .w a ea, srcE .w b eb]
  | .max d a b ea eb => [dst .w d, srcE .w a ea, srcE .w b eb]
  | .minu d a b ea eb => [dst .w d, srcE .w a ea, srcE .w b eb]
  | .maxu d a b ea eb => [dst .w d, srcE .w a ea, srcE .w b eb]
  | .adds d a b ea eb => [dst .w d, srcE .w a ea, srcE .w b eb]
  | .subs d a b ea eb => [dst .w d, srcE .w a ea, srcE .w b eb]
  | .addus d a b ea eb => [dst .w d, srcE .w a ea, srcE .w b eb]
  | .subus d a b ea eb => [dst .w d, srcE .w a ea, srcE .w b eb]
  | .lea1 d a b ea eb => [dst .w d, srcE .w a ea, srcE .w b eb]
  | .lea2 d a b ea eb => [dst .w d, srcE .w a ea, srcE .w b eb]
  | .lea3 d a b ea eb => [dst .w d, srcE .w a ea, srcE .w b eb]
  | .lea4 d a b ea eb => [dst .w d, srcE .w a ea, srcE .w b eb]
  | .addD d a b ea eb => [dst .d d, srcE .d a ea, srcE .d b eb]
  | .subD d a b ea eb => [dst .d d, srcE .d a ea, srcE .d b eb]
  | .mulD d a b ea eb => [dst .d d, srcE .d a ea, srcE .d b eb]
  | .mulhD d a b ea eb => [dst .d d, srcE .d a ea, srcE .d b eb]
  | .mulhuD d a b ea eb => [dst .d d, srcE .d a ea, srcE .d b eb]
  | .andD d a b ea eb => [dst .d d, srcE .d a ea, srcE .d b eb]
  | .orD d a b ea eb => [dst .d d, srcE .d a ea, srcE .d b eb]
  | .xorD d a b ea eb => [dst .d d, srcE .d a ea, srcE .d b eb]
  | .shlD d a b ea eb => [dst .d d, srcE .d a ea, srcE .w b eb]
  | .shrD d a b ea eb => [dst .d d, srcE .d a ea, srcE .w b eb]
  | .sarD d a b ea eb => [dst .d d, srcE .d a ea, srcE .w b eb]
  | .minD d a b ea eb => [dst .d d, srcE .d a ea, srcE .d b eb]
  | .maxD d a b ea eb => [dst .d d, srcE .d a ea, srcE .d b eb]
  | .minuD d a b ea eb => [dst .d d, srcE .d a ea, srcE .d b eb]
  | .maxuD d a b ea eb => [dst .d d, srcE .d a ea, srcE .d b eb]
  | .addwD d a b ea eb => [dst .d d, srcE .d a ea, srcE .w b eb]
  | .adduwD d a b ea eb => [dst .d d, srcE .d a ea, srcE .w b eb]
  | .mulwD d a b ea eb => [dst .d d, srcE .w a ea, srcE .w b eb]
  | .muluwD d a b ea eb => [dst .d d, srcE .w a ea, srcE .w b eb]
  | .mov d a ea => [dst .w d, srcE .w a ea]
  | .not d a ea => [dst .w d, srcE .w a ea]
  | .neg d a ea => [dst .w d, srcE .w a ea]
  | .abs d a ea => [dst .w d, srcE .w a ea]
  | .clz d a ea => [dst .w d, srcE .w a ea]
  | .ctz d a ea => [dst .w d, srcE .w a ea]
  | .popc d a ea => [dst .w d, srcE .w a ea]
  | .brev d a ea => [dst .w d, srcE .w a ea]
  | .bswap d a ea => [dst .w d, srcE .w a ea]
  | .sextb d a ea => [dst .w d, srcE .w a ea]
  | .sexth d a ea => [dst .w d, srcE .w a ea]
  | .zextb d a ea => [dst .w d, srcE .w a ea]
  | .zexth d a ea => [dst .w d, srcE .w a ea]
  | .movD d a ea => [dst .d d, srcE .d a ea]
  | .clzD d a ea => [dst .w d, srcE .d a ea]
  | .popcD d a ea => [dst .w d, srcE .d a ea]
  | .sextD d a ea => [dst .d d, srcE .w a ea]
  | .zextD d a ea => [dst .d d, srcE .w a ea]
  | .eq d a b ea eb => [dst .p d, srcE .w a ea, srcE .w b eb]
  | .ne d a b ea eb => [dst .p d, srcE .w a ea, srcE .w b eb]
  | .lt d a b ea eb => [dst .p d, srcE .w a ea, srcE .w b eb]
  | .le d a b ea eb => [dst .p d, srcE .w a ea, srcE .w b eb]
  | .ltu d a b ea eb => [dst .p d, srcE .w a ea, srcE .w b eb]
  | .leu d a b ea eb => [dst .p d, srcE .w a ea, srcE .w b eb]
  | .eqD d a b ea eb => [dst .p d, srcE .d a ea, srcE .d b eb]
  | .neD d a b ea eb => [dst .p d, srcE .d a ea, srcE .d b eb]
  | .ltD d a b ea eb => [dst .p d, srcE .d a ea, srcE .d b eb]
  | .leD d a b ea eb => [dst .p d, srcE .d a ea, srcE .d b eb]
  | .ltuD d a b ea eb => [dst .p d, srcE .d a ea, srcE .d b eb]
  | .leuD d a b ea eb => [dst .p d, srcE .d a ea, srcE .d b eb]
  | .tst d a b ea eb => [dst .p d, srcE .w a ea, srcE .w b eb]
  | .tstz d a b ea eb => [dst .p d, srcE .w a ea, srcE .w b eb]
  | .sel d a b _ _ => [dst .w d, src .w a, src .w b]
  | .selD d a b _ _ => [dst .d d, src .d a, src .d b]
  | .selY d a b _ _ => [dst .y d, src .y a, src .y b]
  | .pand d a b => [dst .p d, src .p a, src .p b]
  | .por d a b => [dst .p d, src .p a, src .p b]
  | .pxor d a b => [dst .p d, src .p a, src .p b]
  | .pandn d a b => [dst .p d, src .p a, src .p b]
  | .pnot d a => [dst .p d, src .p a]
  | .pmov d a => [dst .p d, src .p a]
  | .p2w d => [dst .w d]
  | .w2p a ea => [srcE .w a ea]
  | .pset d => [dst .p d]
  | .pclr d => [dst .p d]
  | .addi d a ea _ => [dst .w d, srcE .w a ea]
  | .andi d a ea _ => [dst .w d, srcE .w a ea]
  | .ori d a ea _ => [dst .w d, srcE .w a ea]
  | .xori d a ea _ => [dst .w d, srcE .w a ea]
  | .shli d a ea _ => [dst .w d, srcE .w a ea]
  | .shri d a ea _ => [dst .w d, srcE .w a ea]
  | .sari d a ea _ => [dst .w d, srcE .w a ea]
  | .rotli d a ea _ => [dst .w d, srcE .w a ea]
  | .shliD d a ea _ => [dst .d d, srcE .d a ea]
  | .shriD d a ea _ => [dst .d d, srcE .d a ea]
  | .sariD d a ea _ => [dst .d d, srcE .d a ea]
  | .rotliD d a ea _ => [dst .d d, srcE .d a ea]
  | .cmpiEq d a ea _ => [dst .p d, srcE .w a ea]
  | .cmpiNe d a ea _ => [dst .p d, srcE .w a ea]
  | .cmpiLt d a ea _ => [dst .p d, srcE .w a ea]
  | .cmpiLe d a ea _ => [dst .p d, srcE .w a ea]
  | .cmpiLtu d a ea _ => [dst .p d, srcE .w a ea]
  | .cmpiLeu d a ea _ => [dst .p d, srcE .w a ea]
  | .cmpiGt d a ea _ => [dst .p d, srcE .w a ea]
  | .cmpiGe d a ea _ => [dst .p d, srcE .w a ea]
  | .li d _ => [dst .w d]
  | .lih d _ => [both .w d]
  | .ldB t a ea _ => [dst .w t, srcE .d a ea]
  | .ldBs t a ea _ => [dst .w t, srcE .d a ea]
  | .ldH t a ea _ => [dst .w t, srcE .d a ea]
  | .ldHs t a ea _ => [dst .w t, srcE .d a ea]
  | .ldW t a ea _ => [dst .w t, srcE .d a ea]
  | .ldD t a ea _ => [dst .d t, srcE .d a ea]
  | .ldQ t a ea _ => [dst .q t, srcE .d a ea]
  | .stB t a ea _ => [src .w t, srcE .d a ea]
  | .stH t a ea _ => [src .w t, srcE .d a ea]
  | .stW t a ea _ => [src .w t, srcE .d a ea]
  | .stD t a ea _ => [src .d t, srcE .d a ea]
  | .stQ t a ea _ => [src .q t, srcE .d a ea]
  | .ldsB t a ea _ => [dst .w t, srcE .w a ea]
  | .ldsBs t a ea _ => [dst .w t, srcE .w a ea]
  | .ldsH t a ea _ => [dst .w t, srcE .w a ea]
  | .ldsHs t a ea _ => [dst .w t, srcE .w a ea]
  | .ldsW t a ea _ => [dst .w t, srcE .w a ea]
  | .ldsD t a ea _ => [dst .d t, srcE .w a ea]
  | .ldsQ t a ea _ => [dst .q t, srcE .w a ea]
  | .stsB t a ea _ => [src .w t, srcE .w a ea]
  | .stsH t a ea _ => [src .w t, srcE .w a ea]
  | .stsW t a ea _ => [src .w t, srcE .w a ea]
  | .stsD t a ea _ => [src .d t, srcE .w a ea]
  | .stsQ t a ea _ => [src .q t, srcE .w a ea]
  | .ldy t a ea _ _ => [dst .y t, srcE .d a ea]
  | .sty t a ea _ _ => [src .y t, srcE .d a ea]
  | .ldcFp32 t a ea _ => [dst .y t, srcE .d a ea]
  | .ldcBf16 t a ea _ => [dst .y t, srcE .d a ea]
  | .ldcFp16 t a ea _ => [dst .y t, srcE .d a ea]
  | .ldcE4m3 t a ea _ => [dst .y t, srcE .d a ea]
  | .ldcE5m2 t a ea _ => [dst .y t, srcE .d a ea]
  | .ldcInt32 t a ea _ => [dst .y t, srcE .d a ea]
  | .ldcUint32 t a ea _ => [dst .y t, srcE .d a ea]
  | .ldcInt8 t a ea _ => [dst .y t, srcE .d a ea]
  | .ldcUint8 t a ea _ => [dst .y t, srcE .d a ea]
  | .stcFp32 t a ea _ => [src .y t, srcE .d a ea]
  | .stcBf16 t a ea _ => [src .y t, srcE .d a ea]
  | .stcFp16 t a ea _ => [src .y t, srcE .d a ea]
  | .stcE4m3 t a ea _ => [src .y t, srcE .d a ea]
  | .stcE5m2 t a ea _ => [src .y t, srcE .d a ea]
  | .stcInt32 t a ea _ => [src .y t, srcE .d a ea]
  | .stcUint32 t a ea _ => [src .y t, srcE .d a ea]
  | .stcInt8 t a ea _ => [src .y t, srcE .d a ea]
  | .stcUint8 t a ea _ => [src .y t, srcE .d a ea]
  | .ldf t a ea _ => [dst .q t, srcE .w a ea]
  | .ldfCons t a ea _ => [dst .q t, srcE .w a ea]
  | .stf t a ea _ => [src .q t, srcE .w a ea]
  | .yadd d a b ea eb => [dst .y d, srcE .y a ea, srcE .y b eb]
  | .ysub d a b ea eb => [dst .y d, srcE .y a ea, srcE .y b eb]
  | .ymul d a b ea eb => [dst .y d, srcE .y a ea, srcE .y b eb]
  | .ydiv d a b ea eb => [dst .y d, srcE .y a ea, srcE .y b eb]
  | .ymin d a b ea eb => [dst .y d, srcE .y a ea, srcE .y b eb]
  | .ymax d a b ea eb => [dst .y d, srcE .y a ea, srcE .y b eb]
  | .yminm d a b ea eb => [dst .y d, srcE .y a ea, srcE .y b eb]
  | .ymaxm d a b ea eb => [dst .y d, srcE .y a ea, srcE .y b eb]
  | .ycopysign d a b ea eb => [dst .y d, srcE .y a ea, srcE .y b eb]
  | .yrem d a b ea eb => [dst .y d, srcE .y a ea, srcE .y b eb]
  | .yscale d a b ea eb => [dst .y d, srcE .y a ea, srcE .w b eb]
  | .yfma d a b ea eb => [both .y d, srcE .y a ea, srcE .y b eb]
  | .yfms d a b ea eb => [both .y d, srcE .y a ea, srcE .y b eb]
  | .yfnma d a b ea eb => [both .y d, srcE .y a ea, srcE .y b eb]
  | .ymov d a ea => [dst .y d, srcE .y a ea]
  | .yneg d a ea => [dst .y d, srcE .y a ea]
  | .yabs d a ea => [dst .y d, srcE .y a ea]
  | .ysqrt d a ea => [dst .y d, srcE .y a ea]
  | .yrint d a ea => [dst .y d, srcE .y a ea]
  | .ytrunc d a ea => [dst .y d, srcE .y a ea]
  | .ylogb d a ea => [dst .w d, srcE .y a ea]
  | .yclass d a ea => [dst .w d, srcE .y a ea]
  | .ysig d a ea => [dst .w d, srcE .y a ea]
  | .ymant d a ea => [dst .y d, srcE .y a ea]
  | .yrecip d a ea => [dst .y d, srcE .y a ea]
  | .yrsqrt d a ea => [dst .y d, srcE .y a ea]
  | .ycmpEq d a b ea eb => [dst .p d, srcE .y a ea, srcE .y b eb]
  | .ycmpLt d a b ea eb => [dst .p d, srcE .y a ea, srcE .y b eb]
  | .ycmpLe d a b ea eb => [dst .p d, srcE .y a ea, srcE .y b eb]
  | .ycmpUn d a b ea eb => [dst .p d, srcE .y a ea, srcE .y b eb]
  | .ycmpEqs d a b ea eb => [dst .p d, srcE .y a ea, srcE .y b eb]
  | .ycmpLts d a b ea eb => [dst .p d, srcE .y a ea, srcE .y b eb]
  | .ycmpLes d a b ea eb => [dst .p d, srcE .y a ea, srcE .y b eb]
  | .ycvtYW d a ea => [dst .y d, srcE .w a ea]
  | .ycvtYUw d a ea => [dst .y d, srcE .w a ea]
  | .ycvtYD d a ea => [dst .y d, srcE .d a ea]
  | .ycvtYUd d a ea => [dst .y d, srcE .d a ea]
  | .ycvtWY d a ea => [dst .w d, srcE .y a ea]
  | .ycvtUwY d a ea => [dst .w d, srcE .y a ea]
  | .ycvtDY d a ea => [dst .d d, srcE .y a ea]
  | .ycvtUdY d a ea => [dst .d d, srcE .y a ea]
  | .setprc a => [src .w a]
  | .getprc d => [dst .w d]
  | .setl a => [src .w a]
  | .setrm a => [src .w a]
  | .getflags d => [dst .w d]
  | .clrflags a => [src .w a]
  | .rnd d => [dst .w d]
  | .br _ _ _ => []
  | .bra _ => []
  | .call _ _ _ => []
  | .ret => []
  | .callr a => [src .d a]
  | .jmpr a => [src .d a]
  | .eret => []
  | .enter _ _ _ => []
  | .loop d _ => [src .w d]
  | .endFibre => []
  | .spawn d a b => [both .w d, src .d a, src .o b]
  | .fid d => [dst .w d]
  | .cid d => [dst .w d]
  | .gid d => [dst .w d]
  | .stg d => [dst .w d]
  | .nid d => [dst .w d]
  | .yield _ _ => []
  | .shfl d a b => [dst .w d, src .w a, src .d b]
  | .shflXor d a b => [dst .w d, src .w a, src .d b]
  | .shflUp d a b => [dst .w d, src .w a, src .d b]
  | .shflDown d a b => [dst .w d, src .w a, src .d b]
  | .voteAny d a b => [dst .p d, src .p a, use .d b, src .w b]
  | .voteAll d a b => [dst .p d, src .p a, use .d b, src .w b]
  | .ballot d a b => [dst .w d, src .p a, use .d b, src .w b]
  | .reduxAdd d a b => [dst .w d, src .w a, use .d b, src .w b]
  | .reduxMin d a b => [dst .w d, src .w a, use .d b, src .w b]
  | .reduxMax d a b => [dst .w d, src .w a, use .d b, src .w b]
  | .reduxYadd d a b => [dst .y d, src .y a, use .d b, src .w b]
  | .matchLanes d a b => [dst .w d, src .w a, use .d b, src .w b]
  | .present d b => [dst .w d, use .d b, src .w b]
  | .objInit d a b => [src .d d, src .d a, src .w b]
  | .objPush d a b => [dst .d d, src .w d, src .d a, src .w b]
  | .objPop d a b => [dst .d d, src .w d, src .d a, src .w b]
  | .objEnq d a b => [dst .d d, src .w d, src .d a, src .w b]
  | .objDeq d a b => [dst .d d, src .w d, src .d a, src .w b]
  | .objAdd d a b => [dst .d d, src .w d, src .d a, src .w b]
  | .objArrive d a b => [dst .d d, src .w d, src .d a, src .w b]
  | .objPeek d a b => [dst .d d, src .w d, src .d a, src .w b]
  | .objHelp d a b => [dst .d d, src .w d, src .d a, use .w b]
  | .amoAdd d a b _ => [dst .w d, src .d a, src .w b]
  | .amoAnd d a b _ => [dst .w d, src .d a, src .w b]
  | .amoOr d a b _ => [dst .w d, src .d a, src .w b]
  | .amoXor d a b _ => [dst .w d, src .d a, src .w b]
  | .amoMin d a b _ => [dst .w d, src .d a, src .w b]
  | .amoMax d a b _ => [dst .w d, src .d a, src .w b]
  | .amoMinu d a b _ => [dst .w d, src .d a, src .w b]
  | .amoMaxu d a b _ => [dst .w d, src .d a, src .w b]
  | .amoSwap d a b _ => [dst .w d, src .d a, src .w b]
  | .amoCas d a b _ => [dst .w d, src .d a, src .d b]
  | .amoAddD d a b _ => [dst .d d, src .d a, src .d b]
  | .amoSwapD d a b _ => [dst .d d, src .d a, src .d b]
  | .amoCasD d a b _ => [dst .d d, src .d a, src .q b]
  | .amoCasQ d a b _ => [dst .q d, src .d a, src .o b]
  | .amoAddAr d a b _ => [dst .w d, src .d a, src .w b]
  | .amoAndAr d a b _ => [dst .w d, src .d a, src .w b]
  | .amoOrAr d a b _ => [dst .w d, src .d a, src .w b]
  | .amoXorAr d a b _ => [dst .w d, src .d a, src .w b]
  | .amoMinAr d a b _ => [dst .w d, src .d a, src .w b]
  | .amoMaxAr d a b _ => [dst .w d, src .d a, src .w b]
  | .amoMinuAr d a b _ => [dst .w d, src .d a, src .w b]
  | .amoMaxuAr d a b _ => [dst .w d, src .d a, src .w b]
  | .amoSwapAr d a b _ => [dst .w d, src .d a, src .w b]
  | .amoCasAr d a b _ => [dst .w d, src .d a, src .d b]
  | .amoAddDAr d a b _ => [dst .d d, src .d a, src .d b]
  | .amoSwapDAr d a b _ => [dst .d d, src .d a, src .d b]
  | .amoCasDAr d a b _ => [dst .d d, src .d a, src .q b]
  | .amoCasQAr d a b _ => [dst .q d, src .d a, src .o b]
  | .redAdd a b _ => [src .d a, src .w b]
  | .redAnd a b _ => [src .d a, src .w b]
  | .redOr a b _ => [src .d a, src .w b]
  | .redXor a b _ => [src .d a, src .w b]
  | .redMin a b _ => [src .d a, src .w b]
  | .redMax a b _ => [src .d a, src .w b]
  | .redFaddF32 a b _ => [src .d a, src .w b]
  | .redFaddBf16 a b _ => [src .d a, src .w b]
  | .redAddD a b _ => [src .d a, src .d b]
  | .ldaW d a _ => [dst .w d, src .d a]
  | .ldaD d a _ => [dst .d d, src .d a]
  | .ldaB d a _ => [dst .w d, src .d a]
  | .strW a b _ => [src .d a, src .w b]
  | .strD a b _ => [src .d a, src .d b]
  | .strB a b _ => [src .d a, src .w b]
  | .fence _ _ => []
  | .fenceAcq _ _ => []
  | .fenceRel _ _ => []
  | .wbr a b _ => [src .d a, src .w b]
  | .invr a b _ => [src .d a, src .w b]
  | .pref a b _ => [src .d a, src .w b]
  | .cpb d a b _ => [src .w d, src .d a, src .w b]
  | .cpw _ => []
  | .cpwLe a _ => [src .w a]
  | .cptG2s d a _ => [dst .d d, src .o a]
  | .cptS2g d a _ => [dst .d d, src .o a]
  | .cptS2gAtom d a _ => [dst .d d, src .o a]
  | .cptG2sCons d a _ => [dst .d d, src .o a]
  | .cptG2g d a _ => [dst .d d, src .o a]
  | .cptGather d a _ => [dst .d d, src .o a]
  | .cptCbk d a _ => [dst .d d, src .o a]
  | .twait a _ => [src .d a]
  | .tread d _ => [dst .d d]
  | .tissued d _ => [dst .d d]
  | .tstat d _ => [dst .w d]
  | .shape d a => [dst .q d, src .q a]
  | .mmaBf16 d a b _ _ => [use .a d, src .w a, src .w b]
  | .mmaE4m3 d a b _ _ => [use .a d, src .w a, src .w b]
  | .mmaE5m2 d a b _ _ => [use .a d, src .w a, src .w b]
  | .mmaE4m3e5m2 d a b _ _ => [use .a d, src .w a, src .w b]
  | .accZero d => [use .a d]
  | .accChainB d a => [use .a d, src .w a]
  | .accChainE d => [use .a d]
  | .accSetprom a b => [src .w a, src .w b]
  | .accStF32 d a => [use .a d, src .w a]
  | .accStBf16 d a => [use .a d, src .w a]
  | .accLdF32 d a => [use .a d, src .w a]
  | .accFlush d => [use .a d]
  | .taskTnode d a => [dst .d d, src .d a]
  | .taskTdep a b => [src .d a, src .d b]
  | .taskTsig a => [src .d a]
  | .taskEnq a => [src .o a]
  | .taskDeq d => [dst .o d]
  | .taskCont a b => [src .d a, src .w b]
  | .taskNself d => [dst .d d]
  | .arenaAptr d a => [dst .d d, src .w a]
  | .arenaAinfo d a => [dst .q d, src .d a]
  | .arenaCheck a b => [src .d a, src .w b]
  | .gets d _ => [dst .w d]
  | .sets a _ => [src .w a]
  | .trap _ => []
  | .brk => []
  | .nop => []
  | .mbr .. => []
  | .regroup .. => []
  | .seniorForcedIssue .. => []
  | .backoffExpiry .. => []
  | .watchdog .. => []
  | .yResultDelivery .. => []
  | .reduxYaddResult .. => []
  | .loadDataArrival .. => []
  | .convertingLoadResolve .. => []
  | .l1Eviction .. => []
  | .homeArrival .. => []
  | .flushMarkerAck .. => []
  | .walk .. => []
  | .walkRetry .. => []
  | .memorySideFault .. => []
  | .pageFaultReport .. => []
  | .faultRecordWrite => []
  | .resume .. => []
  | .fail .. => []
  | .endCommand .. => []
  | .launchQueueTailWrite .. => []
  | .nodeSpecAccept .. => []
  | .compareManifest .. => []
  | .preemptGang .. => []
  | .preemptCrew .. => []
  | .crewRestore .. => []
  | .gangSwap .. => []
  | .gangPlacement .. => []
  | .gangRestore .. => []
  | .gangRelease .. => []
  | .spawnedCrewStart .. => []
  | .nodeCompletion .. => []
  | .arenaDrained .. => []
  | .arenaBirth .. => []
  | .dependenceSignal .. => []
  | .taskQueueRefill .. => []
  | .continuationResume .. => []
  | .copyOpStart .. => []
  | .copyOpComplete .. => []
  | .copyPageResume .. => []
  | .cpbLanding .. => []
  | .matrixWordTake .. => []
  | .objAnnounceStep .. => []
  | .objApplyStep .. => []
  | .objFinishStep .. => []
  | .objCollect .. => []
  | .redBatchApply .. => []
  | .flitCrcFail .. => []
  | .dieSublinkRetrain .. => []
  | .dieSublinkFail .. => []
  | .networkPathRetrain .. => []
  | .networkPathFail .. => []
  | .transportResend .. => []
  | .peerPacketArrival .. => []
  | .walkInvalidate .. => []
  | .setMassifCachePart .. => []
  | .setPower .. => []
  | .firmwareUpdate .. => []
  | .substituteSpareCore .. => []
  | .retireRecalibrate .. => []
  | .replacePort .. => []
  | .attestationRequest .. => []
  | .setDeviceId .. => []
  | .managementRegisterWrite .. => []
  | .thermalTrip .. => []
  | .scrub .. => []
  | .deviceReset => []
  | .illegalInstruction .. => []
  | .sensorReading .. => []
  | .sublinkReturnToService .. => []
  | .pathReturnToService .. => []
  | .hostMainbandAccess .. => []
  | .unitRetirement .. => []

/-- The field rule of an operand kind (R62), and p0 as a predicate destination (R64). -/
def Opnd.ok (x : Opnd) : Bool :=
  match x.kind with
  | .w => true
  | .d => x.f.toNat % 2 == 0
  | .q => x.f.toNat % 4 == 0
  | .o => x.f.toNat % 8 == 0
  | .y => x.f.toNat < 16
  | .a => x.f.toNat < 16
  | .p => x.f.toNat < 16 && !(x.writes && x.f.toNat == 0)

/-- The limits of the fields that name no register (R65, R67, R70). -/
def limitsOk : Instr → Bool
  | .shli _ _ _ n => decide (n.toNat < 32)
  | .shri _ _ _ n => decide (n.toNat < 32)
  | .sari _ _ _ n => decide (n.toNat < 32)
  | .rotli _ _ _ n => decide (n.toNat < 32)
  | .enter _ a i => decide (a.toNat ≤ 16 ∧ (i.toNat = 0 ∨ (2 ≤ i.toNat ∧ i.toNat ≤ 237)))
  | .loop _ i => decide (1 ≤ i.toNat ∧ i.toNat < 262144)
  | .yield h _ => decide (h.toNat < 3)
  | .amoAdd _ _ _ s => decide (s.toNat < 6)
  | .amoAnd _ _ _ s => decide (s.toNat < 6)
  | .amoOr _ _ _ s => decide (s.toNat < 6)
  | .amoXor _ _ _ s => decide (s.toNat < 6)
  | .amoMin _ _ _ s => decide (s.toNat < 6)
  | .amoMax _ _ _ s => decide (s.toNat < 6)
  | .amoMinu _ _ _ s => decide (s.toNat < 6)
  | .amoMaxu _ _ _ s => decide (s.toNat < 6)
  | .amoSwap _ _ _ s => decide (s.toNat < 6)
  | .amoCas _ _ _ s => decide (s.toNat < 6)
  | .amoAddD _ _ _ s => decide (s.toNat < 6)
  | .amoSwapD _ _ _ s => decide (s.toNat < 6)
  | .amoCasD _ _ _ s => decide (s.toNat < 6)
  | .amoCasQ _ _ _ s => decide (s.toNat < 6)
  | .amoAddAr _ _ _ s => decide (s.toNat < 6)
  | .amoAndAr _ _ _ s => decide (s.toNat < 6)
  | .amoOrAr _ _ _ s => decide (s.toNat < 6)
  | .amoXorAr _ _ _ s => decide (s.toNat < 6)
  | .amoMinAr _ _ _ s => decide (s.toNat < 6)
  | .amoMaxAr _ _ _ s => decide (s.toNat < 6)
  | .amoMinuAr _ _ _ s => decide (s.toNat < 6)
  | .amoMaxuAr _ _ _ s => decide (s.toNat < 6)
  | .amoSwapAr _ _ _ s => decide (s.toNat < 6)
  | .amoCasAr _ _ _ s => decide (s.toNat < 6)
  | .amoAddDAr _ _ _ s => decide (s.toNat < 6)
  | .amoSwapDAr _ _ _ s => decide (s.toNat < 6)
  | .amoCasDAr _ _ _ s => decide (s.toNat < 6)
  | .amoCasQAr _ _ _ s => decide (s.toNat < 6)
  | .redAdd _ _ s => decide (s.toNat < 6)
  | .redAnd _ _ s => decide (s.toNat < 6)
  | .redOr _ _ s => decide (s.toNat < 6)
  | .redXor _ _ s => decide (s.toNat < 6)
  | .redMin _ _ s => decide (s.toNat < 6)
  | .redMax _ _ s => decide (s.toNat < 6)
  | .redFaddF32 _ _ s => decide (s.toNat < 6)
  | .redFaddBf16 _ _ s => decide (s.toNat < 6)
  | .redAddD _ _ s => decide (s.toNat < 6)
  | .ldaW _ _ s => decide (s.toNat < 6)
  | .ldaD _ _ s => decide (s.toNat < 6)
  | .ldaB _ _ s => decide (s.toNat < 6)
  | .strW _ _ s => decide (s.toNat < 6)
  | .strD _ _ s => decide (s.toNat < 6)
  | .strB _ _ s => decide (s.toNat < 6)
  | .fence s _ => decide (s.toNat < 6)
  | .fenceAcq s _ => decide (s.toNat < 6)
  | .fenceRel s _ => decide (s.toNat < 6)
  | .wbr _ _ s => decide (s.toNat < 6)
  | .invr _ _ s => decide (s.toNat < 6)
  | .pref _ _ s => decide (s.toNat < 6)
  | .mbr np p1 p2 p3 p4 n1 n2 n3 n4 off1 off2 off3 off4 =>
    pairOk 0 np p1 n1 off1 && pairOk 1 np p2 n2 off2 && pairOk 2 np p3 n3 off3 && pairOk 3 np p4 n4 off4
  | _ => true
where
  /-- Pair k of a branch packet: all zero beyond NP, and never p0 negated (R65). -/
  pairOk (k : Nat) (np : BitVec 2) (p : BitVec 4) (n : Bool) (off : BitVec 12) : Bool :=
    if k ≤ np.toNat then !(p == 0#4 && n) else p == 0#4 && !n && off == 0#12

/-- The level of R71 at which an instruction's own fields are refused: 3 for `br` with P = 0 (with N = 0 its word is
`bra`'s) and for `call` with P = 0 and N = 1, 5 for the other field rules. -/
def faultLevel (i : Instr) : Option Nat :=
  match i with
  | .br p _ _ => if p = 0#4 then some 3 else none
  | .call p n _ => if p = 0#4 ∧ n = true then some 3 else none
  | _ => if (opnds i).all Opnd.ok && limitsOk i then none else some 5

/-- An instruction that no check of levels 3 and 5 refuses. -/
def wf (i : Instr) : Bool := (faultLevel i).isNone

/-- The well-formed instructions. -/
abbrev WellFormed (i : Instr) : Prop := wf i = true

/-- The pipes of a partition (R56). -/
inductive Pipe where
  | i | y | m | x
  deriving DecidableEq, Repr

/-- The pipe of a major opcode (R56, R66). -/
def pipeOfMaj (maj : Nat) : Pipe :=
  if maj < 0x0F then .i
  else if maj < 0x17 then .m
  else if maj < 0x1C then .y
  else if maj < 0x25 then .x
  else if maj < 0x31 then .m
  else .x

end Sys2Proof
end

