-- ==== Sys2Proof/Decode.lean ====
section
/-!
DEFINITION. The decoder, total on every word, and the encoder (03 R55 to R70). Some definitions are marked
noncomputable for one reason: Lean's runtime cannot build a constructor whose number is above 244 in a type that has
414 of them. The kernel evaluates every one of them.
-/
namespace Sys2Proof

/-- What a word is: an instruction; a word that level 3 of R71 refuses (trap 0x01); or an instruction one of whose
fields that must be zero is not (level 5, trap 0x02). -/
inductive Decoded where
  | ok (i : Instr)
  | illegal
  | badField
  deriving DecidableEq, Repr

/-- A Boolean field as one bit. -/
def b1 (b : Bool) : BitVec 1 := BitVec.ofBool b

/-- Format F3 (R61), without the chain bit. -/
def f3 (maj d a b : Fld) (ea eb : Bool) (fn : BitVec 5) : BitVec 31 := maj ++ d ++ a ++ b ++ b1 ea ++ b1 eb ++ fn
/-- Format FI (R61). -/
def fi (maj d a : Fld) (ea : Bool) (imm : BitVec 12) : BitVec 31 := maj ++ d ++ a ++ b1 ea ++ imm
/-- Format FL (R61). -/
def fl (maj d : Fld) (imm : BitVec 19) : BitVec 31 := maj ++ d ++ imm
/-- Format FM (R61). -/
def fm (maj t a : Fld) (ea : Bool) (sz : BitVec 4) (off : BitVec 8) : BitVec 31 := maj ++ t ++ a ++ b1 ea ++ sz ++ off
/-- Format FB (R61). -/
def fb (maj : Fld) (p : BitVec 4) (n : Bool) (off : BitVec 20) : BitVec 31 := maj ++ p ++ b1 n ++ off
/-- Format FS (R61). -/
def fs (maj d a b : Fld) (p : BitVec 4) (n : Bool) (fn : BitVec 2) : BitVec 31 := maj ++ d ++ a ++ b ++ p ++ b1 n ++ fn
/-- Format FX (R61). -/
def fx (maj d a b : Fld) (xfn : BitVec 7) : BitVec 31 := maj ++ d ++ a ++ b ++ xfn

/-- MAJ 0x01 (R66). -/
def decInt3 (w : Word) : Decoded :=
  match (w.extractLsb' 0 5).toNat with
  | 0 => .ok (.add (w.extractLsb' 19 6) (w.extractLsb' 13 6) (w.extractLsb' 7 6) (w.getLsbD 6) (w.getLsbD 5))
  | 1 => .ok (.sub (w.extractLsb' 19 6) (w.extractLsb' 13 6) (w.extractLsb' 7 6) (w.getLsbD 6) (w.getLsbD 5))
  | 2 => .ok (.mul (w.extractLsb' 19 6) (w.extractLsb' 13 6) (w.extractLsb' 7 6) (w.getLsbD 6) (w.getLsbD 5))
  | 3 => .ok (.mulh (w.extractLsb' 19 6) (w.extractLsb' 13 6) (w.extractLsb' 7 6) (w.getLsbD 6) (w.getLsbD 5))
  | 4 => .ok (.mulhu (w.extractLsb' 19 6) (w.extractLsb' 13 6) (w.extractLsb' 7 6) (w.getLsbD 6) (w.getLsbD 5))
  | 5 => .ok (.div (w.extractLsb' 19 6) (w.extractLsb' 13 6) (w.extractLsb' 7 6) (w.getLsbD 6) (w.getLsbD 5))
  | 6 => .ok (.divu (w.extractLsb' 19 6) (w.extractLsb' 13 6) (w.extractLsb' 7 6) (w.getLsbD 6) (w.getLsbD 5))
  | 7 => .ok (.rem (w.extractLsb' 19 6) (w.extractLsb' 13 6) (w.extractLsb' 7 6) (w.getLsbD 6) (w.getLsbD 5))
  | 8 => .ok (.remu (w.extractLsb' 19 6) (w.extractLsb' 13 6) (w.extractLsb' 7 6) (w.getLsbD 6) (w.getLsbD 5))
  | 9 => .ok (.and (w.extractLsb' 19 6) (w.extractLsb' 13 6) (w.extractLsb' 7 6) (w.getLsbD 6) (w.getLsbD 5))
  | 10 => .ok (.or (w.extractLsb' 19 6) (w.extractLsb' 13 6) (w.extractLsb' 7 6) (w.getLsbD 6) (w.getLsbD 5))
  | 11 => .ok (.xor (w.extractLsb' 19 6) (w.extractLsb' 13 6) (w.extractLsb' 7 6) (w.getLsbD 6) (w.getLsbD 5))
  | 12 => .ok (.andn (w.extractLsb' 19 6) (w.extractLsb' 13 6) (w.extractLsb' 7 6) (w.getLsbD 6) (w.getLsbD 5))
  | 13 => .ok (.orn (w.extractLsb' 19 6) (w.extractLsb' 13 6) (w.extractLsb' 7 6) (w.getLsbD 6) (w.getLsbD 5))
  | 14 => .ok (.shl (w.extractLsb' 19 6) (w.extractLsb' 13 6) (w.extractLsb' 7 6) (w.getLsbD 6) (w.getLsbD 5))
  | 15 => .ok (.shr (w.extractLsb' 19 6) (w.extractLsb' 13 6) (w.extractLsb' 7 6) (w.getLsbD 6) (w.getLsbD 5))
  | 16 => .ok (.sar (w.extractLsb' 19 6) (w.extractLsb' 13 6) (w.extractLsb' 7 6) (w.getLsbD 6) (w.getLsbD 5))
  | 17 => .ok (.rotl (w.extractLsb' 19 6) (w.extractLsb' 13 6) (w.extractLsb' 7 6) (w.getLsbD 6) (w.getLsbD 5))
  | 18 => .ok (.min (w.extractLsb' 19 6) (w.extractLsb' 13 6) (w.extractLsb' 7 6) (w.getLsbD 6) (w.getLsbD 5))
  | 19 => .ok (.max (w.extractLsb' 19 6) (w.extractLsb' 13 6) (w.extractLsb' 7 6) (w.getLsbD 6) (w.getLsbD 5))
  | 20 => .ok (.minu (w.extractLsb' 19 6) (w.extractLsb' 13 6) (w.extractLsb' 7 6) (w.getLsbD 6) (w.getLsbD 5))
  | 21 => .ok (.maxu (w.extractLsb' 19 6) (w.extractLsb' 13 6) (w.extractLsb' 7 6) (w.getLsbD 6) (w.getLsbD 5))
  | 22 => .ok (.adds (w.extractLsb' 19 6) (w.extractLsb' 13 6) (w.extractLsb' 7 6) (w.getLsbD 6) (w.getLsbD 5))
  | 23 => .ok (.subs (w.extractLsb' 19 6) (w.extractLsb' 13 6) (w.extractLsb' 7 6) (w.getLsbD 6) (w.getLsbD 5))
  | 24 => .ok (.addus (w.extractLsb' 19 6) (w.extractLsb' 13 6) (w.extractLsb' 7 6) (w.getLsbD 6) (w.getLsbD 5))
  | 25 => .ok (.subus (w.extractLsb' 19 6) (w.extractLsb' 13 6) (w.extractLsb' 7 6) (w.getLsbD 6) (w.getLsbD 5))
  | 26 => .ok (.lea1 (w.extractLsb' 19 6) (w.extractLsb' 13 6) (w.extractLsb' 7 6) (w.getLsbD 6) (w.getLsbD 5))
  | 27 => .ok (.lea2 (w.extractLsb' 19 6) (w.extractLsb' 13 6) (w.extractLsb' 7 6) (w.getLsbD 6) (w.getLsbD 5))
  | 28 => .ok (.lea3 (w.extractLsb' 19 6) (w.extractLsb' 13 6) (w.extractLsb' 7 6) (w.getLsbD 6) (w.getLsbD 5))
  | 29 => .ok (.lea4 (w.extractLsb' 19 6) (w.extractLsb' 13 6) (w.extractLsb' 7 6) (w.getLsbD 6) (w.getLsbD 5))
  | _ => .illegal

/-- MAJ 0x02 (R66). -/
def decInt64 (w : Word) : Decoded :=
  match (w.extractLsb' 0 5).toNat with
  | 0 => .ok (.addD (w.extractLsb' 19 6) (w.extractLsb' 13 6) (w.extractLsb' 7 6) (w.getLsbD 6) (w.getLsbD 5))
  | 1 => .ok (.subD (w.extractLsb' 19 6) (w.extractLsb' 13 6) (w.extractLsb' 7 6) (w.getLsbD 6) (w.getLsbD 5))
  | 2 => .ok (.mulD (w.extractLsb' 19 6) (w.extractLsb' 13 6) (w.extractLsb' 7 6) (w.getLsbD 6) (w.getLsbD 5))
  | 3 => .ok (.mulhD (w.extractLsb' 19 6) (w.extractLsb' 13 6) (w.extractLsb' 7 6) (w.getLsbD 6) (w.getLsbD 5))
  | 4 => .ok (.mulhuD (w.extractLsb' 19 6) (w.extractLsb' 13 6) (w.extractLsb' 7 6) (w.getLsbD 6) (w.getLsbD 5))
  | 5 => .ok (.andD (w.extractLsb' 19 6) (w.extractLsb' 13 6) (w.extractLsb' 7 6) (w.getLsbD 6) (w.getLsbD 5))
  | 6 => .ok (.orD (w.extractLsb' 19 6) (w.extractLsb' 13 6) (w.extractLsb' 7 6) (w.getLsbD 6) (w.getLsbD 5))
  | 7 => .ok (.xorD (w.extractLsb' 19 6) (w.extractLsb' 13 6) (w.extractLsb' 7 6) (w.getLsbD 6) (w.getLsbD 5))
  | 8 => .ok (.shlD (w.extractLsb' 19 6) (w.extractLsb' 13 6) (w.extractLsb' 7 6) (w.getLsbD 6) (w.getLsbD 5))
  | 9 => .ok (.shrD (w.extractLsb' 19 6) (w.extractLsb' 13 6) (w.extractLsb' 7 6) (w.getLsbD 6) (w.getLsbD 5))
  | 10 => .ok (.sarD (w.extractLsb' 19 6) (w.extractLsb' 13 6) (w.extractLsb' 7 6) (w.getLsbD 6) (w.getLsbD 5))
  | 11 => .ok (.minD (w.extractLsb' 19 6) (w.extractLsb' 13 6) (w.extractLsb' 7 6) (w.getLsbD 6) (w.getLsbD 5))
  | 12 => .ok (.maxD (w.extractLsb' 19 6) (w.extractLsb' 13 6) (w.extractLsb' 7 6) (w.getLsbD 6) (w.getLsbD 5))
  | 13 => .ok (.minuD (w.extractLsb' 19 6) (w.extractLsb' 13 6) (w.extractLsb' 7 6) (w.getLsbD 6) (w.getLsbD 5))
  | 14 => .ok (.maxuD (w.extractLsb' 19 6) (w.extractLsb' 13 6) (w.extractLsb' 7 6) (w.getLsbD 6) (w.getLsbD 5))
  | 15 => .ok (.addwD (w.extractLsb' 19 6) (w.extractLsb' 13 6) (w.extractLsb' 7 6) (w.getLsbD 6) (w.getLsbD 5))
  | 16 => .ok (.adduwD (w.extractLsb' 19 6) (w.extractLsb' 13 6) (w.extractLsb' 7 6) (w.getLsbD 6) (w.getLsbD 5))
  | 17 => .ok (.mulwD (w.extractLsb' 19 6) (w.extractLsb' 13 6) (w.extractLsb' 7 6) (w.getLsbD 6) (w.getLsbD 5))
  | 18 => .ok (.muluwD (w.extractLsb' 19 6) (w.extractLsb' 13 6) (w.extractLsb' 7 6) (w.getLsbD 6) (w.getLsbD 5))
  | _ => .illegal

/-- MAJ 0x03 (R66). -/
def decInt1 (w : Word) : Decoded :=
  match (w.extractLsb' 0 5).toNat with
  | 0 => if w.extractLsb' 5 1 = 0#1 ∧ w.extractLsb' 7 6 = 0#6 then .ok (.mov (w.extractLsb' 19 6) (w.extractLsb' 13 6) (w.getLsbD 6)) else .badField
  | 1 => if w.extractLsb' 5 1 = 0#1 ∧ w.extractLsb' 7 6 = 0#6 then .ok (.not (w.extractLsb' 19 6) (w.extractLsb' 13 6) (w.getLsbD 6)) else .badField
  | 2 => if w.extractLsb' 5 1 = 0#1 ∧ w.extractLsb' 7 6 = 0#6 then .ok (.neg (w.extractLsb' 19 6) (w.extractLsb' 13 6) (w.getLsbD 6)) else .badField
  | 3 => if w.extractLsb' 5 1 = 0#1 ∧ w.extractLsb' 7 6 = 0#6 then .ok (.abs (w.extractLsb' 19 6) (w.extractLsb' 13 6) (w.getLsbD 6)) else .badField
  | 4 => if w.extractLsb' 5 1 = 0#1 ∧ w.extractLsb' 7 6 = 0#6 then .ok (.clz (w.extractLsb' 19 6) (w.extractLsb' 13 6) (w.getLsbD 6)) else .badField
  | 5 => if w.extractLsb' 5 1 = 0#1 ∧ w.extractLsb' 7 6 = 0#6 then .ok (.ctz (w.extractLsb' 19 6) (w.extractLsb' 13 6) (w.getLsbD 6)) else .badField
  | 6 => if w.extractLsb' 5 1 = 0#1 ∧ w.extractLsb' 7 6 = 0#6 then .ok (.popc (w.extractLsb' 19 6) (w.extractLsb' 13 6) (w.getLsbD 6)) else .badField
  | 7 => if w.extractLsb' 5 1 = 0#1 ∧ w.extractLsb' 7 6 = 0#6 then .ok (.brev (w.extractLsb' 19 6) (w.extractLsb' 13 6) (w.getLsbD 6)) else .badField
  | 8 => if w.extractLsb' 5 1 = 0#1 ∧ w.extractLsb' 7 6 = 0#6 then .ok (.bswap (w.extractLsb' 19 6) (w.extractLsb' 13 6) (w.getLsbD 6)) else .badField
  | 9 => if w.extractLsb' 5 1 = 0#1 ∧ w.extractLsb' 7 6 = 0#6 then .ok (.sextb (w.extractLsb' 19 6) (w.extractLsb' 13 6) (w.getLsbD 6)) else .badField
  | 10 => if w.extractLsb' 5 1 = 0#1 ∧ w.extractLsb' 7 6 = 0#6 then .ok (.sexth (w.extractLsb' 19 6) (w.extractLsb' 13 6) (w.getLsbD 6)) else .badField
  | 11 => if w.extractLsb' 5 1 = 0#1 ∧ w.extractLsb' 7 6 = 0#6 then .ok (.zextb (w.extractLsb' 19 6) (w.extractLsb' 13 6) (w.getLsbD 6)) else .badField
  | 12 => if w.extractLsb' 5 1 = 0#1 ∧ w.extractLsb' 7 6 = 0#6 then .ok (.zexth (w.extractLsb' 19 6) (w.extractLsb' 13 6) (w.getLsbD 6)) else .badField
  | 13 => if w.extractLsb' 5 1 = 0#1 ∧ w.extractLsb' 7 6 = 0#6 then .ok (.movD (w.extractLsb' 19 6) (w.extractLsb' 13 6) (w.getLsbD 6)) else .badField
  | 14 => if w.extractLsb' 5 1 = 0#1 ∧ w.extractLsb' 7 6 = 0#6 then .ok (.clzD (w.extractLsb' 19 6) (w.extractLsb' 13 6) (w.getLsbD 6)) else .badField
  | 15 => if w.extractLsb' 5 1 = 0#1 ∧ w.extractLsb' 7 6 = 0#6 then .ok (.popcD (w.extractLsb' 19 6) (w.extractLsb' 13 6) (w.getLsbD 6)) else .badField
  | 16 => if w.extractLsb' 5 1 = 0#1 ∧ w.extractLsb' 7 6 = 0#6 then .ok (.sextD (w.extractLsb' 19 6) (w.extractLsb' 13 6) (w.getLsbD 6)) else .badField
  | 17 => if w.extractLsb' 5 1 = 0#1 ∧ w.extractLsb' 7 6 = 0#6 then .ok (.zextD (w.extractLsb' 19 6) (w.extractLsb' 13 6) (w.getLsbD 6)) else .badField
  | _ => .illegal

/-- MAJ 0x04 (R66). -/
def decCmp (w : Word) : Decoded :=
  match (w.extractLsb' 0 5).toNat with
  | 0 => .ok (.eq (w.extractLsb' 19 6) (w.extractLsb' 13 6) (w.extractLsb' 7 6) (w.getLsbD 6) (w.getLsbD 5))
  | 1 => .ok (.ne (w.extractLsb' 19 6) (w.extractLsb' 13 6) (w.extractLsb' 7 6) (w.getLsbD 6) (w.getLsbD 5))
  | 2 => .ok (.lt (w.extractLsb' 19 6) (w.extractLsb' 13 6) (w.extractLsb' 7 6) (w.getLsbD 6) (w.getLsbD 5))
  | 3 => .ok (.le (w.extractLsb' 19 6) (w.extractLsb' 13 6) (w.extractLsb' 7 6) (w.getLsbD 6) (w.getLsbD 5))
  | 4 => .ok (.ltu (w.extractLsb' 19 6) (w.extractLsb' 13 6) (w.extractLsb' 7 6) (w.getLsbD 6) (w.getLsbD 5))
  | 5 => .ok (.leu (w.extractLsb' 19 6) (w.extractLsb' 13 6) (w.extractLsb' 7 6) (w.getLsbD 6) (w.getLsbD 5))
  | 6 => .ok (.eqD (w.extractLsb' 19 6) (w.extractLsb' 13 6) (w.extractLsb' 7 6) (w.getLsbD 6) (w.getLsbD 5))
  | 7 => .ok (.neD (w.extractLsb' 19 6) (w.extractLsb' 13 6) (w.extractLsb' 7 6) (w.getLsbD 6) (w.getLsbD 5))
  | 8 => .ok (.ltD (w.extractLsb' 19 6) (w.extractLsb' 13 6) (w.extractLsb' 7 6) (w.getLsbD 6) (w.getLsbD 5))
  | 9 => .ok (.leD (w.extractLsb' 19 6) (w.extractLsb' 13 6) (w.extractLsb' 7 6) (w.getLsbD 6) (w.getLsbD 5))
  | 10 => .ok (.ltuD (w.extractLsb' 19 6) (w.extractLsb' 13 6) (w.extractLsb' 7 6) (w.getLsbD 6) (w.getLsbD 5))
  | 11 => .ok (.leuD (w.extractLsb' 19 6) (w.extractLsb' 13 6) (w.extractLsb' 7 6) (w.getLsbD 6) (w.getLsbD 5))
  | 12 => .ok (.tst (w.extractLsb' 19 6) (w.extractLsb' 13 6) (w.extractLsb' 7 6) (w.getLsbD 6) (w.getLsbD 5))
  | 13 => .ok (.tstz (w.extractLsb' 19 6) (w.extractLsb' 13 6) (w.extractLsb' 7 6) (w.getLsbD 6) (w.getLsbD 5))
  | _ => .illegal

/-- MAJ 0x05 (R66). -/
def decSel (w : Word) : Decoded :=
  match (w.extractLsb' 0 2).toNat with
  | 0 => .ok (.sel (w.extractLsb' 19 6) (w.extractLsb' 13 6) (w.extractLsb' 7 6) (w.extractLsb' 3 4) (w.getLsbD 2))
  | 1 => .ok (.selD (w.extractLsb' 19 6) (w.extractLsb' 13 6) (w.extractLsb' 7 6) (w.extractLsb' 3 4) (w.getLsbD 2))
  | 2 => .ok (.selY (w.extractLsb' 19 6) (w.extractLsb' 13 6) (w.extractLsb' 7 6) (w.extractLsb' 3 4) (w.getLsbD 2))
  | _ => .illegal

/-- MAJ 0x06 (R66). -/
def decPlog (w : Word) : Decoded :=
  match (w.extractLsb' 0 5).toNat with
  | 0 => if w.extractLsb' 5 2 = 0#2 then .ok (.pand (w.extractLsb' 19 6) (w.extractLsb' 13 6) (w.extractLsb' 7 6)) else .badField
  | 1 => if w.extractLsb' 5 2 = 0#2 then .ok (.por (w.extractLsb' 19 6) (w.extractLsb' 13 6) (w.extractLsb' 7 6)) else .badField
  | 2 => if w.extractLsb' 5 2 = 0#2 then .ok (.pxor (w.extractLsb' 19 6) (w.extractLsb' 13 6) (w.extractLsb' 7 6)) else .badField
  | 3 => if w.extractLsb' 5 2 = 0#2 then .ok (.pandn (w.extractLsb' 19 6) (w.extractLsb' 13 6) (w.extractLsb' 7 6)) else .badField
  | 4 => if w.extractLsb' 5 8 = 0#8 then .ok (.pnot (w.extractLsb' 19 6) (w.extractLsb' 13 6)) else .badField
  | 5 => if w.extractLsb' 5 8 = 0#8 then .ok (.pmov (w.extractLsb' 19 6) (w.extractLsb' 13 6)) else .badField
  | 6 => if w.extractLsb' 5 14 = 0#14 then .ok (.p2w (w.extractLsb' 19 6)) else .badField
  | 7 => if w.extractLsb' 5 1 = 0#1 ∧ w.extractLsb' 7 6 = 0#6 ∧ w.extractLsb' 19 6 = 0#6 then .ok (.w2p (w.extractLsb' 13 6) (w.getLsbD 6)) else .badField
  | 8 => if w.extractLsb' 5 14 = 0#14 then .ok (.pset (w.extractLsb' 19 6)) else .badField
  | 9 => if w.extractLsb' 5 14 = 0#14 then .ok (.pclr (w.extractLsb' 19 6)) else .badField
  | _ => .illegal

/-- MAJ 0x07 (R66). -/
def decAddi (w : Word) : Decoded :=
  .ok (.addi (w.extractLsb' 19 6) (w.extractLsb' 13 6) (w.getLsbD 12) (w.extractLsb' 0 12))

/-- MAJ 0x08 (R66). -/
def decAndi (w : Word) : Decoded :=
  .ok (.andi (w.extractLsb' 19 6) (w.extractLsb' 13 6) (w.getLsbD 12) (w.extractLsb' 0 12))

/-- MAJ 0x09 (R66). -/
def decOri (w : Word) : Decoded :=
  .ok (.ori (w.extractLsb' 19 6) (w.extractLsb' 13 6) (w.getLsbD 12) (w.extractLsb' 0 12))

/-- MAJ 0x0A (R66). -/
def decXori (w : Word) : Decoded :=
  .ok (.xori (w.extractLsb' 19 6) (w.extractLsb' 13 6) (w.getLsbD 12) (w.extractLsb' 0 12))

/-- MAJ 0x0B (R66). -/
def decShifti (w : Word) : Decoded :=
  match (w.extractLsb' 9 3).toNat with
  | 0 => if w.extractLsb' 6 3 = 0#3 then .ok (.shli (w.extractLsb' 19 6) (w.extractLsb' 13 6) (w.getLsbD 12) (w.extractLsb' 0 6)) else .badField
  | 2 => if w.extractLsb' 6 3 = 0#3 then .ok (.shri (w.extractLsb' 19 6) (w.extractLsb' 13 6) (w.getLsbD 12) (w.extractLsb' 0 6)) else .badField
  | 4 => if w.extractLsb' 6 3 = 0#3 then .ok (.sari (w.extractLsb' 19 6) (w.extractLsb' 13 6) (w.getLsbD 12) (w.extractLsb' 0 6)) else .badField
  | 6 => if w.extractLsb' 6 3 = 0#3 then .ok (.rotli (w.extractLsb' 19 6) (w.extractLsb' 13 6) (w.getLsbD 12) (w.extractLsb' 0 6)) else .badField
  | 1 => if w.extractLsb' 6 3 = 0#3 then .ok (.shliD (w.extractLsb' 19 6) (w.extractLsb' 13 6) (w.getLsbD 12) (w.extractLsb' 0 6)) else .badField
  | 3 => if w.extractLsb' 6 3 = 0#3 then .ok (.shriD (w.extractLsb' 19 6) (w.extractLsb' 13 6) (w.getLsbD 12) (w.extractLsb' 0 6)) else .badField
  | 5 => if w.extractLsb' 6 3 = 0#3 then .ok (.sariD (w.extractLsb' 19 6) (w.extractLsb' 13 6) (w.getLsbD 12) (w.extractLsb' 0 6)) else .badField
  | 7 => if w.extractLsb' 6 3 = 0#3 then .ok (.rotliD (w.extractLsb' 19 6) (w.extractLsb' 13 6) (w.getLsbD 12) (w.extractLsb' 0 6)) else .badField
  | _ => .illegal

/-- MAJ 0x0C (R66). -/
def decCmpi (w : Word) : Decoded :=
  match (w.extractLsb' 9 3).toNat with
  | 0 => .ok (.cmpiEq (w.extractLsb' 19 6) (w.extractLsb' 13 6) (w.getLsbD 12) (w.extractLsb' 0 9))
  | 1 => .ok (.cmpiNe (w.extractLsb' 19 6) (w.extractLsb' 13 6) (w.getLsbD 12) (w.extractLsb' 0 9))
  | 2 => .ok (.cmpiLt (w.extractLsb' 19 6) (w.extractLsb' 13 6) (w.getLsbD 12) (w.extractLsb' 0 9))
  | 3 => .ok (.cmpiLe (w.extractLsb' 19 6) (w.extractLsb' 13 6) (w.getLsbD 12) (w.extractLsb' 0 9))
  | 4 => .ok (.cmpiLtu (w.extractLsb' 19 6) (w.extractLsb' 13 6) (w.getLsbD 12) (w.extractLsb' 0 9))
  | 5 => .ok (.cmpiLeu (w.extractLsb' 19 6) (w.extractLsb' 13 6) (w.getLsbD 12) (w.extractLsb' 0 9))
  | 6 => .ok (.cmpiGt (w.extractLsb' 19 6) (w.extractLsb' 13 6) (w.getLsbD 12) (w.extractLsb' 0 9))
  | 7 => .ok (.cmpiGe (w.extractLsb' 19 6) (w.extractLsb' 13 6) (w.getLsbD 12) (w.extractLsb' 0 9))
  | _ => .illegal

/-- MAJ 0x0D (R66). -/
def decLi (w : Word) : Decoded :=
  .ok (.li (w.extractLsb' 19 6) (w.extractLsb' 0 19))

/-- MAJ 0x0E (R66). -/
def decLih (w : Word) : Decoded :=
  .ok (.lih (w.extractLsb' 19 6) (w.extractLsb' 0 19))

/-- MAJ 0x0F (R66). -/
def decLd (w : Word) : Decoded :=
  match (w.extractLsb' 8 4).toNat with
  | 0 => .ok (.ldB (w.extractLsb' 19 6) (w.extractLsb' 13 6) (w.getLsbD 12) (w.extractLsb' 0 8))
  | 1 => .ok (.ldBs (w.extractLsb' 19 6) (w.extractLsb' 13 6) (w.getLsbD 12) (w.extractLsb' 0 8))
  | 2 => .ok (.ldH (w.extractLsb' 19 6) (w.extractLsb' 13 6) (w.getLsbD 12) (w.extractLsb' 0 8))
  | 3 => .ok (.ldHs (w.extractLsb' 19 6) (w.extractLsb' 13 6) (w.getLsbD 12) (w.extractLsb' 0 8))
  | 4 => .ok (.ldW (w.extractLsb' 19 6) (w.extractLsb' 13 6) (w.getLsbD 12) (w.extractLsb' 0 8))
  | 5 => .ok (.ldD (w.extractLsb' 19 6) (w.extractLsb' 13 6) (w.getLsbD 12) (w.extractLsb' 0 8))
  | 6 => .ok (.ldQ (w.extractLsb' 19 6) (w.extractLsb' 13 6) (w.getLsbD 12) (w.extractLsb' 0 8))
  | _ => .illegal

/-- MAJ 0x10 (R66). -/
def decSt (w : Word) : Decoded :=
  match (w.extractLsb' 8 4).toNat with
  | 0 => .ok (.stB (w.extractLsb' 19 6) (w.extractLsb' 13 6) (w.getLsbD 12) (w.extractLsb' 0 8))
  | 2 => .ok (.stH (w.extractLsb' 19 6) (w.extractLsb' 13 6) (w.getLsbD 12) (w.extractLsb' 0 8))
  | 4 => .ok (.stW (w.extractLsb' 19 6) (w.extractLsb' 13 6) (w.getLsbD 12) (w.extractLsb' 0 8))
  | 5 => .ok (.stD (w.extractLsb' 19 6) (w.extractLsb' 13 6) (w.getLsbD 12) (w.extractLsb' 0 8))
  | 6 => .ok (.stQ (w.extractLsb' 19 6) (w.extractLsb' 13 6) (w.getLsbD 12) (w.extractLsb' 0 8))
  | _ => .illegal

/-- MAJ 0x11 (R66). -/
def decLds (w : Word) : Decoded :=
  match (w.extractLsb' 8 4).toNat with
  | 0 => .ok (.ldsB (w.extractLsb' 19 6) (w.extractLsb' 13 6) (w.getLsbD 12) (w.extractLsb' 0 8))
  | 1 => .ok (.ldsBs (w.extractLsb' 19 6) (w.extractLsb' 13 6) (w.getLsbD 12) (w.extractLsb' 0 8))
  | 2 => .ok (.ldsH (w.extractLsb' 19 6) (w.extractLsb' 13 6) (w.getLsbD 12) (w.extractLsb' 0 8))
  | 3 => .ok (.ldsHs (w.extractLsb' 19 6) (w.extractLsb' 13 6) (w.getLsbD 12) (w.extractLsb' 0 8))
  | 4 => .ok (.ldsW (w.extractLsb' 19 6) (w.extractLsb' 13 6) (w.getLsbD 12) (w.extractLsb' 0 8))
  | 5 => .ok (.ldsD (w.extractLsb' 19 6) (w.extractLsb' 13 6) (w.getLsbD 12) (w.extractLsb' 0 8))
  | 6 => .ok (.ldsQ (w.extractLsb' 19 6) (w.extractLsb' 13 6) (w.getLsbD 12) (w.extractLsb' 0 8))
  | _ => .illegal

/-- MAJ 0x12 (R66). -/
def decSts (w : Word) : Decoded :=
  match (w.extractLsb' 8 4).toNat with
  | 0 => .ok (.stsB (w.extractLsb' 19 6) (w.extractLsb' 13 6) (w.getLsbD 12) (w.extractLsb' 0 8))
  | 2 => .ok (.stsH (w.extractLsb' 19 6) (w.extractLsb' 13 6) (w.getLsbD 12) (w.extractLsb' 0 8))
  | 4 => .ok (.stsW (w.extractLsb' 19 6) (w.extractLsb' 13 6) (w.getLsbD 12) (w.extractLsb' 0 8))
  | 5 => .ok (.stsD (w.extractLsb' 19 6) (w.extractLsb' 13 6) (w.getLsbD 12) (w.extractLsb' 0 8))
  | 6 => .ok (.stsQ (w.extractLsb' 19 6) (w.extractLsb' 13 6) (w.getLsbD 12) (w.extractLsb' 0 8))
  | _ => .illegal

/-- MAJ 0x13 (R66). -/
def decLdy (w : Word) : Decoded :=
  .ok (.ldy (w.extractLsb' 19 6) (w.extractLsb' 13 6) (w.getLsbD 12) (w.extractLsb' 8 4) (w.extractLsb' 0 8))

/-- MAJ 0x14 (R66). -/
def decSty (w : Word) : Decoded :=
  .ok (.sty (w.extractLsb' 19 6) (w.extractLsb' 13 6) (w.getLsbD 12) (w.extractLsb' 8 4) (w.extractLsb' 0 8))

/-- MAJ 0x15 (R66). -/
def decLdc (w : Word) : Decoded :=
  match (w.extractLsb' 8 4).toNat with
  | 0 => .ok (.ldcFp32 (w.extractLsb' 19 6) (w.extractLsb' 13 6) (w.getLsbD 12) (w.extractLsb' 0 8))
  | 1 => .ok (.ldcBf16 (w.extractLsb' 19 6) (w.extractLsb' 13 6) (w.getLsbD 12) (w.extractLsb' 0 8))
  | 2 => .ok (.ldcFp16 (w.extractLsb' 19 6) (w.extractLsb' 13 6) (w.getLsbD 12) (w.extractLsb' 0 8))
  | 3 => .ok (.ldcE4m3 (w.extractLsb' 19 6) (w.extractLsb' 13 6) (w.getLsbD 12) (w.extractLsb' 0 8))
  | 4 => .ok (.ldcE5m2 (w.extractLsb' 19 6) (w.extractLsb' 13 6) (w.getLsbD 12) (w.extractLsb' 0 8))
  | 5 => .ok (.ldcInt32 (w.extractLsb' 19 6) (w.extractLsb' 13 6) (w.getLsbD 12) (w.extractLsb' 0 8))
  | 6 => .ok (.ldcUint32 (w.extractLsb' 19 6) (w.extractLsb' 13 6) (w.getLsbD 12) (w.extractLsb' 0 8))
  | 7 => .ok (.ldcInt8 (w.extractLsb' 19 6) (w.extractLsb' 13 6) (w.getLsbD 12) (w.extractLsb' 0 8))
  | 8 => .ok (.ldcUint8 (w.extractLsb' 19 6) (w.extractLsb' 13 6) (w.getLsbD 12) (w.extractLsb' 0 8))
  | _ => .illegal

/-- MAJ 0x16 (R66). -/
def decStc (w : Word) : Decoded :=
  match (w.extractLsb' 8 4).toNat with
  | 0 => .ok (.stcFp32 (w.extractLsb' 19 6) (w.extractLsb' 13 6) (w.getLsbD 12) (w.extractLsb' 0 8))
  | 1 => .ok (.stcBf16 (w.extractLsb' 19 6) (w.extractLsb' 13 6) (w.getLsbD 12) (w.extractLsb' 0 8))
  | 2 => .ok (.stcFp16 (w.extractLsb' 19 6) (w.extractLsb' 13 6) (w.getLsbD 12) (w.extractLsb' 0 8))
  | 3 => .ok (.stcE4m3 (w.extractLsb' 19 6) (w.extractLsb' 13 6) (w.getLsbD 12) (w.extractLsb' 0 8))
  | 4 => .ok (.stcE5m2 (w.extractLsb' 19 6) (w.extractLsb' 13 6) (w.getLsbD 12) (w.extractLsb' 0 8))
  | 5 => .ok (.stcInt32 (w.extractLsb' 19 6) (w.extractLsb' 13 6) (w.getLsbD 12) (w.extractLsb' 0 8))
  | 6 => .ok (.stcUint32 (w.extractLsb' 19 6) (w.extractLsb' 13 6) (w.getLsbD 12) (w.extractLsb' 0 8))
  | 7 => .ok (.stcInt8 (w.extractLsb' 19 6) (w.extractLsb' 13 6) (w.getLsbD 12) (w.extractLsb' 0 8))
  | 8 => .ok (.stcUint8 (w.extractLsb' 19 6) (w.extractLsb' 13 6) (w.getLsbD 12) (w.extractLsb' 0 8))
  | _ => .illegal

/-- MAJ 0x2D (R66). -/
noncomputable def decLdf (w : Word) : Decoded :=
  match (w.extractLsb' 8 4).toNat with
  | 0 => .ok (.ldf (w.extractLsb' 19 6) (w.extractLsb' 13 6) (w.getLsbD 12) (w.extractLsb' 0 8))
  | 1 => .ok (.ldfCons (w.extractLsb' 19 6) (w.extractLsb' 13 6) (w.getLsbD 12) (w.extractLsb' 0 8))
  | _ => .illegal

/-- MAJ 0x2E (R66). -/
noncomputable def decStf (w : Word) : Decoded :=
  match (w.extractLsb' 8 4).toNat with
  | 0 => .ok (.stf (w.extractLsb' 19 6) (w.extractLsb' 13 6) (w.getLsbD 12) (w.extractLsb' 0 8))
  | _ => .illegal

/-- MAJ 0x17 (R66). -/
def decYop3 (w : Word) : Decoded :=
  match (w.extractLsb' 0 5).toNat with
  | 0 => .ok (.yadd (w.extractLsb' 19 6) (w.extractLsb' 13 6) (w.extractLsb' 7 6) (w.getLsbD 6) (w.getLsbD 5))
  | 1 => .ok (.ysub (w.extractLsb' 19 6) (w.extractLsb' 13 6) (w.extractLsb' 7 6) (w.getLsbD 6) (w.getLsbD 5))
  | 2 => .ok (.ymul (w.extractLsb' 19 6) (w.extractLsb' 13 6) (w.extractLsb' 7 6) (w.getLsbD 6) (w.getLsbD 5))
  | 3 => .ok (.ydiv (w.extractLsb' 19 6) (w.extractLsb' 13 6) (w.extractLsb' 7 6) (w.getLsbD 6) (w.getLsbD 5))
  | 4 => .ok (.ymin (w.extractLsb' 19 6) (w.extractLsb' 13 6) (w.extractLsb' 7 6) (w.getLsbD 6) (w.getLsbD 5))
  | 5 => .ok (.ymax (w.extractLsb' 19 6) (w.extractLsb' 13 6) (w.extractLsb' 7 6) (w.getLsbD 6) (w.getLsbD 5))
  | 6 => .ok (.yminm (w.extractLsb' 19 6) (w.extractLsb' 13 6) (w.extractLsb' 7 6) (w.getLsbD 6) (w.getLsbD 5))
  | 7 => .ok (.ymaxm (w.extractLsb' 19 6) (w.extractLsb' 13 6) (w.extractLsb' 7 6) (w.getLsbD 6) (w.getLsbD 5))
  | 8 => .ok (.ycopysign (w.extractLsb' 19 6) (w.extractLsb' 13 6) (w.extractLsb' 7 6) (w.getLsbD 6) (w.getLsbD 5))
  | 9 => .ok (.yrem (w.extractLsb' 19 6) (w.extractLsb' 13 6) (w.extractLsb' 7 6) (w.getLsbD 6) (w.getLsbD 5))
  | 10 => .ok (.yscale (w.extractLsb' 19 6) (w.extractLsb' 13 6) (w.extractLsb' 7 6) (w.getLsbD 6) (w.getLsbD 5))
  | 11 => .ok (.yfma (w.extractLsb' 19 6) (w.extractLsb' 13 6) (w.extractLsb' 7 6) (w.getLsbD 6) (w.getLsbD 5))
  | 12 => .ok (.yfms (w.extractLsb' 19 6) (w.extractLsb' 13 6) (w.extractLsb' 7 6) (w.getLsbD 6) (w.getLsbD 5))
  | 13 => .ok (.yfnma (w.extractLsb' 19 6) (w.extractLsb' 13 6) (w.extractLsb' 7 6) (w.getLsbD 6) (w.getLsbD 5))
  | _ => .illegal

/-- MAJ 0x18 (R66). -/
def decYop1 (w : Word) : Decoded :=
  match (w.extractLsb' 0 5).toNat with
  | 0 => if w.extractLsb' 5 1 = 0#1 ∧ w.extractLsb' 7 6 = 0#6 then .ok (.ymov (w.extractLsb' 19 6) (w.extractLsb' 13 6) (w.getLsbD 6)) else .badField
  | 1 => if w.extractLsb' 5 1 = 0#1 ∧ w.extractLsb' 7 6 = 0#6 then .ok (.yneg (w.extractLsb' 19 6) (w.extractLsb' 13 6) (w.getLsbD 6)) else .badField
  | 2 => if w.extractLsb' 5 1 = 0#1 ∧ w.extractLsb' 7 6 = 0#6 then .ok (.yabs (w.extractLsb' 19 6) (w.extractLsb' 13 6) (w.getLsbD 6)) else .badField
  | 3 => if w.extractLsb' 5 1 = 0#1 ∧ w.extractLsb' 7 6 = 0#6 then .ok (.ysqrt (w.extractLsb' 19 6) (w.extractLsb' 13 6) (w.getLsbD 6)) else .badField
  | 4 => if w.extractLsb' 5 1 = 0#1 ∧ w.extractLsb' 7 6 = 0#6 then .ok (.yrint (w.extractLsb' 19 6) (w.extractLsb' 13 6) (w.getLsbD 6)) else .badField
  | 5 => if w.extractLsb' 5 1 = 0#1 ∧ w.extractLsb' 7 6 = 0#6 then .ok (.ytrunc (w.extractLsb' 19 6) (w.extractLsb' 13 6) (w.getLsbD 6)) else .badField
  | 6 => if w.extractLsb' 5 1 = 0#1 ∧ w.extractLsb' 7 6 = 0#6 then .ok (.ylogb (w.extractLsb' 19 6) (w.extractLsb' 13 6) (w.getLsbD 6)) else .badField
  | 7 => if w.extractLsb' 5 1 = 0#1 ∧ w.extractLsb' 7 6 = 0#6 then .ok (.yclass (w.extractLsb' 19 6) (w.extractLsb' 13 6) (w.getLsbD 6)) else .badField
  | 8 => if w.extractLsb' 5 1 = 0#1 ∧ w.extractLsb' 7 6 = 0#6 then .ok (.ysig (w.extractLsb' 19 6) (w.extractLsb' 13 6) (w.getLsbD 6)) else .badField
  | 9 => if w.extractLsb' 5 1 = 0#1 ∧ w.extractLsb' 7 6 = 0#6 then .ok (.ymant (w.extractLsb' 19 6) (w.extractLsb' 13 6) (w.getLsbD 6)) else .badField
  | 10 => if w.extractLsb' 5 1 = 0#1 ∧ w.extractLsb' 7 6 = 0#6 then .ok (.yrecip (w.extractLsb' 19 6) (w.extractLsb' 13 6) (w.getLsbD 6)) else .badField
  | 11 => if w.extractLsb' 5 1 = 0#1 ∧ w.extractLsb' 7 6 = 0#6 then .ok (.yrsqrt (w.extractLsb' 19 6) (w.extractLsb' 13 6) (w.getLsbD 6)) else .badField
  | _ => .illegal

/-- MAJ 0x19 (R66). -/
def decYcmp (w : Word) : Decoded :=
  match (w.extractLsb' 0 5).toNat with
  | 0 => .ok (.ycmpEq (w.extractLsb' 19 6) (w.extractLsb' 13 6) (w.extractLsb' 7 6) (w.getLsbD 6) (w.getLsbD 5))
  | 1 => .ok (.ycmpLt (w.extractLsb' 19 6) (w.extractLsb' 13 6) (w.extractLsb' 7 6) (w.getLsbD 6) (w.getLsbD 5))
  | 2 => .ok (.ycmpLe (w.extractLsb' 19 6) (w.extractLsb' 13 6) (w.extractLsb' 7 6) (w.getLsbD 6) (w.getLsbD 5))
  | 3 => .ok (.ycmpUn (w.extractLsb' 19 6) (w.extractLsb' 13 6) (w.extractLsb' 7 6) (w.getLsbD 6) (w.getLsbD 5))
  | 4 => .ok (.ycmpEqs (w.extractLsb' 19 6) (w.extractLsb' 13 6) (w.extractLsb' 7 6) (w.getLsbD 6) (w.getLsbD 5))
  | 5 => .ok (.ycmpLts (w.extractLsb' 19 6) (w.extractLsb' 13 6) (w.extractLsb' 7 6) (w.getLsbD 6) (w.getLsbD 5))
  | 6 => .ok (.ycmpLes (w.extractLsb' 19 6) (w.extractLsb' 13 6) (w.extractLsb' 7 6) (w.getLsbD 6) (w.getLsbD 5))
  | _ => .illegal

/-- MAJ 0x1A (R66). -/
def decYcvt (w : Word) : Decoded :=
  match (w.extractLsb' 0 5).toNat with
  | 0 => if w.extractLsb' 5 1 = 0#1 ∧ w.extractLsb' 7 6 = 0#6 then .ok (.ycvtYW (w.extractLsb' 19 6) (w.extractLsb' 13 6) (w.getLsbD 6)) else .badField
  | 1 => if w.extractLsb' 5 1 = 0#1 ∧ w.extractLsb' 7 6 = 0#6 then .ok (.ycvtYUw (w.extractLsb' 19 6) (w.extractLsb' 13 6) (w.getLsbD 6)) else .badField
  | 2 => if w.extractLsb' 5 1 = 0#1 ∧ w.extractLsb' 7 6 = 0#6 then .ok (.ycvtYD (w.extractLsb' 19 6) (w.extractLsb' 13 6) (w.getLsbD 6)) else .badField
  | 3 => if w.extractLsb' 5 1 = 0#1 ∧ w.extractLsb' 7 6 = 0#6 then .ok (.ycvtYUd (w.extractLsb' 19 6) (w.extractLsb' 13 6) (w.getLsbD 6)) else .badField
  | 4 => if w.extractLsb' 5 1 = 0#1 ∧ w.extractLsb' 7 6 = 0#6 then .ok (.ycvtWY (w.extractLsb' 19 6) (w.extractLsb' 13 6) (w.getLsbD 6)) else .badField
  | 5 => if w.extractLsb' 5 1 = 0#1 ∧ w.extractLsb' 7 6 = 0#6 then .ok (.ycvtUwY (w.extractLsb' 19 6) (w.extractLsb' 13 6) (w.getLsbD 6)) else .badField
  | 6 => if w.extractLsb' 5 1 = 0#1 ∧ w.extractLsb' 7 6 = 0#6 then .ok (.ycvtDY (w.extractLsb' 19 6) (w.extractLsb' 13 6) (w.getLsbD 6)) else .badField
  | 7 => if w.extractLsb' 5 1 = 0#1 ∧ w.extractLsb' 7 6 = 0#6 then .ok (.ycvtUdY (w.extractLsb' 19 6) (w.extractLsb' 13 6) (w.getLsbD 6)) else .badField
  | _ => .illegal

/-- MAJ 0x1B (R66). -/
def decPrc (w : Word) : Decoded :=
  match (w.extractLsb' 0 7).toNat with
  | 0 => if w.extractLsb' 7 6 = 0#6 ∧ w.extractLsb' 19 6 = 0#6 then .ok (.setprc (w.extractLsb' 13 6)) else .badField
  | 1 => if w.extractLsb' 7 12 = 0#12 then .ok (.getprc (w.extractLsb' 19 6)) else .badField
  | 2 => if w.extractLsb' 7 6 = 0#6 ∧ w.extractLsb' 19 6 = 0#6 then .ok (.setl (w.extractLsb' 13 6)) else .badField
  | 3 => if w.extractLsb' 7 6 = 0#6 ∧ w.extractLsb' 19 6 = 0#6 then .ok (.setrm (w.extractLsb' 13 6)) else .badField
  | 4 => if w.extractLsb' 7 12 = 0#12 then .ok (.getflags (w.extractLsb' 19 6)) else .badField
  | 5 => if w.extractLsb' 7 6 = 0#6 ∧ w.extractLsb' 19 6 = 0#6 then .ok (.clrflags (w.extractLsb' 13 6)) else .badField
  | 6 => if w.extractLsb' 7 12 = 0#12 then .ok (.rnd (w.extractLsb' 19 6)) else .badField
  | _ => .illegal

/-- MAJ 0x1C (R66). -/
def decBr (w : Word) : Decoded :=
  if w.extractLsb' 21 4 = 0#4 then (if w.getLsbD 20 then .illegal else .ok (.bra (w.extractLsb' 0 20)))
  else .ok (.br (w.extractLsb' 21 4) (w.getLsbD 20) (w.extractLsb' 0 20))

/-- MAJ 0x1D (R66). -/
def decCall (w : Word) : Decoded :=
  if w.extractLsb' 21 4 = 0#4 ∧ w.getLsbD 20 then .illegal
  else .ok (.call (w.extractLsb' 21 4) (w.getLsbD 20) (w.extractLsb' 0 20))

/-- MAJ 0x1E (R66). -/
def decJmpx (w : Word) : Decoded :=
  match (w.extractLsb' 0 7).toNat with
  | 0 => if w.extractLsb' 7 18 = 0#18 then .ok (.ret) else .badField
  | 1 => if w.extractLsb' 7 6 = 0#6 ∧ w.extractLsb' 19 6 = 0#6 then .ok (.callr (w.extractLsb' 13 6)) else .badField
  | 2 => if w.extractLsb' 7 6 = 0#6 ∧ w.extractLsb' 19 6 = 0#6 then .ok (.jmpr (w.extractLsb' 13 6)) else .badField
  | 3 => if w.extractLsb' 7 18 = 0#18 then .ok (.eret) else .badField
  | _ => .illegal

/-- MAJ 0x1F (R66). -/
def decEnter (w : Word) : Decoded :=
  if w.extractLsb' 12 1 = 0#1 then .ok (.enter (w.extractLsb' 19 6) (w.extractLsb' 13 6) (w.extractLsb' 0 12)) else .badField

/-- MAJ 0x20 (R66). -/
def decLoop (w : Word) : Decoded :=
  .ok (.loop (w.extractLsb' 19 6) (w.extractLsb' 0 19))

/-- MAJ 0x23 (R66). -/
def decFibr (w : Word) : Decoded :=
  match (w.extractLsb' 0 7).toNat with
  | 0 => if w.extractLsb' 7 18 = 0#18 then .ok (.endFibre) else .badField
  | 2 => .ok (.spawn (w.extractLsb' 19 6) (w.extractLsb' 13 6) (w.extractLsb' 7 6))
  | 3 => if w.extractLsb' 7 12 = 0#12 then .ok (.fid (w.extractLsb' 19 6)) else .badField
  | 4 => if w.extractLsb' 7 12 = 0#12 then .ok (.cid (w.extractLsb' 19 6)) else .badField
  | 5 => if w.extractLsb' 7 12 = 0#12 then .ok (.gid (w.extractLsb' 19 6)) else .badField
  | 6 => if w.extractLsb' 7 12 = 0#12 then .ok (.stg (w.extractLsb' 19 6)) else .badField
  | 7 => if w.extractLsb' 7 12 = 0#12 then .ok (.nid (w.extractLsb' 19 6)) else .badField
  | _ => .illegal

/-- MAJ 0x24 (R66). -/
def decYield (w : Word) : Decoded :=
  if w.extractLsb' 19 6 = 0#6 then .ok (.yield (w.extractLsb' 16 3) (w.extractLsb' 0 16)) else .badField

/-- MAJ 0x25 (R66). -/
def decColl (w : Word) : Decoded :=
  match (w.extractLsb' 0 7).toNat with
  | 0 => .ok (.shfl (w.extractLsb' 19 6) (w.extractLsb' 13 6) (w.extractLsb' 7 6))
  | 1 => .ok (.shflXor (w.extractLsb' 19 6) (w.extractLsb' 13 6) (w.extractLsb' 7 6))
  | 2 => .ok (.shflUp (w.extractLsb' 19 6) (w.extractLsb' 13 6) (w.extractLsb' 7 6))
  | 3 => .ok (.shflDown (w.extractLsb' 19 6) (w.extractLsb' 13 6) (w.extractLsb' 7 6))
  | 4 => .ok (.voteAny (w.extractLsb' 19 6) (w.extractLsb' 13 6) (w.extractLsb' 7 6))
  | 5 => .ok (.voteAll (w.extractLsb' 19 6) (w.extractLsb' 13 6) (w.extractLsb' 7 6))
  | 6 => .ok (.ballot (w.extractLsb' 19 6) (w.extractLsb' 13 6) (w.extractLsb' 7 6))
  | 7 => .ok (.reduxAdd (w.extractLsb' 19 6) (w.extractLsb' 13 6) (w.extractLsb' 7 6))
  | 8 => .ok (.reduxMin (w.extractLsb' 19 6) (w.extractLsb' 13 6) (w.extractLsb' 7 6))
  | 9 => .ok (.reduxMax (w.extractLsb' 19 6) (w.extractLsb' 13 6) (w.extractLsb' 7 6))
  | 10 => .ok (.reduxYadd (w.extractLsb' 19 6) (w.extractLsb' 13 6) (w.extractLsb' 7 6))
  | 11 => .ok (.matchLanes (w.extractLsb' 19 6) (w.extractLsb' 13 6) (w.extractLsb' 7 6))
  | 12 => if w.extractLsb' 13 6 = 0#6 then .ok (.present (w.extractLsb' 19 6) (w.extractLsb' 7 6)) else .badField
  | _ => .illegal

/-- MAJ 0x26 (R66). -/
noncomputable def decObj (w : Word) : Decoded :=
  match (w.extractLsb' 0 7).toNat with
  | 0 => .ok (.objInit (w.extractLsb' 19 6) (w.extractLsb' 13 6) (w.extractLsb' 7 6))
  | 1 => .ok (.objPush (w.extractLsb' 19 6) (w.extractLsb' 13 6) (w.extractLsb' 7 6))
  | 2 => .ok (.objPop (w.extractLsb' 19 6) (w.extractLsb' 13 6) (w.extractLsb' 7 6))
  | 3 => .ok (.objEnq (w.extractLsb' 19 6) (w.extractLsb' 13 6) (w.extractLsb' 7 6))
  | 4 => .ok (.objDeq (w.extractLsb' 19 6) (w.extractLsb' 13 6) (w.extractLsb' 7 6))
  | 5 => .ok (.objAdd (w.extractLsb' 19 6) (w.extractLsb' 13 6) (w.extractLsb' 7 6))
  | 6 => .ok (.objArrive (w.extractLsb' 19 6) (w.extractLsb' 13 6) (w.extractLsb' 7 6))
  | 7 => .ok (.objPeek (w.extractLsb' 19 6) (w.extractLsb' 13 6) (w.extractLsb' 7 6))
  | 8 => .ok (.objHelp (w.extractLsb' 19 6) (w.extractLsb' 13 6) (w.extractLsb' 7 6))
  | _ => .illegal

/-- MAJ 0x27 (R66). -/
noncomputable def decAmo (w : Word) : Decoded :=
  match (w.extractLsb' 0 4).toNat with
  | 0 => .ok (.amoAdd (w.extractLsb' 19 6) (w.extractLsb' 13 6) (w.extractLsb' 7 6) (w.extractLsb' 4 3))
  | 1 => .ok (.amoAnd (w.extractLsb' 19 6) (w.extractLsb' 13 6) (w.extractLsb' 7 6) (w.extractLsb' 4 3))
  | 2 => .ok (.amoOr (w.extractLsb' 19 6) (w.extractLsb' 13 6) (w.extractLsb' 7 6) (w.extractLsb' 4 3))
  | 3 => .ok (.amoXor (w.extractLsb' 19 6) (w.extractLsb' 13 6) (w.extractLsb' 7 6) (w.extractLsb' 4 3))
  | 4 => .ok (.amoMin (w.extractLsb' 19 6) (w.extractLsb' 13 6) (w.extractLsb' 7 6) (w.extractLsb' 4 3))
  | 5 => .ok (.amoMax (w.extractLsb' 19 6) (w.extractLsb' 13 6) (w.extractLsb' 7 6) (w.extractLsb' 4 3))
  | 6 => .ok (.amoMinu (w.extractLsb' 19 6) (w.extractLsb' 13 6) (w.extractLsb' 7 6) (w.extractLsb' 4 3))
  | 7 => .ok (.amoMaxu (w.extractLsb' 19 6) (w.extractLsb' 13 6) (w.extractLsb' 7 6) (w.extractLsb' 4 3))
  | 8 => .ok (.amoSwap (w.extractLsb' 19 6) (w.extractLsb' 13 6) (w.extractLsb' 7 6) (w.extractLsb' 4 3))
  | 9 => .ok (.amoCas (w.extractLsb' 19 6) (w.extractLsb' 13 6) (w.extractLsb' 7 6) (w.extractLsb' 4 3))
  | 10 => .ok (.amoAddD (w.extractLsb' 19 6) (w.extractLsb' 13 6) (w.extractLsb' 7 6) (w.extractLsb' 4 3))
  | 11 => .ok (.amoSwapD (w.extractLsb' 19 6) (w.extractLsb' 13 6) (w.extractLsb' 7 6) (w.extractLsb' 4 3))
  | 12 => .ok (.amoCasD (w.extractLsb' 19 6) (w.extractLsb' 13 6) (w.extractLsb' 7 6) (w.extractLsb' 4 3))
  | 13 => .ok (.amoCasQ (w.extractLsb' 19 6) (w.extractLsb' 13 6) (w.extractLsb' 7 6) (w.extractLsb' 4 3))
  | _ => .illegal

/-- MAJ 0x28 (R66). -/
noncomputable def decAmoAr (w : Word) : Decoded :=
  match (w.extractLsb' 0 4).toNat with
  | 0 => .ok (.amoAddAr (w.extractLsb' 19 6) (w.extractLsb' 13 6) (w.extractLsb' 7 6) (w.extractLsb' 4 3))
  | 1 => .ok (.amoAndAr (w.extractLsb' 19 6) (w.extractLsb' 13 6) (w.extractLsb' 7 6) (w.extractLsb' 4 3))
  | 2 => .ok (.amoOrAr (w.extractLsb' 19 6) (w.extractLsb' 13 6) (w.extractLsb' 7 6) (w.extractLsb' 4 3))
  | 3 => .ok (.amoXorAr (w.extractLsb' 19 6) (w.extractLsb' 13 6) (w.extractLsb' 7 6) (w.extractLsb' 4 3))
  | 4 => .ok (.amoMinAr (w.extractLsb' 19 6) (w.extractLsb' 13 6) (w.extractLsb' 7 6) (w.extractLsb' 4 3))
  | 5 => .ok (.amoMaxAr (w.extractLsb' 19 6) (w.extractLsb' 13 6) (w.extractLsb' 7 6) (w.extractLsb' 4 3))
  | 6 => .ok (.amoMinuAr (w.extractLsb' 19 6) (w.extractLsb' 13 6) (w.extractLsb' 7 6) (w.extractLsb' 4 3))
  | 7 => .ok (.amoMaxuAr (w.extractLsb' 19 6) (w.extractLsb' 13 6) (w.extractLsb' 7 6) (w.extractLsb' 4 3))
  | 8 => .ok (.amoSwapAr (w.extractLsb' 19 6) (w.extractLsb' 13 6) (w.extractLsb' 7 6) (w.extractLsb' 4 3))
  | 9 => .ok (.amoCasAr (w.extractLsb' 19 6) (w.extractLsb' 13 6) (w.extractLsb' 7 6) (w.extractLsb' 4 3))
  | 10 => .ok (.amoAddDAr (w.extractLsb' 19 6) (w.extractLsb' 13 6) (w.extractLsb' 7 6) (w.extractLsb' 4 3))
  | 11 => .ok (.amoSwapDAr (w.extractLsb' 19 6) (w.extractLsb' 13 6) (w.extractLsb' 7 6) (w.extractLsb' 4 3))
  | 12 => .ok (.amoCasDAr (w.extractLsb' 19 6) (w.extractLsb' 13 6) (w.extractLsb' 7 6) (w.extractLsb' 4 3))
  | 13 => .ok (.amoCasQAr (w.extractLsb' 19 6) (w.extractLsb' 13 6) (w.extractLsb' 7 6) (w.extractLsb' 4 3))
  | _ => .illegal

/-- MAJ 0x29 (R66). -/
noncomputable def decRed (w : Word) : Decoded :=
  match (w.extractLsb' 0 4).toNat with
  | 0 => if w.extractLsb' 19 6 = 0#6 then .ok (.redAdd (w.extractLsb' 13 6) (w.extractLsb' 7 6) (w.extractLsb' 4 3)) else .badField
  | 1 => if w.extractLsb' 19 6 = 0#6 then .ok (.redAnd (w.extractLsb' 13 6) (w.extractLsb' 7 6) (w.extractLsb' 4 3)) else .badField
  | 2 => if w.extractLsb' 19 6 = 0#6 then .ok (.redOr (w.extractLsb' 13 6) (w.extractLsb' 7 6) (w.extractLsb' 4 3)) else .badField
  | 3 => if w.extractLsb' 19 6 = 0#6 then .ok (.redXor (w.extractLsb' 13 6) (w.extractLsb' 7 6) (w.extractLsb' 4 3)) else .badField
  | 4 => if w.extractLsb' 19 6 = 0#6 then .ok (.redMin (w.extractLsb' 13 6) (w.extractLsb' 7 6) (w.extractLsb' 4 3)) else .badField
  | 5 => if w.extractLsb' 19 6 = 0#6 then .ok (.redMax (w.extractLsb' 13 6) (w.extractLsb' 7 6) (w.extractLsb' 4 3)) else .badField
  | 6 => if w.extractLsb' 19 6 = 0#6 then .ok (.redFaddF32 (w.extractLsb' 13 6) (w.extractLsb' 7 6) (w.extractLsb' 4 3)) else .badField
  | 7 => if w.extractLsb' 19 6 = 0#6 then .ok (.redFaddBf16 (w.extractLsb' 13 6) (w.extractLsb' 7 6) (w.extractLsb' 4 3)) else .badField
  | 8 => if w.extractLsb' 19 6 = 0#6 then .ok (.redAddD (w.extractLsb' 13 6) (w.extractLsb' 7 6) (w.extractLsb' 4 3)) else .badField
  | _ => .illegal

/-- MAJ 0x2A (R66). -/
noncomputable def decLdaStr (w : Word) : Decoded :=
  match (w.extractLsb' 0 4).toNat with
  | 0 => if w.extractLsb' 7 6 = 0#6 then .ok (.ldaW (w.extractLsb' 19 6) (w.extractLsb' 13 6) (w.extractLsb' 4 3)) else .badField
  | 1 => if w.extractLsb' 7 6 = 0#6 then .ok (.ldaD (w.extractLsb' 19 6) (w.extractLsb' 13 6) (w.extractLsb' 4 3)) else .badField
  | 2 => if w.extractLsb' 7 6 = 0#6 then .ok (.ldaB (w.extractLsb' 19 6) (w.extractLsb' 13 6) (w.extractLsb' 4 3)) else .badField
  | 8 => if w.extractLsb' 19 6 = 0#6 then .ok (.strW (w.extractLsb' 13 6) (w.extractLsb' 7 6) (w.extractLsb' 4 3)) else .badField
  | 9 => if w.extractLsb' 19 6 = 0#6 then .ok (.strD (w.extractLsb' 13 6) (w.extractLsb' 7 6) (w.extractLsb' 4 3)) else .badField
  | 10 => if w.extractLsb' 19 6 = 0#6 then .ok (.strB (w.extractLsb' 13 6) (w.extractLsb' 7 6) (w.extractLsb' 4 3)) else .badField
  | _ => .illegal

/-- MAJ 0x2B (R66). -/
noncomputable def decFence (w : Word) : Decoded :=
  match (w.extractLsb' 2 2).toNat with
  | 0 => if w.extractLsb' 0 1 = 0#1 ∧ w.extractLsb' 7 18 = 0#18 then .ok (.fence (w.extractLsb' 4 3) (w.getLsbD 1)) else .badField
  | 1 => if w.extractLsb' 0 1 = 0#1 ∧ w.extractLsb' 7 18 = 0#18 then .ok (.fenceAcq (w.extractLsb' 4 3) (w.getLsbD 1)) else .badField
  | 2 => if w.extractLsb' 0 1 = 0#1 ∧ w.extractLsb' 7 18 = 0#18 then .ok (.fenceRel (w.extractLsb' 4 3) (w.getLsbD 1)) else .badField
  | _ => .illegal

/-- MAJ 0x2C (R66). -/
noncomputable def decCache (w : Word) : Decoded :=
  match (w.extractLsb' 0 4).toNat with
  | 0 => if w.extractLsb' 19 6 = 0#6 then .ok (.wbr (w.extractLsb' 13 6) (w.extractLsb' 7 6) (w.extractLsb' 4 3)) else .badField
  | 1 => if w.extractLsb' 19 6 = 0#6 then .ok (.invr (w.extractLsb' 13 6) (w.extractLsb' 7 6) (w.extractLsb' 4 3)) else .badField
  | 2 => if w.extractLsb' 19 6 = 0#6 then .ok (.pref (w.extractLsb' 13 6) (w.extractLsb' 7 6) (w.extractLsb' 4 3)) else .badField
  | _ => .illegal

/-- MAJ 0x2F (R66). -/
noncomputable def decCpb (w : Word) : Decoded :=
  if w.extractLsb' 2 5 = 0#5 then .ok (.cpb (w.extractLsb' 19 6) (w.extractLsb' 13 6) (w.extractLsb' 7 6) (w.extractLsb' 0 2)) else .badField

/-- MAJ 0x30 (R66). -/
noncomputable def decCpw (w : Word) : Decoded :=
  match (w.extractLsb' 2 1).toNat with
  | 0 => if w.extractLsb' 3 22 = 0#22 then .ok (.cpw (w.extractLsb' 0 2)) else .badField
  | 1 => if w.extractLsb' 3 10 = 0#10 ∧ w.extractLsb' 19 6 = 0#6 then .ok (.cpwLe (w.extractLsb' 13 6) (w.extractLsb' 0 2)) else .badField
  | _ => .illegal

/-- MAJ 0x31 (R66). -/
noncomputable def decCpt (w : Word) : Decoded :=
  match (w.extractLsb' 0 4).toNat with
  | 0 => if w.extractLsb' 7 6 = 0#6 then .ok (.cptG2s (w.extractLsb' 19 6) (w.extractLsb' 13 6) (w.extractLsb' 4 3)) else .badField
  | 1 => if w.extractLsb' 7 6 = 0#6 then .ok (.cptS2g (w.extractLsb' 19 6) (w.extractLsb' 13 6) (w.extractLsb' 4 3)) else .badField
  | 2 => if w.extractLsb' 7 6 = 0#6 then .ok (.cptS2gAtom (w.extractLsb' 19 6) (w.extractLsb' 13 6) (w.extractLsb' 4 3)) else .badField
  | 3 => if w.extractLsb' 7 6 = 0#6 then .ok (.cptG2sCons (w.extractLsb' 19 6) (w.extractLsb' 13 6) (w.extractLsb' 4 3)) else .badField
  | 4 => if w.extractLsb' 7 6 = 0#6 then .ok (.cptG2g (w.extractLsb' 19 6) (w.extractLsb' 13 6) (w.extractLsb' 4 3)) else .badField
  | 5 => if w.extractLsb' 7 6 = 0#6 then .ok (.cptGather (w.extractLsb' 19 6) (w.extractLsb' 13 6) (w.extractLsb' 4 3)) else .badField
  | 6 => if w.extractLsb' 7 6 = 0#6 then .ok (.cptCbk (w.extractLsb' 19 6) (w.extractLsb' 13 6) (w.extractLsb' 4 3)) else .badField
  | _ => .illegal

/-- MAJ 0x32 (R66). -/
noncomputable def decTctr (w : Word) : Decoded :=
  match (w.extractLsb' 0 4).toNat with
  | 0 => if w.extractLsb' 7 6 = 0#6 ∧ w.extractLsb' 19 6 = 0#6 then .ok (.twait (w.extractLsb' 13 6) (w.extractLsb' 4 3)) else .badField
  | 1 => if w.extractLsb' 7 12 = 0#12 then .ok (.tread (w.extractLsb' 19 6) (w.extractLsb' 4 3)) else .badField
  | 2 => if w.extractLsb' 7 12 = 0#12 then .ok (.tissued (w.extractLsb' 19 6) (w.extractLsb' 4 3)) else .badField
  | 3 => if w.extractLsb' 7 12 = 0#12 then .ok (.tstat (w.extractLsb' 19 6) (w.extractLsb' 4 3)) else .badField
  | _ => .illegal

/-- MAJ 0x33 (R66). -/
noncomputable def decShape (w : Word) : Decoded :=
  match (w.extractLsb' 0 7).toNat with
  | 0 => if w.extractLsb' 7 6 = 0#6 then .ok (.shape (w.extractLsb' 19 6) (w.extractLsb' 13 6)) else .badField
  | _ => .illegal

/-- MAJ 0x34 (R66). -/
noncomputable def decMma (w : Word) : Decoded :=
  match (w.extractLsb' 4 2).toNat with
  | 0 => .ok (.mmaBf16 (w.extractLsb' 19 6) (w.extractLsb' 13 6) (w.extractLsb' 7 6) (w.getLsbD 6) (w.extractLsb' 0 4))
  | 1 => .ok (.mmaE4m3 (w.extractLsb' 19 6) (w.extractLsb' 13 6) (w.extractLsb' 7 6) (w.getLsbD 6) (w.extractLsb' 0 4))
  | 2 => .ok (.mmaE5m2 (w.extractLsb' 19 6) (w.extractLsb' 13 6) (w.extractLsb' 7 6) (w.getLsbD 6) (w.extractLsb' 0 4))
  | 3 => .ok (.mmaE4m3e5m2 (w.extractLsb' 19 6) (w.extractLsb' 13 6) (w.extractLsb' 7 6) (w.getLsbD 6) (w.extractLsb' 0 4))
  | _ => .illegal

/-- MAJ 0x35 (R66). -/
noncomputable def decAcc (w : Word) : Decoded :=
  match (w.extractLsb' 0 7).toNat with
  | 0 => if w.extractLsb' 7 12 = 0#12 then .ok (.accZero (w.extractLsb' 19 6)) else .badField
  | 1 => if w.extractLsb' 7 6 = 0#6 then .ok (.accChainB (w.extractLsb' 19 6) (w.extractLsb' 13 6)) else .badField
  | 2 => if w.extractLsb' 7 12 = 0#12 then .ok (.accChainE (w.extractLsb' 19 6)) else .badField
  | 3 => if w.extractLsb' 19 6 = 0#6 then .ok (.accSetprom (w.extractLsb' 13 6) (w.extractLsb' 7 6)) else .badField
  | 4 => if w.extractLsb' 7 6 = 0#6 then .ok (.accStF32 (w.extractLsb' 19 6) (w.extractLsb' 13 6)) else .badField
  | 5 => if w.extractLsb' 7 6 = 0#6 then .ok (.accStBf16 (w.extractLsb' 19 6) (w.extractLsb' 13 6)) else .badField
  | 6 => if w.extractLsb' 7 6 = 0#6 then .ok (.accLdF32 (w.extractLsb' 19 6) (w.extractLsb' 13 6)) else .badField
  | 7 => if w.extractLsb' 7 12 = 0#12 then .ok (.accFlush (w.extractLsb' 19 6)) else .badField
  | _ => .illegal

/-- MAJ 0x36 (R66). -/
noncomputable def decTask (w : Word) : Decoded :=
  match (w.extractLsb' 0 7).toNat with
  | 0 => if w.extractLsb' 7 6 = 0#6 then .ok (.taskTnode (w.extractLsb' 19 6) (w.extractLsb' 13 6)) else .badField
  | 1 => if w.extractLsb' 19 6 = 0#6 then .ok (.taskTdep (w.extractLsb' 13 6) (w.extractLsb' 7 6)) else .badField
  | 2 => if w.extractLsb' 7 6 = 0#6 ∧ w.extractLsb' 19 6 = 0#6 then .ok (.taskTsig (w.extractLsb' 13 6)) else .badField
  | 3 => if w.extractLsb' 7 6 = 0#6 ∧ w.extractLsb' 19 6 = 0#6 then .ok (.taskEnq (w.extractLsb' 13 6)) else .badField
  | 4 => if w.extractLsb' 7 12 = 0#12 then .ok (.taskDeq (w.extractLsb' 19 6)) else .badField
  | 5 => if w.extractLsb' 19 6 = 0#6 then .ok (.taskCont (w.extractLsb' 13 6) (w.extractLsb' 7 6)) else .badField
  | 6 => if w.extractLsb' 7 12 = 0#12 then .ok (.taskNself (w.extractLsb' 19 6)) else .badField
  | _ => .illegal

/-- MAJ 0x37 (R66). -/
noncomputable def decArena (w : Word) : Decoded :=
  match (w.extractLsb' 0 7).toNat with
  | 0 => if w.extractLsb' 7 6 = 0#6 then .ok (.arenaAptr (w.extractLsb' 19 6) (w.extractLsb' 13 6)) else .badField
  | 1 => if w.extractLsb' 7 6 = 0#6 then .ok (.arenaAinfo (w.extractLsb' 19 6) (w.extractLsb' 13 6)) else .badField
  | 2 => if w.extractLsb' 19 6 = 0#6 then .ok (.arenaCheck (w.extractLsb' 13 6) (w.extractLsb' 7 6)) else .badField
  | _ => .illegal

/-- MAJ 0x38 (R66). -/
noncomputable def decSys (w : Word) : Decoded :=
  match (w.extractLsb' 0 7).toNat with
  | 0 => if w.extractLsb' 13 6 = 0#6 then .ok (.gets (w.extractLsb' 19 6) (w.extractLsb' 7 6)) else .badField
  | 1 => if w.extractLsb' 19 6 = 0#6 then .ok (.sets (w.extractLsb' 13 6) (w.extractLsb' 7 6)) else .badField
  | 2 => if w.extractLsb' 13 12 = 0#12 then .ok (.trap (w.extractLsb' 7 6)) else .badField
  | 3 => if w.extractLsb' 7 18 = 0#18 then .ok (.brk) else .badField
  | 4 => if w.extractLsb' 7 18 = 0#18 then .ok (.nop) else .badField
  | _ => .illegal

/-- The instruction that a word of an ordinary packet stands for (levels 3 and, for the fields marked zero, 5 of R71).
MAJ 0x21 and 0x22 are words of the multi-way branch packet and are read by `decodeMbr`. -/
noncomputable def decode (w : Word) : Decoded :=
  match (w.extractLsb' 25 6).toNat with
  | 1 => decInt3 w
  | 2 => decInt64 w
  | 3 => decInt1 w
  | 4 => decCmp w
  | 5 => decSel w
  | 6 => decPlog w
  | 7 => decAddi w
  | 8 => decAndi w
  | 9 => decOri w
  | 10 => decXori w
  | 11 => decShifti w
  | 12 => decCmpi w
  | 13 => decLi w
  | 14 => decLih w
  | 15 => decLd w
  | 16 => decSt w
  | 17 => decLds w
  | 18 => decSts w
  | 19 => decLdy w
  | 20 => decSty w
  | 21 => decLdc w
  | 22 => decStc w
  | 45 => decLdf w
  | 46 => decStf w
  | 23 => decYop3 w
  | 24 => decYop1 w
  | 25 => decYcmp w
  | 26 => decYcvt w
  | 27 => decPrc w
  | 28 => decBr w
  | 29 => decCall w
  | 30 => decJmpx w
  | 31 => decEnter w
  | 32 => decLoop w
  | 35 => decFibr w
  | 36 => decYield w
  | 37 => decColl w
  | 38 => decObj w
  | 39 => decAmo w
  | 40 => decAmoAr w
  | 41 => decRed w
  | 42 => decLdaStr w
  | 43 => decFence w
  | 44 => decCache w
  | 47 => decCpb w
  | 48 => decCpw w
  | 49 => decCpt w
  | 50 => decTctr w
  | 51 => decShape w
  | 52 => decMma w
  | 53 => decAcc w
  | 54 => decTask w
  | 55 => decArena w
  | 56 => decSys w
  | _ => .illegal

/-- Bits [30:0] of an instruction's word, from the same tables (R67 to R70). An event and the branch packet have no
single word: they answer the reserved word 0. -/
def encode31 : Instr → BitVec 31
  | .add d a b ea eb => f3 1#6 d a b ea eb 0#5
  | .sub d a b ea eb => f3 1#6 d a b ea eb 1#5
  | .mul d a b ea eb => f3 1#6 d a b ea eb 2#5
  | .mulh d a b ea eb => f3 1#6 d a b ea eb 3#5
  | .mulhu d a b ea eb => f3 1#6 d a b ea eb 4#5
  | .div d a b ea eb => f3 1#6 d a b ea eb 5#5
  | .divu d a b ea eb => f3 1#6 d a b ea eb 6#5
  | .rem d a b ea eb => f3 1#6 d a b ea eb 7#5
  | .remu d a b ea eb => f3 1#6 d a b ea eb 8#5
  | .and d a b ea eb => f3 1#6 d a b ea eb 9#5
  | .or d a b ea eb => f3 1#6 d a b ea eb 10#5
  | .xor d a b ea eb => f3 1#6 d a b ea eb 11#5
  | .andn d a b ea eb => f3 1#6 d a b ea eb 12#5
  | .orn d a b ea eb => f3 1#6 d a b ea eb 13#5
  | .shl d a b ea eb => f3 1#6 d a b ea eb 14#5
  | .shr d a b ea eb => f3 1#6 d a b ea eb 15#5
  | .sar d a b ea eb => f3 1#6 d a b ea eb 16#5
  | .rotl d a b ea eb => f3 1#6 d a b ea eb 17#5
  | .min d a b ea eb => f3 1#6 d a b ea eb 18#5
  | .max d a b ea eb => f3 1#6 d a b ea eb 19#5
  | .minu d a b ea eb => f3 1#6 d a b ea eb 20#5
  | .maxu d a b ea eb => f3 1#6 d a b ea eb 21#5
  | .adds d a b ea eb => f3 1#6 d a b ea eb 22#5
  | .subs d a b ea eb => f3 1#6 d a b ea eb 23#5
  | .addus d a b ea eb => f3 1#6 d a b ea eb 24#5
  | .subus d a b ea eb => f3 1#6 d a b ea eb 25#5
  | .lea1 d a b ea eb => f3 1#6 d a b ea eb 26#5
  | .lea2 d a b ea eb => f3 1#6 d a b ea eb 27#5
  | .lea3 d a b ea eb => f3 1#6 d a b ea eb 28#5
  | .lea4 d a b ea eb => f3 1#6 d a b ea eb 29#5
  | .addD d a b ea eb => f3 2#6 d a b ea eb 0#5
  | .subD d a b ea eb => f3 2#6 d a b ea eb 1#5
  | .mulD d a b ea eb => f3 2#6 d a b ea eb 2#5
  | .mulhD d a b ea eb => f3 2#6 d a b ea eb 3#5
  | .mulhuD d a b ea eb => f3 2#6 d a b ea eb 4#5
  | .andD d a b ea eb => f3 2#6 d a b ea eb 5#5
  | .orD d a b ea eb => f3 2#6 d a b ea eb 6#5
  | .xorD d a b ea eb => f3 2#6 d a b ea eb 7#5
  | .shlD d a b ea eb => f3 2#6 d a b ea eb 8#5
  | .shrD d a b ea eb => f3 2#6 d a b ea eb 9#5
  | .sarD d a b ea eb => f3 2#6 d a b ea eb 10#5
  | .minD d a b ea eb => f3 2#6 d a b ea eb 11#5
  | .maxD d a b ea eb => f3 2#6 d a b ea eb 12#5
  | .minuD d a b ea eb => f3 2#6 d a b ea eb 13#5
  | .maxuD d a b ea eb => f3 2#6 d a b ea eb 14#5
  | .addwD d a b ea eb => f3 2#6 d a b ea eb 15#5
  | .adduwD d a b ea eb => f3 2#6 d a b ea eb 16#5
  | .mulwD d a b ea eb => f3 2#6 d a b ea eb 17#5
  | .muluwD d a b ea eb => f3 2#6 d a b ea eb 18#5
  | .mov d a ea => f3 3#6 d a 0#6 ea false 0#5
  | .not d a ea => f3 3#6 d a 0#6 ea false 1#5
  | .neg d a ea => f3 3#6 d a 0#6 ea false 2#5
  | .abs d a ea => f3 3#6 d a 0#6 ea false 3#5
  | .clz d a ea => f3 3#6 d a 0#6 ea false 4#5
  | .ctz d a ea => f3 3#6 d a 0#6 ea false 5#5
  | .popc d a ea => f3 3#6 d a 0#6 ea false 6#5
  | .brev d a ea => f3 3#6 d a 0#6 ea false 7#5
  | .bswap d a ea => f3 3#6 d a 0#6 ea false 8#5
  | .sextb d a ea => f3 3#6 d a 0#6 ea false 9#5
  | .sexth d a ea => f3 3#6 d a 0#6 ea false 10#5
  | .zextb d a ea => f3 3#6 d a 0#6 ea false 11#5
  | .zexth d a ea => f3 3#6 d a 0#6 ea false 12#5
  | .movD d a ea => f3 3#6 d a 0#6 ea false 13#5
  | .clzD d a ea => f3 3#6 d a 0#6 ea false 14#5
  | .popcD d a ea => f3 3#6 d a 0#6 ea false 15#5
  | .sextD d a ea => f3 3#6 d a 0#6 ea false 16#5
  | .zextD d a ea => f3 3#6 d a 0#6 ea false 17#5
  | .eq d a b ea eb => f3 4#6 d a b ea eb 0#5
  | .ne d a b ea eb => f3 4#6 d a b ea eb 1#5
  | .lt d a b ea eb => f3 4#6 d a b ea eb 2#5
  | .le d a b ea eb => f3 4#6 d a b ea eb 3#5
  | .ltu d a b ea eb => f3 4#6 d a b ea eb 4#5
  | .leu d a b ea eb => f3 4#6 d a b ea eb 5#5
  | .eqD d a b ea eb => f3 4#6 d a b ea eb 6#5
  | .neD d a b ea eb => f3 4#6 d a b ea eb 7#5
  | .ltD d a b ea eb => f3 4#6 d a b ea eb 8#5
  | .leD d a b ea eb => f3 4#6 d a b ea eb 9#5
  | .ltuD d a b ea eb => f3 4#6 d a b ea eb 10#5
  | .leuD d a b ea eb => f3 4#6 d a b ea eb 11#5
  | .tst d a b ea eb => f3 4#6 d a b ea eb 12#5
  | .tstz d a b ea eb => f3 4#6 d a b ea eb 13#5
  | .sel d a b p n => fs 5#6 d a b p n 0#2
  | .selD d a b p n => fs 5#6 d a b p n 1#2
  | .selY d a b p n => fs 5#6 d a b p n 2#2
  | .pand d a b => f3 6#6 d a b false false 0#5
  | .por d a b => f3 6#6 d a b false false 1#5
  | .pxor d a b => f3 6#6 d a b false false 2#5
  | .pandn d a b => f3 6#6 d a b false false 3#5
  | .pnot d a => f3 6#6 d a 0#6 false false 4#5
  | .pmov d a => f3 6#6 d a 0#6 false false 5#5
  | .p2w d => f3 6#6 d 0#6 0#6 false false 6#5
  | .w2p a ea => f3 6#6 0#6 a 0#6 ea false 7#5
  | .pset d => f3 6#6 d 0#6 0#6 false false 8#5
  | .pclr d => f3 6#6 d 0#6 0#6 false false 9#5
  | .addi d a ea i => fi 7#6 d a ea i
  | .andi d a ea i => fi 8#6 d a ea i
  | .ori d a ea i => fi 9#6 d a ea i
  | .xori d a ea i => fi 10#6 d a ea i
  | .shli d a ea n => fi 11#6 d a ea (0#6 ++ n)
  | .shri d a ea n => fi 11#6 d a ea (16#6 ++ n)
  | .sari d a ea n => fi 11#6 d a ea (32#6 ++ n)
  | .rotli d a ea n => fi 11#6 d a ea (48#6 ++ n)
  | .shliD d a ea n => fi 11#6 d a ea (8#6 ++ n)
  | .shriD d a ea n => fi 11#6 d a ea (24#6 ++ n)
  | .sariD d a ea n => fi 11#6 d a ea (40#6 ++ n)
  | .rotliD d a ea n => fi 11#6 d a ea (56#6 ++ n)
  | .cmpiEq d a ea i => fi 12#6 d a ea (0#3 ++ i)
  | .cmpiNe d a ea i => fi 12#6 d a ea (1#3 ++ i)
  | .cmpiLt d a ea i => fi 12#6 d a ea (2#3 ++ i)
  | .cmpiLe d a ea i => fi 12#6 d a ea (3#3 ++ i)
  | .cmpiLtu d a ea i => fi 12#6 d a ea (4#3 ++ i)
  | .cmpiLeu d a ea i => fi 12#6 d a ea (5#3 ++ i)
  | .cmpiGt d a ea i => fi 12#6 d a ea (6#3 ++ i)
  | .cmpiGe d a ea i => fi 12#6 d a ea (7#3 ++ i)
  | .li d i => fl 13#6 d i
  | .lih d i => fl 14#6 d i
  | .ldB t a ea o => fm 15#6 t a ea 0#4 o
  | .ldBs t a ea o => fm 15#6 t a ea 1#4 o
  | .ldH t a ea o => fm 15#6 t a ea 2#4 o
  | .ldHs t a ea o => fm 15#6 t a ea 3#4 o
  | .ldW t a ea o => fm 15#6 t a ea 4#4 o
  | .ldD t a ea o => fm 15#6 t a ea 5#4 o
  | .ldQ t a ea o => fm 15#6 t a ea 6#4 o
  | .stB t a ea o => fm 16#6 t a ea 0#4 o
  | .stH t a ea o => fm 16#6 t a ea 2#4 o
  | .stW t a ea o => fm 16#6 t a ea 4#4 o
  | .stD t a ea o => fm 16#6 t a ea 5#4 o
  | .stQ t a ea o => fm 16#6 t a ea 6#4 o
  | .ldsB t a ea o => fm 17#6 t a ea 0#4 o
  | .ldsBs t a ea o => fm 17#6 t a ea 1#4 o
  | .ldsH t a ea o => fm 17#6 t a ea 2#4 o
  | .ldsHs t a ea o => fm 17#6 t a ea 3#4 o
  | .ldsW t a ea o => fm 17#6 t a ea 4#4 o
  | .ldsD t a ea o => fm 17#6 t a ea 5#4 o
  | .ldsQ t a ea o => fm 17#6 t a ea 6#4 o
  | .stsB t a ea o => fm 18#6 t a ea 0#4 o
  | .stsH t a ea o => fm 18#6 t a ea 2#4 o
  | .stsW t a ea o => fm 18#6 t a ea 4#4 o
  | .stsD t a ea o => fm 18#6 t a ea 5#4 o
  | .stsQ t a ea o => fm 18#6 t a ea 6#4 o
  | .ldy t a ea k o => fm 19#6 t a ea k o
  | .sty t a ea k o => fm 20#6 t a ea k o
  | .ldcFp32 t a ea o => fm 21#6 t a ea 0#4 o
  | .ldcBf16 t a ea o => fm 21#6 t a ea 1#4 o
  | .ldcFp16 t a ea o => fm 21#6 t a ea 2#4 o
  | .ldcE4m3 t a ea o => fm 21#6 t a ea 3#4 o
  | .ldcE5m2 t a ea o => fm 21#6 t a ea 4#4 o
  | .ldcInt32 t a ea o => fm 21#6 t a ea 5#4 o
  | .ldcUint32 t a ea o => fm 21#6 t a ea 6#4 o
  | .ldcInt8 t a ea o => fm 21#6 t a ea 7#4 o
  | .ldcUint8 t a ea o => fm 21#6 t a ea 8#4 o
  | .stcFp32 t a ea o => fm 22#6 t a ea 0#4 o
  | .stcBf16 t a ea o => fm 22#6 t a ea 1#4 o
  | .stcFp16 t a ea o => fm 22#6 t a ea 2#4 o
  | .stcE4m3 t a ea o => fm 22#6 t a ea 3#4 o
  | .stcE5m2 t a ea o => fm 22#6 t a ea 4#4 o
  | .stcInt32 t a ea o => fm 22#6 t a ea 5#4 o
  | .stcUint32 t a ea o => fm 22#6 t a ea 6#4 o
  | .stcInt8 t a ea o => fm 22#6 t a ea 7#4 o
  | .stcUint8 t a ea o => fm 22#6 t a ea 8#4 o
  | .ldf t a ea o => fm 45#6 t a ea 0#4 o
  | .ldfCons t a ea o => fm 45#6 t a ea 1#4 o
  | .stf t a ea o => fm 46#6 t a ea 0#4 o
  | .yadd d a b ea eb => f3 23#6 d a b ea eb 0#5
  | .ysub d a b ea eb => f3 23#6 d a b ea eb 1#5
  | .ymul d a b ea eb => f3 23#6 d a b ea eb 2#5
  | .ydiv d a b ea eb => f3 23#6 d a b ea eb 3#5
  | .ymin d a b ea eb => f3 23#6 d a b ea eb 4#5
  | .ymax d a b ea eb => f3 23#6 d a b ea eb 5#5
  | .yminm d a b ea eb => f3 23#6 d a b ea eb 6#5
  | .ymaxm d a b ea eb => f3 23#6 d a b ea eb 7#5
  | .ycopysign d a b ea eb => f3 23#6 d a b ea eb 8#5
  | .yrem d a b ea eb => f3 23#6 d a b ea eb 9#5
  | .yscale d a b ea eb => f3 23#6 d a b ea eb 10#5
  | .yfma d a b ea eb => f3 23#6 d a b ea eb 11#5
  | .yfms d a b ea eb => f3 23#6 d a b ea eb 12#5
  | .yfnma d a b ea eb => f3 23#6 d a b ea eb 13#5
  | .ymov d a ea => f3 24#6 d a 0#6 ea false 0#5
  | .yneg d a ea => f3 24#6 d a 0#6 ea false 1#5
  | .yabs d a ea => f3 24#6 d a 0#6 ea false 2#5
  | .ysqrt d a ea => f3 24#6 d a 0#6 ea false 3#5
  | .yrint d a ea => f3 24#6 d a 0#6 ea false 4#5
  | .ytrunc d a ea => f3 24#6 d a 0#6 ea false 5#5
  | .ylogb d a ea => f3 24#6 d a 0#6 ea false 6#5
  | .yclass d a ea => f3 24#6 d a 0#6 ea false 7#5
  | .ysig d a ea => f3 24#6 d a 0#6 ea false 8#5
  | .ymant d a ea => f3 24#6 d a 0#6 ea false 9#5
  | .yrecip d a ea => f3 24#6 d a 0#6 ea false 10#5
  | .yrsqrt d a ea => f3 24#6 d a 0#6 ea false 11#5
  | .ycmpEq d a b ea eb => f3 25#6 d a b ea eb 0#5
  | .ycmpLt d a b ea eb => f3 25#6 d a b ea eb 1#5
  | .ycmpLe d a b ea eb => f3 25#6 d a b ea eb 2#5
  | .ycmpUn d a b ea eb => f3 25#6 d a b ea eb 3#5
  | .ycmpEqs d a b ea eb => f3 25#6 d a b ea eb 4#5
  | .ycmpLts d a b ea eb => f3 25#6 d a b ea eb 5#5
  | .ycmpLes d a b ea eb => f3 25#6 d a b ea eb 6#5
  | .ycvtYW d a ea => f3 26#6 d a 0#6 ea false 0#5
  | .ycvtYUw d a ea => f3 26#6 d a 0#6 ea false 1#5
  | .ycvtYD d a ea => f3 26#6 d a 0#6 ea false 2#5
  | .ycvtYUd d a ea => f3 26#6 d a 0#6 ea false 3#5
  | .ycvtWY d a ea => f3 26#6 d a 0#6 ea false 4#5
  | .ycvtUwY d a ea => f3 26#6 d a 0#6 ea false 5#5
  | .ycvtDY d a ea => f3 26#6 d a 0#6 ea false 6#5
  | .ycvtUdY d a ea => f3 26#6 d a 0#6 ea false 7#5
  | .setprc a => fx 27#6 0#6 a 0#6 0#7
  | .getprc d => fx 27#6 d 0#6 0#6 1#7
  | .setl a => fx 27#6 0#6 a 0#6 2#7
  | .setrm a => fx 27#6 0#6 a 0#6 3#7
  | .getflags d => fx 27#6 d 0#6 0#6 4#7
  | .clrflags a => fx 27#6 0#6 a 0#6 5#7
  | .rnd d => fx 27#6 d 0#6 0#6 6#7
  | .br p n o => fb 28#6 p n o
  | .bra o => fb 28#6 0#4 false o
  | .call p n o => fb 29#6 p n o
  | .ret => fx 30#6 0#6 0#6 0#6 0#7
  | .callr a => fx 30#6 0#6 a 0#6 1#7
  | .jmpr a => fx 30#6 0#6 a 0#6 2#7
  | .eret => fx 30#6 0#6 0#6 0#6 3#7
  | .enter d a i => fi 31#6 d a false i
  | .loop d i => fl 32#6 d i
  | .endFibre => fx 35#6 0#6 0#6 0#6 0#7
  | .spawn d a b => fx 35#6 d a b 2#7
  | .fid d => fx 35#6 d 0#6 0#6 3#7
  | .cid d => fx 35#6 d 0#6 0#6 4#7
  | .gid d => fx 35#6 d 0#6 0#6 5#7
  | .stg d => fx 35#6 d 0#6 0#6 6#7
  | .nid d => fx 35#6 d 0#6 0#6 7#7
  | .yield h i => fl 36#6 0#6 (h ++ i)
  | .shfl d a b => fx 37#6 d a b 0#7
  | .shflXor d a b => fx 37#6 d a b 1#7
  | .shflUp d a b => fx 37#6 d a b 2#7
  | .shflDown d a b => fx 37#6 d a b 3#7
  | .voteAny d a b => fx 37#6 d a b 4#7
  | .voteAll d a b => fx 37#6 d a b 5#7
  | .ballot d a b => fx 37#6 d a b 6#7
  | .reduxAdd d a b => fx 37#6 d a b 7#7
  | .reduxMin d a b => fx 37#6 d a b 8#7
  | .reduxMax d a b => fx 37#6 d a b 9#7
  | .reduxYadd d a b => fx 37#6 d a b 10#7
  | .matchLanes d a b => fx 37#6 d a b 11#7
  | .present d b => fx 37#6 d 0#6 b 12#7
  | .objInit d a b => fx 38#6 d a b 0#7
  | .objPush d a b => fx 38#6 d a b 1#7
  | .objPop d a b => fx 38#6 d a b 2#7
  | .objEnq d a b => fx 38#6 d a b 3#7
  | .objDeq d a b => fx 38#6 d a b 4#7
  | .objAdd d a b => fx 38#6 d a b 5#7
  | .objArrive d a b => fx 38#6 d a b 6#7
  | .objPeek d a b => fx 38#6 d a b 7#7
  | .objHelp d a b => fx 38#6 d a b 8#7
  | .amoAdd d a b s => fx 39#6 d a b (s ++ 0#4)
  | .amoAnd d a b s => fx 39#6 d a b (s ++ 1#4)
  | .amoOr d a b s => fx 39#6 d a b (s ++ 2#4)
  | .amoXor d a b s => fx 39#6 d a b (s ++ 3#4)
  | .amoMin d a b s => fx 39#6 d a b (s ++ 4#4)
  | .amoMax d a b s => fx 39#6 d a b (s ++ 5#4)
  | .amoMinu d a b s => fx 39#6 d a b (s ++ 6#4)
  | .amoMaxu d a b s => fx 39#6 d a b (s ++ 7#4)
  | .amoSwap d a b s => fx 39#6 d a b (s ++ 8#4)
  | .amoCas d a b s => fx 39#6 d a b (s ++ 9#4)
  | .amoAddD d a b s => fx 39#6 d a b (s ++ 10#4)
  | .amoSwapD d a b s => fx 39#6 d a b (s ++ 11#4)
  | .amoCasD d a b s => fx 39#6 d a b (s ++ 12#4)
  | .amoCasQ d a b s => fx 39#6 d a b (s ++ 13#4)
  | .amoAddAr d a b s => fx 40#6 d a b (s ++ 0#4)
  | .amoAndAr d a b s => fx 40#6 d a b (s ++ 1#4)
  | .amoOrAr d a b s => fx 40#6 d a b (s ++ 2#4)
  | .amoXorAr d a b s => fx 40#6 d a b (s ++ 3#4)
  | .amoMinAr d a b s => fx 40#6 d a b (s ++ 4#4)
  | .amoMaxAr d a b s => fx 40#6 d a b (s ++ 5#4)
  | .amoMinuAr d a b s => fx 40#6 d a b (s ++ 6#4)
  | .amoMaxuAr d a b s => fx 40#6 d a b (s ++ 7#4)
  | .amoSwapAr d a b s => fx 40#6 d a b (s ++ 8#4)
  | .amoCasAr d a b s => fx 40#6 d a b (s ++ 9#4)
  | .amoAddDAr d a b s => fx 40#6 d a b (s ++ 10#4)
  | .amoSwapDAr d a b s => fx 40#6 d a b (s ++ 11#4)
  | .amoCasDAr d a b s => fx 40#6 d a b (s ++ 12#4)
  | .amoCasQAr d a b s => fx 40#6 d a b (s ++ 13#4)
  | .redAdd a b s => fx 41#6 0#6 a b (s ++ 0#4)
  | .redAnd a b s => fx 41#6 0#6 a b (s ++ 1#4)
  | .redOr a b s => fx 41#6 0#6 a b (s ++ 2#4)
  | .redXor a b s => fx 41#6 0#6 a b (s ++ 3#4)
  | .redMin a b s => fx 41#6 0#6 a b (s ++ 4#4)
  | .redMax a b s => fx 41#6 0#6 a b (s ++ 5#4)
  | .redFaddF32 a b s => fx 41#6 0#6 a b (s ++ 6#4)
  | .redFaddBf16 a b s => fx 41#6 0#6 a b (s ++ 7#4)
  | .redAddD a b s => fx 41#6 0#6 a b (s ++ 8#4)
  | .ldaW d a s => fx 42#6 d a 0#6 (s ++ 0#4)
  | .ldaD d a s => fx 42#6 d a 0#6 (s ++ 1#4)
  | .ldaB d a s => fx 42#6 d a 0#6 (s ++ 2#4)
  | .strW a b s => fx 42#6 0#6 a b (s ++ 8#4)
  | .strD a b s => fx 42#6 0#6 a b (s ++ 9#4)
  | .strB a b s => fx 42#6 0#6 a b (s ++ 10#4)
  | .fence s k => fx 43#6 0#6 0#6 0#6 (s ++ 0#2 ++ b1 k ++ 0#1)
  | .fenceAcq s k => fx 43#6 0#6 0#6 0#6 (s ++ 1#2 ++ b1 k ++ 0#1)
  | .fenceRel s k => fx 43#6 0#6 0#6 0#6 (s ++ 2#2 ++ b1 k ++ 0#1)
  | .wbr a b s => fx 44#6 0#6 a b (s ++ 0#4)
  | .invr a b s => fx 44#6 0#6 a b (s ++ 1#4)
  | .pref a b s => fx 44#6 0#6 a b (s ++ 2#4)
  | .cpb d a b g => fx 47#6 d a b (0#5 ++ g)
  | .cpw g => fx 48#6 0#6 0#6 0#6 (0#5 ++ g)
  | .cpwLe a g => fx 48#6 0#6 a 0#6 (1#5 ++ g)
  | .cptG2s d a x => fx 49#6 d a 0#6 (x ++ 0#4)
  | .cptS2g d a x => fx 49#6 d a 0#6 (x ++ 1#4)
  | .cptS2gAtom d a x => fx 49#6 d a 0#6 (x ++ 2#4)
  | .cptG2sCons d a x => fx 49#6 d a 0#6 (x ++ 3#4)
  | .cptG2g d a x => fx 49#6 d a 0#6 (x ++ 4#4)
  | .cptGather d a x => fx 49#6 d a 0#6 (x ++ 5#4)
  | .cptCbk d a x => fx 49#6 d a 0#6 (x ++ 6#4)
  | .twait a x => fx 50#6 0#6 a 0#6 (x ++ 0#4)
  | .tread d x => fx 50#6 d 0#6 0#6 (x ++ 1#4)
  | .tissued d x => fx 50#6 d 0#6 0#6 (x ++ 2#4)
  | .tstat d x => fx 50#6 d 0#6 0#6 (x ++ 3#4)
  | .shape d a => fx 51#6 d a 0#6 0#7
  | .mmaBf16 d a b p k => fx 52#6 d a b (b1 p ++ 0#2 ++ k)
  | .mmaE4m3 d a b p k => fx 52#6 d a b (b1 p ++ 1#2 ++ k)
  | .mmaE5m2 d a b p k => fx 52#6 d a b (b1 p ++ 2#2 ++ k)
  | .mmaE4m3e5m2 d a b p k => fx 52#6 d a b (b1 p ++ 3#2 ++ k)
  | .accZero d => fx 53#6 d 0#6 0#6 0#7
  | .accChainB d a => fx 53#6 d a 0#6 1#7
  | .accChainE d => fx 53#6 d 0#6 0#6 2#7
  | .accSetprom a b => fx 53#6 0#6 a b 3#7
  | .accStF32 d a => fx 53#6 d a 0#6 4#7
  | .accStBf16 d a => fx 53#6 d a 0#6 5#7
  | .accLdF32 d a => fx 53#6 d a 0#6 6#7
  | .accFlush d => fx 53#6 d 0#6 0#6 7#7
  | .taskTnode d a => fx 54#6 d a 0#6 0#7
  | .taskTdep a b => fx 54#6 0#6 a b 1#7
  | .taskTsig a => fx 54#6 0#6 a 0#6 2#7
  | .taskEnq a => fx 54#6 0#6 a 0#6 3#7
  | .taskDeq d => fx 54#6 d 0#6 0#6 4#7
  | .taskCont a b => fx 54#6 0#6 a b 5#7
  | .taskNself d => fx 54#6 d 0#6 0#6 6#7
  | .arenaAptr d a => fx 55#6 d a 0#6 0#7
  | .arenaAinfo d a => fx 55#6 d a 0#6 1#7
  | .arenaCheck a b => fx 55#6 0#6 a b 2#7
  | .gets d b => fx 56#6 d 0#6 b 0#7
  | .sets a b => fx 56#6 0#6 a b 1#7
  | .trap b => fx 56#6 0#6 0#6 b 2#7
  | .brk => fx 56#6 0#6 0#6 0#6 3#7
  | .nop => fx 56#6 0#6 0#6 0#6 4#7
  | .mbr .. => 0#31
  | .regroup .. => 0#31
  | .seniorForcedIssue .. => 0#31
  | .backoffExpiry .. => 0#31
  | .watchdog .. => 0#31
  | .yResultDelivery .. => 0#31
  | .reduxYaddResult .. => 0#31
  | .loadDataArrival .. => 0#31
  | .convertingLoadResolve .. => 0#31
  | .l1Eviction .. => 0#31
  | .homeArrival .. => 0#31
  | .flushMarkerAck .. => 0#31
  | .walk .. => 0#31
  | .walkRetry .. => 0#31
  | .memorySideFault .. => 0#31
  | .pageFaultReport .. => 0#31
  | .faultRecordWrite => 0#31
  | .resume .. => 0#31
  | .fail .. => 0#31
  | .endCommand .. => 0#31
  | .launchQueueTailWrite .. => 0#31
  | .nodeSpecAccept .. => 0#31
  | .compareManifest .. => 0#31
  | .preemptGang .. => 0#31
  | .preemptCrew .. => 0#31
  | .crewRestore .. => 0#31
  | .gangSwap .. => 0#31
  | .gangPlacement .. => 0#31
  | .gangRestore .. => 0#31
  | .gangRelease .. => 0#31
  | .spawnedCrewStart .. => 0#31
  | .nodeCompletion .. => 0#31
  | .arenaDrained .. => 0#31
  | .arenaBirth .. => 0#31
  | .dependenceSignal .. => 0#31
  | .taskQueueRefill .. => 0#31
  | .continuationResume .. => 0#31
  | .copyOpStart .. => 0#31
  | .copyOpComplete .. => 0#31
  | .copyPageResume .. => 0#31
  | .cpbLanding .. => 0#31
  | .matrixWordTake .. => 0#31
  | .objAnnounceStep .. => 0#31
  | .objApplyStep .. => 0#31
  | .objFinishStep .. => 0#31
  | .objCollect .. => 0#31
  | .redBatchApply .. => 0#31
  | .flitCrcFail .. => 0#31
  | .dieSublinkRetrain .. => 0#31
  | .dieSublinkFail .. => 0#31
  | .networkPathRetrain .. => 0#31
  | .networkPathFail .. => 0#31
  | .transportResend .. => 0#31
  | .peerPacketArrival .. => 0#31
  | .walkInvalidate .. => 0#31
  | .setMassifCachePart .. => 0#31
  | .setPower .. => 0#31
  | .firmwareUpdate .. => 0#31
  | .substituteSpareCore .. => 0#31
  | .retireRecalibrate .. => 0#31
  | .replacePort .. => 0#31
  | .attestationRequest .. => 0#31
  | .setDeviceId .. => 0#31
  | .managementRegisterWrite .. => 0#31
  | .thermalTrip .. => 0#31
  | .scrub .. => 0#31
  | .deviceReset => 0#31
  | .illegalInstruction .. => 0#31
  | .sensorReading .. => 0#31
  | .sublinkReturnToService .. => 0#31
  | .pathReturnToService .. => 0#31
  | .hostMainbandAccess .. => 0#31
  | .unitRetirement .. => 0#31

/-- The word of an instruction with its chain bit C (R55). -/
def encode (c : Bool) (i : Instr) : Word := b1 c ++ encode31 i

/-- The three words of the multi-way branch packet (R65). -/
def encodeMbr (np : BitVec 2) (p1 p2 p3 p4 : BitVec 4) (n1 n2 n3 n4 : Bool) (off1 off2 off3 off4 : BitVec 12) :
    List Word :=
  [1#1 ++ 0x21#6 ++ np ++ p1 ++ p2 ++ p3 ++ p4 ++ b1 n1 ++ b1 n2 ++ b1 n3 ++ b1 n4 ++ 0#3,
   1#1 ++ 0x22#6 ++ 0#1 ++ off1 ++ off2,
   0#1 ++ 0x22#6 ++ 0#1 ++ off3 ++ off4]

/-- The branch packet in three words whose MAJ and C are those of R65, with the bits that must be zero checked; the
fields beyond pair NP + 1 are `wf`'s. -/
def decodeMbr (w0 w1 w2 : Word) : Decoded :=
  if w0.extractLsb' 25 6 = 0x21#6 ∧ w1.extractLsb' 25 6 = 0x22#6 ∧ w2.extractLsb' 25 6 = 0x22#6 ∧
      w0.getLsbD 31 = true ∧ w1.getLsbD 31 = true ∧ w2.getLsbD 31 = false then
    if w0.extractLsb' 0 3 = 0#3 ∧ w1.getLsbD 24 = false ∧ w2.getLsbD 24 = false then
      .ok (.mbr (w0.extractLsb' 23 2) (w0.extractLsb' 19 4) (w0.extractLsb' 15 4) (w0.extractLsb' 11 4)
        (w0.extractLsb' 7 4) (w0.getLsbD 6) (w0.getLsbD 5) (w0.getLsbD 4) (w0.getLsbD 3)
        (w1.extractLsb' 12 12) (w1.extractLsb' 0 12) (w2.extractLsb' 12 12) (w2.extractLsb' 0 12))
    else .badField
  else .illegal

/-- The word in four bytes, lowest address first (R55). -/
def wordOfBytes : List Byte → Word
  | [b0, b1, b2, b3] => b3 ++ b2 ++ b1 ++ b0
  | _ => 0#32

/-- The rows of the table that are events, not words: they have no encoding. -/
def isEvent : Instr → Bool
  | .regroup .. => true
  | .seniorForcedIssue .. => true
  | .backoffExpiry .. => true
  | .watchdog .. => true
  | .yResultDelivery .. => true
  | .reduxYaddResult .. => true
  | .loadDataArrival .. => true
  | .convertingLoadResolve .. => true
  | .l1Eviction .. => true
  | .homeArrival .. => true
  | .flushMarkerAck .. => true
  | .walk .. => true
  | .walkRetry .. => true
  | .memorySideFault .. => true
  | .pageFaultReport .. => true
  | .faultRecordWrite => true
  | .resume .. => true
  | .fail .. => true
  | .endCommand .. => true
  | .launchQueueTailWrite .. => true
  | .nodeSpecAccept .. => true
  | .compareManifest .. => true
  | .preemptGang .. => true
  | .preemptCrew .. => true
  | .crewRestore .. => true
  | .gangSwap .. => true
  | .gangPlacement .. => true
  | .gangRestore .. => true
  | .gangRelease .. => true
  | .spawnedCrewStart .. => true
  | .nodeCompletion .. => true
  | .arenaDrained .. => true
  | .arenaBirth .. => true
  | .dependenceSignal .. => true
  | .taskQueueRefill .. => true
  | .continuationResume .. => true
  | .copyOpStart .. => true
  | .copyOpComplete .. => true
  | .copyPageResume .. => true
  | .cpbLanding .. => true
  | .matrixWordTake .. => true
  | .objAnnounceStep .. => true
  | .objApplyStep .. => true
  | .objFinishStep .. => true
  | .objCollect .. => true
  | .redBatchApply .. => true
  | .flitCrcFail .. => true
  | .dieSublinkRetrain .. => true
  | .dieSublinkFail .. => true
  | .networkPathRetrain .. => true
  | .networkPathFail .. => true
  | .transportResend .. => true
  | .peerPacketArrival .. => true
  | .walkInvalidate .. => true
  | .setMassifCachePart .. => true
  | .setPower .. => true
  | .firmwareUpdate .. => true
  | .substituteSpareCore .. => true
  | .retireRecalibrate .. => true
  | .replacePort .. => true
  | .attestationRequest .. => true
  | .setDeviceId .. => true
  | .managementRegisterWrite .. => true
  | .thermalTrip .. => true
  | .scrub .. => true
  | .deviceReset => true
  | .illegalInstruction .. => true
  | .sensorReading .. => true
  | .sublinkReturnToService .. => true
  | .pathReturnToService .. => true
  | .hostMainbandAccess .. => true
  | .unitRetirement .. => true
  | _ => false

/-- The words of an instruction with its chain bit: three for the branch packet, whose chain bits are fixed (R65), none
for an event, one for every other instruction. -/
def codes (c : Bool) : Instr → List Word
  | .mbr np p1 p2 p3 p4 n1 n2 n3 n4 o1 o2 o3 o4 => encodeMbr np p1 p2 p3 p4 n1 n2 n3 n4 o1 o2 o3 o4
  | i => if isEvent i then [] else [encode c i]

/-- The four bytes of a word, lowest address first (R55). -/
def bytesOfWord (w : Word) : List Byte :=
  [w.extractLsb' 0 8, w.extractLsb' 8 8, w.extractLsb' 16 8, w.extractLsb' 24 8]

/-- The instruction the decoder reads from the words of one instruction: one word, or the three of a branch packet. -/
noncomputable def decodeWords : List Word → Decoded
  | [w] => decode w
  | [w0, w1, w2] => decodeMbr w0 w1 w2
  | _ => .illegal

/-- The instruction in bytes as memory holds them. -/
noncomputable def decodeBytes : List Byte → Decoded
  | [b0, b1, b2, b3] => decode (wordOfBytes [b0, b1, b2, b3])
  | [a0, a1, a2, a3, b0, b1, b2, b3, c0, c1, c2, c3] =>
    decodeMbr (wordOfBytes [a0, a1, a2, a3]) (wordOfBytes [b0, b1, b2, b3]) (wordOfBytes [c0, c1, c2, c3])
  | _ => .illegal

/-- The bytes of an instruction given as a number, its first word's least significant byte first. -/
def bytesOfNat : Nat → Nat → List Byte
  | 0, _ => []
  | k + 1, w => BitVec.ofNat 8 w :: bytesOfNat k (w / 256)

/-- The instruction the decoder reads from the table's numbering of bits. An instruction is 12 bytes when it is the
branch packet and 4 bytes otherwise. -/
noncomputable def decodeTableWord (nbits w : Nat) : Option Instr :=
  let len := if nbits ≤ 32 then 4 else 12
  match decodeBytes (bytesOfNat len w) with
  | .ok i => some i
  | _ => none

end Sys2Proof
end

