-- ==== Sys2Proof/Config.lean ====
section
/-!
DEFINITION. What the standard part fixes (00 R2, R3), and the values that nothing in the manual fixes.
-/
namespace Sys2Proof.Config

/-- Compute dies (R1). -/
def dies : Nat := 4
/-- Columns of a die (R2). -/
def colsPerDie : Nat := 8
/-- Enabled cores of a die (R2). -/
def coresPerDie : Nat := 64
/-- Physical cores of a die (R2). -/
def physPerDie : Nat := 68
/-- Logical cores of the standard part (R191). -/
def logicalCores : Nat := 256
/-- Scheduler partitions of a core (R3). -/
def partitions : Nat := 16
/-- Crew contexts of a core (R175). -/
def crewContexts : Nat := 64
/-- Resident gangs of a core (R169). -/
def gangSlots : Nat := 8
/-- Crews of a gang (R167). -/
def crewsPerGang : Nat := 32
/-- Units of a core's pool (R186). -/
def poolUnits : Nat := 48
/-- Cells of a register unit (R186). -/
def cellsPerUnit : Nat := 16384
/-- Bytes of a line (R2). -/
def lineBytes : Nat := 128
/-- Lines of a set per 64 KiB unit: 16 ways of 32 sets (R246). -/
def l1Ways : Nat := 16
/-- Accumulator bytes of a core (R329). -/
def accBytes : Nat := 524288
/-- Entries of a core's RED hold buffer (R267). -/
def redHold : Nat := 8192
/-- Entries of a core's hardware task queue (R373). -/
def taskQueue : Nat := 32
/-- Launch contexts (R251). -/
def launchContexts : Nat := 1024
/-- Entries of the arena table (R237). -/
def arenaSlots : Nat := 4096
/-- Replay entries of a fibre (R410). -/
def replayEntries : Nat := 32
/-- Unresolved converting loads of a fibre (R158). -/
def convLoads : Nat := 4
/-- Steps of one execution of an object instruction (R209). -/
def objSteps : Nat := 18
/-- Operations of a copy context that have not completed (R315). -/
def copyOut : Nat := 32
/-- Matrix words of a gang that the engine has not taken (R353). -/
def matrixQueue : Nat := 32
/-- Words that a runahead follows (R410). -/
def runaheadWords : Nat := 256
/-- Pages of a batch (R408). -/
def batchPages : Nat := 16
/-- Clock in kHz (R383). -/
def clockKHz : Nat := 1050000
/-- Ethernet ports (R5). -/
def ports : Nat := 18
/-- UCIe modules (R5). -/
def modules : Nat := 8

/-- What a byte of memory reads as before anything has written it. DESIGN CHOICE (log 3): the manual gives memory no
contents at power-on. Unsafe: a claim could lean on the zero. -/
def blankByte : Byte := 0#8

/-- The signature over an attestation report (R441): a function of the report, whose value nothing fixes (log 30). -/
opaque attestationSignature : List Nat → Nat

/-- A byte of an entry of a RED spill area (R267, R365), for the number of the issue that moved it: nothing fixes the form
of an entry (log 39). -/
opaque spillByte : Nat → Nat → Byte

/-- Which of the lines of a full set the L1 evicts to make room (R246), for a moment and the line that comes: nothing fixes
the choice (log 58). -/
opaque victim : Nat → Nat → Nat

/-- Which half of a 16-byte access performs first, for the access's number (R124): the manual does not say (log 56). -/
opaque highHalfFirst : Nat → Bool

/-- Whether a request went down a unit of the fabric or of the network, for a moment, the request's number and the unit
(R424, R434): the fabric chooses paths by load, which nothing fixes (log 43). -/
opaque carried : Nat → Nat → Nat → Bool

/-- Whether a walk at a moment uses an entry that its unit has kept, for the unit and the entry's number, where the host
has changed the entry and has not invalidated it (R241, log 55). -/
opaque usesKept : Nat → Nat → Nat → Bool

/-- Which of the device's own events comes at a moment, among those that can (log 4): the manual gives them no order
beyond the waits of its rules. -/
opaque choice : Nat → Nat

/-- Which place in a chain the matrix engine takes at a moment, where it may reorder (R104, log 4). -/
opaque matrixPick : Nat → Nat

end Sys2Proof.Config
end

