-- ==== Sys2Proof/Machine/State.lean ====
section
/-!
DEFINITION. The state of the device, as plain data: what one fibre holds (01 R13), crews and gangs (08), the levels of
memory (12), the engines (16), nodes and arenas (19), faults and saves (22), dies and links (23); and the machine right
after device reset.
-/
namespace Sys2Proof.Machine

/-- Bytes at addresses, in the canonical form that `Memory.wf` states. -/
abbrev Memory := List Host.Cell

/-- Why the machine stops. -/
inductive Fault where
  /-- Raised by `step` and by every event but a device reset once a thermal trip has powered the package down
  (23 R439: all running work is lost). Safe: nothing runs after it. -/
  | poweredDown
  deriving DecidableEq, Repr

/-- Why an instruction has no meaning. -/
inductive Refusal where
  /-- Raised by an arm of `exec` that is not written. Safe: no claim is made about it. -/
  | notModelled (mnemonic : String)
  deriving DecidableEq, Repr

/-! ### One fibre -/

/-- A window cell with its full/empty bit (R13). -/
structure Cell where
  val : Word
  full : Bool
  deriving DecidableEq, Repr

/-- A VPF register: header cell, significand cells most significant first, full/empty bit (R19). -/
structure YReg where
  hdr : Word
  sig : List Word
  full : Bool
  deriving DecidableEq, Repr

/-- A resident frame record (R23) with the VPF area of the window it saves (R22, R24). -/
structure Frame where
  rpc : DWord
  n : Nat
  m : Nat
  lw : Nat
  kind : Nat
  delta : Nat
  ys : List YReg
  deriving DecidableEq, Repr

/-- A loop-stack entry (R133). START and END are packet addresses. -/
structure LoopEntry where
  start : DWord
  last : DWord
  count : Word
  base : Nat
  deriving DecidableEq, Repr

/-- The architected state of a fibre (R13). `cells` is the register stack's span from its bottom, `frames` the
resident frames, youngest first; the node's quota is the length of `cells`. -/
structure Regs where
  pc : DWord
  pw : BitVec 16
  cells : List Cell
  base : Nat
  n : Nat
  lw : Nat
  ys : List YReg
  frames : List Frame
  sfc : Nat
  prc : Word
  rndc : DWord
  loops : List LoopEntry
  bt : List Nat
  ostep : Word
  tvec : DWord
  tcause : Word
  tepc : DWord
  tval : DWord
  ydl : Word
  lstat : Word
  fstat : Word
  deriving DecidableEq, Repr

/-- Where a late value goes: cells of the stack span, but for the offsets in `skip`; a VPF register of the window that
has `level` frames under it; a predicate; or nowhere (R15). -/
inductive Dest where
  | none
  | cells (pos len : Nat) (skip : List Nat)
  | yreg (level k : Nat)
  | pred (p : Nat)
  deriving DecidableEq, Repr

/-- The kinds of outstanding access (R410). -/
inductive AccOp where
  /-- A plain load (R122); `signed` for the sign-extending forms. -/
  | load (signed : Bool)
  /-- `ldy.k` (R157). -/
  | ldy (k : Nat)
  /-- `ldc` of format code SZ (R161). -/
  | ldc (fmt : Nat)
  /-- A plain store (R123), `sty` and `stc` included. -/
  | store
  /-- AMO and AMO.ar, XFN [3:0] (R291). -/
  | amo (op : Nat) (ar : Bool)
  /-- RED, XFN [3:0] (R297), in throughput mode. -/
  | red (op : Nat)
  /-- `lda` (R300). -/
  | lda
  /-- `str` (R300). -/
  | str
  /-- A fence, with its parts (R303). -/
  | fence (rel acq chk : Bool)
  /-- `wbr` (R305). -/
  | wbr
  /-- `invr` (R305). -/
  | invr
  /-- `ldf`, `ldf.cons` (R310). -/
  | ldf (cons : Bool)
  /-- `stf` (R311). -/
  | stf
  /-- `task.deq` (R393). -/
  | deq
  deriving DecidableEq, Repr

/-- How far an outstanding access has come. -/
inductive Stage where
  /-- Issued; its walk and its performing are still to come. -/
  | issued
  /-- To be replayed before the fibre issues any word (R412). -/
  | replay
  /-- A busy walk, with the tries made (R240); `again` when it is a replay. -/
  | busy (tries : Nat) (again : Bool)
  /-- A walk or memory-side check failed with this code and outcome (R241), at this IA. -/
  | faulted (code sub ia : Nat)
  /-- The fault has been reported; the access waits for its replay (R412). -/
  | reported
  /-- Its release's markers are on their way, or its own (R261, R263); its own access is still to be made. -/
  | releasing
  /-- Sent to its home and not yet applied there (R249). -/
  | sent
  deriving DecidableEq, Repr

/-- A replay entry: an access that a fibre has issued and that has not performed (R410). `ia` is the intermediate
address, or the scratchpad offset when `spad` holds; `grp` numbers the issue it came from, for the lane order of R293;
`mseq` is the number of the gang's last matrix word before it (R332); `lost` says that a write which a release had to
carry was lost (R302); `half` stands where the access performs as two 8-byte halves, with the one that has performed
(`true` the high one), of which `data` then holds what a load has read (R124); `base` is the serial number of the first word
of its chain (R158), and `ckpt` the registers as its chain found them, for a chain that can be taken back (R158, R312);
`orphan` says that its fibre has ended, so that no value or status of it arrives (R212), and `mute` that a later slot of its
chain writes p15, so that its own status goes nowhere (R15). -/
structure Access where
  ser : Nat
  base : Nat
  op : AccOp
  spad : Bool
  va : DWord
  ia : Nat
  size : Nat
  dest : Dest
  data : List Byte
  scope : Nat
  tracked : Bool
  stage : Stage
  grp : Nat
  mseq : Nat
  lost : Bool
  half : Option (Option Bool)
  orphan : Bool
  mute : Bool
  ckpt : Option Regs
  deriving DecidableEq, Repr

/-- What is on its way to a register: a load's data, a long-latency result, or the bytes of a converting load. -/
inductive DelivKind where
  | load | yop | redux | conv (op : AccOp)
  deriving DecidableEq, Repr

/-- A value on its way to its destination (R105, R122, R145, R220), with the flags (R146) and the status predicate
(R310) that land with it. `ser` places it in program order among the fibre's accesses and long-latency words, `base`
its chain (R158). -/
structure Deliv where
  ser : Nat
  base : Nat
  kind : DelivKind
  dest : Dest
  vals : List Word
  yval : Option YReg
  flags : BitVec 6
  status : Option Bool
  bytes : List Byte
  va : DWord
  ckpt : Option Regs
  deriving DecidableEq, Repr

/-- The phases of a running object instruction (R222). -/
inductive ObjPhase where
  | announce | apply | complete (status : Nat)
  /-- Interrupted: the instruction is run again from its start once its crew runs (R224). -/
  | stopped
  deriving DecidableEq, Repr

/-- Where a step of an object instruction stands between its reads, its committing compare-and-swap and what follows that
(R202 to R205): the frame addresses it has translated, and the words it has read. -/
inductive ObjMid where
  /-- No step is under way. -/
  | idle
  /-- To install ticket `t` in the record at `rp`, read as W0 and W1; header at `hp`, own mailbox at `mp`. -/
  | announcing (t w0 w1 hp rp mp : Nat)
  /-- To move NEXT past `t`. -/
  | moving (t hp : Nat)
  /-- To apply ticket `u` to the header words 1 to 3 that it read, with the record's W0 and W1; `slot` is the element slot
  with what it held. -/
  | applying (u hp rp mp word1 word2 word3 w0 w1 : Nat) (slot : Option (Nat × Nat))
  /-- Ticket `u` has committed, and is to be finished. -/
  | finishing (u rp mp : Nat)
  deriving DecidableEq, Repr

/-- A running object instruction (R208, R209): its sub-code, object address, operand, ticket held, steps taken (for
`obj.init` pieces written, R225), the result gathered, for `obj.help` the NEXT it read first, the position of w[D] in the
stack span and w[D] and w[D+1] as they were at issue (R222, R223), the number of its issue, for the lane order of R222,
the object's SCOPE once read with the serial number of its release (R210), the step under way with the lines that it has
translated (R202), and whether it has been stopped amid the end of a step (R208). -/
structure ObjRun where
  xfn : Nat
  va : DWord
  operand : Word
  ticket : Nat
  steps : Nat
  phase : ObjPhase
  result : Word
  bound : Option Nat
  pos : Nat
  low : Word
  high : Word
  grp : Nat
  scope : Nat
  fence : Option Nat
  mid : ObjMid
  lines : List Nat
  halted : Bool
  deriving DecidableEq, Repr

/-- Whether a fibre exists. -/
inductive Life where
  | absent | live | ended
  deriving DecidableEq, Repr

/-- A system fault that one fibre raised: the PC of its chain, its code, its SUB, and the VA and IA of the record (R408). -/
structure FaultItem where
  id : FibId
  pc : DWord
  code : Nat
  sub : Nat
  va : DWord
  ia : Nat
  deriving DecidableEq, Repr

/-- A fibre: its identity (R167), its architected state, and what the device keeps for it. `backoff` is the clock of its
partition at which its polling back-off ends (R183); `rel` is the release that its task word has begun before its own
action, and once it is done whether it lost a write (R387); `early` is the serial number of the M-pipe word of the chain at
its PC where that has been issued before the others (log 61); `due` is a trap raised whose entry waits for the flags still
pending (R146); `lost` lists the IAs of the lost writes that its next release must find (R302); `met` is a fault that it has
raised at issue and that waits for the crew's report of page faults (R408, R410). -/
structure Fibre where
  id : FibId
  stg : Nat
  regs : Regs
  life : Life
  backoff : Option Nat
  acc : List Access
  dlv : List Deliv
  obj : Option ObjRun
  rel : Option (Nat × Option Bool)
  early : Option Nat
  due : Option (Nat × Nat × DWord)
  lost : List Nat
  met : Option FaultItem
  nextSer : Nat
  deriving DecidableEq, Repr

/-! ### Crews and gangs -/

/-- The roles of a stage (R170). -/
inductive Role where
  | copy | matrix | vector
  deriving DecidableEq, Repr

/-- Why a crew does not run. -/
inductive CrewState where
  /-- Running. -/
  | running
  /-- Spawned, and waiting for the spawner's earlier accesses (R214): the spawner and its next serial number then. -/
  | starting (spawner : FibId) (ser : Nat)
  /-- Suspended by a system fault until the host answers (R409). -/
  | suspended (code : Nat)
  deriving DecidableEq, Repr

/-- Whether a crew of a resident gang is on its core (R449). -/
inductive CrewPlace where
  | here
  /-- Its fibres have stopped, and the pre-emption engine waits for what they have under way. -/
  | leaving
  /-- Saved alone. -/
  | away
  deriving DecidableEq, Repr

/-- A crew (R167, R172, R175), with the lanes it was started with. -/
structure Crew where
  cid : Nat
  stg : Nat
  lanes : BitVec 32
  ctx : Nat
  age : Nat
  state : CrewState
  place : CrewPlace
  deriving DecidableEq, Repr

/-- How far a copy operation that has started has come (R271, R272, R344). -/
inductive CopyPhase where
  /-- Nothing is done; or an attempt of `g2s.cons` begins. -/
  | begin
  /-- `s2g.atom` has read its version word, and is to claim it. -/
  | looked (v : Nat)
  /-- Rows are being moved; `v` is the version word read, where the form has one. -/
  | moving (v : Nat)
  /-- Everything is written, and the markers of the writes are on their way (R270). -/
  | flushing (v : Nat)
  /-- A write of `s2g.atom`, or one that its release carries, has been lost: it ends without a whole tile (R271). -/
  | torn
  deriving DecidableEq, Repr

/-- A copy operation that a context has accepted (R315): its form, its tile block, the CID of its crew, whether it has
started, whether it waits on a page, whether its arena check failed at its start (R380), and the codebook table it started
with (R319); the rows it has moved, the arenas it has checked (R380), the homes it has written (R270), and the attempts made
(R272). -/
structure CopyOp where
  seq : Nat
  form : Nat
  block : List Word
  crew : Nat
  started : Bool
  paged : Bool
  stale : Bool
  cbt : List (BitVec 16)
  row : Nat
  known : List Nat
  homes : List Nat
  attempt : Nat
  phase : CopyPhase
  deriving DecidableEq, Repr

/-- A copy engine context (R314), with the operations accepted and not completed, in sequence order; OUT is their
number. -/
structure CopyCtx where
  issued : Nat
  completed : Nat
  stat : Word
  cbt : List (BitVec 16)
  ops : List CopyOp
  deriving DecidableEq, Repr

/-- A matrix word with the operands it carries (R350 to R357); `left` lists the k-steps of an `mma` still to be taken. -/
inductive MWord where
  | shape (grant : Word)
  | mma (tile type : Nat) (sparse : Bool) (aOff bOff : Nat) (left : List Nat)
  | zero (tile : Nat)
  | chainB (tile : Nat) (reorder : Bool)
  | chainE (tile : Nat)
  | setprom
  | stF32 (tile off : Nat)
  | stBf16 (tile off : Nat)
  | ldF32 (tile off : Nat)
  | flush (tile : Nat)
  deriving DecidableEq, Repr

/-- A matrix word that the engine has accepted and not taken (R353): its number among the gang's, and the SHP, P and
promotion mode it was issued under (R330, R350). -/
structure MOp where
  no : Nat
  shp : Word
  p : Nat
  rsr : Bool
  word : MWord
  deriving DecidableEq, Repr

/-- An accumulator tile (R329, R330): FP32 elements, A26 partials, count, promotion number, chain. -/
structure Tile where
  elems : List Word
  parts : List (BitVec 26)
  count : Nat
  j : Nat
  chain : Option Bool
  deriving DecidableEq, Repr

/-- A per-fibre copy in flight (R324); `ser` places it in the fibre's program order. -/
structure CpbOp where
  who : FibId
  ser : Nat
  tag : Nat
  va : DWord
  ia : Nat
  len : Nat
  off : Nat
  stage : Stage
  deriving DecidableEq, Repr

/-- A held RED of a deterministic node (R267): its place in the batch order, what it does, the number of its issue,
and whether it has been moved to the spill area. -/
structure HeldRed where
  cid : Nat
  fid : Nat
  ser : Nat
  op : Nat
  ia : Nat
  data : List Byte
  arena : Option Nat
  spilled : Bool
  core : Nat
  no : Nat
  deriving DecidableEq, Repr

/-- Where a gang is. -/
inductive GangPlace where
  /-- Not yet admitted. -/
  | waiting
  /-- On a core. -/
  | resident (core : Nat)
  /-- Saved by the pre-emption engine; `swap` after a dispatcher swap (R184). `old` is the core it left. -/
  | saved (old : Nat) (swap : Bool)
  /-- All its crews have ended; its engine contexts drain (R174). -/
  | draining (core : Nat)
  /-- Released. -/
  | ended
  deriving DecidableEq, Repr

/-- A gang (R169): its crews, scratchpad region and granule bits (R242, R243), copy contexts, matrix state (R327 to
R330), copies in flight and held REDs. `leaving` says that the pre-emption engine waits to save it, and for a swap the
NID and GID of the gang that room is made for (R184, R413); `image` is the size of its fibres' save images at its last save
(R414). -/
structure Gang where
  nid : Nat
  gid : Nat
  place : GangPlace
  crews : List Crew
  roles : List Role
  spad : Memory
  gran : List Nat
  ctxs : List CopyCtx
  shp : Word
  tiles : List Tile
  promP : Nat
  promRsr : Bool
  mnext : Nat
  matq : List MOp
  cpbs : List CpbOp
  held : List HeldRed
  cont : Option Nat
  leaving : Option (Option (Nat × Nat))
  image : Nat
  deriving DecidableEq, Repr

/-! ### Cores -/

/-- An L1 line (R246, R256): line number IA / 128, data, dirty mask, whether all 128 bytes hold data, context tag, T,
whether the array holds an error there that cannot be corrected (R253), and the GID and CID of the crew that stored to it
last, which a link event names (R427). -/
structure L1Line where
  line : Nat
  data : List Byte
  dm : BitVec 128
  whole : Bool
  ctx : Nat
  tracked : Bool
  err : Bool
  crew : Nat × Nat
  deriving DecidableEq, Repr

/-- The bundles of a partition (R176): the fibres of one gang and stage at one PC, one per home lane. -/
structure Bundle where
  part : Nat
  nid : Nat
  gid : Nat
  stg : Nat
  pc : DWord
  ids : List FibId
  deriving DecidableEq, Repr

/-- A partition's clocks since reset, and its SEN counter (R179). -/
structure Part where
  clock : Nat
  sen : Nat
  deriving DecidableEq, Repr

/-- A task queue entry (R373). -/
structure TaskEntry where
  nid : Nat
  cells : List Word
  deriving DecidableEq, Repr

/-- A core: its pool split while gangs are resident (R186), the split it drains for, its L1, its partitions and
bundles, its hardware task queue, the next age of a crew admitted to it, the homes it has sent something to since its last
release at `pkg` or `sys` (R263; as `State.homeOf` numbers them), the spare that is to take its number (R437), and the age, node and gang that its matrix engine took from last
(R333). -/
structure Core where
  num : Nat
  split : Option (Nat × Nat)
  drainFor : Option (Nat × Nat)
  l1 : List L1Line
  parts : List Part
  bundles : List Bundle
  queue : List TaskEntry
  nextAge : Nat
  homes : List Nat
  spare : Option Nat
  mturn : Option (Nat × Nat × Nat)
  deriving DecidableEq, Repr

/-! ### Nodes -/

/-- A range register (R234). -/
structure Range where
  v : Bool
  pr : Bool
  pw : Bool
  px : Bool
  base : Nat
  limit : Nat
  offset : Nat
  deriving DecidableEq, Repr

/-- A tile window (R244, R365). -/
structure Window where
  base : Nat
  pitch : Nat
  rows : Nat
  deriving DecidableEq, Repr

/-- An arena request (R378). -/
structure AReq where
  size : Nat
  place : Nat
  col : Nat
  hv : Bool
  hix : Nat
  deriving DecidableEq, Repr

/-- The fields of an accepted node spec and its extension block (R364, R365), with the successor list and the entry
packet read at acceptance (R366, R75). -/
structure Spec where
  addr : Nat
  image : Nat
  nid : Nat
  gangs : Nat
  ent : Nat
  stages : Nat
  det : Bool
  roles : List Role
  crews : List Nat
  lmask : BitVec 32
  l1Units : Nat
  regUnits : Nat
  ssh : Nat
  quota : Nat
  ydef : Nat
  thr : Nat
  swm : BitVec 8
  larg : DWord
  omb : DWord
  seed : DWord
  deps : Nat
  succ : List Nat
  areqs : List AReq
  ranges : List Range
  windows : List Window
  tqb : Nat
  tqn : Nat
  rsb : Nat
  rsn : Nat
  mani : Nat
  entry : DWord
  mapC : Nat
  deriving DecidableEq, Repr

/-- The states of a node (R367). -/
inductive NodeState where
  | waiting | runnable | running | completed | failed | refused
  deriving DecidableEq, Repr

/-- A continuation record that waits (R376): its VA, the fibre that wrote it, the lane, its condition. `need` is
the last operation of the named context that it waits for. -/
structure Cont where
  va : DWord
  who : FibId
  kind : Nat
  sel : Nat
  need : Nat
  taken : Bool
  deriving DecidableEq, Repr

/-- A node's spill ring on a core (R373). -/
structure Ring where
  core : Nat
  rh : Nat
  rt : Nat
  deriving DecidableEq, Repr

/-- A node (R364 to R377). `placed` counts the gangs placed, `resumed` the continuations resumed, `batched` holds the
gangs whose RED batches are applied, `failing` the code of a failure whose path is not done, `closing` says that
step 2 of R377 has begun, and `statusDue` that its STATUS is still to be written (R367). -/
structure Node where
  spec : Spec
  state : NodeState
  code : Nat
  flags : BitVec 5
  counter : Nat
  added : List Nat
  ctx : Nat
  born : Bool
  arenas : List (Option Nat)
  rings : List Ring
  conts : List Cont
  resumed : Nat
  placed : Nat
  batched : List Nat
  failing : Option Nat
  closing : Bool
  statusDue : Bool
  deriving DecidableEq, Repr

/-! ### The device -/

/-- The states of an arena (R237). -/
inductive ArenaState where
  | free | live | dying | dead
  deriving DecidableEq, Repr

/-- An entry of the arena table (R237); `dropped` says that step 3 of its death has been taken (R380). -/
structure Arena where
  gen : BitVec 8
  state : ArenaState
  place : Nat
  col : Nat
  nid : Nat
  size : Nat
  iabase : Nat
  heir : Nat
  dropped : Bool
  deriving DecidableEq, Repr

/-- A walk unit (R239): its root pointer and the entries it keeps, each with the IA page it maps (R241). -/
structure WalkUnit where
  root : Nat
  kept : List (Nat × DWord)
  deriving DecidableEq, Repr

/-- What travels to a home (R249, R263). -/
inductive FlightOp where
  /-- Dirty bytes of a line, with the context tag they carry, the GID and CID of the crew that stored last, and T. -/
  | writeBack (ctx : Nat) (crew : Nat × Nat) (tracked : Bool)
  /-- A fibre's access that performs at the home. -/
  | access (who : FibId) (ser : Nat) (op : AccOp)
  /-- A flush marker (R263), with the homes that it goes to beyond the core's own die. -/
  | marker (who : FibId) (ser : Nat) (homes : List Nat)
  /-- A flush marker of a copy operation (R270), with its homes. -/
  | engineMarker (nid gid ctx seq : Nat) (homes : List Nat)
  deriving DecidableEq, Repr

/-- A message on its way to a home: the core it left, its IA, its bytes with the mask of those that count. -/
structure Flight where
  core : Nat
  op : FlightOp
  ia : Nat
  bytes : List (Option Byte)
  deriving DecidableEq, Repr

/-- A launch queue (R368); HEAD and TAIL are counts modulo 2^32 (log 65). -/
structure LaunchQ where
  qbase : Nat
  qsize : Nat
  head : Nat
  tail : Nat
  deriving DecidableEq, Repr

/-- A fault record (R408). -/
structure FaultRec where
  code : Nat
  sub : Nat
  pages : List Nat
  nid : Nat
  gid : Nat
  cid : Nat
  lmask : BitVec 32
  pc : DWord
  va : DWord
  ia : Nat
  deriving DecidableEq, Repr

/-- The fault queue (R408), with the records that wait for an entry. -/
structure FaultQ where
  base : Nat
  size : Nat
  head : Nat
  tail : Nat
  waiting : List FaultRec
  deriving DecidableEq, Repr

/-- A column's sensor (R189). -/
structure Sensor where
  temp : Nat
  valid : Bool
  deriving DecidableEq, Repr

/-- The state of a die sublink or of a network path (R426). -/
inductive LinkState where
  | up
  | retraining (tries : Nat)
  | failed
  deriving DecidableEq, Repr

/-- A path to a peer that is not simply in service (R426, R427). -/
structure NetPath where
  peer : Nat
  path : Nat
  state : LinkState
  deriving DecidableEq, Repr

/-- What the device tells the host. -/
inductive Note where
  /-- A bit of STATUS [20:16] was set in a node (R367). -/
  | status (nid bit : Nat)
  /-- A signal to a handle that is not current was dropped (R391). -/
  | signalDropped (nid : Nat)
  /-- An edge beyond 64 was dropped (R390). -/
  | edgeDropped (nid : Nat)
  /-- A lost write: its IA, node, gang and crew (R427). -/
  | lostWrite (ia nid gid cid : Nat)
  /-- An uncorrectable error found by scrub (R253). -/
  | badMemory (ia : Nat)
  /-- The result of a compare-manifest command (R384). -/
  | manifest (code k : Nat)
  /-- An attestation report (R441): its fields and its signature. -/
  | attestation (report : List Nat) (signature : Nat)
  /-- A thermal trip (R439). -/
  | trip (die col : Nat)
  /-- A host command was refused (R437). -/
  | refused (what : Nat)
  /-- Bytes a host read returned (R431). -/
  | readData (ia : Nat) (bytes : List Byte)
  /-- A peer's packet was refused (R433). -/
  | peerRefused (peer : Nat)
  /-- What a peer's read or AMO is answered (R433). -/
  | peerAnswer (peer : Nat) (bytes : List Byte)
  deriving DecidableEq, Repr

/-- An added dependence signal on its way to a node (R371). -/
structure Signal where
  nid : Nat
  deriving DecidableEq, Repr

/-- What walks again while its page is being migrated (R240). -/
inductive TryKey where
  /-- The fetch of a fibre. -/
  | fetch (id : FibId)
  /-- A word of a fibre that walks at issue, and the VA that it walks. -/
  | word (id : FibId) (va : Nat)
  /-- A step of a fibre's object instruction. -/
  | step (id : FibId)
  /-- An access at its home. -/
  | arrival (id : FibId) (ser : Nat)
  /-- A write-back of a core at the home of a line. -/
  | writeBack (core line : Nat)
  /-- A copy operation. -/
  | copy (nid gid ctx seq : Nat)
  /-- The record of a continuation, by its node and VA. -/
  | record (nid va : Nat)
  /-- The entry at the head of a launch queue, or what it points to, by the address that is read. -/
  | launch (queue addr : Nat)
  /-- The spill ring of a node on a core. -/
  | ring (nid core : Nat)
  /-- A RED of the batch of a gang. -/
  | batch (nid gid : Nat)
  /-- The live masks of a code point, which a save or an entry reads, by the node and the VA (R74). -/
  | mask (nid va : Nat)
  /-- The manifest that the host has compared, by its IA (R384). -/
  | manifest (ia : Nat)
  /-- A packet of a peer, by its IA (R433). -/
  | peer (peer ia : Nat)
  deriving DecidableEq, Repr

/-- The export window of a peer (R433): its device ID, size and permissions. -/
structure PeerExport where
  peer : Nat
  size : Nat
  r : Bool
  w : Bool
  deriving DecidableEq, Repr

/-- The links and units outside the cores (23), the save area that the host gives each launch context, by its number
(R414), and the column in which each spare core that has been taken stands (R2). A peer that `peerExports` does not list exports 2 GiB with PR and PW (log 25). -/
structure Fabric where
  saveAreas : List (Nat × Nat)
  sublinks : List LinkState
  paths : List NetPath
  unreachable : List Nat
  peerExports : List PeerExport
  portRate : List Nat
  portUp : List Bool
  portRtt : List Nat
  moduleUp : List Bool
  exportBase : Nat
  exportSize : Nat
  exportR : Bool
  exportW : Bool
  deviceId : Nat
  power : Nat
  firmware : List Nat
  retired : List (Nat × Nat)
  spareCols : List (Nat × Nat)
  ecc : List Nat
  mgmt : List (Nat × Nat)
  deriving DecidableEq, Repr

/-- The whole device. `f`, `g`, `c` and `n` are the fibre that acts and its gang, core and node; `fibres`, `gangs`,
`cores` and `nodes` hold the others (and possibly an older copy of the four, which never counts). `bad` lists the line
numbers at which memory holds an uncorrectable error (R253). `agenda` is what the outside makes happen next, `turn` the
core and partition whose clock comes next, `issue` the lanes of the bundle that issues, `issueNo` its number (log 4).
`tries` counts the busy walks of what still tries again (R240). -/
structure State where
  f : Fibre
  g : Gang
  c : Core
  n : Node
  fibres : List Fibre
  gangs : List Gang
  cores : List Core
  nodes : List Node
  mem : Memory
  flight : List Flight
  walkers : List WalkUnit
  bad : List Nat
  arenas : List (Nat × Arena)
  cachePart : List Nat
  sensors : List Sensor
  queues : List LaunchQ
  nextNid : Nat
  signals : List Signal
  faultq : FaultQ
  fabric : Fabric
  coreMap : List Nat
  notes : List Note
  off : Bool
  agenda : List Instr
  turn : Nat
  issue : List FibId
  issueNo : Nat
  tries : List (TryKey × Nat)
  deriving DecidableEq, Repr

/-! ### Reset -/

/-- A full zero cell. -/
def Cell.zero : Cell := ⟨0#32, true⟩

/-- PRC after reset: L 24 (R25). -/
def prcReset : Word := 0x18#32

/-- The state of a new fibre (R28) with a stack of `q` cells, launch default `ydef`, entry PC and eight first cells. -/
def Regs.fresh (q ydef : Nat) (pc : DWord) (first : List Word) : Regs where
  pc := pc
  pw := 1#16
  cells := (first.map fun v => ⟨v, true⟩) ++ List.replicate (q - first.length) Cell.zero
  base := 0
  n := 8
  lw := 0
  ys := []
  frames := []
  sfc := 0
  prc := prcReset
  rndc := 0#64
  loops := []
  bt := [0, 0, 0, 0]
  ostep := 0#32
  tvec := 0#64
  tcause := 0#32
  tepc := 0#64
  tval := 0#64
  ydl := BitVec.ofNat 32 ydef
  lstat := 0#32
  fstat := 0#32

/-- A new fibre of identity `id` and stage `stg`. -/
def Fibre.fresh (id : FibId) (stg q ydef : Nat) (pc : DWord) (first : List Word) : Fibre where
  id := id
  stg := stg
  regs := Regs.fresh q ydef pc first
  life := .live
  backoff := none
  acc := []
  dlv := []
  obj := none
  rel := none
  early := none
  due := none
  lost := []
  met := none
  nextSer := 0

/-- No fibre: what stands in `State.f` while no fibre acts. -/
def Fibre.none : Fibre := { Fibre.fresh ⟨0, 0, 0, 0⟩ 0 64 0 0#64 (List.replicate 8 0#32) with life := .absent }

/-- A copy context at reset (R314). -/
def CopyCtx.fresh : CopyCtx := ⟨0, 0, 0#32, List.replicate 16 0#16, []⟩

/-- A gang before its first admission (R242, R314, R355). -/
def Gang.fresh (nid gid : Nat) (roles : List Role) : Gang where
  nid := nid
  gid := gid
  place := .waiting
  crews := []
  roles := roles
  spad := []
  gran := []
  ctxs := List.replicate 8 CopyCtx.fresh
  shp := 0#32
  tiles := []
  promP := 1
  promRsr := false
  mnext := 0
  matq := []
  cpbs := []
  held := []
  cont := none
  leaving := none
  image := 0

/-- A core with nothing on it. -/
def Core.blank (num : Nat) : Core where
  num := num
  split := none
  drainFor := none
  l1 := []
  parts := List.replicate 16 ⟨0, 0⟩
  bundles := []
  queue := []
  nextAge := 0
  homes := []
  spare := none
  mturn := none

/-- An unused range register (R234). -/
def Range.off : Range := ⟨false, false, false, false, 0, 0, 0⟩

/-- No node: NID 0 names none (R388). -/
def Node.none : Node where
  spec := {
    addr := 0, image := 0, nid := 0, gangs := 0, ent := 0, stages := 0, det := false, roles := [], crews := []
    lmask := 0#32, l1Units := 0, regUnits := 0, ssh := 0, quota := 0, ydef := 0, thr := 0, swm := 0#8, larg := 0#64
    omb := 0#64, seed := 0#64, deps := 0, succ := [], areqs := [], ranges := List.replicate 8 Range.off, windows := []
    tqb := 0, tqn := 0, rsb := 0, rsn := 0, mani := 0, entry := 0#64, mapC := 0 }
  state := .waiting
  code := 0
  flags := 0#5
  counter := 0
  added := []
  ctx := 0
  born := false
  arenas := List.replicate 16 Option.none
  rings := []
  conts := []
  resumed := 0
  placed := 0
  batched := []
  failing := Option.none
  closing := false
  statusDue := false

/-- An arena table entry after reset (R237). -/
def Arena.reset : Arena := ⟨0#8, .free, 0, 0, 0, 0, 0, 0xFFFFFFFF, false⟩

/-- The links and units after reset: everything in service; host-written registers hold zero (log 2). -/
def Fabric.reset : Fabric where
  saveAreas := []
  sublinks := List.replicate 24 .up
  paths := []
  unreachable := []
  peerExports := []
  portRate := List.replicate 18 0
  portUp := List.replicate 18 true
  portRtt := List.replicate 18 0
  moduleUp := List.replicate 8 true
  exportBase := 0
  exportSize := 0
  exportR := false
  exportW := false
  deviceId := 0
  power := 2400
  firmware := List.replicate 9 0
  retired := []
  spareCols := []
  ecc := List.replicate 8 0
  mgmt := []

/-- Logical core k of the standard part: the first 64 physical cores of each die (log 2). -/
def coreMapReset : List Nat := (List.range 256).map fun k => k / 64 * 68 + k % 64

/-- The machine right after device reset (R237): no node, no gang, no fibre; memory lists nothing; every arena slot
free with GEN 0. -/
def State.reset : State where
  f := Fibre.none
  g := Gang.fresh 0 0 []
  c := Core.blank 0
  n := Node.none
  fibres := []
  gangs := []
  cores := []
  nodes := []
  mem := []
  flight := []
  walkers := List.replicate 16 ⟨0, []⟩
  bad := []
  arenas := []
  cachePart := List.replicate 32 0
  sensors := List.replicate 32 ⟨0xFFF, false⟩
  queues := List.replicate 8 ⟨0, 0, 0, 0⟩
  nextNid := 0x80000000
  signals := []
  faultq := ⟨0, 0, 0, 0, []⟩
  fabric := Fabric.reset
  coreMap := coreMapReset
  notes := []
  off := false
  agenda := []
  turn := 0
  issue := []
  issueNo := 0
  tries := []

end Sys2Proof.Machine
end

