-- ==== Sys2Proof/Machine/Mem.lean ====
section
/-!
DEFINITION. Bytes at addresses (00 R7): a list of cells in one canonical form, addresses strictly rising and no entry
equal to what an unlisted address reads as (log 3). Home memory and the scratchpad regions are such lists.
-/
namespace Sys2Proof.Machine

/-- The byte at an address. -/
def Memory.read : Memory → Nat → Byte
  | [], _ => Config.blankByte
  | (k, v) :: r, a => if a < k then Config.blankByte else if k = a then v else Memory.read r a

/-- `m` with `v` at `a`, in canonical form. -/
def Memory.write : Memory → Nat → Byte → Memory
  | [], a, v => if v = Config.blankByte then [] else [(a, v)]
  | (k, w) :: r, a, v =>
    if a < k then (if v = Config.blankByte then (k, w) :: r else (a, v) :: (k, w) :: r)
    else if k = a then (if v = Config.blankByte then r else (a, v) :: r)
    else (k, w) :: Memory.write r a v

/-- Every listed address is at least `lo`, the addresses rise strictly, and no entry is blank. -/
def Memory.wfFrom : Nat → Memory → Bool
  | _, [] => true
  | lo, (k, v) :: r => decide (lo ≤ k) && (v != Config.blankByte) && Memory.wfFrom (k + 1) r

/-- The canonical form. -/
def Memory.wf (m : Memory) : Bool := Memory.wfFrom 0 m

/-- The `n` bytes from `a`. -/
def Memory.bytes (m : Memory) (a : Nat) : Nat → List Byte
  | 0 => []
  | n + 1 => m.read a :: Memory.bytes m (a + 1) n

/-- Writes a run of bytes from `a`. -/
def Memory.writeBytes : Memory → Nat → List Byte → Memory
  | m, _, [] => m
  | m, a, b :: r => Memory.writeBytes (m.write a b) (a + 1) r

/-- Writes the bytes of a run that are present. -/
def Memory.writeMasked : Memory → Nat → List (Option Byte) → Memory
  | m, _, [] => m
  | m, a, none :: r => Memory.writeMasked m (a + 1) r
  | m, a, some b :: r => Memory.writeMasked (m.write a b) (a + 1) r

/-- The little-endian number in the `n` bytes from `a`. -/
def Memory.num (m : Memory) (a n : Nat) : Nat :=
  match n with
  | 0 => 0
  | k + 1 => (m.read a).toNat + 256 * Memory.num m (a + 1) k

/-- Keeps the entries outside `lo` to `hi - 1`: the range reads blank. -/
def Memory.blank (m : Memory) (lo hi : Nat) : Memory := m.filter fun c => c.1 < lo || hi ≤ c.1

end Sys2Proof.Machine
end

