-- ==== Sys2Proof/Machine/Num.lean ====
section
/-!
DEFINITION. Numbers to the last bit (04): integers, the exact values behind VPF and the fixed formats, the one rounding
`round_L`, the random bits, the VPF elements in memory and the fixed formats.
-/
namespace Sys2Proof.Machine

/-! ### Integers (R76) -/

/-- A signed value clamped to 32 bits (R76). -/
def clampS32 (x : Int) : Word :=
  if x < -2147483648 then 0x80000000#32 else if x > 2147483647 then 0x7FFFFFFF#32 else BitVec.ofInt 32 x

/-- A value clamped to 0 to 2^32 - 1 (R76). -/
def clampU32 (x : Int) : Word :=
  if x < 0 then 0#32 else if x > 4294967295 then 0xFFFFFFFF#32 else BitVec.ofInt 32 x

/-- The one bits of the low `w` bits of a number. -/
def popCount : Nat → Nat → Nat
  | 0, _ => 0
  | w + 1, x => x % 2 + popCount w (x / 2)

/-- Leading zeros of a `w`-bit number. -/
def leadZeros (w x : Nat) : Nat := if x = 0 then w else w - 1 - Nat.log2 x

/-- Trailing zeros of a `w`-bit number, `w` when it is zero. -/
def trailZeros : Nat → Nat → Nat
  | 0, _ => 0
  | w + 1, x => if x % 2 = 1 then 0 else 1 + trailZeros w (x / 2)

/-- The low `w` bits of a number in reverse order. -/
def revBits : Nat → Nat → Nat
  | 0, _ => 0
  | w + 1, x => (x % 2) * 2 ^ w + revBits w (x / 2)

/-! ### Exact values (R77) -/

/-- The classes of a VPF value. -/
inductive Cls where
  | fin | zero | inf | qnan | snan
  deriving DecidableEq, Repr

/-- A VPF value: class, sign, magnitude n × 2^k for a finite nonzero one, NaN payload (R77, R82). -/
structure V where
  cls : Cls
  s : Bool
  n : Nat
  k : Int
  pay : Nat
  deriving DecidableEq, Repr

/-- A zero of sign s. -/
def V.zeroOf (s : Bool) : V := ⟨.zero, s, 0, 0, 0⟩
/-- An infinity of sign s. -/
def V.infOf (s : Bool) : V := ⟨.inf, s, 0, 0, 0⟩
/-- The NaN an operation creates (R87). -/
def V.nan : V := ⟨.qnan, false, 0, 0, 0⟩
/-- A finite value, or a zero of that sign when n is 0. -/
def V.ofNK (s : Bool) (n : Nat) (k : Int) : V := if n = 0 then V.zeroOf s else ⟨.fin, s, n, k, 0⟩
/-- Whether it is a NaN. -/
def V.isNan (v : V) : Bool := v.cls == .qnan || v.cls == .snan
/-- The quiet form of a NaN. -/
def V.quiet (v : V) : V := if v.isNan then { v with cls := .qnan } else v

/-- n × 2^e rounded down, for e of either sign. -/
def shiftInt (n : Nat) (e : Int) : Nat := if 0 ≤ e then n * 2 ^ e.toNat else n / 2 ^ (-e).toNat

/-- The exponent of the leading bit of n × 2^k. -/
def leadExp (n : Nat) (k : Int) : Int := (Nat.log2 n : Int) + k

/-- A nonzero exact magnitude: a rational times a power of two, or the square root of one. -/
inductive Mag where
  | rat (num den : Nat) (k : Int)
  | root (num den : Nat) (k : Int)
  deriving DecidableEq, Repr

/-- floor(log2) of num / den × 2^k. -/
def ratExp (num den : Nat) (k : Int) : Int :=
  let e : Int := (Nat.log2 num : Int) - (Nat.log2 den : Int)
  let lhs := if 0 ≤ e then num else num * 2 ^ (-e).toNat
  let rhs := if 0 ≤ e then den * 2 ^ e.toNat else den
  (if rhs ≤ lhs then e else e - 1) + k

/-- floor(log2) of a magnitude. -/
def Mag.exp : Mag → Int
  | .rat num den k => ratExp num den k
  | .root num den k => (ratExp num den k) / 2

/-- One bit at a time, the integer square root: `i` bits are still to be decided. -/
def isqrtAux : Nat → Nat → Nat → Nat
  | 0, r, _ => r
  | i + 1, r, x => let t := r + 2 ^ i; isqrtAux i (if t * t ≤ x then t else r) x

/-- The integer square root. -/
def isqrt (x : Nat) : Nat := isqrtAux (Nat.log2 x / 2 + 1) 0 x

/-- A scaled magnitude t = mag / 2^g: its floor, how its fraction f compares with one half, whether f > 0, and
ceil(f × 2^32) (R84). -/
structure Scaled where
  n : Nat
  half : Ordering
  inexact : Bool
  c32 : Nat
  deriving DecidableEq, Repr

/-- The scaling of `round_L` (R84). A magnitude far below the last kept bit is not formed. -/
def Mag.scale (m : Mag) (g : Int) : Scaled :=
  if m.exp + 40 < g then ⟨0, .lt, true, 1⟩
  else
    match m with
    | .rat num den k =>
      let nn := if 0 ≤ k - g then num * 2 ^ (k - g).toNat else num
      let dd := if 0 ≤ k - g then den else den * 2 ^ (g - k).toNat
      let r := nn % dd
      ⟨nn / dd, compare (2 * r) dd, r != 0, (r * 2 ^ 32 + dd - 1) / dd⟩
    | .root num den k =>
      let e := k - 2 * g
      let nn := if 0 ≤ e then num * 2 ^ e.toNat else num
      let dd := if 0 ≤ e then den else den * 2 ^ (-e).toNat
      let n := isqrt (nn / dd)
      let q := isqrt (nn * 2 ^ 64 / dd)
      let c := if q * q * dd = nn * 2 ^ 64 then q else q + 1
      ⟨n, compare (4 * nn) ((2 * n + 1) * (2 * n + 1) * dd), n * n * dd != nn, c - n * 2 ^ 32⟩

/-- The rounding modes (R85). -/
inductive Rm where
  | rne | rna | rtz | rup | rdn | rsr
  deriving DecidableEq, Repr

/-- PRC.RM (R25); 110 and 111 never stand in PRC. -/
def Rm.ofBits (b : Nat) : Rm :=
  match b with
  | 0 => .rne | 1 => .rna | 2 => .rtz | 3 => .rup | 4 => .rdn | _ => .rsr

/-- Whether a mode takes the upper neighbour (R84). -/
def roundsUp (rm : Rm) (s : Bool) (x : Scaled) (u : Nat) : Bool :=
  match rm with
  | .rne => x.half == .gt || (x.half == .eq && x.n % 2 == 1)
  | .rna => x.half == .gt || x.half == .eq
  | .rtz => false
  | .rup => x.inexact && !s
  | .rdn => x.inexact && s
  | .rsr => u < x.c32

/-- The flags NV, DZ, OF, UF, NX, PX in the order of PRC.FLAGS (R25). -/
abbrev Flags := BitVec 6
def flNV : Flags := 1#6
def flDZ : Flags := 2#6
def flOF : Flags := 4#6
def flUF : Flags := 8#6
def flNX : Flags := 16#6
def flPX : Flags := 32#6

/-- Whether overflow delivers infinity in a mode (R84). -/
def overflowsToInf (rm : Rm) (s : Bool) : Bool :=
  match rm with
  | .rne => true | .rna => true | .rsr => true
  | .rup => !s | .rdn => s | .rtz => false

/-- `round_L` of an exact magnitude, for a precision of L bits and leading-bit exponents emin to emax (R84). -/
def roundMag (s : Bool) (m : Mag) (L : Nat) (emin emax : Int) (rm : Rm) (u : Nat) : V × Flags :=
  let b := m.exp
  let g0 := max b emin - ((L : Int) - 1)
  let x := m.scale g0
  let n0 := x.n + (if roundsUp rm s x u then 1 else 0)
  let n := if n0 = 2 ^ L then 2 ^ (L - 1) else n0
  let g := if n0 = 2 ^ L then g0 + 1 else g0
  let nx := if x.inexact then flNX else 0#6
  if g + L - 1 > emax ∧ 2 ^ (L - 1) ≤ n then
    (if overflowsToInf rm s then V.infOf s else ⟨.fin, s, 2 ^ L - 1, emax - (L - 1), 0⟩, nx ||| flOF ||| flNX)
  else
    let uf := if n < 2 ^ (L - 1) ∧ x.inexact then flUF else 0#6
    (V.ofNK s n g, nx ||| uf)

/-- The exponent range of a VPF value (R77). -/
def vpfEmin : Int := -16382
def vpfEmax : Int := 16383

/-- `round_L` (R84): a value that is not finite nonzero is returned as it is. -/
def roundL (x : V) (L : Nat) (rm : Rm) (u : Nat) : V × Flags :=
  if x.cls = .fin then roundMag x.s (.rat x.n 1 x.k) L vpfEmin vpfEmax rm u else (x, 0#6)

/-- The random bits u of R86. -/
def rand32 (seed gfi ctr : DWord) : Word :=
  let x := seed ^^^ (gfi * 0x9E3779B97F4A7C15#64)
  let x := x + ctr * 0xBF58476D1CE4E5B9#64
  let x := (x ^^^ (x >>> 30)) * 0xBF58476D1CE4E5B9#64
  let x := (x ^^^ (x >>> 27)) * 0x94D049BB133111EB#64
  let x := x ^^^ (x >>> 31)
  x.extractLsb' 0 32

/-- The integer that a mode selects from a finite value (R96, R150), as a magnitude, with whether that changes it. -/
def roundInt (x : V) (rm : Rm) (u : Nat) : Nat × Bool :=
  let t := (Mag.rat x.n 1 x.k).scale 0
  (t.n + (if roundsUp rm x.s t u then 1 else 0), t.inexact)

/-- The signed integer of a magnitude. -/
def signed (s : Bool) (n : Nat) : Int := if s then -(n : Int) else n

/-- The integer rule of R96 and R154: the integer delivered in the range lo to hi, and its flags. -/
def toInt (x : V) (lo hi : Int) (rm : Rm) (u : Nat) : Int × Flags :=
  match x.cls with
  | .zero => (0, 0#6)
  | .inf => (if x.s then lo else hi, flNV)
  | .qnan => (0, flNV)
  | .snan => (0, flNV)
  | .fin =>
    -- a value of 2^70 or more is out of every range
    if leadExp x.n x.k ≥ 70 then (if x.s then lo else hi, flNV)
    else
      let (n, nx) := roundInt x rm u
      let z := signed x.s n
      if z < lo then (lo, flNV) else if z > hi then (hi, flNV) else (z, if nx then flNX else 0#6)

/-! ### VPF elements (R79 to R82) -/

/-- The class for length L: the least q ≥ 1 with 16q - 3 ≥ L (R79). -/
def classFor (L : Nat) : Nat := max 1 ((L + 3 + 15) / 16)

/-- The little-endian number of a run of bytes. -/
def leNat : List Byte → Nat
  | [] => 0
  | b :: r => b.toNat + 256 * leNat r

/-- The low `k` bytes of a number, little-endian. -/
def leBytes : Nat → Nat → List Byte
  | 0, _ => []
  | k + 1, x => BitVec.ofNat 8 x :: leBytes k (x / 256)

/-- The bytes of an element whose first byte is `b` (R79). -/
def elemBytes (b : Byte) : Nat := 2 * (b.toNat % 16 + 1)

/-- `vpf_decode` on the element's bytes (R82): the value and its class's length, or none for trap 0x0F. The length of a
short form is given as 0. -/
def vpfDecode (bs : List Byte) (slot : Nat) : Option (V × Nat) :=
  let v := leNat bs
  let q := v % 16
  let s := v / 16 % 2 == 1
  if 2 * (q + 1) > slot then none
  else if q = 0 then
    let kind := v / 32 % 8
    let pay := v / 256 % 256
    match kind with
    | 0 => some (V.zeroOf s, 0)
    | 1 => some (V.infOf s, 0)
    | 2 => some (⟨.qnan, s, 0, 0, pay⟩, 0)
    | 3 => some (⟨.snan, s, 0, 0, pay⟩, 0)
    | _ => none
  else
    let w := 16 * (q + 1)
    let e := v / 32 % 32768
    let fr := v / 2 ^ 20 % 2 ^ (w - 20)
    if e = 32767 then none
    else if e = 0 then some (V.ofNK s fr (-16382 - ((w : Int) - 20)), w - 19)
    else some (⟨.fin, s, 2 ^ (w - 20) + fr, (e : Int) - 16383 - ((w : Int) - 20), 0⟩, w - 19)

/-- `vpf_encode` (R82): the bytes of an element of class q. -/
def vpfEncode (x : V) (q : Nat) : List Byte :=
  let sb := if x.s then 16 else 0
  if x.cls ≠ .fin ∨ q = 0 then
    let kind := match x.cls with | .fin => 0 | .zero => 0 | .inf => 1 | .qnan => 2 | .snan => 3
    leBytes 2 (sb + 32 * kind + 256 * x.pay)
  else
    let lq := 16 * q - 3
    let b := leadExp x.n x.k
    if b ≥ -16382 then
      let n := shiftInt x.n ((lq : Int) - 1 - Nat.log2 x.n)
      leBytes (2 * (q + 1)) (q + sb + 32 * (b + 16383).toNat + 2 ^ 20 * (n - 2 ^ (lq - 1)))
    else
      let n := shiftInt x.n (x.k + 16382 + ((lq : Int) - 1))
      leBytes (2 * (q + 1)) (q + sb + 2 ^ 20 * n)

/-! ### Fixed formats (R93, R94) -/

/-- A fixed format: exponent bits, fraction bits, bias, and whether the all-ones exponent holds infinity and NaNs. -/
structure Fmt where
  e : Nat
  f : Nat
  bias : Nat
  ieee : Bool
  deriving DecidableEq, Repr

def fmtFp32 : Fmt := ⟨8, 23, 127, true⟩
def fmtFp16 : Fmt := ⟨5, 10, 15, true⟩
def fmtBf16 : Fmt := ⟨8, 7, 127, true⟩
def fmtE4m3 : Fmt := ⟨4, 3, 7, false⟩
def fmtE5m2 : Fmt := ⟨5, 2, 15, true⟩
def fmtE2m1 : Fmt := ⟨2, 1, 1, false⟩

/-- The value of a fixed-format pattern (R93), with a NaN's payload as R94 takes it. -/
def Fmt.decode (t : Fmt) (x : Nat) : V :=
  let fr := x % 2 ^ t.f
  let ex := x / 2 ^ t.f % 2 ^ t.e
  let s := x / 2 ^ (t.f + t.e) % 2 == 1
  if t.ieee ∧ ex = 2 ^ t.e - 1 then
    if fr = 0 then V.infOf s
    else
      let below := fr % 2 ^ (t.f - 1)
      let pay := if t.f ≥ 9 then below / 2 ^ (t.f - 9) else below * 2 ^ (9 - t.f)
      ⟨if fr / 2 ^ (t.f - 1) = 1 then .qnan else .snan, s, 0, 0, pay⟩
  else if t = fmtE4m3 ∧ ex = 15 ∧ fr = 7 then ⟨.qnan, s, 0, 0, 0⟩
  else if ex = 0 then V.ofNK s fr (1 - (t.bias : Int) - t.f)
  else ⟨.fin, s, 2 ^ t.f + fr, (ex : Int) - t.bias - t.f, 0⟩

/-- The pattern of a value that the format holds (R93, R94). -/
def Fmt.encode (t : Fmt) (v : V) : Nat :=
  let sb := if v.s then 2 ^ (t.f + t.e) else 0
  match v.cls with
  | .zero => sb
  | .inf => sb + (2 ^ t.e - 1) * 2 ^ t.f
  | .qnan => if t.ieee then
      sb + (2 ^ t.e - 1) * 2 ^ t.f + 2 ^ (t.f - 1) +
        (if t.f ≥ 9 then v.pay * 2 ^ (t.f - 9) else v.pay / 2 ^ (9 - t.f))
    else sb + 127
  | .snan =>
    let p := if t.f ≥ 9 then v.pay * 2 ^ (t.f - 9) else v.pay / 2 ^ (9 - t.f)
    sb + (2 ^ t.e - 1) * 2 ^ t.f + (if p = 0 then 1 else p)
  | .fin =>
    let b := leadExp v.n v.k
    if b ≥ 1 - (t.bias : Int) then
      sb + (b + t.bias).toNat * 2 ^ t.f + (shiftInt v.n ((t.f : Int) - Nat.log2 v.n) - 2 ^ t.f)
    else sb + shiftInt v.n (v.k + t.bias - 1 + t.f)

/-- The conversion of `stc` to a floating format (R96): the pattern and its flags. -/
def Fmt.convert (t : Fmt) (v : V) (rm : Rm) (u : Nat) : Nat × Flags :=
  match v.cls with
  | .zero => (t.encode v, 0#6)
  | .qnan => (t.encode v, 0#6)
  | .snan => (t.encode v.quiet, flNV)
  | .inf => if t.ieee then (t.encode v, 0#6) else (t.encode { V.nan with s := v.s }, flNV)
  | .fin =>
    if t.ieee then
      let (r, fl) := roundMag v.s (.rat v.n 1 v.k) (t.f + 1) (1 - (t.bias : Int)) t.bias rm u
      (t.encode r, fl)
    else
      let (r, fl) := roundMag v.s (.rat v.n 1 v.k) 4 (-6) 100000 rm u
      let tooBig := r.cls == .fin && decide (leadExp r.n r.k > 8 ∨ (leadExp r.n r.k = 8 ∧ shiftInt r.n (3 - (Nat.log2 r.n : Int)) = 15))
      if tooBig then ((if v.s then 128 else 0) + 126, flOF ||| flNX) else (t.encode r, fl)

/-- RNE to a format without flags (R100, R298, R356): a NaN gives the canonical quiet NaN. -/
def Fmt.rne (t : Fmt) (v : V) : Nat :=
  if v.isNan then t.encode V.nan else (t.convert v .rne 0).1

/-! ### Sums of exact values -/

/-- The signed integer of a finite or zero value at exponent k, which must not be above its own. -/
def V.atExp (v : V) (k : Int) : Int := if v.cls = .fin then signed v.s (shiftInt v.n (v.k - k)) else 0

/-- The least exponent among finite values. -/
def minExp (vs : List V) : Int :=
  match (vs.filter (·.cls = .fin)).map V.k with
  | [] => 0
  | k :: r => r.foldl min k

/-- The exact sum of finite and zero values (R88, extended to many addends): an exact zero is +0 (or -0 under RDN)
unless every addend is a zero of one sign. -/
def sumFinite (vs : List V) (rdn : Bool) : V :=
  let k : Int := minExp vs
  let z : Int := (vs.map (·.atExp k)).foldl (· + ·) (0 : Int)
  if z = 0 then
    (if vs.all (fun v => v.cls == .zero && v.s) ∧ vs ≠ [] then V.zeroOf true
     else if vs.all (fun v => v.cls == .zero && !v.s) then V.zeroOf false
     else V.zeroOf rdn)
  else V.ofNK (decide (z < 0)) z.natAbs k

/-- The exact product of two finite or zero values. -/
def mulFinite (a b : V) : V := V.ofNK (xor a.s b.s) (if a.cls = .fin ∧ b.cls = .fin then a.n * b.n else 0) (a.k + b.k)

end Sys2Proof.Machine
end

