-- ==== Sys2Proof/Machine/Ops.lean ====
section
/-!
DEFINITION. The named operations over one fibre's registers, window and frames (01), over the lists of fibres, gangs,
cores and nodes, and taking a trap or a fault (01 R31, R32, 22 R405 to R409).
-/
namespace Sys2Proof.Machine

/-! ### Lists -/

/-- Replaces the first element that `p` picks, or appends. -/
def upsert {α : Type} (p : α → Bool) (x : α) : List α → List α
  | [] => [x]
  | y :: r => if p y then x :: r else y :: upsert p x r

/-- Changes the elements that `p` picks. -/
def mapIf {α : Type} (p : α → Bool) (f : α → α) (l : List α) : List α := l.map fun x => if p x then f x else x

/-- The sum of a list. -/
def total (l : List Nat) : Nat := l.foldl (· + ·) 0

/-- The greatest of a list of naturals, 0 for none. -/
def greatest (l : List Nat) : Nat := l.foldl Nat.max 0

/-- Removes the element at an index. -/
def dropAt {α : Type} : Nat → List α → List α
  | _, [] => []
  | 0, _ :: r => r
  | k + 1, x :: r => x :: dropAt k r

/-- Inserts by a key, after the elements whose key is not greater. -/
def insertOn {α : Type} (key : α → Nat) (x : α) : List α → List α
  | [] => [x]
  | y :: r => if key y ≤ key x then y :: insertOn key x r else x :: y :: r

/-- Sorts by a key, keeping the order of equal keys. -/
def sortOn {α : Type} (key : α → Nat) (l : List α) : List α := l.foldl (fun acc x => insertOn key x acc) []

/-- Without repeats, in order of first appearance. -/
def distinct {α : Type} [BEq α] (l : List α) : List α :=
  l.foldl (fun acc x => if acc.contains x then acc else acc ++ [x]) []

/-! ### Cells and windows (R17, R18) -/

/-- The byte address of a PC's packet (R14). -/
def pcPacket (pc : DWord) : DWord := pc &&& ~~~15#64

/-- The slot of a PC (R14). -/
def pcSlot (pc : DWord) : Nat := (pc.extractLsb' 0 2).toNat

/-- The PC of a packet address and a slot. -/
def pcOf (packet : DWord) (slot : Nat) : DWord := (packet &&& ~~~15#64) ||| BitVec.ofNat 64 slot

/-- The next PC in sequence after slot `slot` (R14). -/
def pcNext (pc : DWord) : DWord := if pcSlot pc < 2 then pc + 1#64 else pcPacket pc + 16#64

/-- A PC register value with SLOT 3 or bits [3:2] nonzero names no word (R14, R127, R32). -/
def pcInvalid (pc : DWord) : Bool := pcSlot pc == 3 || pc.extractLsb' 2 2 != 0#2

/-- The cells of an area of `m` VPF registers of length `lw` (R19, R21). -/
def yCost (m lw : Nat) : Nat := m * (1 + (lw + 31) / 32)

/-- VPF registers of the window. -/
def Regs.m (r : Regs) : Nat := r.ys.length
/-- The quota Q (R17). -/
def Regs.quota (r : Regs) : Nat := r.cells.length
/-- The integer top of the stack. -/
def Regs.top (r : Regs) : Nat := r.base + r.n
/-- The downward use of a frame: its record and the VPF area it keeps (R23). -/
def Frame.cost (x : Frame) : Nat := 4 + yCost x.m x.lw
/-- The downward use (R17). -/
def Regs.down (r : Regs) : Nat := yCost r.m r.lw + total (r.frames.map Frame.cost)
/-- WQ (R17). -/
def Regs.wq (r : Regs) : Int := (r.quota : Int) - r.top - r.down

/-- A cell of the current window. -/
def Regs.cell (r : Regs) (k : Nat) : Cell := r.cells.getD (r.base + k) Cell.zero
/-- w[F] (R54). -/
def Regs.w (r : Regs) (f : Fld) : Word := (r.cell f.toNat).val
/-- d[F] (R54). -/
def Regs.d (r : Regs) (f : Fld) : DWord := (r.cell (f.toNat + 1)).val ++ (r.cell f.toNat).val
/-- q[F] (R54). -/
def Regs.q (r : Regs) (f : Fld) : BitVec 128 :=
  (r.cell (f.toNat + 3)).val ++ (r.cell (f.toNat + 2)).val ++ (r.cell (f.toNat + 1)).val ++ (r.cell f.toNat).val
/-- The cells from F. -/
def Regs.run (r : Regs) (f : Fld) (len : Nat) : List Word := (List.range len).map fun i => (r.cell (f.toNat + i)).val

/-- +0 in a window of length `lw` (R19, R21). -/
def YReg.zero (lw : Nat) : YReg := ⟨1#32, List.replicate ((lw + 31) / 32) 0#32, true⟩
/-- y[F]. -/
def Regs.y (r : Regs) (f : Fld) : YReg := r.ys.getD f.toNat (YReg.zero r.lw)

/-- p[k] (R16). -/
def Regs.p (r : Regs) (k : Nat) : Bool := r.pw.getLsbD k
/-- The register PW with bits [15:1] replaced: p0 always reads 1 (R16). -/
def Regs.setPw (r : Regs) (v : BitVec 16) : Regs := { r with pw := v ||| 1#16 }
/-- A write to one predicate; a write to p0 is ignored (R16). -/
def Regs.setP (r : Regs) (k : Nat) (b : Bool) : Regs :=
  let bit := BitVec.ofNat 16 (2 ^ k)
  r.setPw (if b then r.pw ||| bit else r.pw &&& ~~~bit)

/-- Sets the cell at a position of the stack span. -/
def Regs.setAt (r : Regs) (pos : Nat) (v : Word) (full : Bool) : Regs := { r with cells := r.cells.set pos ⟨v, full⟩ }
/-- w[F] := v, full (R105). -/
def Regs.setW (r : Regs) (f : Fld) (v : Word) : Regs := r.setAt (r.base + f.toNat) v true
/-- d[F] := v, full. -/
def Regs.setD (r : Regs) (f : Fld) (v : DWord) : Regs :=
  (r.setAt (r.base + f.toNat) (v.extractLsb' 0 32) true).setAt (r.base + f.toNat + 1) (v.extractLsb' 32 32) true
/-- Writes a run of cells from position `pos`, full. -/
def Regs.setRun (r : Regs) (pos : Nat) : List Word → Regs
  | [] => r
  | v :: rest => Regs.setRun (r.setAt pos v true) (pos + 1) rest
/-- q[F] := v, full. -/
def Regs.setQ (r : Regs) (f : Fld) (v : BitVec 128) : Regs :=
  r.setRun (r.base + f.toNat) [v.extractLsb' 0 32, v.extractLsb' 32 32, v.extractLsb' 64 32, v.extractLsb' 96 32]
/-- y[F] := v. -/
def Regs.setY (r : Regs) (f : Fld) (v : YReg) : Regs := { r with ys := r.ys.set f.toNat v }

/-- Marks a run of cells empty. -/
def Regs.emptyRun (r : Regs) (pos : Nat) : Nat → Regs
  | 0 => r
  | len + 1 => Regs.emptyRun (r.setAt pos (r.cells.getD pos Cell.zero).val false) (pos + 1) len

/-- Zero, full cells at positions `lo` to `hi - 1` (R21, R22). -/
def Regs.zeroCells (r : Regs) (lo hi : Nat) : Regs := r.setRun lo (List.replicate (hi - lo) 0#32)

/-! ### Frames (R22 to R24) -/

/-- Pushes a frame record of the window and slides to a window of 8 cells at `base + delta`, of which cells `keep` to 7
are new (R22, R31). -/
def Regs.slide (r : Regs) (kind : Nat) (rpc : DWord) (delta keep : Nat) : Regs :=
  let fr : Frame := { rpc := rpc, n := r.n, m := r.m, lw := r.lw, kind := kind, delta := delta, ys := r.ys }
  let b := r.base + delta
  ({ r with frames := fr :: r.frames, base := b, n := 8, lw := 0, ys := [] }).zeroCells (b + keep) (b + 8)

/-- The slide of a call (R22). -/
def Regs.slideCall (r : Regs) (rpc : DWord) : Regs :=
  let k := min r.n 8
  r.slide 0 rpc (r.n - k) k

/-- The window that trap entry makes (R31). -/
def Regs.slideTrap (r : Regs) : Regs := r.slide 1 0#64 r.n 0

/-- Restores the caller's window from its record (R24). -/
def Regs.unslide (r : Regs) (fr : Frame) (rest : List Frame) : Regs :=
  { r with frames := rest, base := r.base - fr.delta, n := fr.n, lw := fr.lw, ys := fr.ys }

/-- `enter n, m, Lw` (R21), with Lw 0 already replaced. -/
def Regs.enter (r : Regs) (n m lw : Nat) : Regs :=
  ({ r with n := n, lw := lw, ys := List.replicate m (YReg.zero lw) }).zeroCells (r.base + min r.n n) (r.base + n)

/-- Frames movable (R417). -/
def Regs.movable (r : Regs) : Nat := (r.frames.reverse.takeWhile fun fr => fr.kind == 0).length

/-- TVAL of trap 0x07 for an instruction that would leave `left` free cells (R417). -/
def Regs.spillVal (r : Regs) (left : Int) : DWord :=
  BitVec.ofNat 64 ((12 - left).toNat % 65536 + 65536 * (r.movable % 65536))

/-! ### Late values -/

/-- The cells of the stack span that a destination takes. -/
def Dest.positions : Dest → List Nat
  | .cells pos len skip => ((List.range len).filter fun i => !skip.contains i).map (pos + ·)
  | _ => []

/-- Whether two destinations share a register. -/
def Dest.meets : Dest → Dest → Bool
  | .yreg v k, .yreg v' k' => v == v' && k == k'
  | .pred p, .pred p' => p == p'
  | x, y => x.positions.any fun i => y.positions.contains i

/-- What is left of a destination once another write has taken its registers (R15). -/
def Dest.without : Dest → Dest → Dest
  | .cells pos len skip, .cells pos' len' skip' =>
    .cells pos len (skip ++ (List.range len).filter fun i => (Dest.cells pos' len' skip').positions.contains (pos + i))
  | x, y => if x.meets y then .none else x

/-- What is left of a destination once the window's top is at `top` and the VPF areas of `levels` or more are gone
(R15, R131). -/
def Dest.clip (top levels : Nat) : Dest → Dest
  | .cells pos len skip => .cells pos len (skip ++ (List.range len).filter fun i => decide (top ≤ pos + i))
  | .yreg v k => if levels ≤ v then .none else .yreg v k
  | x => x

/-- Writes the cells of a late value, but for the skipped ones. -/
def Regs.deliverCells (r : Regs) (pos : Nat) (skip : List Nat) : Nat → List Word → Regs
  | _, [] => r
  | i, v :: rest => Regs.deliverCells (if skip.contains i then r else r.setAt (pos + i) v true) pos skip (i + 1) rest

/-- Puts a late value into its destination and makes it full. -/
def Regs.deliver (r : Regs) (dst : Dest) (vals : List Word) (yval : Option YReg) : Regs :=
  match dst with
  | .none => r
  | .cells pos len skip => r.deliverCells pos skip 0 (vals.take len)
  | .yreg level k =>
    match yval with
    | none => r
    | some y =>
      if level = r.frames.length then { r with ys := r.ys.set k { y with full := true } }
      else if r.frames.length < level then r
      else
        -- the window is that of an outer frame
        let i := r.frames.length - 1 - level
        { r with frames := r.frames.modify i fun fr => { fr with ys := fr.ys.set k { y with full := true } } }
  | .pred p => r.setP p (vals.headD 0#32 != 0#32)

/-- Marks a destination empty at commit (R122). -/
def Regs.markEmpty (r : Regs) : Dest → Regs
  | .none => r
  | .cells pos len _ => r.emptyRun pos len
  | .yreg _ k => { r with ys := r.ys.modify k fun y => { y with full := false } }
  | .pred _ => r

/-- The destinations on which something of the fibre is still to arrive (R105). -/
def Fibre.pending (x : Fibre) : List Dest := x.acc.map Access.dest ++ x.dlv.map Deliv.dest

/-- Whether a write to `dst` must wait (R105). -/
def Fibre.pends (x : Fibre) (dst : Dest) : Bool := x.pending.any dst.meets

/-- The accesses of converting loads (R158). -/
def AccOp.converting : AccOp → Bool
  | .ldy _ => true
  | .ldc _ => true
  | _ => false

/-- A converting load of a fibre that has not ended. -/
def Access.converts (a : Access) : Bool := a.op.converting && !a.orphan

/-- A converting load whose bytes are on their way. -/
def Deliv.converting (v : Deliv) : Bool :=
  match v.kind with
  | .conv _ => true
  | _ => false

/-- The converting loads of the fibre that have not resolved (R158). -/
def Fibre.convPending (x : Fibre) : Nat :=
  (x.acc.filter Access.converts).length + (x.dlv.filter Deliv.converting).length

/-- A flag of PRC is still to land (R146). -/
def Fibre.flagsPending (x : Fibre) : Bool :=
  x.acc.any Access.converts || x.dlv.any fun v => v.kind != .load

/-- The status predicate p15 is still to be written by an earlier `ldf` or `fence.chk` (R304, R310). -/
def Fibre.statusPending (x : Fibre) : Bool :=
  (x.acc.any fun a => !a.orphan && !a.mute && match a.op with
    | .ldf _ => true
    | .fence _ _ chk => chk
    | .deq => true
    | _ => false) || x.dlv.any fun v => v.status.isSome

/-- A predicate that an earlier word is still to write (R145, R193). -/
def Fibre.predPending (x : Fibre) (k : Nat) : Bool := x.pends (.pred k) || (k == 15 && x.statusPending)

/-- A value reaches a fibre (R105, R122, R145): its destination becomes full, its flags are ORed into PRC, and its
status goes to p15. -/
def Regs.arrive (r : Regs) (v : Deliv) : Regs :=
  let r1 := r.deliver v.dest v.vals v.yval
  let r2 := { r1 with prc := r1.prc ||| (v.flags.setWidth 32 <<< 20) }
  match v.status with
  | none => r2
  | some b => r2.setP 15 b

/-- A change of the registers by what came before a chain whose number a test picks is made in the states kept for its
converting loads too (R158). -/
def Fibre.landedIf (x : Fibre) (p : Nat → Bool) (k : Regs → Regs) : Fibre :=
  { x with
    regs := k x.regs
    acc := x.acc.map fun a => if p a.base then { a with ckpt := a.ckpt.map k } else a
    dlv := x.dlv.map fun u => if p u.base then { u with ckpt := u.ckpt.map k } else u }

/-- A change by the word of serial number `ser`: the chains after it keep it (R158). -/
def Fibre.landed (x : Fibre) (ser : Nat) (k : Regs → Regs) : Fibre := x.landedIf (fun b => decide (ser < b)) k

/-- A change by nothing that the fibre executes: every state kept has it. -/
def Fibre.always (x : Fibre) (k : Regs → Regs) : Fibre := x.landedIf (fun _ => true) k

/-- The value reaches the fibre and the states kept at its later converting loads (R158). -/
def Fibre.arrive (x : Fibre) (v : Deliv) : Fibre :=
  Fibre.landed { x with dlv := x.dlv.filter fun u => u.ser ≠ v.ser } v.ser fun r => r.arrive v

/-! ### The lists of the device -/

/-- The fibre of an identifier, the current one first. -/
def State.fibre? (s : State) (id : FibId) : Option Fibre :=
  if s.f.id = id then (if s.f.life = .absent then none else some s.f)
  else s.fibres.find? fun x => x.id = id

/-- Stores a fibre under its identifier. -/
def State.setFibre (s : State) (x : Fibre) : State :=
  if s.f.id = x.id then { s with f := x }
  else { s with fibres := upsert (fun y => y.id = x.id) x s.fibres }

/-- Changes a fibre, if there is one. -/
def State.onFibre (s : State) (id : FibId) (k : Fibre → Fibre) : State :=
  match s.fibre? id with
  | none => s
  | some x => s.setFibre (k x)

/-- Every fibre that exists. -/
def State.allFibres (s : State) : List Fibre :=
  (s.f :: s.fibres.filter fun x => x.id ≠ s.f.id).filter fun x => x.life = .live

/-- Every fibre that exists or has left accesses under way. -/
def State.presentFibres (s : State) : List Fibre :=
  (s.f :: s.fibres.filter fun x => x.id ≠ s.f.id).filter fun x => x.life ≠ .absent

/-- The gang of a node. -/
def State.gang? (s : State) (nid gid : Nat) : Option Gang :=
  if s.g.nid = nid ∧ s.g.gid = gid then (if nid = 0 then none else some s.g)
  else s.gangs.find? fun x => x.nid = nid ∧ x.gid = gid

/-- Stores a gang. -/
def State.setGang (s : State) (x : Gang) : State :=
  if s.g.nid = x.nid ∧ s.g.gid = x.gid then { s with g := x }
  else { s with gangs := upsert (fun y => y.nid = x.nid ∧ y.gid = x.gid) x s.gangs }

/-- Changes a gang, if there is one. -/
def State.onGang (s : State) (nid gid : Nat) (k : Gang → Gang) : State :=
  match s.gang? nid gid with
  | none => s
  | some x => s.setGang (k x)

/-- Every gang. -/
def State.allGangs (s : State) : List Gang :=
  (s.g :: s.gangs.filter fun x => ¬(x.nid = s.g.nid ∧ x.gid = s.g.gid)).filter fun x => x.nid ≠ 0

/-- The logical core of a number; a core that holds nothing need not be listed. -/
def State.core (s : State) (num : Nat) : Core :=
  if s.c.num = num then s.c else (s.cores.find? fun x => x.num = num).getD (Core.blank num)

/-- Stores a core. -/
def State.setCore (s : State) (x : Core) : State :=
  if s.c.num = x.num then { s with c := x }
  else { s with cores := upsert (fun y => y.num = x.num) x s.cores }

/-- Changes a core. -/
def State.onCore (s : State) (num : Nat) (k : Core → Core) : State := s.setCore (k (s.core num))

/-- Every core that is listed. -/
def State.allCores (s : State) : List Core := s.c :: s.cores.filter fun x => x.num ≠ s.c.num

/-- The node of a NID. -/
def State.node? (s : State) (nid : Nat) : Option Node :=
  if s.n.spec.nid = nid then (if nid = 0 then none else some s.n)
  else s.nodes.find? fun x => x.spec.nid = nid

/-- Stores a node. -/
def State.setNode (s : State) (x : Node) : State :=
  if s.n.spec.nid = x.spec.nid then { s with n := x }
  else { s with nodes := upsert (fun y => y.spec.nid = x.spec.nid) x s.nodes }

/-- Changes a node, if there is one. -/
def State.onNode (s : State) (nid : Nat) (k : Node → Node) : State :=
  match s.node? nid with
  | none => s
  | some x => s.setNode (k x)

/-- Every node. -/
def State.allNodes (s : State) : List Node :=
  (s.n :: s.nodes.filter fun x => x.spec.nid ≠ s.n.spec.nid).filter fun x => x.spec.nid ≠ 0

/-- Puts the current fibre, gang, core and node back into the lists. -/
def State.flush (s : State) : State :=
  { s with
    fibres := if s.f.life = .absent then s.fibres else upsert (fun y => y.id = s.f.id) s.f s.fibres
    gangs := if s.g.nid = 0 then s.gangs else upsert (fun y => y.nid = s.g.nid ∧ y.gid = s.g.gid) s.g s.gangs
    cores := upsert (fun y => y.num = s.c.num) s.c s.cores
    nodes := if s.n.spec.nid = 0 then s.nodes else upsert (fun y => y.spec.nid = s.n.spec.nid) s.n s.nodes }

/-- The core a gang stands on. -/
def Gang.core? (x : Gang) : Option Nat :=
  match x.place with
  | .resident c => some c
  | .draining c => some c
  | _ => none

/-- Makes a fibre the current one, with its gang, core and node. -/
def State.focus (s : State) (id : FibId) : State :=
  if s.f.id = id ∧ s.g.nid = id.nid ∧ s.g.gid = id.gid ∧ s.n.spec.nid = id.nid ∧ s.g.core? = some s.c.num then s
  else
    let t := s.flush
    let g := (t.gang? id.nid id.gid).getD t.g
    { t with
      f := (t.fibre? id).getD t.f
      g := g
      c := t.core ((g.core?).getD t.c.num)
      n := (t.node? id.nid).getD t.n }

/-- The registers of the current fibre. -/
abbrev State.r (s : State) : Regs := s.f.regs

/-- Changes the registers of the current fibre. -/
def State.onRegs (s : State) (k : Regs → Regs) : State := { s with f := { s.f with regs := k s.f.regs } }

/-- The crew of an index in a gang. -/
def Gang.crew? (x : Gang) (cid : Nat) : Option Crew := x.crews.find? fun c => c.cid = cid

/-- Changes a crew of a gang. -/
def Gang.onCrew (x : Gang) (cid : Nat) (k : Crew → Crew) : Gang :=
  { x with crews := mapIf (fun c => decide (c.cid = cid)) k x.crews }

/-- Changes a crew. -/
def State.onCrew (s : State) (nid gid cid : Nat) (k : Crew → Crew) : State :=
  s.onGang nid gid fun x => x.onCrew cid k

/-- The live fibres of a crew, in lane order. -/
def State.crewFibres (s : State) (nid gid cid : Nat) : List Fibre :=
  sortOn (fun x => x.id.fid) (s.allFibres.filter fun x => x.id.nid = nid ∧ x.id.gid = gid ∧ x.id.cid = cid)

/-- The live fibres of a gang. -/
def State.gangFibres (s : State) (nid gid : Nat) : List Fibre :=
  s.allFibres.filter fun x => x.id.nid = nid ∧ x.id.gid = gid

/-- The bits of a set of lanes. -/
def laneMask (l : List Nat) : BitVec 32 := l.foldl (fun m i => m ||| BitVec.ofNat 32 (2 ^ i)) 0#32

/-- The live lanes of the current fibre's crew (R217). -/
def State.crewLanes (s : State) : BitVec 32 :=
  laneMask ((s.crewFibres s.f.id.nid s.f.id.gid s.f.id.cid).map fun x => x.id.fid)

/-- The role of a stage (R170). -/
def Gang.role (x : Gang) (stg : Nat) : Role := x.roles.getD stg .vector

/-! ### Cores (R2, R175, R186, R187) -/

/-- The die of a logical core, by the logical core map (R27, R383). -/
def State.dieOf (s : State) (core : Nat) : Nat := s.coreMap.getD core 0 / 68

/-- The column, 0 to 7, of a logical core on its die: eight physical cores in a row share one, and a spare stands in the
column of the core whose number it took (DESIGN CHOICE, log 24). -/
def State.colOf (s : State) (core : Nat) : Nat :=
  let p := s.coreMap.getD core 0
  ((s.fabric.spareCols.find? fun x => x.1 = p).map Prod.snd).getD (min 7 (p % 68 / 8))

/-- The sensor of the column under a core (R189). -/
def State.sensorOf (s : State) (core : Nat) : Sensor := s.sensors.getD (8 * s.dieOf core + s.colOf core) ⟨0xFFF, false⟩

/-- The gangs that stand on a core. -/
def State.gangsOn (s : State) (core : Nat) : List Gang := s.allGangs.filter fun g => g.core? = some core

/-- The crews that hold a context of a core (R175). -/
def State.crewsOn (s : State) (core : Nat) : List Crew := (s.gangsOn core).flatMap Gang.crews

/-- The bits set in a lane mask. -/
def popcount (m : BitVec 32) : Nat := ((List.range 32).filter fun i => m.getLsbD i).length

/-- Register cells that the crews on a core hold (R187). -/
def State.regCells (s : State) (core : Nat) : Nat :=
  total ((s.gangsOn core).map fun g =>
    let q := ((s.node? g.nid).getD Node.none).spec.quota
    total (g.crews.map fun c => popcount c.lanes * q))

/-- The context that a crew takes: a free one in the partition that serves the fewest crews, ties to the lowest
(R175). -/
def State.freeContext (s : State) (core : Nat) : Option Nat :=
  let crews := s.crewsOn core
  let load := fun (x : Nat) => (crews.filter fun c => c.ctx % 16 = x % 16).length
  (sortOn load ((List.range Config.crewContexts).filter fun x => crews.all fun c => c.ctx ≠ x)).head?

/-! ### Notes -/

/-- Tells the host. -/
def State.tell (s : State) (x : Note) : State := { s with notes := s.notes ++ [x] }

/-! ### Arenas (R237) -/

/-- An entry of the arena table; a slot that is not listed is as device reset left it. -/
def State.arena (s : State) (slot : Nat) : Arena := ((s.arenas.find? fun x => x.1 = slot).map Prod.snd).getD Arena.reset

/-- Stores an entry of the arena table. -/
def State.setArena (s : State) (slot : Nat) (x : Arena) : State :=
  { s with arenas := upsert (fun y => y.1 = slot) (slot, x) s.arenas }

/-- Death step 1 (R380). -/
def State.arenaDie (s : State) (slot : Nat) : State :=
  let e := s.arena slot
  s.setArena slot { e with gen := e.gen + 1#8, state := .dying }

/-- The live arenas of a node, inherited ones included (R377). -/
def State.arenasOf (s : State) (nid : Nat) : List Nat :=
  (s.arenas.filter fun x => x.2.state = .live ∧ x.2.nid = nid).map Prod.fst

/-! ### Taking an exception (R31, R405 to R409) -/

/-- The TCAUSE of a trap (R30, R31). -/
def trapCause (code sub : Nat) : Word := 0x80000000#32 ||| BitVec.ofNat 32 (sub % 256 * 256 + code)

/-- A trap is refused: H set, TVEC 0, or fewer than 12 free cells (R31). -/
def Regs.trapRefused (r : Regs) : Bool := r.tcause.getLsbD 31 || r.tvec == 0#64 || decide (r.wq < 12)

/-- Trap entry (R31): what the registers of a fibre become. -/
def Regs.trapEntry (r : Regs) (tepc : DWord) (code sub : Nat) (val : DWord) : Regs :=
  { ({ r with tepc := tepc, tcause := trapCause code sub, tval := val }).slideTrap with pc := pcPacket r.tvec }

/-- A code whose action is to fail the node; the others suspend the crew (R405). -/
def codeFails (code : Nat) : Bool := code == 0x45 || code == 0x47 || code == 0x49

/-- Puts a record into the device's wait for the fault queue (R408). -/
def State.report (s : State) (x : FaultRec) : State :=
  { s with faultq := { s.faultq with waiting := s.faultq.waiting ++ [x] } }

/-- Changes the fibres that a test on their identifiers picks. -/
def State.mapFibres (s : State) (p : FibId → Bool) (k : Fibre → Fibre) : State :=
  { s with f := if p s.f.id then k s.f else s.f, fibres := mapIf (fun y => p y.id) k s.fibres }

/-- An access whose release's markers are out runs again from its start (R312, R407). -/
def Access.restart (a : Access) : Access :=
  match a.stage with
  | .releasing => { a with stage := .issued }
  | _ => a

/-- A step has passed its committing compare-and-swap, and is not over. -/
def ObjMid.tail : ObjMid → Bool
  | .moving _ _ => true
  | .finishing _ _ _ => true
  | _ => false

/-- An object instruction is interrupted between steps: one that has passed its commit is ended first, one that has only
read is not taken (R208, R224). -/
def ObjRun.interrupted (r : ObjRun) : Option ObjRun :=
  if r.xfn = 0 then none
  else if r.mid.tail then some { r with halted := true }
  else some { r with phase := .stopped, mid := .idle }

/-- The fibre runs again: w[D+1] of an interrupted object instruction is full again with its old value, and the instruction
is to start afresh (R223, R224). -/
def Fibre.resumed (x : Fibre) : Fibre :=
  match x.obj with
  | Option.none => x
  | some r =>
    if r.phase = .stopped then { x with obj := Option.none, regs := x.regs.setAt (r.pos + 1) r.high true } else x

/-- The fibre as it stood when a chain issued: nothing of its chain `base`, or of a later one, stays (R31, R158, R407). -/
def Fibre.rewind (x : Fibre) (base : Nat) (r : Regs) : Fibre :=
  { x with
    regs := r, obj := Option.none, rel := Option.none, early := Option.none, due := Option.none
    acc := x.acc.filter fun a => a.base < base
    dlv := x.dlv.filter fun v => v.base < base }

/-- The words that a stop may find incomplete and that then run again from their start (R312, R407). -/
def AccOp.restarts : AccOp → Bool
  | .fence _ _ _ => true
  | .wbr => true
  | .invr => true
  | .str => true
  | .amo _ ar => ar
  | _ => false

/-- Such a word before its own access, after which nothing has issued: the state before its chain is kept in `ckpt`. -/
def Access.uncommitted (a : Access) : Bool :=
  a.op.restarts && a.ckpt.isSome && match a.stage with
    | .issued => true
    | .releasing => true
    | .busy _ again => !again
    | _ => false

/-- A fibre that is stopped goes back to the start of its last chain where that holds a word which has not completed and may
be stopped (R312, R407, log 67). -/
def Fibre.uncommit (x : Fibre) : Fibre :=
  if x.obj.isSome ∨ x.rel.isSome ∨ x.early.isSome ∨ x.due.isSome then x
  else
    match x.acc.find? Access.uncommitted with
    | Option.none => x
    | some a =>
      match a.ckpt with
      | Option.none => x
      | some r => x.rewind a.base r

/-- A fibre that is stopped (R407): its object or task word is run again from its start (R224), and what it had begun to
release. A loss that a task word's release has met already stays with the word (R387). -/
def Fibre.interrupt (x : Fibre) : Fibre :=
  match x.rel with
  | Option.none =>
    let y := x.uncommit
    { y with obj := y.obj.bind ObjRun.interrupted, met := Option.none, acc := y.acc.map Access.restart }
  | some (ser, done) =>
    let lost := done == some true || x.acc.any fun a => a.ser == ser && a.lost
    { x with
      obj := x.obj.bind ObjRun.interrupted
      met := Option.none
      rel := if lost then some (ser, some true) else Option.none
      acc := (x.acc.filter fun a => a.ser ≠ ser).map Access.restart }

/-- The markers that a test on their senders picks do not travel on; their homes get the markers of the release that is
run again (R312). -/
def State.recall (s : State) (p : FibId → Bool) : State :=
  s.flight.foldl
    (fun t x => match x.op with
      | .marker who _ homes =>
        if p who then t.onCore x.core fun c => { c with homes := c.homes ++ homes.filter fun h => !c.homes.contains h } else t
      | _ => t)
    { s with flight := s.flight.filter fun x => match x.op with
        | .marker who _ _ => !p who
        | _ => true }

/-- Interrupts the words of a crew that may be stopped while they wait (R407). -/
def State.stopRuns (s : State) (nid gid cid : Nat) : State :=
  let mine := fun (i : FibId) => decide (i.nid = nid ∧ i.gid = gid ∧ i.cid = cid)
  (s.recall mine).mapFibres mine Fibre.interrupt

/-- Suspends a crew (R405, R409). A crew that is already suspended keeps its code. -/
def State.suspend (s : State) (nid gid cid code : Nat) : State :=
  (s.stopRuns nid gid cid).onCrew nid gid cid fun c =>
    match c.state with
    | .suspended _ => c
    | _ => { c with state := .suspended code }

/-- An access that a fibre issued and that still completes when the fibre stops for good: its value goes nowhere. -/
def Access.orphaned (a : Access) : Access := { a with dest := .none, orphan := true, ckpt := none }

/-- A fibre that has ended: what it has issued goes on to completion, faults and their replays included (R212). DESIGN CHOICE
(log 78): a `task.deq` that has taken no entry yet is given up, and takes none. -/
def Fibre.stop (x : Fibre) : Fibre :=
  { x with
    life := .ended, obj := (x.obj.bind ObjRun.interrupted).filter ObjRun.halted, rel := Option.none, early := Option.none
    due := Option.none, met := Option.none, dlv := []
    acc := (x.acc.filter fun a => a.op != .deq).map Access.orphaned }

/-- Something that waits for the host, or for its replay. -/
def Stage.faulty : Stage → Bool
  | .faulted _ _ _ => true
  | .reported => true
  | .replay => true
  | .busy _ again => again
  | _ => false

/-- A fibre of a node that fails: accesses that did not fault complete (R409). -/
def Fibre.failed (x : Fibre) : Fibre := { x.stop with acc := x.stop.acc.filter fun a => !a.stage.faulty }

/-- A gang of a node that fails: its crews are gone, its engine work completes but for the copies that met a fault, its held
REDs are dropped (R409, R377). -/
def Gang.fail (x : Gang) : Gang :=
  { x with
    crews := [], cpbs := x.cpbs.filter fun c => !c.stage.faulty, held := [], leaving := Option.none
    place := match x.place with
      | .resident c => .draining c
      | .draining c => .draining c
      | _ => .ended }

/-- A node ends by a fault, or by the host (R409): its fibres stop. The failure path of R377 is taken when everything they
issued is complete. -/
def State.failNode (s : State) (nid code : Nat) : State :=
  match s.node? nid with
  | none => s
  | some x =>
    if x.failing.isSome ∨ x.state = .completed ∨ x.state = .failed ∨ x.state = .refused then s
    else
      let s1 := s.setNode { x with failing := some code, conts := [] }
      { s1.mapFibres (fun i => decide (i.nid = nid)) Fibre.failed with
        g := if s1.g.nid = nid then s1.g.fail else s1.g
        gangs := mapIf (fun y => decide (y.nid = nid)) Gang.fail s1.gangs }

/-- The page of an IA. -/
def pageOf (ia : Nat) : Nat := ia / 65536 * 65536

/-- A fault that fails a node, found outside an issue: it gives a record of its own (R253, R408, R409, R448). -/
def State.nodeFails (s : State) (id : FibId) (pc : DWord) (code sub : Nat) (va : DWord) (ia : Nat) : State :=
  State.failNode
    (s.report {
      code := code, sub := sub, pages := if code = 0x40 then [pageOf ia] else []
      nid := id.nid, gid := id.gid, cid := id.cid
      lmask := BitVec.ofNat 32 (2 ^ id.fid), pc := pc, va := va, ia := ia }) id.nid code

/-- The same for a code that has no SUB. -/
def State.nodeFault (s : State) (id : FibId) (pc : DWord) (code : Nat) (va : DWord) (ia : Nat) : State :=
  s.nodeFails id pc code 0 va ia

/-- A page joins a batch of at most 16 (R408). -/
def joinPage (ia : Nat) (pages : List Nat) : List Nat :=
  if pages.contains (pageOf ia) || decide (Config.batchPages ≤ pages.length) then pages else pages ++ [pageOf ia]

/-- The IA of a page fault that a stage has met. -/
def Stage.pageFault : Stage → Option Nat
  | .faulted code _ ia => if code = 0x40 then some ia else none
  | _ => none

/-- Every fibre of a crew, the ended ones included, in lane order. -/
def State.crewAll (s : State) (nid gid cid : Nat) : List Fibre :=
  sortOn (fun x => x.id.fid)
    (s.presentFibres.filter fun x => x.id.nid = nid ∧ x.id.gid = gid ∧ x.id.cid = cid)

/-- The record of some faults of one crew and code; PC and VA are those of the lowest lane (R408). -/
def recordOf (x : FaultItem) (l : List FaultItem) : FaultRec where
  code := x.code
  sub := x.sub
  pages := if x.code = 0x40 then l.foldl (fun p y => joinPage y.ia p) [] else []
  nid := x.id.nid
  gid := x.id.gid
  cid := x.id.cid
  lmask := laneMask (l.map fun y => y.id.fid)
  pc := x.pc
  va := x.va
  ia := x.ia

/-- The action of one code for one crew (R405, R408): one record, and suspend or fail. -/
def State.actOn (s : State) (l : List FaultItem) : State :=
  match sortOn (fun x => x.id.fid) l with
  | [] => s
  | x :: r =>
    let t := s.report (recordOf x (x :: r))
    if codeFails x.code then t.failNode x.id.nid x.code else t.suspend x.id.nid x.id.gid x.id.cid x.code

/-- Nothing is tried again any more (R240). -/
def State.triesDone (s : State) (k : TryKey) : State := { s with tries := s.tries.filter fun x => x.1 ≠ k }

/-- A word of a fibre walks no more (R240). -/
def State.wordDone (s : State) (id : FibId) : State :=
  { s with tries := s.tries.filter fun x => match x.1 with
      | .word i _ => i != id
      | _ => true }

/-- The crews of some faults, with their codes, lowest code first. -/
def faultKeys (l : List FaultItem) : List (Nat × Nat × Nat × Nat) :=
  distinct ((sortOn FaultItem.code l).map fun x => (x.code, x.id.nid, x.id.gid, x.id.cid))

/-- Faults of several crews are acted on: one record for each crew and code, lowest code first (R408). -/
def State.actAll (s : State) (l : List FaultItem) : State :=
  (faultKeys l).foldl (fun u k => u.actOn (l.filter fun x => (x.code, x.id.nid, x.id.gid, x.id.cid) = k)) s

/-- A crew has raised a page fault, so that what it raised waits for the report of its batch (R410). -/
def batched (l : List FaultItem) (x : FaultItem) : Bool :=
  l.any fun y => y.code == 0x40 && y.id.nid == x.id.nid && y.id.gid == x.id.gid && y.id.cid == x.id.cid

/-- System faults found at one issue: those of a crew that has met a page fault wait for its report (R410), the others are
acted on (R408). -/
def State.raise (s : State) (l : List FaultItem) : State :=
  let t := l.foldl (fun u x => (u.wordDone x.id).triesDone (.fetch x.id)) s
  let u := (l.filter (batched l)).foldl (fun u x => u.onFibre x.id fun b => { b with met := some x }) t
  u.actAll (l.filter fun x => !batched l x)

/-- Something has issued after an access: only a converting load can still take its fibre back (R158, R407). -/
def Access.passed (a : Access) : Access := if a.op.restarts then { a with ckpt := none } else a

/-- Fibre-trap entry, which waits for the flags still pending: until they have landed the trap is due (R146). -/
def State.enterTrap (s : State) (tepc : DWord) (code sub : Nat) (val : DWord) : State :=
  if s.f.flagsPending then { s with f := { s.f with due := some (code, sub, val) } }
  else { s with f := { s.f with due := none, early := none, acc := s.f.acc.map Access.passed, regs := s.f.regs.trapEntry tepc code sub val } }

/-- The current fibre takes a trap; a refused trap is system fault 0x46 (R31, R419). `first` is the PC of the first
word of its chain. -/
def State.trap (s : State) (first tepc : DWord) (code sub : Nat) (val : DWord) : State :=
  if s.r.trapRefused then s.raise [⟨s.f.id, first, 0x46, code, val, 0⟩]
  else s.enterTrap tepc code sub val

/-- The window and TCAUSE that `eret` restores once its checks have passed (R32): the top record is popped, H is
cleared, and control goes to TEPC. -/
def Regs.trapReturn (r : Regs) (fr : Frame) (rest : List Frame) : Regs :=
  { r.unslide fr rest with tcause := r.tcause &&& 0x7FFFFFFF#32 }

end Sys2Proof.Machine
end

