-- ==== Sys2Proof/Machine/Operands.lean ====
section
/-!
DEFINITION. What a word needs before it can act, for every operand form: the window checks of R18, the empty policy of
R63, the waits of R105, R145, R158, R193 and R294, and the writes of results.
-/
namespace Sys2Proof.Machine

/-- The cells that an operand of a kind covers. -/
def cellsOf : RegKind → Nat
  | .w => 1
  | .d => 2
  | .q => 4
  | .o => 8
  | _ => 0

/-- Whether an operand names registers of the window (R18, R62). -/
def inWindow (r : Regs) (x : Opnd) : Bool :=
  match x.kind with
  | .y => x.f.toNat < r.m
  | .p => true
  | .a => true
  | k => x.f.toNat + cellsOf k ≤ r.n

/-- Whether a register operand is empty (R63). -/
def isEmpty (r : Regs) (x : Opnd) : Bool :=
  match x.kind with
  | .y => !(r.y x.f).full
  | .p => false
  | .a => false
  | k => (List.range (cellsOf k)).any fun i => !(r.cell (x.f.toNat + i)).full

/-- The register that an operand names, as a destination. -/
def destOf (r : Regs) (x : Opnd) : Dest :=
  match x.kind with
  | .y => .yreg r.frames.length x.f.toNat
  | .p => .pred x.f.toNat
  | .a => .none
  | k => .cells (r.base + x.f.toNat) (cellsOf k) []

/-- The major opcode of an instruction (R66). -/
def majOf (i : Instr) : Nat := ((encode31 i).extractLsb' 25 6).toNat

/-- The predicates an instruction reads by a field that is no register operand (R65, R117, R125, R126), and all of
them where it reads PW (R118, R137). -/
def extraPredReads : Instr → List Nat
  | .sel _ _ _ p _ => [p.toNat]
  | .selD _ _ _ p _ => [p.toNat]
  | .selY _ _ _ p _ => [p.toNat]
  | .br p _ _ => [p.toNat]
  | .call p _ _ => [p.toNat]
  | .mbr np p1 p2 p3 p4 .. => [p1.toNat, p2.toNat, p3.toNat, p4.toNat].take (np.toNat + 1)
  | .p2w _ => List.range 16
  | .gets _ b => if b = 0#6 then List.range 16 else []
  | _ => []

/-- The predicates an instruction writes beside its destination: PW as a whole, or the status p15 (R194). -/
def extraPredWrites : Instr → List Nat
  | .w2p _ _ => List.range 16
  | .sets _ b => if b = 0#6 then List.range 16 else []
  | .fence _ k => if k then [15] else []
  | .fenceAcq _ k => if k then [15] else []
  | .fenceRel _ k => if k then [15] else []
  | .twait _ _ => [15]
  | .ldf .. => [15]
  | .ldfCons .. => [15]
  | .taskDeq _ => [15]
  | .arenaCheck _ _ => [15]
  | i => if majOf i = 0x25 ∨ majOf i = 0x26 then [15] else []

/-- What the issue logic knows of a word: its operands, the level at which its own fields are refused, its major
opcode, the predicates it reads and writes, whether it is a control-flow word of R57, the deadline of a `yield`, and
its 32 bits for TVAL (R405). `setsPrc` marks the words that write PRC, which act before the flags of their chain
land (R143). -/
structure Info where
  ops : List Opnd
  level : Option Nat
  maj : Nat
  preads : List Nat
  pwrites : List Nat
  control : Bool
  setsPrc : Bool
  deadline : Option Nat
  word : Word
  deriving DecidableEq, Repr

/-- A branch packet's word that breaks a field rule first (R65, R71). -/
def mbrFaultWord (np : BitVec 2) (p1 p2 p3 p4 : BitVec 4) (n1 n2 n3 n4 : Bool) (off1 off2 off3 off4 : BitVec 12) : Word :=
  let ws := encodeMbr np p1 p2 p3 p4 n1 n2 n3 n4 off1 off2 off3 off4
  let head := wf (.mbr np p1 p2 p3 p4 n1 n2 n3 n4 (if np.toNat < 0 then 0#12 else off1) (if np.toNat < 1 then 0#12 else off2)
    (if np.toNat < 2 then 0#12 else off3) (if np.toNat < 3 then 0#12 else off4))
  if !head then ws.getD 0 0#32
  else if np.toNat < 1 ∧ off2 ≠ 0#12 then ws.getD 1 0#32
  else ws.getD 2 0#32

/-- What the issue logic knows of an instruction. -/
def infoOf (i : Instr) : Info where
  ops := opnds i
  level := faultLevel i
  maj := match i with
    | .mbr .. => 0x21
    | _ => majOf i
  preads := ((opnds i).filter fun x => x.kind == .p && x.reads).map (fun x => x.f.toNat) ++ extraPredReads i
  pwrites := ((opnds i).filter fun x => x.kind == .p && x.writes).map (fun x => x.f.toNat) ++ extraPredWrites i
  control := match i with
    | .mbr .. => true
    | .endFibre => true
    | .taskCont .. => true
    | _ => 0x1C ≤ majOf i && majOf i ≤ 0x22
  setsPrc := match i with
    | .setprc _ => true
    | .setl _ => true
    | .setrm _ => true
    | .clrflags _ => true
    | .sets _ b => b == 1#6
    | _ => false
  deadline := match i with
    | .yield _ d => some d.toNat
    | _ => none
  word := match i with
    | .mbr np p1 p2 p3 p4 n1 n2 n3 n4 o1 o2 o3 o4 => mbrFaultWord np p1 p2 p3 p4 n1 n2 n3 n4 o1 o2 o3 o4
    | _ => encode false i

/-- The pipe of a word (R56). -/
def Info.pipe (x : Info) : Pipe := pipeOfMaj x.maj

/-- The role an engine word belongs to (R170); such words are crew-uniform (R171). -/
def Info.role (x : Info) : Option Role :=
  if x.maj = 0x31 ∨ x.maj = 0x32 then some .copy
  else if x.maj = 0x33 ∨ x.maj = 0x34 ∨ x.maj = 0x35 then some .matrix
  else none

/-- A collective (R217). -/
def Info.coll (x : Info) : Bool := x.maj == 0x25

/-- The words that wait for an acquire (R294): M-pipe words and X-pipe engine, task and arena words. -/
def Info.accesses (x : Info) : Bool := x.pipe == .m || (decide (0x31 ≤ x.maj) && decide (x.maj ≤ 0x37))

/-- The words that make a replay entry (R410). -/
def Info.memory (x : Info) : Bool :=
  (decide (0x0F ≤ x.maj) && decide (x.maj ≤ 0x16)) || (decide (0x27 ≤ x.maj) && decide (x.maj ≤ 0x2F))

/-- The words that issue while a converting load is unresolved (R158). -/
def Info.passesConv (x : Info) : Bool :=
  x.pipe == .i || x.pipe == .y || x.maj == 0x0F || x.maj == 0x11 || x.maj == 0x13 || x.maj == 0x15 ||
    (decide (0x1C ≤ x.maj) && decide (x.maj ≤ 0x22))

/-- Another converting load than the ones in flight. -/
def Info.converts (x : Info) : Bool := x.maj == 0x13 || x.maj == 0x15

/-- An access whose acquire holds back every later memory word (R294, R301, R303, R310). -/
def Access.acquires (a : Access) : Bool :=
  match a.op with
  | .lda => true
  | .amo _ ar => ar
  | .fence _ acq _ => acq
  | .ldf _ => true
  | .deq => true
  | _ => false

/-- An access sent to its home whose own part of a release's first wait is over (R261). -/
def Access.pastL1 (a : Access) : Bool :=
  match a.stage, a.op with
  | .sent, .amo _ ar => !ar
  | .sent, .red _ => true
  | .sent, .str => true
  | _, _ => false

/-- An access of global memory, which has a replay entry (R410). -/
def Access.global (a : Access) : Bool :=
  !a.spad && match a.op with
    | .load _ => true
    | .ldy _ => true
    | .ldc _ => true
    | .store => true
    | .amo _ _ => true
    | .red _ => true
    | .lda => true
    | .str => true
    | _ => false

/-- A stage in which something is to be replayed. -/
def Stage.replaying : Stage → Bool
  | .replay => true
  | .busy _ again => again
  | _ => false

/-- The copies of a fibre that have not landed. -/
def Gang.cpbsOf (g : Gang) (id : FibId) : List CpbOp := g.cpbs.filter fun c => c.who = id

/-- The replay entries of a fibre: its accesses of global memory, and its copies with a source (R410, R412). -/
def Fibre.entries (b : Fibre) (g : Gang) : Nat :=
  (b.acc.filter Access.global).length + ((g.cpbsOf b.id).filter fun c => c.len != 0).length

/-- What the checks before level 7 find in a word. -/
inductive Ready where
  | go
  | wait
  | trap (code : Nat) (val : DWord)
  deriving DecidableEq, Repr

/-- TVAL of causes 0x01, 0x02 and 0x0A: the word and its level of R71 (R405). -/
def wordVal (w : Word) (level : Nat) : DWord := BitVec.ofNat 64 (w.toNat + level * 2 ^ 32)

/-- Whether a word must wait for the fibre's own earlier words (R105, R145, R158, R193, R294, R410), or for what is to be
replayed, its copies included (R412). -/
def Info.mustWait (x : Info) (g : Gang) (b : Fibre) : Bool :=
  (x.ops.any fun o => o.writes && b.pends (destOf b.regs o)) ||
  (x.preads.any b.predPending) || (x.pwrites.any b.predPending) ||
  (decide (0 < b.convPending) && (!x.passesConv || (x.converts && decide (Config.convLoads ≤ b.convPending)))) ||
  (x.accesses && b.acc.any Access.acquires) ||
  (x.memory && decide (Config.replayEntries ≤ b.entries g)) ||
  (b.acc.any fun a => a.stage.replaying) || (g.cpbsOf b.id).any fun c => c.stage.replaying

/-- Level 6 (R18). -/
def Info.inWindow (x : Info) (r : Regs) : Bool := x.ops.all (Machine.inWindow r)

/-- The empty policy and the waits of one word (R63). A register that two sources name, one with each policy, traps.
DESIGN CHOICE (log 59): of two empty sources with policy 1, TVAL names the first of the word's fields A, B, D; and a source
with policy 1 traps whatever else the word waits for. -/
def Info.ready (x : Info) (g : Gang) (b : Fibre) : Ready :=
  match x.ops.find? fun o => o.reads && o.trap && isEmpty b.regs o with
  | some o => .trap 0x04 (BitVec.ofNat 64 (o.f.toNat + if o.kind = .y then 64 else 0))
  | none => if (x.ops.any fun o => o.reads && isEmpty b.regs o) || x.mustWait g b then .wait else .go

/-! ### Results -/

/-- w[F] := v, for the window that stands at issue (R15, R105). -/
def State.putW (s : State) (f : Fld) (v : Word) : State → State :=
  let p := s.r.base + f.toNat
  fun t => t.onRegs fun r => r.setAt p v true

/-- d[F] := v. -/
def State.putD (s : State) (f : Fld) (v : DWord) : State → State :=
  let p := s.r.base + f.toNat
  fun t => t.onRegs fun r => r.setRun p [v.extractLsb' 0 32, v.extractLsb' 32 32]

/-- A run of cells from F. -/
def State.putRun (s : State) (f : Fld) (vs : List Word) : State → State :=
  let p := s.r.base + f.toNat
  fun t => t.onRegs fun r => r.setRun p vs

/-- y[F] := v, full. -/
def State.putY (s : State) (f : Fld) (v : YReg) : State → State :=
  let level := s.r.frames.length
  fun t => t.onRegs fun r => r.deliver (.yreg level f.toNat) [] (some v)

/-- p[k] := b. -/
def State.putP (_s : State) (k : Nat) (b : Bool) : State → State := fun t => t.onRegs fun r => r.setP k b

/-- A register is marked empty, and a value is on its way to it (R122, R145). -/
def State.sendLate (s : State) (v : Deliv) : State :=
  { s with f := { s.f with
    regs := s.f.regs.markEmpty v.dest
    dlv := s.f.dlv ++ [{ v with ser := s.f.nextSer }]
    nextSer := s.f.nextSer + 1 } }

/-- A number as cells, low cell first. -/
def wordsOf : Nat → Nat → List Word
  | 0, _ => []
  | k + 1, x => BitVec.ofNat 32 x :: wordsOf k (x / 2 ^ 32)

/-- Cells as a number, low cell first. -/
def natOfWords : List Word → Nat
  | [] => 0
  | w :: r => w.toNat + 2 ^ 32 * natOfWords r

end Sys2Proof.Machine
end

