-- ==== Sys2Proof/Machine/Issue.lean ====
section
/-!
DEFINITION. Issuing a chain (03 R57, R71, 01 R15, R31, 05 R134, R135, 08 R182): what each word of a chain asks for, the
order of the checks, and the commit of the chain as a whole.
-/
namespace Sys2Proof.Machine

/-- Where control goes after a word. -/
inductive Ctl where
  /-- To the next word. -/
  | seq
  /-- A taken branch (R135). -/
  | taken (pc : DWord)
  /-- A call (R126, R127). -/
  | goto (pc : DWord)
  /-- A sequential arrival (R134). -/
  | arrive (pc : DWord)
  /-- The fibre has ended (R212). -/
  | gone
  deriving DecidableEq, Repr

/-- What a word asks for at issue. Its effect is a change of the state, made only when the whole chain commits. -/
inductive WordRes where
  /-- It commits. -/
  | commit (ctl : Ctl) (k : State → State)
  /-- It raises a fibre trap. -/
  | trap (code sub : Nat) (val : DWord)
  /-- It raises trap 0x02 at level 7 of R71, with itself in TVAL (R405). -/
  | illegal
  /-- It raises a fibre trap after its chain has committed: `brk` and `trap` (R31, R138). -/
  | after (code sub : Nat)
  /-- It raises a system fault at issue (R406). -/
  | fault (code sub : Nat) (va : DWord) (ia : Nat)
  /-- It waits. -/
  | wait
  /-- It is at work and has not committed (R407). -/
  | hold (k : State → State)
  /-- It begins the release that its own action follows (R387). -/
  | release (k : State → State)

/-- A word that only changes registers. -/
def WordRes.regs (k : State → State) : WordRes := .commit .seq k

/-! ### Hardware loops (R133 to R135) -/

/-- The end action at a sequential arrival (R134): the PC and the loop stack that it leaves. -/
def endLoops (base : Nat) (pc : DWord) : List LoopEntry → DWord × List LoopEntry
  | [] => (pc, [])
  | e :: rest =>
    if e.base ≠ base ∨ pc ≠ e.last + 16#64 then (pc, e :: rest)
    else if e.count - 1#32 ≠ 0#32 then (e.start, { e with count := e.count - 1#32 } :: rest)
    else endLoops base pc rest

/-- The loops that a taken branch to a packet leaves (R135). -/
def leaveLoops (base : Nat) (packet : DWord) : List LoopEntry → List LoopEntry
  | [] => []
  | e :: rest =>
    if e.base = base ∧ ¬(e.start ≤ packet ∧ packet ≤ e.last) then leaveLoops base packet rest else e :: rest

/-- Control arrives in sequence at a PC (R134). -/
def Regs.arriveAt (r : Regs) (pc : DWord) : Regs :=
  if pcSlot pc = 0 then
    let x := endLoops r.base pc r.loops
    { r with pc := x.1, loops := x.2 }
  else { r with pc := pc }

/-- Control goes where a word sends it; `next` is the PC after the chain. -/
def Regs.goes (r : Regs) (next : DWord) : Ctl → Regs
  | .seq => r.arriveAt next
  | .taken pc => { r with pc := pc, loops := leaveLoops r.base (pcPacket pc) r.loops }
  | .goto pc => { r with pc := pc }
  | .arrive pc => r.arriveAt pc
  | .gone => r

/-! ### YDL (R181, R182) -/

/-- YDL.LEFT. -/
def ydlLeft (y : Word) : Nat := (y.extractLsb' 0 16).toNat
/-- YDL.HINT. -/
def ydlHint (y : Word) : Nat := (y.extractLsb' 16 2).toNat
/-- YDL.IDLE. -/
def ydlIdle (y : Word) : Nat := (y.extractLsb' 18 5).toNat
/-- YDL of its fields. -/
def ydlOf (left hint idle : Nat) : Word := BitVec.ofNat 32 (left % 65536 + 65536 * hint + 262144 * idle)

/-- LEFT after the words of a chain, none when the watchdog fires (R182). -/
def leftAfter (ydef : Nat) : Nat → List (Option Nat) → Option Nat
  | left, [] => some left
  | left, x :: rest =>
    if left = 0 then none
    else match x with
      | none => leftAfter ydef (left - 1) rest
      | some d => leftAfter ydef (if d = 0 then ydef else d) rest

/-! ### Chains -/

/-- A word of a chain: where it stands, what issue knows of it, and its meaning. -/
structure ChainWord where
  pc : DWord
  info : Info
  body : State → WordRes

/-- What a chain comes to in one fibre. -/
inductive ChainRes where
  | wait
  | trap (code sub : Nat) (val : DWord)
  | fault (code sub : Nat) (va : DWord) (ia : Nat)
  | hold (k : State → State)
  | go (k : State → State)

/-- The lanes of the current fibre's crew that stand in the issuing bundle. -/
def State.mates (s : State) : List Fibre :=
  (s.crewFibres s.f.id.nid s.f.id.gid s.f.id.cid).filter fun x => x.id = s.f.id || s.issue.contains x.id

/-- The live lanes of the crew that are absent from the bundle or fail level 6 on a chain (R171, TVAL of 0x0B). -/
def State.partialLanes (s : State) (infos : List Info) : BitVec 32 :=
  laneMask (((s.crewFibres s.f.id.nid s.f.id.gid s.f.id.cid).filter fun x =>
    !((x.id = s.f.id || s.issue.contains x.id) && infos.all fun i => i.inWindow x.regs)).map fun x => x.id.fid)

/-- The role check and the crew check of a chain with a crew-uniform word (R170, R171). -/
def State.crewCheck (s : State) (infos : List Info) : Option (Nat × DWord) :=
  match infos.find? fun i => i.role.isSome with
  | none => none
  | some i =>
    if i.role ≠ some (s.g.role s.f.stg) then some (0x0A, wordVal i.word 7)
    else
      let m := s.partialLanes infos
      if m = 0#32 then none else some (0x0B, m.setWidth 64)

/-- The registers that words write, as destinations in the window that stands at issue. -/
def writtenBy (r : Regs) (infos : List Info) : List Dest :=
  infos.flatMap fun i => (i.ops.filter Opnd.writes).map (destOf r) ++ i.pwrites.map .pred

/-- Takes from the late values and statuses of serial `start` on the registers that later slots write (R15). -/
def Fibre.yieldTo (x : Fibre) (start : Nat) (ds : List Dest) : Fibre :=
  let cut := fun (d : Dest) => ds.foldl Dest.without d
  let p15 := ds.contains (.pred 15)
  { x with
    acc := x.acc.map fun a => if start ≤ a.ser then { a with dest := cut a.dest, mute := a.mute || p15 } else a
    dlv := x.dlv.map fun v =>
      if start ≤ v.ser then { v with dest := cut v.dest, status := if p15 then Option.none else v.status } else v }

/-- The words whose value may come late, or never (R15, R302, R310, R393). -/
def Info.late (x : Info) : Bool := x.pipe == .m || x.maj == 0x36

/-- Cells that lower slots of a chain have written hold what they held before it (R15). -/
def Regs.putBack (r r0 : Regs) (below ds : List Dest) : Regs :=
  ((ds.filter fun d => below.any d.meets).flatMap Dest.positions).foldl
    (fun t i => let c := r0.cells.getD i Cell.zero; t.setAt i c.val c.full) r

/-- The effects of the words of a chain in slot order (R15): a late word finds its cells as they were before the chain, so that
the value of a lower slot is never seen, and its value yields to the slots above it. `early` is the serial number of an M-pipe
word that has been issued already, and `below` are the registers that lower slots write. -/
def applyWords (r0 : Regs) (early : Option Nat) : List Dest → List (Info × (State → State)) → State → State
  | _, [], t => t
  | below, (i, k) :: rest, t =>
    let own := writtenBy r0 [i]
    let t0 := if i.late && !below.isEmpty then t.onRegs fun r => r.putBack r0 below own else t
    let t1 := k t0
    let above := writtenBy r0 (rest.map Prod.fst)
    let start := if i.pipe = .m then early.getD t.f.nextSer else t.f.nextSer
    let t2 := if above = [] then t1 else { t1 with f := t1.f.yieldTo start above }
    applyWords r0 early (below ++ own) rest t2

/-- What the level 7 checks make of a word. -/
def ChainWord.result (w : ChainWord) (s : State) : WordRes :=
  match w.info.ready s.g s.f with
  | .wait => .wait
  | .trap code val => .trap code 0 val
  | .go =>
    match w.body s with
    | .illegal => .trap 0x02 0 (wordVal w.info.word 7)
    | x => x

/-- The effect of a result that commits. -/
def WordRes.effect : WordRes → State → State
  | .commit _ k => k
  | _ => id

/-- Where a result sends control. -/
def WordRes.ctl : WordRes → Ctl
  | .commit c _ => c
  | _ => .seq

/-- A trap that a chain raises; a refused one is system fault 0x46 (R31, R419). -/
def State.trapRes (s : State) (code sub : Nat) (val : DWord) : ChainRes :=
  if s.r.trapRefused then .fault 0x46 code val 0 else .trap code sub val

/-- The first trap or fault among the results, in slot order. DESIGN CHOICE (log 59): `brk` and `trap` act after their
chain, so a trap that another word of the chain raises at level 7 comes first, whatever the slots. -/
def firstStop (s : State) : List WordRes → Option ChainRes
  | [] => none
  | .trap code sub val :: _ =>
    some (s.trapRes code sub val)
  | .fault code sub va ia :: _ => some (.fault code sub va ia)
  | .after code _ :: rest => if s.r.trapRefused then some (.fault 0x46 code 0#64 0) else firstStop s rest
  | _ :: rest => firstStop s rest

/-- What a chain that began at serial number `start` has issued carries its number (R158), and the words that a stop may find
incomplete keep the state before it, `r0` (R312, R407); nothing before it can be taken back to its own start any more. -/
def Fibre.based (x : Fibre) (start : Nat) (r0 : Option Regs) : Fibre :=
  { x with
    acc := x.acc.map fun a =>
      if start ≤ a.ser then { a with base := start, ckpt := if a.op.restarts then r0 else a.ckpt } else a.passed
    dlv := x.dlv.map fun v => if start ≤ v.ser then { v with base := start } else v }

/-- The words of R312. -/
def Info.restarts (x : Info) : Bool :=
  x.maj == 0x28 || x.maj == 0x2B || x.maj == 0x2C || (x.maj == 0x2A && x.word.getLsbD 3)

/-- A chain that can be taken back (log 67): beside a word of R312 it holds words that act on their own fibre alone. -/
def canRestart (l : List Info) : Bool := l.any Info.restarts && l.all fun i => i.restarts || i.passesConv

/-- The commit of a chain. The words act with PC at the word after the chain: writes of PRC first (R143), then the other
words in slot order, control-flow words last (a reshaped window takes no value of its own chain, R131), then YDL and the
PC; then the trap of a `brk` or `trap` (R31), whose entry waits for the flags that the chain has left pending (R146). -/
def commitChain (ws : List (Info × WordRes)) (next : DWord) (left : Nat) (s : State) : State :=
  let pick := fun (p : Info → Bool) => (ws.filter fun w => p w.1).map fun w => (w.1, w.2.effect)
  let t := applyWords s.r s.f.early [] (pick (·.setsPrc) ++ pick (fun i => !i.setsPrc && !i.control) ++ pick (·.control))
    (s.onRegs fun r => { r with pc := next })
  let ctl := (ws.map fun w => w.2.ctl).foldl (fun acc c => if acc = .seq then c else acc) .seq
  let r0 := if canRestart (ws.map Prod.fst) then some s.r else none
  let t1 := State.onRegs { t with f := { t.f.based s.f.nextSer r0 with early := none } } fun r =>
    { r with ydl := ydlOf left (ydlHint r.ydl) (ydlIdle r.ydl) }
  match ws.findSome? fun w => match w.2 with | .after code sub => some (code, sub) | _ => none with
  | none => t1.onRegs fun r => r.goes next ctl
  | some (code, sub) => t1.enterTrap next code sub 0#64

/-! ### Words issued before the rest of their chain -/

/-- The accesses that a release waits for, and that leave the fibre's own p15 to their commit (R261, R304). -/
def Info.carried (x : Info) : Bool :=
  (decide (0x0F ≤ x.maj) && decide (x.maj ≤ 0x16)) || (decide (0x27 ≤ x.maj) && decide (x.maj ≤ 0x2C)) || x.maj == 0x2E

/-- The words that act outside their own fibre, so that nothing can take them back (R31, R158): engine and task words, `end`,
`spawn`, and a `ret` that ends its fibre. -/
def Info.outside (x : Info) (r : Regs) : Bool :=
  x.maj == 0x31 || (decide (0x33 ≤ x.maj) && decide (x.maj ≤ 0x36)) ||
    (x.maj == 0x23 && decide ((x.word.extractLsb' 0 7).toNat ≤ 1)) || (x.maj == 0x1E && r.frames.isEmpty)

/-- A word is a release of its own chain's lower slots (R270, R387). -/
def releasesHere (w : Info × WordRes) : Bool := w.1.role.isSome || match w.2 with | .release _ => true | _ => false

/-- The M-pipe word of a chain that is issued before the others (log 61): an access below a word that begins a release (R14,
R270, R387), and a converting load beside a word that acts outside the fibre, since its trap lets no word of its chain
commit (R31, R158). -/
def firstWord (r : Regs) (all : List (Info × WordRes)) : List (Info × WordRes) → Option (State → State)
  | [] => none
  | (i, .commit _ k) :: rest =>
    if (i.carried && rest.any releasesHere) || (i.converts && all.any fun w => w.1.outside r) then some k
    else firstWord r all rest
  | _ :: rest => firstWord r all rest

/-- The destinations of what a fibre has issued from a serial number on. -/
def Fibre.sentFrom (x : Fibre) (start : Nat) : List Dest :=
  ((x.acc.filter fun a => start ≤ a.ser).map Access.dest) ++ (x.dlv.filter fun v => start ≤ v.ser).map Deliv.dest

/-- A word is issued before the rest of its chain: its destination is marked empty, and what else it does to the fibre's
registers waits for the commit. -/
def State.issueFirst (t : State) (k : State → State) : State :=
  let start := t.f.nextSer
  let u := k t
  { u with f := { u.f.based start none with
      regs := (u.f.sentFrom start).foldl Regs.markEmpty t.f.regs, early := some start } }

/-- A register is made full with what it holds. -/
def Regs.markFull (r : Regs) : Dest → Regs
  | .yreg l k => if l = r.frames.length then { r with ys := r.ys.modify k fun y => { y with full := true } } else r
  | d => d.positions.foldl (fun t i => t.setAt i (t.cells.getD i Cell.zero).val true) r

/-- The fibre as it stood before a word of the chain at its PC was issued, which is how its chain reads it (R57). -/
def Fibre.unsent (x : Fibre) (start : Nat) : Fibre :=
  { x with
    regs := (x.sentFrom start).foldl Regs.markFull x.regs
    acc := x.acc.filter fun a => a.ser < start
    dlv := x.dlv.filter fun v => v.ser < start }

/-- What is left to do, when the chain commits, for the word that has been issued from `start` on: its registers. Where its
value has come to nothing they are full again (R302). -/
def commitFirst (i : Info) (start : Nat) (k : State → State) (t : State) : State :=
  if i.maj == 0x29 || i.maj == 0x2B || i.maj == 0x2C || i.maj == 0x2E then t
  else
    let u := k t
    if t.f.sentFrom start = [] then t.onRegs fun _ => (u.f.sentFrom t.f.nextSer).foldl Regs.markFull u.r
    else t.onRegs fun _ => u.r

/-- The rest of a chain waits for the word issued before it: an engine word until it is past the L1 (R270), and any until a
converting load has come to a value (R158). -/
def Fibre.firstWaits (x : Fibre) (engine : Bool) (start : Nat) : Bool :=
  (x.acc.any fun a => decide (start ≤ a.ser) && (a.converts || (engine && !a.pastL1))) ||
    x.dlv.any fun v => decide (start ≤ v.ser) && v.converting && v.yval.isNone

/-- The result of a word of a chain. -/
def resultAt (s : State) (w : ChainWord) : WordRes :=
  match s.f.early, w.info.pipe with
  | some start, .m =>
    (match w.result s with
     | .commit c k => .commit c (commitFirst w.info start k)
     | _ => .regs id)
  | _, _ => w.result s

/-- What a chain comes to whose words all may commit. -/
def commitRes (ws : List (Info × WordRes)) (next : DWord) (left : Nat) (b : Fibre) : ChainRes :=
  match ws.findSome? fun x => match x.2 with | .hold k => some k | .release k => some k | _ => none with
  | some k => .hold k
  | none =>
    if (ws.any fun x => match x.2 with | .after _ _ => true | _ => false) && b.flagsPending then .wait
    else .go (commitChain ws next left)

/-- What a chain comes to in the current fibre after levels 1 to 5, when no trap is due; `next` is the PC of the word after
the chain, and `b` the fibre with what its chain has issued already. -/
def judgeChain (ws : List ChainWord) (next : DWord) (b : Fibre) (s : State) : ChainRes :=
  match ws.find? fun w => !w.info.inWindow s.r with
  | some w => s.trapRes 0x02 0 (wordVal w.info.word 6)
  | none =>
    if ws.any fun w => w.info.ready s.g s.f = .wait then .wait
    else
      match s.crewCheck (ws.map ChainWord.info) with
      | some (code, val) => s.trapRes code 0 val
      | none =>
        let res := (ws.map ChainWord.info).zip (ws.map (resultAt s))
        if res.any fun x => match x.2 with | .wait => true | _ => false then .wait
        else
          match firstStop s (res.map Prod.snd) with
          | some stop => stop
          | none =>
            match leftAfter s.n.spec.ydef (ydlLeft s.r.ydl) (ws.map fun w => w.info.deadline) with
            | none => .fault 0x45 0 0#64 0
            | some left =>
              match s.f.early, firstWord s.r res res with
              | none, some k => .hold fun t => t.issueFirst k
              | none, none => commitRes res next left s.f
              | some start, _ =>
                if b.firstWaits (ws.any fun w => w.info.role.isSome) start then .wait else commitRes res next left s.f

/-- A fault waits while a converting load is unresolved, which may yet discard the word that met it (R158). -/
def ChainRes.afterConv (b : Fibre) : ChainRes → ChainRes
  | .fault code sub va ia => if 0 < b.convPending then .wait else .fault code sub va ia
  | x => x

/-- The current fibre as its chain reads it (R57): w[D] and w[D+1] of an object instruction at work are as they were at issue
(R222), and what its chain has issued before the rest does not count. -/
def State.atIssue (s : State) : State :=
  let t := match s.f.obj with
    | none => s
    | some r => if r.xfn = 0 then s else s.onRegs fun g => (g.setAt r.pos r.low true).setAt (r.pos + 1) r.high true
  match s.f.early with
  | none => t
  | some start => { t with f := t.f.unsent start }

/-- What a chain comes to in the current fibre: a trap that is due is entered once no flag is pending (R146), and a fibre whose
fault waits for the report of its crew issues nothing (R410). -/
def evalChain (ws : List ChainWord) (next : DWord) (s : State) : ChainRes :=
  match s.f.due with
  | some (code, sub, val) => if s.f.flagsPending then .wait else .trap code sub val
  | none => if s.f.met.isSome then .wait else (judgeChain ws next s.f s.atIssue).afterConv s.f

/-- The outcome of a chain in the current fibre, when nothing else issues with it. -/
def ChainRes.apply (x : ChainRes) (first : DWord) (s : State) : State :=
  match x with
  | .wait => s
  | .trap code sub val => s.enterTrap first code sub val
  | .fault code sub va ia => s.raise [⟨s.f.id, first, code, sub, va, ia⟩]
  | .hold k => k s
  | .go k => k s

/-- The next number of an issue (R293). -/
def State.tick (s : State) : State := { s with issueNo := s.issueNo + 1 }

/-- The PC after an instruction that stands alone: the next word, or the next packet after a branch packet. -/
def nextAfter (x : Info) (pc : DWord) : DWord := if x.maj = 0x21 then pcPacket pc + 16#64 else pcNext pc

/-- One instruction issued alone by the current fibre: a chain of one word (R57), checked in the order of R71. -/
def issueInfo (x : Info) (body : State → WordRes) (s : State) : State :=
  let pc := s.r.pc
  match x.level with
  | some l =>
    let code := if l = 3 then 0x01 else 0x02
    ((s.trapRes code 0 (wordVal x.word l)).afterConv s.f).apply pc s
  | none => ((evalChain [⟨pc, x, body⟩] (nextAfter x pc) s).apply pc s).tick

/-- One instruction word executed by the current fibre. -/
def issueOne (i : Instr) (body : State → WordRes) (s : State) : Host.Outcome State Fault Refusal :=
  if s.off then .fault .poweredDown else .next (issueInfo (infoOf i) body s)

/-- An event of the device (95): nothing happens once the package is powered down (R439). -/
def event (k : State → State) (s : State) : Host.Outcome State Fault Refusal :=
  if s.off then .fault .poweredDown else .next (k s)

/-- The copies of a fibre that ends land without a counter (R212, R339): tags 4 to 7 count none. -/
def Gang.orphanCopies (x : Gang) (id : FibId) : Gang :=
  { x with cpbs := mapIf (fun c => decide (c.who = id)) (fun c => { c with tag := 4 + c.tag % 4 }) x.cpbs }

/-- The current fibre ends (R212, R174): so does its crew with its last live fibre, and its gang with its last crew. -/
def State.endFibre (s : State) : State :=
  let id := s.f.id
  let s1 := { s with f := s.f.stop, g := s.g.orphanCopies id }
  if s1.crewFibres id.nid id.gid id.cid = [] then
    s1.onGang id.nid id.gid fun g =>
      let left := g.crews.filter fun c => c.cid ≠ id.cid
      { g with
        crews := left
        place := if left = [] then (match g.place with | .resident c => .draining c | p => p) else g.place }
  else s1

end Sys2Proof.Machine
end

