-- ==== Sys2Proof/Machine/Int.lean ====
section
/-!
DEFINITION. Integer instructions (05 R107 to R113): each meaning is one result over the shared forms below.
-/
namespace Sys2Proof.Machine

/-- w[D] := op of two cells (R107). -/
def cellOp2 (s : State) (d a b : Fld) (op : Word → Word → Word) : WordRes := .regs (s.putW d (op (s.r.w a) (s.r.w b)))
/-- d[D] := op of two pairs (R109). -/
def pairOp2 (s : State) (d a b : Fld) (op : DWord → DWord → DWord) : WordRes :=
  .regs (s.putD d (op (s.r.d a) (s.r.d b)))
/-- d[D] := op of a pair and a cell (R109). -/
def pairCellOp (s : State) (d a b : Fld) (op : DWord → Word → DWord) : WordRes :=
  .regs (s.putD d (op (s.r.d a) (s.r.w b)))
/-- w[D] := op of one cell (R110, R111). -/
def cellOp1 (s : State) (d a : Fld) (op : Word → Word) : WordRes := .regs (s.putW d (op (s.r.w a)))
/-- d[D] := op of one pair (R110, R112). -/
def pairOp1 (s : State) (d a : Fld) (op : DWord → DWord) : WordRes := .regs (s.putD d (op (s.r.d a)))

/-- High half of a signed product (R107). -/
def mulHigh {w : Nat} (x y : BitVec w) : BitVec w := BitVec.ofInt w (x.toInt * y.toInt / 2 ^ w)
/-- High half of an unsigned product (R107). -/
def mulHighU {w : Nat} (x y : BitVec w) : BitVec w := BitVec.ofNat w (x.toNat * y.toNat / 2 ^ w)
/-- Signed quotient truncated toward zero, with the fixed edge cases of R108. -/
def quotS (x y : Word) : Word := if y = 0#32 then 0xFFFFFFFF#32 else BitVec.ofInt 32 (x.toInt.tdiv y.toInt)
/-- Signed remainder with the sign of the dividend (R108). -/
def remS (x y : Word) : Word := if y = 0#32 then x else BitVec.ofInt 32 (x.toInt.tmod y.toInt)
/-- Unsigned quotient (R108). -/
def quotU (x y : Word) : Word := if y = 0#32 then 0xFFFFFFFF#32 else BitVec.ofNat 32 (x.toNat / y.toNat)
/-- Unsigned remainder (R108). -/
def remU (x y : Word) : Word := if y = 0#32 then x else BitVec.ofNat 32 (x.toNat % y.toNat)
/-- Left shift, 0 for counts of the width or more (R107, R109). -/
def shiftL {w : Nat} (x : BitVec w) (n : Nat) : BitVec w := if n < w then BitVec.ofNat w (x.toNat * 2 ^ n) else 0#w
/-- Logical right shift. -/
def shiftR {w : Nat} (x : BitVec w) (n : Nat) : BitVec w := if n < w then BitVec.ofNat w (x.toNat / 2 ^ n) else 0#w
/-- Arithmetic right shift, all sign bits for counts of the width or more. -/
def shiftA {w : Nat} (x : BitVec w) (n : Nat) : BitVec w :=
  if n < w then BitVec.ofInt w (x.toInt / 2 ^ n) else if x.toInt < 0 then BitVec.ofInt w (-1) else 0#w
/-- Rotate left: bit k moves to bit (k + n) mod w (R107, R112). -/
def rotL {w : Nat} (x : BitVec w) (n : Nat) : BitVec w :=
  BitVec.ofNat w (x.toNat * 2 ^ (n % w)) ||| BitVec.ofNat w (x.toNat / 2 ^ (w - n % w))
/-- Signed minimum. -/
def minS {w : Nat} (x y : BitVec w) : BitVec w := if x.toInt < y.toInt then x else y
/-- Signed maximum. -/
def maxS {w : Nat} (x y : BitVec w) : BitVec w := if x.toInt > y.toInt then x else y
/-- Unsigned minimum. -/
def minU {w : Nat} (x y : BitVec w) : BitVec w := if x.toNat < y.toNat then x else y
/-- Unsigned maximum. -/
def maxU {w : Nat} (x y : BitVec w) : BitVec w := if x.toNat > y.toNat then x else y

/-! ### INT3 (R107, R108) -/

/-- ADD (R107). -/
def bodyAdd (d a b : Fld) (s : State) : WordRes :=
  cellOp2 s d a b fun x y => x + y
/-- ADD issued alone. -/
def execAdd (d a b : Fld) (ea eb : Bool) (s : State) : Host.Outcome State Fault Refusal :=
  issueOne (.add d a b ea eb) (bodyAdd d a b) s

/-- SUB (R107). -/
def bodySub (d a b : Fld) (s : State) : WordRes :=
  cellOp2 s d a b fun x y => x - y
/-- SUB issued alone. -/
def execSub (d a b : Fld) (ea eb : Bool) (s : State) : Host.Outcome State Fault Refusal :=
  issueOne (.sub d a b ea eb) (bodySub d a b) s

/-- MUL (R107). -/
def bodyMul (d a b : Fld) (s : State) : WordRes :=
  cellOp2 s d a b fun x y => x * y
/-- MUL issued alone. -/
def execMul (d a b : Fld) (ea eb : Bool) (s : State) : Host.Outcome State Fault Refusal :=
  issueOne (.mul d a b ea eb) (bodyMul d a b) s

/-- MULH (R107). -/
def bodyMulh (d a b : Fld) (s : State) : WordRes :=
  cellOp2 s d a b mulHigh
/-- MULH issued alone. -/
def execMulh (d a b : Fld) (ea eb : Bool) (s : State) : Host.Outcome State Fault Refusal :=
  issueOne (.mulh d a b ea eb) (bodyMulh d a b) s

/-- MULHU (R107). -/
def bodyMulhu (d a b : Fld) (s : State) : WordRes :=
  cellOp2 s d a b mulHighU
/-- MULHU issued alone. -/
def execMulhu (d a b : Fld) (ea eb : Bool) (s : State) : Host.Outcome State Fault Refusal :=
  issueOne (.mulhu d a b ea eb) (bodyMulhu d a b) s

/-- DIV (R108). -/
def bodyDiv (d a b : Fld) (s : State) : WordRes :=
  cellOp2 s d a b quotS
/-- DIV issued alone. -/
def execDiv (d a b : Fld) (ea eb : Bool) (s : State) : Host.Outcome State Fault Refusal :=
  issueOne (.div d a b ea eb) (bodyDiv d a b) s

/-- DIVU (R108). -/
def bodyDivu (d a b : Fld) (s : State) : WordRes :=
  cellOp2 s d a b quotU
/-- DIVU issued alone. -/
def execDivu (d a b : Fld) (ea eb : Bool) (s : State) : Host.Outcome State Fault Refusal :=
  issueOne (.divu d a b ea eb) (bodyDivu d a b) s

/-- REM (R108). -/
def bodyRem (d a b : Fld) (s : State) : WordRes :=
  cellOp2 s d a b remS
/-- REM issued alone. -/
def execRem (d a b : Fld) (ea eb : Bool) (s : State) : Host.Outcome State Fault Refusal :=
  issueOne (.rem d a b ea eb) (bodyRem d a b) s

/-- REMU (R108). -/
def bodyRemu (d a b : Fld) (s : State) : WordRes :=
  cellOp2 s d a b remU
/-- REMU issued alone. -/
def execRemu (d a b : Fld) (ea eb : Bool) (s : State) : Host.Outcome State Fault Refusal :=
  issueOne (.remu d a b ea eb) (bodyRemu d a b) s

/-- AND (R107). -/
def bodyAnd (d a b : Fld) (s : State) : WordRes :=
  cellOp2 s d a b fun x y => x &&& y
/-- AND issued alone. -/
def execAnd (d a b : Fld) (ea eb : Bool) (s : State) : Host.Outcome State Fault Refusal :=
  issueOne (.and d a b ea eb) (bodyAnd d a b) s

/-- OR (R107). -/
def bodyOr (d a b : Fld) (s : State) : WordRes :=
  cellOp2 s d a b fun x y => x ||| y
/-- OR issued alone. -/
def execOr (d a b : Fld) (ea eb : Bool) (s : State) : Host.Outcome State Fault Refusal :=
  issueOne (.or d a b ea eb) (bodyOr d a b) s

/-- XOR (R107). -/
def bodyXor (d a b : Fld) (s : State) : WordRes :=
  cellOp2 s d a b fun x y => x ^^^ y
/-- XOR issued alone. -/
def execXor (d a b : Fld) (ea eb : Bool) (s : State) : Host.Outcome State Fault Refusal :=
  issueOne (.xor d a b ea eb) (bodyXor d a b) s

/-- ANDN (R107). -/
def bodyAndn (d a b : Fld) (s : State) : WordRes :=
  cellOp2 s d a b fun x y => x &&& ~~~y
/-- ANDN issued alone. -/
def execAndn (d a b : Fld) (ea eb : Bool) (s : State) : Host.Outcome State Fault Refusal :=
  issueOne (.andn d a b ea eb) (bodyAndn d a b) s

/-- ORN (R107). -/
def bodyOrn (d a b : Fld) (s : State) : WordRes :=
  cellOp2 s d a b fun x y => x ||| ~~~y
/-- ORN issued alone. -/
def execOrn (d a b : Fld) (ea eb : Bool) (s : State) : Host.Outcome State Fault Refusal :=
  issueOne (.orn d a b ea eb) (bodyOrn d a b) s

/-- SHL (R107). -/
def bodyShl (d a b : Fld) (s : State) : WordRes :=
  cellOp2 s d a b fun x y => shiftL x y.toNat
/-- SHL issued alone. -/
def execShl (d a b : Fld) (ea eb : Bool) (s : State) : Host.Outcome State Fault Refusal :=
  issueOne (.shl d a b ea eb) (bodyShl d a b) s

/-- SHR (R107). -/
def bodyShr (d a b : Fld) (s : State) : WordRes :=
  cellOp2 s d a b fun x y => shiftR x y.toNat
/-- SHR issued alone. -/
def execShr (d a b : Fld) (ea eb : Bool) (s : State) : Host.Outcome State Fault Refusal :=
  issueOne (.shr d a b ea eb) (bodyShr d a b) s

/-- SAR (R107). -/
def bodySar (d a b : Fld) (s : State) : WordRes :=
  cellOp2 s d a b fun x y => shiftA x y.toNat
/-- SAR issued alone. -/
def execSar (d a b : Fld) (ea eb : Bool) (s : State) : Host.Outcome State Fault Refusal :=
  issueOne (.sar d a b ea eb) (bodySar d a b) s

/-- ROTL (R107). -/
def bodyRotl (d a b : Fld) (s : State) : WordRes :=
  cellOp2 s d a b fun x y => rotL x y.toNat
/-- ROTL issued alone. -/
def execRotl (d a b : Fld) (ea eb : Bool) (s : State) : Host.Outcome State Fault Refusal :=
  issueOne (.rotl d a b ea eb) (bodyRotl d a b) s

/-- MIN (R107). -/
def bodyMin (d a b : Fld) (s : State) : WordRes :=
  cellOp2 s d a b minS
/-- MIN issued alone. -/
def execMin (d a b : Fld) (ea eb : Bool) (s : State) : Host.Outcome State Fault Refusal :=
  issueOne (.min d a b ea eb) (bodyMin d a b) s

/-- MAX (R107). -/
def bodyMax (d a b : Fld) (s : State) : WordRes :=
  cellOp2 s d a b maxS
/-- MAX issued alone. -/
def execMax (d a b : Fld) (ea eb : Bool) (s : State) : Host.Outcome State Fault Refusal :=
  issueOne (.max d a b ea eb) (bodyMax d a b) s

/-- MINU (R107). -/
def bodyMinu (d a b : Fld) (s : State) : WordRes :=
  cellOp2 s d a b minU
/-- MINU issued alone. -/
def execMinu (d a b : Fld) (ea eb : Bool) (s : State) : Host.Outcome State Fault Refusal :=
  issueOne (.minu d a b ea eb) (bodyMinu d a b) s

/-- MAXU (R107). -/
def bodyMaxu (d a b : Fld) (s : State) : WordRes :=
  cellOp2 s d a b maxU
/-- MAXU issued alone. -/
def execMaxu (d a b : Fld) (ea eb : Bool) (s : State) : Host.Outcome State Fault Refusal :=
  issueOne (.maxu d a b ea eb) (bodyMaxu d a b) s

/-- ADDS (R107). -/
def bodyAdds (d a b : Fld) (s : State) : WordRes :=
  cellOp2 s d a b fun x y => clampS32 (x.toInt + y.toInt)
/-- ADDS issued alone. -/
def execAdds (d a b : Fld) (ea eb : Bool) (s : State) : Host.Outcome State Fault Refusal :=
  issueOne (.adds d a b ea eb) (bodyAdds d a b) s

/-- SUBS (R107). -/
def bodySubs (d a b : Fld) (s : State) : WordRes :=
  cellOp2 s d a b fun x y => clampS32 (x.toInt - y.toInt)
/-- SUBS issued alone. -/
def execSubs (d a b : Fld) (ea eb : Bool) (s : State) : Host.Outcome State Fault Refusal :=
  issueOne (.subs d a b ea eb) (bodySubs d a b) s

/-- ADDUS (R107). -/
def bodyAddus (d a b : Fld) (s : State) : WordRes :=
  cellOp2 s d a b fun x y => clampU32 ((x.toNat : Int) + y.toNat)
/-- ADDUS issued alone. -/
def execAddus (d a b : Fld) (ea eb : Bool) (s : State) : Host.Outcome State Fault Refusal :=
  issueOne (.addus d a b ea eb) (bodyAddus d a b) s

/-- SUBUS (R107). -/
def bodySubus (d a b : Fld) (s : State) : WordRes :=
  cellOp2 s d a b fun x y => clampU32 ((x.toNat : Int) - y.toNat)
/-- SUBUS issued alone. -/
def execSubus (d a b : Fld) (ea eb : Bool) (s : State) : Host.Outcome State Fault Refusal :=
  issueOne (.subus d a b ea eb) (bodySubus d a b) s

/-- LEA1 (R107). -/
def bodyLea1 (d a b : Fld) (s : State) : WordRes :=
  cellOp2 s d a b fun x y => x + shiftL y 1
/-- LEA1 issued alone. -/
def execLea1 (d a b : Fld) (ea eb : Bool) (s : State) : Host.Outcome State Fault Refusal :=
  issueOne (.lea1 d a b ea eb) (bodyLea1 d a b) s

/-- LEA2 (R107). -/
def bodyLea2 (d a b : Fld) (s : State) : WordRes :=
  cellOp2 s d a b fun x y => x + shiftL y 2
/-- LEA2 issued alone. -/
def execLea2 (d a b : Fld) (ea eb : Bool) (s : State) : Host.Outcome State Fault Refusal :=
  issueOne (.lea2 d a b ea eb) (bodyLea2 d a b) s

/-- LEA3 (R107). -/
def bodyLea3 (d a b : Fld) (s : State) : WordRes :=
  cellOp2 s d a b fun x y => x + shiftL y 3
/-- LEA3 issued alone. -/
def execLea3 (d a b : Fld) (ea eb : Bool) (s : State) : Host.Outcome State Fault Refusal :=
  issueOne (.lea3 d a b ea eb) (bodyLea3 d a b) s

/-- LEA4 (R107). -/
def bodyLea4 (d a b : Fld) (s : State) : WordRes :=
  cellOp2 s d a b fun x y => x + shiftL y 4
/-- LEA4 issued alone. -/
def execLea4 (d a b : Fld) (ea eb : Bool) (s : State) : Host.Outcome State Fault Refusal :=
  issueOne (.lea4 d a b ea eb) (bodyLea4 d a b) s

/-! ### INT64 (R109) -/

/-- ADD_D (R109). -/
def bodyAddD (d a b : Fld) (s : State) : WordRes :=
  pairOp2 s d a b fun x y => x + y
/-- ADD_D issued alone. -/
def execAddD (d a b : Fld) (ea eb : Bool) (s : State) : Host.Outcome State Fault Refusal :=
  issueOne (.addD d a b ea eb) (bodyAddD d a b) s

/-- SUB_D (R109). -/
def bodySubD (d a b : Fld) (s : State) : WordRes :=
  pairOp2 s d a b fun x y => x - y
/-- SUB_D issued alone. -/
def execSubD (d a b : Fld) (ea eb : Bool) (s : State) : Host.Outcome State Fault Refusal :=
  issueOne (.subD d a b ea eb) (bodySubD d a b) s

/-- MUL_D (R109). -/
def bodyMulD (d a b : Fld) (s : State) : WordRes :=
  pairOp2 s d a b fun x y => x * y
/-- MUL_D issued alone. -/
def execMulD (d a b : Fld) (ea eb : Bool) (s : State) : Host.Outcome State Fault Refusal :=
  issueOne (.mulD d a b ea eb) (bodyMulD d a b) s

/-- MULH_D (R109). -/
def bodyMulhD (d a b : Fld) (s : State) : WordRes :=
  pairOp2 s d a b mulHigh
/-- MULH_D issued alone. -/
def execMulhD (d a b : Fld) (ea eb : Bool) (s : State) : Host.Outcome State Fault Refusal :=
  issueOne (.mulhD d a b ea eb) (bodyMulhD d a b) s

/-- MULHU_D (R109). -/
def bodyMulhuD (d a b : Fld) (s : State) : WordRes :=
  pairOp2 s d a b mulHighU
/-- MULHU_D issued alone. -/
def execMulhuD (d a b : Fld) (ea eb : Bool) (s : State) : Host.Outcome State Fault Refusal :=
  issueOne (.mulhuD d a b ea eb) (bodyMulhuD d a b) s

/-- AND_D (R109). -/
def bodyAndD (d a b : Fld) (s : State) : WordRes :=
  pairOp2 s d a b fun x y => x &&& y
/-- AND_D issued alone. -/
def execAndD (d a b : Fld) (ea eb : Bool) (s : State) : Host.Outcome State Fault Refusal :=
  issueOne (.andD d a b ea eb) (bodyAndD d a b) s

/-- OR_D (R109). -/
def bodyOrD (d a b : Fld) (s : State) : WordRes :=
  pairOp2 s d a b fun x y => x ||| y
/-- OR_D issued alone. -/
def execOrD (d a b : Fld) (ea eb : Bool) (s : State) : Host.Outcome State Fault Refusal :=
  issueOne (.orD d a b ea eb) (bodyOrD d a b) s

/-- XOR_D (R109). -/
def bodyXorD (d a b : Fld) (s : State) : WordRes :=
  pairOp2 s d a b fun x y => x ^^^ y
/-- XOR_D issued alone. -/
def execXorD (d a b : Fld) (ea eb : Bool) (s : State) : Host.Outcome State Fault Refusal :=
  issueOne (.xorD d a b ea eb) (bodyXorD d a b) s

/-- SHL_D (R109). -/
def bodyShlD (d a b : Fld) (s : State) : WordRes :=
  pairCellOp s d a b fun x y => shiftL x y.toNat
/-- SHL_D issued alone. -/
def execShlD (d a b : Fld) (ea eb : Bool) (s : State) : Host.Outcome State Fault Refusal :=
  issueOne (.shlD d a b ea eb) (bodyShlD d a b) s

/-- SHR_D (R109). -/
def bodyShrD (d a b : Fld) (s : State) : WordRes :=
  pairCellOp s d a b fun x y => shiftR x y.toNat
/-- SHR_D issued alone. -/
def execShrD (d a b : Fld) (ea eb : Bool) (s : State) : Host.Outcome State Fault Refusal :=
  issueOne (.shrD d a b ea eb) (bodyShrD d a b) s

/-- SAR_D (R109). -/
def bodySarD (d a b : Fld) (s : State) : WordRes :=
  pairCellOp s d a b fun x y => shiftA x y.toNat
/-- SAR_D issued alone. -/
def execSarD (d a b : Fld) (ea eb : Bool) (s : State) : Host.Outcome State Fault Refusal :=
  issueOne (.sarD d a b ea eb) (bodySarD d a b) s

/-- MIN_D (R109). -/
def bodyMinD (d a b : Fld) (s : State) : WordRes :=
  pairOp2 s d a b minS
/-- MIN_D issued alone. -/
def execMinD (d a b : Fld) (ea eb : Bool) (s : State) : Host.Outcome State Fault Refusal :=
  issueOne (.minD d a b ea eb) (bodyMinD d a b) s

/-- MAX_D (R109). -/
def bodyMaxD (d a b : Fld) (s : State) : WordRes :=
  pairOp2 s d a b maxS
/-- MAX_D issued alone. -/
def execMaxD (d a b : Fld) (ea eb : Bool) (s : State) : Host.Outcome State Fault Refusal :=
  issueOne (.maxD d a b ea eb) (bodyMaxD d a b) s

/-- MINU_D (R109). -/
def bodyMinuD (d a b : Fld) (s : State) : WordRes :=
  pairOp2 s d a b minU
/-- MINU_D issued alone. -/
def execMinuD (d a b : Fld) (ea eb : Bool) (s : State) : Host.Outcome State Fault Refusal :=
  issueOne (.minuD d a b ea eb) (bodyMinuD d a b) s

/-- MAXU_D (R109). -/
def bodyMaxuD (d a b : Fld) (s : State) : WordRes :=
  pairOp2 s d a b maxU
/-- MAXU_D issued alone. -/
def execMaxuD (d a b : Fld) (ea eb : Bool) (s : State) : Host.Outcome State Fault Refusal :=
  issueOne (.maxuD d a b ea eb) (bodyMaxuD d a b) s

/-- ADDW_D (R109). -/
def bodyAddwD (d a b : Fld) (s : State) : WordRes :=
  pairCellOp s d a b fun x y => x + y.signExtend 64
/-- ADDW_D issued alone. -/
def execAddwD (d a b : Fld) (ea eb : Bool) (s : State) : Host.Outcome State Fault Refusal :=
  issueOne (.addwD d a b ea eb) (bodyAddwD d a b) s

/-- ADDUW_D (R109). -/
def bodyAdduwD (d a b : Fld) (s : State) : WordRes :=
  pairCellOp s d a b fun x y => x + y.setWidth 64
/-- ADDUW_D issued alone. -/
def execAdduwD (d a b : Fld) (ea eb : Bool) (s : State) : Host.Outcome State Fault Refusal :=
  issueOne (.adduwD d a b ea eb) (bodyAdduwD d a b) s

/-- MULW_D (R109). -/
def bodyMulwD (d a b : Fld) (s : State) : WordRes :=
  .regs (s.putD d ((s.r.w a).signExtend 64 * (s.r.w b).signExtend 64))
/-- MULW_D issued alone. -/
def execMulwD (d a b : Fld) (ea eb : Bool) (s : State) : Host.Outcome State Fault Refusal :=
  issueOne (.mulwD d a b ea eb) (bodyMulwD d a b) s

/-- MULUW_D (R109). -/
def bodyMuluwD (d a b : Fld) (s : State) : WordRes :=
  .regs (s.putD d ((s.r.w a).setWidth 64 * (s.r.w b).setWidth 64))
/-- MULUW_D issued alone. -/
def execMuluwD (d a b : Fld) (ea eb : Bool) (s : State) : Host.Outcome State Fault Refusal :=
  issueOne (.muluwD d a b ea eb) (bodyMuluwD d a b) s

/-! ### INT1 (R110) -/

/-- MOV (R110). -/
def bodyMov (d a : Fld) (s : State) : WordRes :=
  cellOp1 s d a fun x => x
/-- MOV issued alone. -/
def execMov (d a : Fld) (ea : Bool) (s : State) : Host.Outcome State Fault Refusal :=
  issueOne (.mov d a ea) (bodyMov d a) s

/-- NOT (R110). -/
def bodyNot (d a : Fld) (s : State) : WordRes :=
  cellOp1 s d a fun x => ~~~x
/-- NOT issued alone. -/
def execNot (d a : Fld) (ea : Bool) (s : State) : Host.Outcome State Fault Refusal :=
  issueOne (.not d a ea) (bodyNot d a) s

/-- NEG (R110). -/
def bodyNeg (d a : Fld) (s : State) : WordRes :=
  cellOp1 s d a fun x => -x
/-- NEG issued alone. -/
def execNeg (d a : Fld) (ea : Bool) (s : State) : Host.Outcome State Fault Refusal :=
  issueOne (.neg d a ea) (bodyNeg d a) s

/-- ABS (R110). -/
def bodyAbs (d a : Fld) (s : State) : WordRes :=
  cellOp1 s d a fun x => if x.toInt < 0 then -x else x
/-- ABS issued alone. -/
def execAbs (d a : Fld) (ea : Bool) (s : State) : Host.Outcome State Fault Refusal :=
  issueOne (.abs d a ea) (bodyAbs d a) s

/-- CLZ (R110). -/
def bodyClz (d a : Fld) (s : State) : WordRes :=
  cellOp1 s d a fun x => BitVec.ofNat 32 (leadZeros 32 x.toNat)
/-- CLZ issued alone. -/
def execClz (d a : Fld) (ea : Bool) (s : State) : Host.Outcome State Fault Refusal :=
  issueOne (.clz d a ea) (bodyClz d a) s

/-- CTZ (R110). -/
def bodyCtz (d a : Fld) (s : State) : WordRes :=
  cellOp1 s d a fun x => BitVec.ofNat 32 (trailZeros 32 x.toNat)
/-- CTZ issued alone. -/
def execCtz (d a : Fld) (ea : Bool) (s : State) : Host.Outcome State Fault Refusal :=
  issueOne (.ctz d a ea) (bodyCtz d a) s

/-- POPC (R110). -/
def bodyPopc (d a : Fld) (s : State) : WordRes :=
  cellOp1 s d a fun x => BitVec.ofNat 32 (popCount 32 x.toNat)
/-- POPC issued alone. -/
def execPopc (d a : Fld) (ea : Bool) (s : State) : Host.Outcome State Fault Refusal :=
  issueOne (.popc d a ea) (bodyPopc d a) s

/-- BREV (R110). -/
def bodyBrev (d a : Fld) (s : State) : WordRes :=
  cellOp1 s d a fun x => BitVec.ofNat 32 (revBits 32 x.toNat)
/-- BREV issued alone. -/
def execBrev (d a : Fld) (ea : Bool) (s : State) : Host.Outcome State Fault Refusal :=
  issueOne (.brev d a ea) (bodyBrev d a) s

/-- BSWAP (R110). -/
def bodyBswap (d a : Fld) (s : State) : WordRes :=
  cellOp1 s d a fun x => x.extractLsb' 0 8 ++ x.extractLsb' 8 8 ++ x.extractLsb' 16 8 ++ x.extractLsb' 24 8
/-- BSWAP issued alone. -/
def execBswap (d a : Fld) (ea : Bool) (s : State) : Host.Outcome State Fault Refusal :=
  issueOne (.bswap d a ea) (bodyBswap d a) s

/-- SEXTB (R110). -/
def bodySextb (d a : Fld) (s : State) : WordRes :=
  cellOp1 s d a fun x => (x.extractLsb' 0 8).signExtend 32
/-- SEXTB issued alone. -/
def execSextb (d a : Fld) (ea : Bool) (s : State) : Host.Outcome State Fault Refusal :=
  issueOne (.sextb d a ea) (bodySextb d a) s

/-- SEXTH (R110). -/
def bodySexth (d a : Fld) (s : State) : WordRes :=
  cellOp1 s d a fun x => (x.extractLsb' 0 16).signExtend 32
/-- SEXTH issued alone. -/
def execSexth (d a : Fld) (ea : Bool) (s : State) : Host.Outcome State Fault Refusal :=
  issueOne (.sexth d a ea) (bodySexth d a) s

/-- ZEXTB (R110). -/
def bodyZextb (d a : Fld) (s : State) : WordRes :=
  cellOp1 s d a fun x => (x.extractLsb' 0 8).setWidth 32
/-- ZEXTB issued alone. -/
def execZextb (d a : Fld) (ea : Bool) (s : State) : Host.Outcome State Fault Refusal :=
  issueOne (.zextb d a ea) (bodyZextb d a) s

/-- ZEXTH (R110). -/
def bodyZexth (d a : Fld) (s : State) : WordRes :=
  cellOp1 s d a fun x => (x.extractLsb' 0 16).setWidth 32
/-- ZEXTH issued alone. -/
def execZexth (d a : Fld) (ea : Bool) (s : State) : Host.Outcome State Fault Refusal :=
  issueOne (.zexth d a ea) (bodyZexth d a) s

/-- MOV_D (R110). -/
def bodyMovD (d a : Fld) (s : State) : WordRes :=
  pairOp1 s d a fun x => x
/-- MOV_D issued alone. -/
def execMovD (d a : Fld) (ea : Bool) (s : State) : Host.Outcome State Fault Refusal :=
  issueOne (.movD d a ea) (bodyMovD d a) s

/-- CLZ_D (R110). -/
def bodyClzD (d a : Fld) (s : State) : WordRes :=
  .regs (s.putW d (BitVec.ofNat 32 (leadZeros 64 (s.r.d a).toNat)))
/-- CLZ_D issued alone. -/
def execClzD (d a : Fld) (ea : Bool) (s : State) : Host.Outcome State Fault Refusal :=
  issueOne (.clzD d a ea) (bodyClzD d a) s

/-- POPC_D (R110). -/
def bodyPopcD (d a : Fld) (s : State) : WordRes :=
  .regs (s.putW d (BitVec.ofNat 32 (popCount 64 (s.r.d a).toNat)))
/-- POPC_D issued alone. -/
def execPopcD (d a : Fld) (ea : Bool) (s : State) : Host.Outcome State Fault Refusal :=
  issueOne (.popcD d a ea) (bodyPopcD d a) s

/-- SEXT_D (R110). -/
def bodySextD (d a : Fld) (s : State) : WordRes :=
  .regs (s.putD d ((s.r.w a).signExtend 64))
/-- SEXT_D issued alone. -/
def execSextD (d a : Fld) (ea : Bool) (s : State) : Host.Outcome State Fault Refusal :=
  issueOne (.sextD d a ea) (bodySextD d a) s

/-- ZEXT_D (R110). -/
def bodyZextD (d a : Fld) (s : State) : WordRes :=
  .regs (s.putD d ((s.r.w a).setWidth 64))
/-- ZEXT_D issued alone. -/
def execZextD (d a : Fld) (ea : Bool) (s : State) : Host.Outcome State Fault Refusal :=
  issueOne (.zextD d a ea) (bodyZextD d a) s

/-! ### Immediates and constants (R111 to R113) -/

/-- ADDI (R111). -/
def bodyAddi (d a : Fld) (i : BitVec 12) (s : State) : WordRes :=
  cellOp1 s d a fun x => x + i.signExtend 32
/-- ADDI issued alone. -/
def execAddi (d a : Fld) (ea : Bool) (i : BitVec 12) (s : State) : Host.Outcome State Fault Refusal :=
  issueOne (.addi d a ea i) (bodyAddi d a i) s

/-- ANDI (R111). -/
def bodyAndi (d a : Fld) (i : BitVec 12) (s : State) : WordRes :=
  cellOp1 s d a fun x => x &&& i.signExtend 32
/-- ANDI issued alone. -/
def execAndi (d a : Fld) (ea : Bool) (i : BitVec 12) (s : State) : Host.Outcome State Fault Refusal :=
  issueOne (.andi d a ea i) (bodyAndi d a i) s

/-- ORI (R111). -/
def bodyOri (d a : Fld) (i : BitVec 12) (s : State) : WordRes :=
  cellOp1 s d a fun x => x ||| i.setWidth 32
/-- ORI issued alone. -/
def execOri (d a : Fld) (ea : Bool) (i : BitVec 12) (s : State) : Host.Outcome State Fault Refusal :=
  issueOne (.ori d a ea i) (bodyOri d a i) s

/-- XORI (R111). -/
def bodyXori (d a : Fld) (i : BitVec 12) (s : State) : WordRes :=
  cellOp1 s d a fun x => x ^^^ i.signExtend 32
/-- XORI issued alone. -/
def execXori (d a : Fld) (ea : Bool) (i : BitVec 12) (s : State) : Host.Outcome State Fault Refusal :=
  issueOne (.xori d a ea i) (bodyXori d a i) s

/-- SHLI (R112). -/
def bodyShli (d a n : Fld) (s : State) : WordRes :=
  cellOp1 s d a fun x => shiftL x n.toNat
/-- SHLI issued alone. -/
def execShli (d a : Fld) (ea : Bool) (n : Fld) (s : State) : Host.Outcome State Fault Refusal :=
  issueOne (.shli d a ea n) (bodyShli d a n) s

/-- SHRI (R112). -/
def bodyShri (d a n : Fld) (s : State) : WordRes :=
  cellOp1 s d a fun x => shiftR x n.toNat
/-- SHRI issued alone. -/
def execShri (d a : Fld) (ea : Bool) (n : Fld) (s : State) : Host.Outcome State Fault Refusal :=
  issueOne (.shri d a ea n) (bodyShri d a n) s

/-- SARI (R112). -/
def bodySari (d a n : Fld) (s : State) : WordRes :=
  cellOp1 s d a fun x => shiftA x n.toNat
/-- SARI issued alone. -/
def execSari (d a : Fld) (ea : Bool) (n : Fld) (s : State) : Host.Outcome State Fault Refusal :=
  issueOne (.sari d a ea n) (bodySari d a n) s

/-- ROTLI (R112). -/
def bodyRotli (d a n : Fld) (s : State) : WordRes :=
  cellOp1 s d a fun x => rotL x n.toNat
/-- ROTLI issued alone. -/
def execRotli (d a : Fld) (ea : Bool) (n : Fld) (s : State) : Host.Outcome State Fault Refusal :=
  issueOne (.rotli d a ea n) (bodyRotli d a n) s

/-- SHLI_D (R112). -/
def bodyShliD (d a n : Fld) (s : State) : WordRes :=
  pairOp1 s d a fun x => shiftL x n.toNat
/-- SHLI_D issued alone. -/
def execShliD (d a : Fld) (ea : Bool) (n : Fld) (s : State) : Host.Outcome State Fault Refusal :=
  issueOne (.shliD d a ea n) (bodyShliD d a n) s

/-- SHRI_D (R112). -/
def bodyShriD (d a n : Fld) (s : State) : WordRes :=
  pairOp1 s d a fun x => shiftR x n.toNat
/-- SHRI_D issued alone. -/
def execShriD (d a : Fld) (ea : Bool) (n : Fld) (s : State) : Host.Outcome State Fault Refusal :=
  issueOne (.shriD d a ea n) (bodyShriD d a n) s

/-- SARI_D (R112). -/
def bodySariD (d a n : Fld) (s : State) : WordRes :=
  pairOp1 s d a fun x => shiftA x n.toNat
/-- SARI_D issued alone. -/
def execSariD (d a : Fld) (ea : Bool) (n : Fld) (s : State) : Host.Outcome State Fault Refusal :=
  issueOne (.sariD d a ea n) (bodySariD d a n) s

/-- ROTLI_D (R112). -/
def bodyRotliD (d a n : Fld) (s : State) : WordRes :=
  pairOp1 s d a fun x => rotL x n.toNat
/-- ROTLI_D issued alone. -/
def execRotliD (d a : Fld) (ea : Bool) (n : Fld) (s : State) : Host.Outcome State Fault Refusal :=
  issueOne (.rotliD d a ea n) (bodyRotliD d a n) s

/-- LI (R113). -/
def bodyLi (d : Fld) (i : BitVec 19) (s : State) : WordRes :=
  .regs (s.putW d (i.signExtend 32))
/-- LI issued alone. -/
def execLi (d : Fld) (i : BitVec 19) (s : State) : Host.Outcome State Fault Refusal :=
  issueOne (.li d i) (bodyLi d i) s

/-- LIH (R113). -/
def bodyLih (d : Fld) (i : BitVec 19) (s : State) : WordRes :=
  .regs (s.putW d (i ++ (s.r.w d).extractLsb' 0 13))
/-- LIH issued alone. -/
def execLih (d : Fld) (i : BitVec 19) (s : State) : Host.Outcome State Fault Refusal :=
  issueOne (.lih d i) (bodyLih d i) s

end Sys2Proof.Machine
end

