-- ==== Sys2Proof/Machine/Pred.lean ====
section
/-!
DEFINITION. Compares, selects and predicates (05 R114 to R118).
-/
namespace Sys2Proof.Machine

/-- p[D] := a relation of two cells (R114). -/
def cellCmp (s : State) (d a b : Fld) (rel : Word → Word → Bool) : WordRes :=
  .regs (s.putP d.toNat (rel (s.r.w a) (s.r.w b)))
/-- p[D] := a relation of two pairs (R114). -/
def pairCmp (s : State) (d a b : Fld) (rel : DWord → DWord → Bool) : WordRes :=
  .regs (s.putP d.toNat (rel (s.r.d a) (s.r.d b)))
/-- p[D] := a relation of a cell and a 9-bit immediate (R116). -/
def immCmp (s : State) (d a : Fld) (i : BitVec 9) (rel : Word → Word → Bool) : WordRes :=
  .regs (s.putP d.toNat (rel (s.r.w a) (i.signExtend 32)))
/-- The condition p[P] ^ N (R117, R125). -/
def condHolds (s : State) (p : BitVec 4) (n : Bool) : Bool := xor (s.r.p p.toNat) n
/-- p[D] := op of two predicates (R118). -/
def predOp (s : State) (d a b : Fld) (op : Bool → Bool → Bool) : WordRes :=
  .regs (s.putP d.toNat (op (s.r.p a.toNat) (s.r.p b.toNat)))

/-! ### CMP and cmpi (R114, R116) -/

/-- EQ (R114). -/
def bodyEq (d a b : Fld) (s : State) : WordRes :=
  cellCmp s d a b fun x y => x == y
/-- EQ issued alone. -/
def execEq (d a b : Fld) (ea eb : Bool) (s : State) : Host.Outcome State Fault Refusal :=
  issueOne (.eq d a b ea eb) (bodyEq d a b) s

/-- NE (R114). -/
def bodyNe (d a b : Fld) (s : State) : WordRes :=
  cellCmp s d a b fun x y => x != y
/-- NE issued alone. -/
def execNe (d a b : Fld) (ea eb : Bool) (s : State) : Host.Outcome State Fault Refusal :=
  issueOne (.ne d a b ea eb) (bodyNe d a b) s

/-- LT (R114). -/
def bodyLt (d a b : Fld) (s : State) : WordRes :=
  cellCmp s d a b fun x y => decide (x.toInt < y.toInt)
/-- LT issued alone. -/
def execLt (d a b : Fld) (ea eb : Bool) (s : State) : Host.Outcome State Fault Refusal :=
  issueOne (.lt d a b ea eb) (bodyLt d a b) s

/-- LE (R114). -/
def bodyLe (d a b : Fld) (s : State) : WordRes :=
  cellCmp s d a b fun x y => decide (x.toInt ≤ y.toInt)
/-- LE issued alone. -/
def execLe (d a b : Fld) (ea eb : Bool) (s : State) : Host.Outcome State Fault Refusal :=
  issueOne (.le d a b ea eb) (bodyLe d a b) s

/-- LTU (R114). -/
def bodyLtu (d a b : Fld) (s : State) : WordRes :=
  cellCmp s d a b fun x y => decide (x.toNat < y.toNat)
/-- LTU issued alone. -/
def execLtu (d a b : Fld) (ea eb : Bool) (s : State) : Host.Outcome State Fault Refusal :=
  issueOne (.ltu d a b ea eb) (bodyLtu d a b) s

/-- LEU (R114). -/
def bodyLeu (d a b : Fld) (s : State) : WordRes :=
  cellCmp s d a b fun x y => decide (x.toNat ≤ y.toNat)
/-- LEU issued alone. -/
def execLeu (d a b : Fld) (ea eb : Bool) (s : State) : Host.Outcome State Fault Refusal :=
  issueOne (.leu d a b ea eb) (bodyLeu d a b) s

/-- EQ_D (R114). -/
def bodyEqD (d a b : Fld) (s : State) : WordRes :=
  pairCmp s d a b fun x y => x == y
/-- EQ_D issued alone. -/
def execEqD (d a b : Fld) (ea eb : Bool) (s : State) : Host.Outcome State Fault Refusal :=
  issueOne (.eqD d a b ea eb) (bodyEqD d a b) s

/-- NE_D (R114). -/
def bodyNeD (d a b : Fld) (s : State) : WordRes :=
  pairCmp s d a b fun x y => x != y
/-- NE_D issued alone. -/
def execNeD (d a b : Fld) (ea eb : Bool) (s : State) : Host.Outcome State Fault Refusal :=
  issueOne (.neD d a b ea eb) (bodyNeD d a b) s

/-- LT_D (R114). -/
def bodyLtD (d a b : Fld) (s : State) : WordRes :=
  pairCmp s d a b fun x y => decide (x.toInt < y.toInt)
/-- LT_D issued alone. -/
def execLtD (d a b : Fld) (ea eb : Bool) (s : State) : Host.Outcome State Fault Refusal :=
  issueOne (.ltD d a b ea eb) (bodyLtD d a b) s

/-- LE_D (R114). -/
def bodyLeD (d a b : Fld) (s : State) : WordRes :=
  pairCmp s d a b fun x y => decide (x.toInt ≤ y.toInt)
/-- LE_D issued alone. -/
def execLeD (d a b : Fld) (ea eb : Bool) (s : State) : Host.Outcome State Fault Refusal :=
  issueOne (.leD d a b ea eb) (bodyLeD d a b) s

/-- LTU_D (R114). -/
def bodyLtuD (d a b : Fld) (s : State) : WordRes :=
  pairCmp s d a b fun x y => decide (x.toNat < y.toNat)
/-- LTU_D issued alone. -/
def execLtuD (d a b : Fld) (ea eb : Bool) (s : State) : Host.Outcome State Fault Refusal :=
  issueOne (.ltuD d a b ea eb) (bodyLtuD d a b) s

/-- LEU_D (R114). -/
def bodyLeuD (d a b : Fld) (s : State) : WordRes :=
  pairCmp s d a b fun x y => decide (x.toNat ≤ y.toNat)
/-- LEU_D issued alone. -/
def execLeuD (d a b : Fld) (ea eb : Bool) (s : State) : Host.Outcome State Fault Refusal :=
  issueOne (.leuD d a b ea eb) (bodyLeuD d a b) s

/-- TST (R114). -/
def bodyTst (d a b : Fld) (s : State) : WordRes :=
  cellCmp s d a b fun x y => x &&& y != 0#32
/-- TST issued alone. -/
def execTst (d a b : Fld) (ea eb : Bool) (s : State) : Host.Outcome State Fault Refusal :=
  issueOne (.tst d a b ea eb) (bodyTst d a b) s

/-- TSTZ (R114). -/
def bodyTstz (d a b : Fld) (s : State) : WordRes :=
  cellCmp s d a b fun x y => x &&& y == 0#32
/-- TSTZ issued alone. -/
def execTstz (d a b : Fld) (ea eb : Bool) (s : State) : Host.Outcome State Fault Refusal :=
  issueOne (.tstz d a b ea eb) (bodyTstz d a b) s

/-- CMPI_EQ (R116). -/
def bodyCmpiEq (d a : Fld) (i : BitVec 9) (s : State) : WordRes :=
  immCmp s d a i fun x v => x == v
/-- CMPI_EQ issued alone. -/
def execCmpiEq (d a : Fld) (ea : Bool) (i : BitVec 9) (s : State) : Host.Outcome State Fault Refusal :=
  issueOne (.cmpiEq d a ea i) (bodyCmpiEq d a i) s

/-- CMPI_NE (R116). -/
def bodyCmpiNe (d a : Fld) (i : BitVec 9) (s : State) : WordRes :=
  immCmp s d a i fun x v => x != v
/-- CMPI_NE issued alone. -/
def execCmpiNe (d a : Fld) (ea : Bool) (i : BitVec 9) (s : State) : Host.Outcome State Fault Refusal :=
  issueOne (.cmpiNe d a ea i) (bodyCmpiNe d a i) s

/-- CMPI_LT (R116). -/
def bodyCmpiLt (d a : Fld) (i : BitVec 9) (s : State) : WordRes :=
  immCmp s d a i fun x v => decide (x.toInt < v.toInt)
/-- CMPI_LT issued alone. -/
def execCmpiLt (d a : Fld) (ea : Bool) (i : BitVec 9) (s : State) : Host.Outcome State Fault Refusal :=
  issueOne (.cmpiLt d a ea i) (bodyCmpiLt d a i) s

/-- CMPI_LE (R116). -/
def bodyCmpiLe (d a : Fld) (i : BitVec 9) (s : State) : WordRes :=
  immCmp s d a i fun x v => decide (x.toInt ≤ v.toInt)
/-- CMPI_LE issued alone. -/
def execCmpiLe (d a : Fld) (ea : Bool) (i : BitVec 9) (s : State) : Host.Outcome State Fault Refusal :=
  issueOne (.cmpiLe d a ea i) (bodyCmpiLe d a i) s

/-- CMPI_LTU (R116). -/
def bodyCmpiLtu (d a : Fld) (i : BitVec 9) (s : State) : WordRes :=
  immCmp s d a i fun x v => decide (x.toNat < v.toNat)
/-- CMPI_LTU issued alone. -/
def execCmpiLtu (d a : Fld) (ea : Bool) (i : BitVec 9) (s : State) : Host.Outcome State Fault Refusal :=
  issueOne (.cmpiLtu d a ea i) (bodyCmpiLtu d a i) s

/-- CMPI_LEU (R116). -/
def bodyCmpiLeu (d a : Fld) (i : BitVec 9) (s : State) : WordRes :=
  immCmp s d a i fun x v => decide (x.toNat ≤ v.toNat)
/-- CMPI_LEU issued alone. -/
def execCmpiLeu (d a : Fld) (ea : Bool) (i : BitVec 9) (s : State) : Host.Outcome State Fault Refusal :=
  issueOne (.cmpiLeu d a ea i) (bodyCmpiLeu d a i) s

/-- CMPI_GT (R116). -/
def bodyCmpiGt (d a : Fld) (i : BitVec 9) (s : State) : WordRes :=
  immCmp s d a i fun x v => decide (x.toInt > v.toInt)
/-- CMPI_GT issued alone. -/
def execCmpiGt (d a : Fld) (ea : Bool) (i : BitVec 9) (s : State) : Host.Outcome State Fault Refusal :=
  issueOne (.cmpiGt d a ea i) (bodyCmpiGt d a i) s

/-- CMPI_GE (R116). -/
def bodyCmpiGe (d a : Fld) (i : BitVec 9) (s : State) : WordRes :=
  immCmp s d a i fun x v => decide (x.toInt ≥ v.toInt)
/-- CMPI_GE issued alone. -/
def execCmpiGe (d a : Fld) (ea : Bool) (i : BitVec 9) (s : State) : Host.Outcome State Fault Refusal :=
  issueOne (.cmpiGe d a ea i) (bodyCmpiGe d a i) s

/-! ### SEL (R117) -/

/-- SEL (R117). -/
def bodySel (d a b : Fld) (p : BitVec 4) (n : Bool) (s : State) : WordRes :=
  .regs (s.putW d (if condHolds s p n then s.r.w a else s.r.w b))
/-- SEL issued alone. -/
def execSel (d a b : Fld) (p : BitVec 4) (n : Bool) (s : State) : Host.Outcome State Fault Refusal :=
  issueOne (.sel d a b p n) (bodySel d a b p n) s

/-- SEL_D (R117). -/
def bodySelD (d a b : Fld) (p : BitVec 4) (n : Bool) (s : State) : WordRes :=
  .regs (s.putD d (if condHolds s p n then s.r.d a else s.r.d b))
/-- SEL_D issued alone. -/
def execSelD (d a b : Fld) (p : BitVec 4) (n : Bool) (s : State) : Host.Outcome State Fault Refusal :=
  issueOne (.selD d a b p n) (bodySelD d a b p n) s

/-- SEL_Y (R117). -/
def bodySelY (d a b : Fld) (p : BitVec 4) (n : Bool) (s : State) : WordRes :=
  .regs (s.putY d (if condHolds s p n then s.r.y a else s.r.y b))
/-- SEL_Y issued alone. -/
def execSelY (d a b : Fld) (p : BitVec 4) (n : Bool) (s : State) : Host.Outcome State Fault Refusal :=
  issueOne (.selY d a b p n) (bodySelY d a b p n) s

/-! ### PLOG (R118) -/

/-- PAND (R118). -/
def bodyPand (d a b : Fld) (s : State) : WordRes :=
  predOp s d a b fun x y => x && y
/-- PAND issued alone. -/
def execPand (d a b : Fld) (s : State) : Host.Outcome State Fault Refusal :=
  issueOne (.pand d a b) (bodyPand d a b) s

/-- POR (R118). -/
def bodyPor (d a b : Fld) (s : State) : WordRes :=
  predOp s d a b fun x y => x || y
/-- POR issued alone. -/
def execPor (d a b : Fld) (s : State) : Host.Outcome State Fault Refusal :=
  issueOne (.por d a b) (bodyPor d a b) s

/-- PXOR (R118). -/
def bodyPxor (d a b : Fld) (s : State) : WordRes :=
  predOp s d a b fun x y => xor x y
/-- PXOR issued alone. -/
def execPxor (d a b : Fld) (s : State) : Host.Outcome State Fault Refusal :=
  issueOne (.pxor d a b) (bodyPxor d a b) s

/-- PANDN (R118). -/
def bodyPandn (d a b : Fld) (s : State) : WordRes :=
  predOp s d a b fun x y => x && !y
/-- PANDN issued alone. -/
def execPandn (d a b : Fld) (s : State) : Host.Outcome State Fault Refusal :=
  issueOne (.pandn d a b) (bodyPandn d a b) s

/-- PNOT (R118). -/
def bodyPnot (d a : Fld) (s : State) : WordRes :=
  .regs (s.putP d.toNat !(s.r.p a.toNat))
/-- PNOT issued alone. -/
def execPnot (d a : Fld) (s : State) : Host.Outcome State Fault Refusal :=
  issueOne (.pnot d a) (bodyPnot d a) s

/-- PMOV (R118). -/
def bodyPmov (d a : Fld) (s : State) : WordRes :=
  .regs (s.putP d.toNat (s.r.p a.toNat))
/-- PMOV issued alone. -/
def execPmov (d a : Fld) (s : State) : Host.Outcome State Fault Refusal :=
  issueOne (.pmov d a) (bodyPmov d a) s

/-- P2W (R118). -/
def bodyP2w (d : Fld) (s : State) : WordRes :=
  .regs (s.putW d (s.r.pw.setWidth 32))
/-- P2W issued alone. -/
def execP2w (d : Fld) (s : State) : Host.Outcome State Fault Refusal :=
  issueOne (.p2w d) (bodyP2w d) s

/-- W2P (R118). -/
def bodyW2p (a : Fld) (s : State) : WordRes :=
  .regs (let v := (s.r.w a).extractLsb' 0 16; fun t => t.onRegs fun r => r.setPw v)
/-- W2P issued alone. -/
def execW2p (a : Fld) (ea : Bool) (s : State) : Host.Outcome State Fault Refusal :=
  issueOne (.w2p a ea) (bodyW2p a) s

/-- PSET (R118). -/
def bodyPset (d : Fld) (s : State) : WordRes :=
  .regs (s.putP d.toNat true)
/-- PSET issued alone. -/
def execPset (d : Fld) (s : State) : Host.Outcome State Fault Refusal :=
  issueOne (.pset d) (bodyPset d) s

/-- PCLR (R118). -/
def bodyPclr (d : Fld) (s : State) : WordRes :=
  .regs (s.putP d.toNat false)
/-- PCLR issued alone. -/
def execPclr (d : Fld) (s : State) : Host.Outcome State Fault Refusal :=
  issueOne (.pclr d) (bodyPclr d) s

end Sys2Proof.Machine
end

