-- ==== Sys2Proof/Machine/Flags.lean ====
section
/-!
DEFINITION. PRC, its flags and enables (01 R25, 04 R89, R90), the values of y registers (01 R19, R20, 04 R78), random
bits (R26, R86), and the end of every VPF instruction: traps 0x05 and 0x06, flags now or late (06 R142, R145).
-/
namespace Sys2Proof.Machine

/-- PRC.L. -/
def prcL (p : Word) : Nat := (p.extractLsb' 0 8).toNat
/-- PRC.RM. -/
def prcRM (p : Word) : Rm := Rm.ofBits (p.extractLsb' 8 3).toNat
/-- PRC.MIN. -/
def prcMin (p : Word) : Nat := (p.extractLsb' 12 8).toNat
/-- PRC.FLAGS. -/
def prcFlags (p : Word) : Flags := p.extractLsb' 20 6
/-- PRC.EN. -/
def prcEn (p : Word) : Flags := p.extractLsb' 26 6

/-- The values R25 refuses: L outside 2 to 237, RM 110 or 111, or bit 11 set. -/
def prcBad (p : Word) : Bool :=
  decide (prcL p < 2) || decide (237 < prcL p) || decide (6 ≤ (p.extractLsb' 8 3).toNat) || p.getLsbD 11

/-- ORs flags into PRC.FLAGS. -/
def Regs.orFlags (r : Regs) (fl : Flags) : Regs := { r with prc := r.prc ||| (fl.setWidth 32 <<< 20) }

/-- Whether PRC.EN selects any of NV, DZ, OF, UF, NX among the flags (R90, R142). -/
def enabled (p : Word) (fl : Flags) : Bool := fl &&& prcEn p &&& 0x1F#6 != 0#6

/-- Whether PX is enabled (R91). -/
def pxEnabled (p : Word) : Bool := (prcEn p).getLsbD 5

/-! ### The values of y registers -/

/-- The significand cells as one number, most significant cell first (R19). -/
def sigNat (sig : List Word) : Nat := sig.foldl (fun acc w => acc * 2 ^ 32 + w.toNat) 0

/-- A number as `c` significand cells, most significant first. -/
def sigCells (c n : Nat) : List Word := (wordsOf c n).reverse

/-- S of a header cell. -/
def hdrS (h : Word) : Bool := h.getLsbD 31
/-- EXP of a header cell. -/
def hdrExp (h : Word) : Nat := (h.extractLsb' 16 15).toNat
/-- PAY of a header cell. -/
def hdrPay (h : Word) : Nat := (h.extractLsb' 8 8).toNat
/-- CLS of a header cell. -/
def hdrCls (h : Word) : Nat := (h.extractLsb' 0 8).toNat
/-- A header cell of its fields (R19). -/
def hdrOf (s : Bool) (exp pay cls : Nat) : Word :=
  BitVec.ofNat 32 ((if s then 2 ^ 31 else 0) + exp * 65536 + pay * 256 + cls)

/-- Whether a y register of a window of length `lw` is in the form of R19 (R20). -/
def YReg.valid (lw : Nat) (y : YReg) : Bool :=
  let c := y.sig.length
  let n := sigNat y.sig
  match hdrCls y.hdr with
  | 0 =>
    decide (1 ≤ hdrExp y.hdr ∧ hdrExp y.hdr ≤ 32766) && hdrPay y.hdr == 0 && n != 0 &&
      (decide (2 ^ (32 * c - 1) ≤ n) || hdrExp y.hdr == 1) && n % 2 ^ (32 * c - lw) == 0
  | 1 => hdrExp y.hdr == 0 && hdrPay y.hdr == 0 && n == 0
  | 2 => hdrExp y.hdr == 0 && hdrPay y.hdr == 0 && n == 0
  | 3 => hdrExp y.hdr == 0 && n == 0
  | 4 => hdrExp y.hdr == 0 && n == 0
  | _ => false

/-- The exact value a y register holds (R78). -/
def YReg.value (y : YReg) : V :=
  let s := hdrS y.hdr
  match hdrCls y.hdr with
  | 0 => V.ofNK s (sigNat y.sig) ((hdrExp y.hdr : Int) - 16383 - (32 * y.sig.length - 1))
  | 1 => V.zeroOf s
  | 2 => V.infOf s
  | 3 => ⟨.qnan, s, 0, 0, hdrPay y.hdr⟩
  | _ => ⟨.snan, s, 0, 0, hdrPay y.hdr⟩

/-- The y register of a window of length `lw` that holds a value (R19, R78), full. -/
def YReg.ofV (lw : Nat) (v : V) : YReg :=
  let c := (lw + 31) / 32
  match v.cls with
  | .fin =>
    let b := leadExp v.n v.k
    if -16382 ≤ b then
      ⟨hdrOf v.s (b + 16383).toNat 0 0, sigCells c (shiftInt v.n (32 * c - 1 - (Nat.log2 v.n : Int))), true⟩
    else ⟨hdrOf v.s 1 0 0, sigCells c (shiftInt v.n (v.k + 16382 + (32 * c - 1))), true⟩
  | .zero => ⟨hdrOf v.s 0 0 1, sigCells c 0, true⟩
  | .inf => ⟨hdrOf v.s 0 0 2, sigCells c 0, true⟩
  | .qnan => ⟨hdrOf v.s 0 v.pay 3, sigCells c 0, true⟩
  | .snan => ⟨hdrOf v.s 0 v.pay 4, sigCells c 0, true⟩

/-! ### Random bits (R26, R86) -/

/-- The u that an instruction of the current fibre draws, with the value RNDC has before it commits. -/
def State.drawn (s : State) : Word := rand32 s.n.spec.seed (BitVec.ofNat 64 s.f.id.gfi) s.r.rndc

/-- The u of a rounding instruction: drawn only under RSR (R141). -/
def State.roundBits (s : State) : Nat := if prcRM s.r.prc = .rsr then s.drawn.toNat else 0

/-- RNDC advances by 1 when an instruction that drew commits. -/
def Regs.drew (r : Regs) (d : Bool) : Regs := if d then { r with rndc := r.rndc + 1#64 } else r

/-- An unresolved `ldy` that may still round under RSR: whether it draws is not known, so a later draw waits for it
(DEDUCED, log 15). -/
def Fibre.drawWaits (x : Fibre) : Bool :=
  let rsr := fun (c : Option Regs) => match c with
    | .some r => prcRM r.prc == .rsr
    | .none => false
  (x.acc.any fun a => (match a.op with | .ldy _ => true | _ => false) && rsr a.ckpt) ||
    x.dlv.any fun v => (match v.kind with | .conv (.ldy _) => true | _ => false) && rsr v.ckpt

/-! ### The end of a Y-pipe instruction (R142, R145) -/

/-- A delivery with nothing in it. -/
def Deliv.blank : Deliv :=
  { ser := 0, base := 0, kind := .yop, dest := .none, vals := [], yval := none, flags := 0#6, status := none, bytes := []
    va := 0#64, ckpt := none }

/-- Trap 0x05 for flags (R90). -/
def trapFlags (fl : Flags) : WordRes := .trap 0x05 fl.toNat 0#64

/-- Trap 0x06 with SUB 1: PRC.L and Lw in TVAL (R91, R405). -/
def trapLength (r : Regs) : WordRes := .trap 0x06 1 (BitVec.ofNat 64 (prcL r.prc + 256 * r.lw))

/-- Trap 0x0F for a register header (R20, R405). -/
def trapHeader (f : Fld) : WordRes := .trap 0x0F 0 (BitVec.ofNat 64 (0x8000000000000000 + f.toNat))

/-- The first y source that breaks R19, in the order given. -/
def badHeader (r : Regs) (fs : List Fld) : Option Fld := fs.find? fun f => !(r.y f).valid r.lw

/-- A Y-pipe instruction of `passes` passes delivers its result: at once when it has one pass or PRC.EN is not 0, late
otherwise (R145). One that draws is judged only once its u is known. -/
def yDeliver (s : State) (passes : Nat) (dest : Dest) (vals : List Word) (yval : Option YReg) (fl : Flags) (drew : Bool) :
    WordRes :=
  if drew && s.f.drawWaits then .wait
  else if enabled s.r.prc fl then trapFlags fl
  else if passes ≤ 1 ∨ prcEn s.r.prc ≠ 0#6 then
    .regs fun t => t.onRegs fun r => ((r.deliver dest vals yval).orFlags fl).drew drew
  else
    .regs fun t =>
      (t.sendLate { Deliv.blank with dest := dest, vals := vals, yval := yval, flags := fl }).onRegs fun r => r.drew drew

/-- The significand cells of the window's y registers (R144). -/
def Regs.c (r : Regs) : Nat := (r.lw + 31) / 32

/-- A rounding that writes y[D] (R142): sub-cause 1, the exact result rounded once, sub-cause 2 where `eo` gives the greatest
leading exponent of its nonzero addends and whether both are finite and nonzero, trap 0x05, and the result. With MIN
above L the check fires on every finite nonzero result (R25), else as R91 counts (log 63). -/
def yRound (s : State) (passes : Nat) (d : Fld) (exact : V × Flags × Option Mag) (eo : Option (Int × Bool)) : WordRes :=
  let p := s.r.prc
  if s.r.lw < prcL p then trapLength s.r
  else if prcRM p = .rsr && s.f.drawWaits then .wait
  else
    let (v, fl) := match exact with
      | (v, fl, none) => (v, fl)
      | (v, fl, some m) =>
        let (x, fr) := roundMag v.s m (prcL p) vpfEmin vpfEmax (prcRM p) s.roundBits
        (x, fl ||| fr)
    let kept := eo.map fun e => (prcL p : Int) - (e.1 - leadExp v.n v.k)
    let short := v.cls == .fin && prcMin p != 0 && eo.isSome &&
      (decide (prcL p < prcMin p) || (eo.any Prod.snd && decide (kept.getD 0 < prcMin p)))
    if short && pxEnabled p then .trap 0x06 2 (BitVec.ofInt 64 (kept.getD 0))
    else
      let fl := if short then fl ||| flPX else fl
      yDeliver s passes (.yreg s.r.frames.length d.toNat) [] (some (YReg.ofV s.r.lw v)) fl (prcRM p = .rsr)

end Sys2Proof.Machine
end

