-- ==== Sys2Proof/Machine/Vpf.lean ====
section
/-!
DEFINITION. The variable-precision instructions of the Y pipe (06 R140 to R155): the exact value each forms, with the
special cases of R148 to R154, over the rounding of `yRound`.
-/
namespace Sys2Proof.Machine

/-! ### Exact results -/

/-- An exact result: settled by a special table with its flags, or a magnitude still to be rounded, whose sign is the
value's. -/
abbrev Exact := V × Flags × Option Mag

/-- A result settled by a special table. -/
def settled (v : V) (fl : Flags) : Exact := (v, fl, none)

/-- An exact value that is still to be rounded. -/
def unrounded (v : V) : Exact := if v.cls = .fin then (v, 0#6, some (.rat v.n 1 v.k)) else settled v 0#6

/-- A signed magnitude that is still to be rounded. -/
def ofMag (s : Bool) (m : Mag) : Exact := ({ V.nan with s := s }, 0#6, some m)

/-- The rule for NaN operands (R87): the quiet form of the first, NV when any is signalling. DEDUCED (log 64): NV is raised by
`ymant`, `yrint` and `ytrunc` too, whose rows of R162 do not list it. -/
def nanRule (l : List V) : Option Exact :=
  match l.find? V.isNan with
  | none => none
  | some v => some (settled v.quiet (if l.any (·.cls = .snan) then flNV else 0#6))

/-- A NaN made from operands that are none (R87, R148). -/
def madeNan : Exact := settled V.nan flNV

/-- a × 2^0 with its sign inverted. -/
def V.negate (v : V) : V := { v with s := !v.s }

/-- Compares two values that are no NaNs; zeros are equal. -/
def magCmp (a b : V) : Ordering :=
  match a.cls, b.cls with
  | .inf, .inf => .eq
  | .inf, _ => .gt
  | _, .inf => .lt
  | .zero, .zero => .eq
  | .zero, _ => .lt
  | _, .zero => .gt
  | _, _ =>
    let x := leadExp a.n a.k
    let y := leadExp b.n b.k
    if x < y then .lt else if y < x then .gt
    else
      let k := min a.k b.k
      compare (shiftInt a.n (a.k - k)) (shiftInt b.n (b.k - k))

/-- The order of two values that are no NaNs, with -0 below +0. -/
def valCmp (a b : V) : Ordering :=
  match a.s, b.s with
  | true, false => .lt
  | false, true => .gt
  | false, false => magCmp a b
  | true, true => magCmp b a

/-- a + b (R147, R148). -/
def exactAdd (rdn : Bool) (a b : V) : Exact :=
  match nanRule [a, b] with
  | some x => x
  | none =>
    if a.cls = .inf ∧ b.cls = .inf then (if a.s = b.s then settled a 0#6 else madeNan)
    else if a.cls = .inf then settled a 0#6
    else if b.cls = .inf then settled b 0#6
    else unrounded (sumFinite [a, b] rdn)

/-- The greatest leading exponent of the finite nonzero addends, and whether both are (R91). -/
def addendExp (a b : V) : Option (Int × Bool) :=
  match a.cls, b.cls with
  | .fin, .fin => some (max (leadExp a.n a.k) (leadExp b.n b.k), true)
  | .fin, _ => some (leadExp a.n a.k, false)
  | _, .fin => some (leadExp b.n b.k, false)
  | _, _ => none

/-- The exact product as a value: 0 × ∞ is not given to it. -/
def product (a b : V) : V :=
  if a.cls = .inf ∨ b.cls = .inf then V.infOf (xor a.s b.s)
  else mulFinite a b

/-- Whether a product is 0 × ∞. -/
def zeroTimesInf (a b : V) : Bool := (a.cls == .zero && b.cls == .inf) || (a.cls == .inf && b.cls == .zero)

/-- a × b (R147, R148). -/
def exactMul (a b : V) : Exact :=
  match nanRule [a, b] with
  | some x => x
  | none => if zeroTimesInf a b then madeNan else unrounded (product a b)

/-- ±(a × b) ± d (R147, R148): `np` negates the product, `nd` the addend. -/
def exactFma (rdn np nd : Bool) (a b d : V) : Exact :=
  if a.isNan ∨ b.isNan then (nanRule [a, b, d]).getD madeNan
  else if zeroTimesInf a b then (if d.isNan then settled d.quiet flNV else madeNan)
  else if d.isNan then (nanRule [d]).getD madeNan
  else
    let p := product a b
    exactAdd rdn (if np then p.negate else p) (if nd then d.negate else d)

/-- The addends of the cancellation check in a fused form (R91, R147). -/
def fmaExp (a b d : V) : Option (Int × Bool) := addendExp (product a b) d

/-- a / b (R147, R148). -/
def exactDiv (a b : V) : Exact :=
  match nanRule [a, b] with
  | some x => x
  | none =>
    let s := xor a.s b.s
    match a.cls, b.cls with
    | .zero, .zero => madeNan
    | .inf, .inf => madeNan
    | .inf, _ => settled (V.infOf s) 0#6
    | .fin, .zero => settled (V.infOf s) flDZ
    | .fin, .fin => ofMag s (.rat a.n b.n (a.k - b.k))
    | _, _ => settled (V.zeroOf s) 0#6

/-- a - b × n, n the integer nearest a / b, ties to even (R147, R148). DEDUCED (log 64): with b infinite a is rounded, which may
overflow (R84), though the row of R162 lists no OF. -/
def exactRem (a b : V) : Exact :=
  match nanRule [a, b] with
  | some x => x
  | none =>
    if a.cls = .inf ∨ b.cls = .zero then madeNan
    else if b.cls = .inf ∨ a.cls = .zero then unrounded a
    else
      let k := min a.k b.k
      let x := shiftInt a.n (a.k - k)
      let y := shiftInt b.n (b.k - k)
      let q := x / y
      let r := x % y
      if 2 * r > y ∨ (2 * r = y ∧ q % 2 = 1) then unrounded (V.ofNK (!a.s) (y - r) k)
      else unrounded (V.ofNK a.s r k)

/-- a × 2^n (R147, R148). -/
def exactScale (a : V) (n : Int) : Exact :=
  match nanRule [a] with
  | some x => x
  | none => if a.cls = .fin then unrounded { a with k := a.k + n } else settled a 0#6

/-- The four selections (R149): `mag` compares magnitudes first, `low` takes the smaller. -/
def exactSelect (mag low : Bool) (a b : V) : Exact :=
  if a.isNan ∧ b.isNan then (nanRule [a, b]).getD madeNan
  else if a.isNan then (let x := unrounded b; (x.1, x.2.1 ||| (if a.cls = .snan then flNV else 0#6), x.2.2))
  else if b.isNan then (let x := unrounded a; (x.1, x.2.1 ||| (if b.cls = .snan then flNV else 0#6), x.2.2))
  else
    let o := if mag then (match magCmp a b with | .eq => valCmp a b | o => o) else valCmp a b
    unrounded (if low then (if o = .gt then b else a) else (if o = .lt then b else a))

/-- The magnitude of a with the sign of b (R148). -/
def exactCopySign (a b : V) : Exact := unrounded { a with s := b.s }

/-- √a (R150). -/
def exactSqrt (a : V) : Exact :=
  match nanRule [a] with
  | some x => x
  | none =>
    match a.cls with
    | .zero => settled a 0#6
    | .inf => if a.s then madeNan else settled a 0#6
    | _ => if a.s then madeNan else ofMag false (.root a.n 1 a.k)

/-- 1/a (R150). -/
def exactRecip (a : V) : Exact :=
  match nanRule [a] with
  | some x => x
  | none =>
    match a.cls with
    | .zero => settled (V.infOf a.s) flDZ
    | .inf => settled (V.zeroOf a.s) 0#6
    | _ => ofMag a.s (.rat 1 a.n (-a.k))

/-- 1/√a (R150). -/
def exactRsqrt (a : V) : Exact :=
  match nanRule [a] with
  | some x => x
  | none =>
    match a.cls with
    | .zero => settled (V.infOf a.s) flDZ
    | .inf => if a.s then madeNan else settled (V.zeroOf false) 0#6
    | _ => if a.s then madeNan else ofMag false (.root 1 a.n (-a.k))

/-- The significand in [1, 2) with a's sign (R150). -/
def exactMant (a : V) : Exact :=
  match nanRule [a] with
  | some x => x
  | none => if a.cls = .fin then unrounded { a with k := a.k - leadExp a.n a.k } else settled a 0#6

/-- The integer that a mode selects from a (R150), with NX when it differs from a. -/
def exactInt (rm : Rm) (u : Nat) (a : V) : Exact :=
  match nanRule [a] with
  | some x => x
  | none =>
    if a.cls = .fin then
      let (n, nx) := roundInt a rm u
      let x := unrounded (V.ofNK a.s n 0)
      (x.1, if nx then flNX else 0#6, x.2.2)
    else settled a 0#6

/-! ### Forms -/

/-- Passes of the short forms (R144). -/
def passesC (s : State) : Nat := s.r.c
/-- Passes of multiplies (R144). -/
def passesCC (s : State) : Nat := s.r.c * s.r.c
/-- Passes of divides and square roots (R144). -/
def passesDiv (s : State) : Nat := 6 + 2 * s.r.c * s.r.c
/-- Passes of `yrsqrt` (R144). -/
def passesRsqrt (s : State) : Nat := 8 + 3 * s.r.c * s.r.c
/-- Passes of `yrem` (R144). -/
def passesRem (s : State) (a b : V) : Nat :=
  let e := if a.cls = .fin ∧ b.cls = .fin then (leadExp a.n a.k - leadExp b.n b.k).toNat else 0
  6 + 2 * s.r.c * s.r.c + s.r.c * ((e + 31) / 32)

/-- The value of y[F] in the current window. -/
def State.yv (s : State) (f : Fld) : V := (s.r.y f).value

/-- A form whose sources are y registers: R20, then the operation (R142). DESIGN CHOICE (log 59): of several broken headers
TVAL names the first in the order A, B, D. -/
def yForm (s : State) (srcs : List Fld) (k : WordRes) : WordRes :=
  match badHeader s.r srcs with
  | some f => trapHeader f
  | none => k

/-- y[D] := op of two y registers. -/
def yOp2 (s : State) (passes : Nat) (d a b : Fld) (op : V → V → Exact) : WordRes :=
  yForm s [a, b] (yRound s passes d (op (s.yv a) (s.yv b)) none)

/-- y[D] := op of one y register. -/
def yOp1 (s : State) (passes : Nat) (d a : Fld) (op : V → Exact) : WordRes :=
  yForm s [a] (yRound s passes d (op (s.yv a)) none)

/-- The fused forms (R147). -/
def yFused (s : State) (np nd : Bool) (d a b : Fld) : WordRes :=
  yForm s [a, b, d]
    (yRound s (passesCC s) d (exactFma (prcRM s.r.prc == .rdn) np nd (s.yv a) (s.yv b) (s.yv d))
      (fmaExp (s.yv a) (s.yv b) (s.yv d)))

/-- The add and the subtract (R147). -/
def yAddSub (s : State) (neg : Bool) (d a b : Fld) : WordRes :=
  -- a NaN operand keeps its own sign (R87)
  let y := if neg ∧ !(s.yv b).isNan then (s.yv b).negate else s.yv b
  yForm s [a, b]
    (yRound s (passesC s) d (exactAdd (prcRM s.r.prc == .rdn) (s.yv a) y) (addendExp (s.yv a) (s.yv b)))

/-- A form that writes a cell from one y register and rounds nothing (R151). -/
def yCell (s : State) (d a : Fld) (op : V → Word × Flags) : WordRes :=
  yForm s [a]
    (let x := op (s.yv a)
     yDeliver s (passesC s) (.cells (s.r.base + d.toNat) 1 []) [x.1] none x.2 false)

/-- A compare (R152): the relation of two values that are no NaNs; `un` gives the answer for NaNs, `sig` raises NV for
any NaN. -/
def yCompare (s : State) (d a b : Fld) (un sig : Bool) (rel : Ordering → Bool) : WordRes :=
  yForm s [a, b]
    (let x := s.yv a
     let y := s.yv b
     let nan := x.isNan || y.isNan
     let nv := x.cls == .snan || y.cls == .snan || (sig && nan)
     let o := if x.cls = .zero ∧ y.cls = .zero then .eq else valCmp x y
     let p := if nan then un else rel o
     yDeliver s (passesC s) (.pred d.toNat) [if p then 1#32 else 0#32] none (if nv then flNV else 0#6) false)

/-- y[D] := an integer rounded (R153). -/
def yFromInt (s : State) (d : Fld) (z : Int) : WordRes :=
  yRound s (passesC s) d (unrounded (V.ofNK (decide (z < 0)) z.natAbs 0)) none

/-- Cells := the integer of a y register (R154). -/
def yToInt (s : State) (d a : Fld) (len : Nat) (lo hi : Int) : WordRes :=
  yForm s [a]
    (let x := toInt (s.yv a) lo hi (prcRM s.r.prc) s.roundBits
     yDeliver s (passesC s) (.cells (s.r.base + d.toNat) len []) (wordsOf len (BitVec.ofInt 64 x.1).toNat) none x.2
       (prcRM s.r.prc = .rsr))

/-- The class code of `yclass` (R151). -/
def classCode (v : V) : Nat :=
  match v.cls with
  | .qnan => 8
  | .snan => 9
  | .inf => if v.s then 0 else 7
  | .zero => if v.s then 3 else 4
  | .fin =>
    let sub := decide (leadExp v.n v.k < -16382)
    if v.s then (if sub then 2 else 1) else (if sub then 5 else 6)

/-! ### YOP3 (R147 to R149) -/

/-- YADD (R147). -/
def bodyYadd (d a b : Fld) (s : State) : WordRes :=
  yAddSub s false d a b
/-- YADD issued alone. -/
def execYadd (d a b : Fld) (ea eb : Bool) (s : State) : Host.Outcome State Fault Refusal :=
  issueOne (.yadd d a b ea eb) (bodyYadd d a b) s

/-- YSUB (R147). -/
def bodyYsub (d a b : Fld) (s : State) : WordRes :=
  yAddSub s true d a b
/-- YSUB issued alone. -/
def execYsub (d a b : Fld) (ea eb : Bool) (s : State) : Host.Outcome State Fault Refusal :=
  issueOne (.ysub d a b ea eb) (bodyYsub d a b) s

/-- YMUL (R147). -/
def bodyYmul (d a b : Fld) (s : State) : WordRes :=
  yOp2 s (passesCC s) d a b exactMul
/-- YMUL issued alone. -/
def execYmul (d a b : Fld) (ea eb : Bool) (s : State) : Host.Outcome State Fault Refusal :=
  issueOne (.ymul d a b ea eb) (bodyYmul d a b) s

/-- YDIV (R147). -/
def bodyYdiv (d a b : Fld) (s : State) : WordRes :=
  yOp2 s (passesDiv s) d a b exactDiv
/-- YDIV issued alone. -/
def execYdiv (d a b : Fld) (ea eb : Bool) (s : State) : Host.Outcome State Fault Refusal :=
  issueOne (.ydiv d a b ea eb) (bodyYdiv d a b) s

/-- YMIN (R149). -/
def bodyYmin (d a b : Fld) (s : State) : WordRes :=
  yOp2 s (passesC s) d a b (exactSelect false true)
/-- YMIN issued alone. -/
def execYmin (d a b : Fld) (ea eb : Bool) (s : State) : Host.Outcome State Fault Refusal :=
  issueOne (.ymin d a b ea eb) (bodyYmin d a b) s

/-- YMAX (R149). -/
def bodyYmax (d a b : Fld) (s : State) : WordRes :=
  yOp2 s (passesC s) d a b (exactSelect false false)
/-- YMAX issued alone. -/
def execYmax (d a b : Fld) (ea eb : Bool) (s : State) : Host.Outcome State Fault Refusal :=
  issueOne (.ymax d a b ea eb) (bodyYmax d a b) s

/-- YMINM (R149). -/
def bodyYminm (d a b : Fld) (s : State) : WordRes :=
  yOp2 s (passesC s) d a b (exactSelect true true)
/-- YMINM issued alone. -/
def execYminm (d a b : Fld) (ea eb : Bool) (s : State) : Host.Outcome State Fault Refusal :=
  issueOne (.yminm d a b ea eb) (bodyYminm d a b) s

/-- YMAXM (R149). -/
def bodyYmaxm (d a b : Fld) (s : State) : WordRes :=
  yOp2 s (passesC s) d a b (exactSelect true false)
/-- YMAXM issued alone. -/
def execYmaxm (d a b : Fld) (ea eb : Bool) (s : State) : Host.Outcome State Fault Refusal :=
  issueOne (.ymaxm d a b ea eb) (bodyYmaxm d a b) s

/-- YCOPYSIGN (R148). -/
def bodyYcopysign (d a b : Fld) (s : State) : WordRes :=
  yOp2 s (passesC s) d a b exactCopySign
/-- YCOPYSIGN issued alone. -/
def execYcopysign (d a b : Fld) (ea eb : Bool) (s : State) : Host.Outcome State Fault Refusal :=
  issueOne (.ycopysign d a b ea eb) (bodyYcopysign d a b) s

/-- YREM (R147). -/
def bodyYrem (d a b : Fld) (s : State) : WordRes :=
  yOp2 s (passesRem s (s.yv a) (s.yv b)) d a b exactRem
/-- YREM issued alone. -/
def execYrem (d a b : Fld) (ea eb : Bool) (s : State) : Host.Outcome State Fault Refusal :=
  issueOne (.yrem d a b ea eb) (bodyYrem d a b) s

/-- YSCALE (R147). -/
def bodyYscale (d a b : Fld) (s : State) : WordRes :=
  yOp1 s (passesC s) d a fun x => exactScale x (s.r.w b).toInt
/-- YSCALE issued alone. -/
def execYscale (d a b : Fld) (ea eb : Bool) (s : State) : Host.Outcome State Fault Refusal :=
  issueOne (.yscale d a b ea eb) (bodyYscale d a b) s

/-- YFMA (R147). -/
def bodyYfma (d a b : Fld) (s : State) : WordRes :=
  yFused s false false d a b
/-- YFMA issued alone. -/
def execYfma (d a b : Fld) (ea eb : Bool) (s : State) : Host.Outcome State Fault Refusal :=
  issueOne (.yfma d a b ea eb) (bodyYfma d a b) s

/-- YFMS (R147). -/
def bodyYfms (d a b : Fld) (s : State) : WordRes :=
  yFused s false true d a b
/-- YFMS issued alone. -/
def execYfms (d a b : Fld) (ea eb : Bool) (s : State) : Host.Outcome State Fault Refusal :=
  issueOne (.yfms d a b ea eb) (bodyYfms d a b) s

/-- YFNMA (R147). -/
def bodyYfnma (d a b : Fld) (s : State) : WordRes :=
  yFused s true false d a b
/-- YFNMA issued alone. -/
def execYfnma (d a b : Fld) (ea eb : Bool) (s : State) : Host.Outcome State Fault Refusal :=
  issueOne (.yfnma d a b ea eb) (bodyYfnma d a b) s

/-! ### YOP1 (R150, R151) -/

/-- YMOV (R150). -/
def bodyYmov (d a : Fld) (s : State) : WordRes :=
  yOp1 s (passesC s) d a unrounded
/-- YMOV issued alone. -/
def execYmov (d a : Fld) (ea : Bool) (s : State) : Host.Outcome State Fault Refusal :=
  issueOne (.ymov d a ea) (bodyYmov d a) s

/-- YNEG (R150). -/
def bodyYneg (d a : Fld) (s : State) : WordRes :=
  yOp1 s (passesC s) d a fun x => unrounded x.negate
/-- YNEG issued alone. -/
def execYneg (d a : Fld) (ea : Bool) (s : State) : Host.Outcome State Fault Refusal :=
  issueOne (.yneg d a ea) (bodyYneg d a) s

/-- YABS (R150). -/
def bodyYabs (d a : Fld) (s : State) : WordRes :=
  yOp1 s (passesC s) d a fun x => unrounded { x with s := false }
/-- YABS issued alone. -/
def execYabs (d a : Fld) (ea : Bool) (s : State) : Host.Outcome State Fault Refusal :=
  issueOne (.yabs d a ea) (bodyYabs d a) s

/-- YSQRT (R150). -/
def bodyYsqrt (d a : Fld) (s : State) : WordRes :=
  yOp1 s (passesDiv s) d a exactSqrt
/-- YSQRT issued alone. -/
def execYsqrt (d a : Fld) (ea : Bool) (s : State) : Host.Outcome State Fault Refusal :=
  issueOne (.ysqrt d a ea) (bodyYsqrt d a) s

/-- YRINT (R150). -/
def bodyYrint (d a : Fld) (s : State) : WordRes :=
  yOp1 s (passesC s) d a (exactInt (prcRM s.r.prc) s.roundBits)
/-- YRINT issued alone. -/
def execYrint (d a : Fld) (ea : Bool) (s : State) : Host.Outcome State Fault Refusal :=
  issueOne (.yrint d a ea) (bodyYrint d a) s

/-- YTRUNC (R150). -/
def bodyYtrunc (d a : Fld) (s : State) : WordRes :=
  yOp1 s (passesC s) d a (exactInt .rtz 0)
/-- YTRUNC issued alone. -/
def execYtrunc (d a : Fld) (ea : Bool) (s : State) : Host.Outcome State Fault Refusal :=
  issueOne (.ytrunc d a ea) (bodyYtrunc d a) s

/-- YLOGB (R151). -/
def bodyYlogb (d a : Fld) (s : State) : WordRes :=
  yCell s d a fun v => match v.cls with
  | .fin => (BitVec.ofInt 32 (leadExp v.n v.k), 0#6)
  | .inf => (0x7FFFFFFF#32, flNV)
  | _ => (0x80000000#32, flNV)
/-- YLOGB issued alone. -/
def execYlogb (d a : Fld) (ea : Bool) (s : State) : Host.Outcome State Fault Refusal :=
  issueOne (.ylogb d a ea) (bodyYlogb d a) s

/-- YCLASS (R151). -/
def bodyYclass (d a : Fld) (s : State) : WordRes :=
  yCell s d a fun v => (BitVec.ofNat 32 (classCode v), 0#6)
/-- YCLASS issued alone. -/
def execYclass (d a : Fld) (ea : Bool) (s : State) : Host.Outcome State Fault Refusal :=
  issueOne (.yclass d a ea) (bodyYclass d a) s

/-- YSIG (R151). -/
def bodyYsig (d a : Fld) (s : State) : WordRes :=
  yCell s d a fun v =>
    (if v.cls = .fin then BitVec.ofNat 32 (Nat.log2 v.n + 1 - trailZeros (Nat.log2 v.n + 1) v.n) else 0#32, 0#6)
/-- YSIG issued alone. -/
def execYsig (d a : Fld) (ea : Bool) (s : State) : Host.Outcome State Fault Refusal :=
  issueOne (.ysig d a ea) (bodyYsig d a) s

/-- YMANT (R150). -/
def bodyYmant (d a : Fld) (s : State) : WordRes :=
  yOp1 s (passesC s) d a exactMant
/-- YMANT issued alone. -/
def execYmant (d a : Fld) (ea : Bool) (s : State) : Host.Outcome State Fault Refusal :=
  issueOne (.ymant d a ea) (bodyYmant d a) s

/-- YRECIP (R150). -/
def bodyYrecip (d a : Fld) (s : State) : WordRes :=
  yOp1 s (passesDiv s) d a exactRecip
/-- YRECIP issued alone. -/
def execYrecip (d a : Fld) (ea : Bool) (s : State) : Host.Outcome State Fault Refusal :=
  issueOne (.yrecip d a ea) (bodyYrecip d a) s

/-- YRSQRT (R150). -/
def bodyYrsqrt (d a : Fld) (s : State) : WordRes :=
  yOp1 s (passesRsqrt s) d a exactRsqrt
/-- YRSQRT issued alone. -/
def execYrsqrt (d a : Fld) (ea : Bool) (s : State) : Host.Outcome State Fault Refusal :=
  issueOne (.yrsqrt d a ea) (bodyYrsqrt d a) s

/-! ### YCMP (R152) -/

/-- YCMP_EQ (R152). -/
def bodyYcmpEq (d a b : Fld) (s : State) : WordRes :=
  yCompare s d a b false false (· == .eq)
/-- YCMP_EQ issued alone. -/
def execYcmpEq (d a b : Fld) (ea eb : Bool) (s : State) : Host.Outcome State Fault Refusal :=
  issueOne (.ycmpEq d a b ea eb) (bodyYcmpEq d a b) s

/-- YCMP_LT (R152). -/
def bodyYcmpLt (d a b : Fld) (s : State) : WordRes :=
  yCompare s d a b false false (· == .lt)
/-- YCMP_LT issued alone. -/
def execYcmpLt (d a b : Fld) (ea eb : Bool) (s : State) : Host.Outcome State Fault Refusal :=
  issueOne (.ycmpLt d a b ea eb) (bodyYcmpLt d a b) s

/-- YCMP_LE (R152). -/
def bodyYcmpLe (d a b : Fld) (s : State) : WordRes :=
  yCompare s d a b false false (· != .gt)
/-- YCMP_LE issued alone. -/
def execYcmpLe (d a b : Fld) (ea eb : Bool) (s : State) : Host.Outcome State Fault Refusal :=
  issueOne (.ycmpLe d a b ea eb) (bodyYcmpLe d a b) s

/-- YCMP_UN (R152). -/
def bodyYcmpUn (d a b : Fld) (s : State) : WordRes :=
  yCompare s d a b true false fun _ => false
/-- YCMP_UN issued alone. -/
def execYcmpUn (d a b : Fld) (ea eb : Bool) (s : State) : Host.Outcome State Fault Refusal :=
  issueOne (.ycmpUn d a b ea eb) (bodyYcmpUn d a b) s

/-- YCMP_EQS (R152). -/
def bodyYcmpEqs (d a b : Fld) (s : State) : WordRes :=
  yCompare s d a b false true (· == .eq)
/-- YCMP_EQS issued alone. -/
def execYcmpEqs (d a b : Fld) (ea eb : Bool) (s : State) : Host.Outcome State Fault Refusal :=
  issueOne (.ycmpEqs d a b ea eb) (bodyYcmpEqs d a b) s

/-- YCMP_LTS (R152). -/
def bodyYcmpLts (d a b : Fld) (s : State) : WordRes :=
  yCompare s d a b false true (· == .lt)
/-- YCMP_LTS issued alone. -/
def execYcmpLts (d a b : Fld) (ea eb : Bool) (s : State) : Host.Outcome State Fault Refusal :=
  issueOne (.ycmpLts d a b ea eb) (bodyYcmpLts d a b) s

/-- YCMP_LES (R152). -/
def bodyYcmpLes (d a b : Fld) (s : State) : WordRes :=
  yCompare s d a b false true (· != .gt)
/-- YCMP_LES issued alone. -/
def execYcmpLes (d a b : Fld) (ea eb : Bool) (s : State) : Host.Outcome State Fault Refusal :=
  issueOne (.ycmpLes d a b ea eb) (bodyYcmpLes d a b) s

/-! ### YCVT (R153, R154) -/

/-- YCVT_Y_W (R153). -/
def bodyYcvtYW (d a : Fld) (s : State) : WordRes :=
  yFromInt s d (s.r.w a).toInt
/-- YCVT_Y_W issued alone. -/
def execYcvtYW (d a : Fld) (ea : Bool) (s : State) : Host.Outcome State Fault Refusal :=
  issueOne (.ycvtYW d a ea) (bodyYcvtYW d a) s

/-- YCVT_Y_UW (R153). -/
def bodyYcvtYUw (d a : Fld) (s : State) : WordRes :=
  yFromInt s d (s.r.w a).toNat
/-- YCVT_Y_UW issued alone. -/
def execYcvtYUw (d a : Fld) (ea : Bool) (s : State) : Host.Outcome State Fault Refusal :=
  issueOne (.ycvtYUw d a ea) (bodyYcvtYUw d a) s

/-- YCVT_Y_D (R153). -/
def bodyYcvtYD (d a : Fld) (s : State) : WordRes :=
  yFromInt s d (s.r.d a).toInt
/-- YCVT_Y_D issued alone. -/
def execYcvtYD (d a : Fld) (ea : Bool) (s : State) : Host.Outcome State Fault Refusal :=
  issueOne (.ycvtYD d a ea) (bodyYcvtYD d a) s

/-- YCVT_Y_UD (R153). -/
def bodyYcvtYUd (d a : Fld) (s : State) : WordRes :=
  yFromInt s d (s.r.d a).toNat
/-- YCVT_Y_UD issued alone. -/
def execYcvtYUd (d a : Fld) (ea : Bool) (s : State) : Host.Outcome State Fault Refusal :=
  issueOne (.ycvtYUd d a ea) (bodyYcvtYUd d a) s

/-- YCVT_W_Y (R154). -/
def bodyYcvtWY (d a : Fld) (s : State) : WordRes :=
  yToInt s d a 1 (-2147483648) 2147483647
/-- YCVT_W_Y issued alone. -/
def execYcvtWY (d a : Fld) (ea : Bool) (s : State) : Host.Outcome State Fault Refusal :=
  issueOne (.ycvtWY d a ea) (bodyYcvtWY d a) s

/-- YCVT_UW_Y (R154). -/
def bodyYcvtUwY (d a : Fld) (s : State) : WordRes :=
  yToInt s d a 1 0 4294967295
/-- YCVT_UW_Y issued alone. -/
def execYcvtUwY (d a : Fld) (ea : Bool) (s : State) : Host.Outcome State Fault Refusal :=
  issueOne (.ycvtUwY d a ea) (bodyYcvtUwY d a) s

/-- YCVT_D_Y (R154). -/
def bodyYcvtDY (d a : Fld) (s : State) : WordRes :=
  yToInt s d a 2 (-9223372036854775808) 9223372036854775807
/-- YCVT_D_Y issued alone. -/
def execYcvtDY (d a : Fld) (ea : Bool) (s : State) : Host.Outcome State Fault Refusal :=
  issueOne (.ycvtDY d a ea) (bodyYcvtDY d a) s

/-- YCVT_UD_Y (R154). -/
def bodyYcvtUdY (d a : Fld) (s : State) : WordRes :=
  yToInt s d a 2 0 18446744073709551615
/-- YCVT_UD_Y issued alone. -/
def execYcvtUdY (d a : Fld) (ea : Bool) (s : State) : Host.Outcome State Fault Refusal :=
  issueOne (.ycvtUdY d a ea) (bodyYcvtUdY d a) s

/-! ### The PRC group (R155) -/

/-- A word of the PRC group that reads or writes PRC waits until every pending flag has landed (R146). -/
def afterFlags (s : State) (k : WordRes) : WordRes := if s.f.flagsPending then .wait else k

/-- A word that draws u waits while an earlier `ldy` may still draw (log 15). -/
def whenDrawn (s : State) (k : WordRes) : WordRes := if s.f.drawWaits then .wait else k

/-- PRC := v as R25 lays down, or trap 0x02. -/
def writePrc (v : Word) : WordRes :=
  if prcBad v then .illegal else .regs fun t => t.onRegs fun r => { r with prc := v }

/-- SETPRC (R155). -/
def bodySetprc (a : Fld) (s : State) : WordRes :=
  afterFlags s (writePrc (s.r.w a))
/-- SETPRC issued alone. -/
def execSetprc (a : Fld) (s : State) : Host.Outcome State Fault Refusal :=
  issueOne (.setprc a) (bodySetprc a) s

/-- GETPRC (R155). -/
def bodyGetprc (d : Fld) (s : State) : WordRes :=
  afterFlags s (.regs (s.putW d s.r.prc))
/-- GETPRC issued alone. -/
def execGetprc (d : Fld) (s : State) : Host.Outcome State Fault Refusal :=
  issueOne (.getprc d) (bodyGetprc d) s

/-- SETL (R155). -/
def bodySetl (a : Fld) (s : State) : WordRes :=
  afterFlags s
    (let v := s.r.w a
     if v.toNat < 2 ∨ 237 < v.toNat then .illegal
     else .regs fun t => t.onRegs fun r => { r with prc := r.prc.extractLsb' 8 24 ++ v.extractLsb' 0 8 })
/-- SETL issued alone. -/
def execSetl (a : Fld) (s : State) : Host.Outcome State Fault Refusal :=
  issueOne (.setl a) (bodySetl a) s

/-- SETRM (R155). -/
def bodySetrm (a : Fld) (s : State) : WordRes :=
  afterFlags s
    (let v := s.r.w a
     if 5 < v.toNat then .illegal
     else .regs fun t => t.onRegs fun r =>
       { r with prc := r.prc.extractLsb' 11 21 ++ v.extractLsb' 0 3 ++ r.prc.extractLsb' 0 8 })
/-- SETRM issued alone. -/
def execSetrm (a : Fld) (s : State) : Host.Outcome State Fault Refusal :=
  issueOne (.setrm a) (bodySetrm a) s

/-- GETFLAGS (R155). -/
def bodyGetflags (d : Fld) (s : State) : WordRes :=
  afterFlags s (.regs (s.putW d ((prcFlags s.r.prc).setWidth 32)))
/-- GETFLAGS issued alone. -/
def execGetflags (d : Fld) (s : State) : Host.Outcome State Fault Refusal :=
  issueOne (.getflags d) (bodyGetflags d) s

/-- CLRFLAGS (R155). -/
def bodyClrflags (a : Fld) (s : State) : WordRes :=
  afterFlags s
    (let v := s.r.w a
     if v.extractLsb' 6 26 ≠ 0#26 then .illegal
     else .regs fun t => t.onRegs fun r =>
       { r with prc := r.prc &&& ~~~((v.extractLsb' 0 6).setWidth 32 <<< 20) })
/-- CLRFLAGS issued alone. -/
def execClrflags (a : Fld) (s : State) : Host.Outcome State Fault Refusal :=
  issueOne (.clrflags a) (bodyClrflags a) s

/-- RND (R155). -/
def bodyRnd (d : Fld) (s : State) : WordRes :=
  whenDrawn s (let p := s.putW d s.drawn; .regs fun t => (p t).onRegs fun r => r.drew true)
/-- RND issued alone. -/
def execRnd (d : Fld) (s : State) : Host.Outcome State Fault Refusal :=
  issueOne (.rnd d) (bodyRnd d) s

end Sys2Proof.Machine
end

