-- ==== Sys2Proof/Machine/Collect.lean ====
section
/-!
DEFINITION. Collectives (10 R217 to R220): who is a member and present, the shuffles, votes, ballots and reductions.
-/
namespace Sys2Proof.Machine

/-! ### Members (R217) -/

/-- Whether a fibre traps on a collective word by its window or its mask: trap 0x02 at level 6, or 0x0E. -/
def collTraps (ops : List Opnd) (b : Fld) (x : Fibre) : Bool :=
  !(ops.all (inWindow x.regs)) || !(x.regs.w b).getLsbD x.id.fid

/-- The fibres that a collective finds present for the current fibre, in lane order, whatever its mask is: live lanes of
its crew, in the issuing bundle, that do not trap on the word. -/
def State.presentLanes (s : State) (traps : Fibre → Bool) : List Fibre := s.mates.filter fun x => !traps x

/-- S: the present members of a mask. -/
def membersOf (mask : Word) (here : List Fibre) : List Fibre := here.filter fun x => mask.getLsbD x.id.fid

/-- The status p15: every member of the mask is present. -/
def allPresent (mask : Word) (here : List Fibre) : Bool :=
  (List.range 32).all fun l => !mask.getLsbD l || here.any fun x => decide (x.id.fid = l)

/-- A collective: its own mask (trap 0x0E), and then what its form makes of the mask and of the fibres present; p15 is
written with the status where the form does not name it. -/
def collWord (s : State) (ops : List Opnd) (b : Fld) (k : Word → List Fibre → (State → State)) : WordRes :=
  let mask := s.r.w b
  if !mask.getLsbD s.f.id.fid then .trap 0x0E 0 (mask.setWidth 64)
  else
    let here := s.presentLanes (collTraps ops b)
    let put := k mask here
    .regs fun t => put (t.onRegs fun r => r.setP 15 (allPresent mask here))

/-- A collective whose D is a cell. -/
def collCell (s : State) (d b : Fld) (ops : List Opnd) (k : List Fibre → Word) : WordRes :=
  collWord s ([dst .w d, use .d b] ++ ops) b fun mask here => s.putW d (k (membersOf mask here))

/-! ### The forms (R218, R219) -/

/-- The lane that a shuffle reads, none where it names no lane (R219). -/
def shflLane (form fid v : Nat) : Option Nat :=
  match form with
  | 0 => some (v % 32)
  | 1 => some (fid ^^^ (v % 32))
  | 2 => if fid < v then none else some (fid - v)
  | _ => if 31 < fid + v then none else some (fid + v)

/-- The shuffles: the source lane's cell, or its own where that lane is none, no member, or absent (R219). -/
def shflWord (s : State) (d a b : Fld) (form : Nat) : WordRes :=
  let lane := shflLane form s.f.id.fid (s.r.cell (b.toNat + 1)).val.toNat
  collCell s d b [src .w a] fun l =>
    match l.find? fun x => lane = some x.id.fid with
    | some x => x.regs.w a
    | none => s.r.w a

/-- The votes; p15 named as D receives the vote (R217, R218). -/
def voteWord (s : State) (d a b : Fld) (k : List Bool → Bool) : WordRes :=
  collWord s [dst .p d, src .p a, use .d b] b fun mask here =>
    s.putP d.toNat (k ((membersOf mask here).map fun x => x.regs.p a.toNat))

/-- The lanes of fibres as a mask. -/
def lanesOf (l : List Fibre) : Word := laneMask (l.map fun x => x.id.fid)

/-- The least or greatest of cells as signed numbers, from the identity of the form. -/
def pickCell (less : Bool) (l : List Word) : Word :=
  l.foldl (fun acc x => if (if less then decide (x.toInt < acc.toInt) else decide (acc.toInt < x.toInt)) then x else acc)
    (if less then 0x7FFFFFFF#32 else 0x80000000#32)

/-! ### `redux.yadd` (R220) -/

/-- The exact sum of many values, by the special tables of `yadd` (R87, R88, R148). -/
def exactSum (rdn : Bool) (l : List V) : Exact :=
  match nanRule l with
  | some x => x
  | none =>
    let infs := l.filter fun v => v.cls == .inf
    match infs with
    | [] => unrounded (sumFinite l rdn)
    | v :: rest => if rest.all fun u => u.s == v.s then settled v 0#6 else madeNan

/-- Whether a fibre traps on `redux.yadd`: as any collective, by its header, or by the length check. -/
def reduxTraps (d a b : Fld) (x : Fibre) : Bool :=
  collTraps [dst .y d, src .y a, use .d b] b x || !(x.regs.y a).valid x.regs.lw || decide (x.regs.lw < prcL x.regs.prc)

/-- The late value of serial number `ser` is that of a `redux.yadd`. -/
def State.markRedux (s : State) (ser : Nat) : State :=
  { s with f := { s.f with dlv := s.f.dlv.map fun v => if v.ser = ser then { v with kind := .redux } else v } }

/-- `redux.yadd` (R220); it is late unless PRC.EN is not 0. -/
def reduxYaddWord (s : State) (d a b : Fld) : WordRes :=
  let mask := s.r.w b
  if !mask.getLsbD s.f.id.fid then .trap 0x0E 0 (mask.setWidth 64)
  else if !(s.r.y a).valid s.r.lw then trapHeader a
  else
    let here := s.presentLanes (reduxTraps d a b)
    let vals := (membersOf mask here).map fun x => (x.regs.y a).value
    match yRound s 2 d (exactSum (prcRM s.r.prc = .rdn) vals) none with
    | .commit c k => .commit c fun t =>
        ((k t).markRedux t.f.nextSer).onRegs fun r => r.setP 15 (allPresent mask here)
    | x => x

/-! ### Instructions -/

/-- SHFL (R219). -/
def bodyShfl (d a b : Fld) (s : State) : WordRes :=
  shflWord s d a b 0
/-- SHFL issued alone. -/
def execShfl (d a b : Fld) (s : State) : Host.Outcome State Fault Refusal :=
  issueOne (.shfl d a b) (bodyShfl d a b) s

/-- SHFL_XOR (R219). -/
def bodyShflXor (d a b : Fld) (s : State) : WordRes :=
  shflWord s d a b 1
/-- SHFL_XOR issued alone. -/
def execShflXor (d a b : Fld) (s : State) : Host.Outcome State Fault Refusal :=
  issueOne (.shflXor d a b) (bodyShflXor d a b) s

/-- SHFL_UP (R219). -/
def bodyShflUp (d a b : Fld) (s : State) : WordRes :=
  shflWord s d a b 2
/-- SHFL_UP issued alone. -/
def execShflUp (d a b : Fld) (s : State) : Host.Outcome State Fault Refusal :=
  issueOne (.shflUp d a b) (bodyShflUp d a b) s

/-- SHFL_DOWN (R219). -/
def bodyShflDown (d a b : Fld) (s : State) : WordRes :=
  shflWord s d a b 3
/-- SHFL_DOWN issued alone. -/
def execShflDown (d a b : Fld) (s : State) : Host.Outcome State Fault Refusal :=
  issueOne (.shflDown d a b) (bodyShflDown d a b) s

/-- VOTE_ANY (R218). -/
def bodyVoteAny (d a b : Fld) (s : State) : WordRes :=
  voteWord s d a b fun l => l.any id
/-- VOTE_ANY issued alone. -/
def execVoteAny (d a b : Fld) (s : State) : Host.Outcome State Fault Refusal :=
  issueOne (.voteAny d a b) (bodyVoteAny d a b) s

/-- VOTE_ALL (R218). -/
def bodyVoteAll (d a b : Fld) (s : State) : WordRes :=
  voteWord s d a b fun l => l.all id
/-- VOTE_ALL issued alone. -/
def execVoteAll (d a b : Fld) (s : State) : Host.Outcome State Fault Refusal :=
  issueOne (.voteAll d a b) (bodyVoteAll d a b) s

/-- BALLOT (R218). -/
def bodyBallot (d a b : Fld) (s : State) : WordRes :=
  collCell s d b [src .p a] fun l => lanesOf (l.filter fun x => x.regs.p a.toNat)
/-- BALLOT issued alone. -/
def execBallot (d a b : Fld) (s : State) : Host.Outcome State Fault Refusal :=
  issueOne (.ballot d a b) (bodyBallot d a b) s

/-- REDUX_ADD (R218). -/
def bodyReduxAdd (d a b : Fld) (s : State) : WordRes :=
  collCell s d b [src .w a] fun l => (l.map fun x => x.regs.w a).foldl (· + ·) 0#32
/-- REDUX_ADD issued alone. -/
def execReduxAdd (d a b : Fld) (s : State) : Host.Outcome State Fault Refusal :=
  issueOne (.reduxAdd d a b) (bodyReduxAdd d a b) s

/-- REDUX_MIN (R218). -/
def bodyReduxMin (d a b : Fld) (s : State) : WordRes :=
  collCell s d b [src .w a] fun l => pickCell true (l.map fun x => x.regs.w a)
/-- REDUX_MIN issued alone. -/
def execReduxMin (d a b : Fld) (s : State) : Host.Outcome State Fault Refusal :=
  issueOne (.reduxMin d a b) (bodyReduxMin d a b) s

/-- REDUX_MAX (R218). -/
def bodyReduxMax (d a b : Fld) (s : State) : WordRes :=
  collCell s d b [src .w a] fun l => pickCell false (l.map fun x => x.regs.w a)
/-- REDUX_MAX issued alone. -/
def execReduxMax (d a b : Fld) (s : State) : Host.Outcome State Fault Refusal :=
  issueOne (.reduxMax d a b) (bodyReduxMax d a b) s

/-- REDUX_YADD (R220). -/
def bodyReduxYadd (d a b : Fld) (s : State) : WordRes :=
  reduxYaddWord s d a b
/-- REDUX_YADD issued alone. -/
def execReduxYadd (d a b : Fld) (s : State) : Host.Outcome State Fault Refusal :=
  issueOne (.reduxYadd d a b) (bodyReduxYadd d a b) s

/-- MATCH (R218). -/
def bodyMatchLanes (d a b : Fld) (s : State) : WordRes :=
  collCell s d b [src .w a] fun l => lanesOf (l.filter fun x => x.regs.w a == s.r.w a)
/-- MATCH issued alone. -/
def execMatchLanes (d a b : Fld) (s : State) : Host.Outcome State Fault Refusal :=
  issueOne (.matchLanes d a b) (bodyMatchLanes d a b) s

/-- PRESENT (R218). -/
def bodyPresent (d b : Fld) (s : State) : WordRes :=
  collCell s d b [] fun l => lanesOf l
/-- PRESENT issued alone. -/
def execPresent (d b : Fld) (s : State) : Host.Outcome State Fault Refusal :=
  issueOne (.present d b) (bodyPresent d b) s

end Sys2Proof.Machine
end

