-- ==== Sys2Proof/Machine/Cache.lean ====
section
/-!
DEFINITION. The levels of memory (12): from a virtual address to an intermediate address (R232 to R238), walks (R239 to
R241), the L1 of a core (R246, R250), and what homes do (R249). Home bytes are kept by frame address; the home of a
line outside the package is kept at its IA (log 25).
-/
namespace Sys2Proof.Machine

/-! ### Virtual addresses (R232 to R236) -/

/-- The permissions an access needs (R235). -/
structure Need where
  r : Bool
  w : Bool
  x : Bool
  deriving DecidableEq, Repr

/-- A load. -/
def Need.load : Need := ⟨true, false, false⟩
/-- A store. -/
def Need.store : Need := ⟨false, true, false⟩
/-- An atomic, a RED, a `str` or a step of an object instruction. -/
def Need.both : Need := ⟨true, true, false⟩
/-- A fetch. -/
def Need.fetch : Need := ⟨false, false, true⟩

/-- A translation: an IA with T of its memory (R256), or a fault with the IA it reached. -/
inductive Xlat where
  | ok (ia : Nat) (tracked : Bool)
  | bad (code ia : Nat)
  deriving DecidableEq, Repr

/-- The places of the IA space (R238). -/
inductive Place where
  | hbm (stack : Nat)
  | massif (col : Nat)
  | peer (id : Nat)
  | host
  | reserved
  deriving DecidableEq, Repr

/-- The addressable bytes of a column's Massif (R247). -/
def State.massifSize (s : State) (col : Nat) : Nat := (96 - s.cachePart.getD col 0) * 2 ^ 20

/-- The place of an IA (R238, R432). -/
def State.placeOf (s : State) (ia : Nat) : Place :=
  if ia < 12 * 2 ^ 36 then (if ia % 2 ^ 36 < 48000000000 then .hbm (ia / 2 ^ 36) else .reserved)
  else if ia < 2 ^ 40 then .reserved
  else if ia < 2 ^ 40 + 2 ^ 32 then
    let col := (ia - 2 ^ 40) / 2 ^ 27
    if ia % 2 ^ 27 < s.massifSize col then .massif col else .reserved
  else if ia < 2 ^ 51 then .reserved
  else if ia / 2 ^ 50 % 2 = 1 then .host
  else if ia / 2 ^ 31 % 2 ^ 19 = s.fabric.deviceId then .reserved
  else .peer (ia / 2 ^ 31 % 2 ^ 19)

/-- The units that are retired (R436), by kind and index: a core (0), a lane of a port (1), a UCIe module (2), an HBM
channel (3), a die sublink (4), a port (5) (log 44). -/
def State.isRetired (s : State) (kind index : Nat) : Bool := s.fabric.retired.contains (kind, index)

/-- The bytes of a stack that still hold frames: each retired channel takes 3 GB (R436, log 44). -/
def State.stackSize (s : State) (stack : Nat) : Nat :=
  48000000000 - 3000000000 * ((List.range 16).filter fun k => s.isRetired 3 (16 * stack + k)).length

/-- Whether every byte of a run lies in one place that exists (R238, R432). -/
def State.placed (s : State) (ia size : Nat) : Bool :=
  s.placeOf ia != .reserved && s.placeOf ia == s.placeOf ((ia + size - 1) % 2 ^ 52)

/-- Whether a range register is in use and contains an address (R235). -/
def Range.holds (k : Range) (va : Nat) : Bool := k.v && decide (k.base ≤ va) && decide (va ≤ k.limit)

/-- Whether a range register grants what an access needs (R235). -/
def Range.grants (k : Range) (need : Need) : Bool := (!need.r || k.pr) && (!need.w || k.pw) && (!need.x || k.px)

/-- The index of the lowest range register that holds an address, with the register. -/
def findRange (va : Nat) : Nat → List Range → Option (Nat × Range)
  | _, [] => none
  | i, k :: rest => if k.holds va then some (i, k) else findRange va (i + 1) rest

/-- Translation through range registers with mask SWM (R235, R256). -/
def State.rangeXlat (s : State) (ranges : List Range) (swm : BitVec 8) (va size : Nat) (need : Need) : Xlat :=
  match findRange va 0 ranges with
  | none => .bad 0x42 0
  | some (i, k) =>
    let ia := (va + k.offset) % 2 ^ 52
    if k.limit < va + size - 1 ∨ !k.grants need then .bad 0x42 0
    else if !s.placed ia size then .bad 0x42 ia
    else .ok ia (!swm.getLsbD i)

/-- Translation through the arena table (R236). -/
def State.arenaXlat (s : State) (va size : Nat) (need : Need) : Xlat :=
  let e := s.arena (va / 2 ^ 44 % 4096)
  let off := va % 2 ^ 36
  if e.state ≠ .live ∨ e.gen.toNat ≠ va / 2 ^ 36 % 256 then .bad 0x43 0
  else if e.size < off + size then .bad 0x44 0
  else if need.x then .bad 0x42 0
  else .ok (e.iabase + off) true

/-- Translation of an access of `size` bytes at a sum `va`, by the range registers of a node (R119, R232, R233). -/
def State.xlat (s : State) (n : Node) (va : Int) (size : Nat) (need : Need) : Xlat :=
  if va < 0 ∨ 2 ^ 64 - 1 < va + size - 1 then .bad 0x41 0
  else
    let a := va.toNat
    let last := a + size - 1
    if a / 2 ^ 56 ≠ last / 2 ^ 56 then .bad 0x41 0
    else if a / 2 ^ 56 = 0 then s.rangeXlat n.spec.ranges n.spec.swm a size need
    else if a / 2 ^ 56 = 0xA5 then
      if a / 2 ^ 36 ≠ last / 2 ^ 36 then .bad 0x44 0 else s.arenaXlat a size need
    else .bad 0x41 0

/-- Translation for an access whose arena check was made before (R236, R380): an arena that has begun to die since still
answers it. -/
def State.keptXlat (s : State) (n : Node) (va size : Nat) (need : Need) : Xlat :=
  match s.xlat n va size need with
  | .bad 0x43 ia =>
    let e := s.arena (va / 2 ^ 44 % 4096)
    let off := va % 2 ^ 36
    if e.state ≠ .dying ∨ (e.gen - 1#8).toNat ≠ va / 2 ^ 36 % 256 then .bad 0x43 ia
    else if e.size < off + size then .bad 0x44 0
    else .ok (e.iabase + off) true
  | y => y

/-! ### Walks (R239 to R241) -/

/-- What a walk finds (R240). -/
inductive WalkRes where
  | frame (pa : Nat)
  | pageFault
  | walkFault (outcome : Nat)
  | denied
  | busy
  deriving DecidableEq, Repr

/-- The walk unit of an IA in the package: a stack, or 12 and a die. -/
def unitOf (ia : Nat) : Nat := if ia < 2 ^ 40 then ia / 2 ^ 36 else 12 + (ia - 2 ^ 40) / 2 ^ 30

/-- The first byte of a walk unit's aperture. -/
def unitBase (u : Nat) : Nat := if u < 12 then u * 2 ^ 36 else 2 ^ 40 + (u - 12) * 2 ^ 30

/-- Whether a run of bytes lies in the memory of a walk unit (R240), retired channels left out (R436). -/
def State.inUnit (s : State) (u pa size : Nat) : Bool :=
  s.placed pa size && (match s.placeOf pa with
    | .hbm k => decide (pa % 2 ^ 36 + size ≤ s.stackSize k)
    | .massif _ => true
    | _ => false) && unitOf pa == u

/-- Reads an entry: the one in memory, which the unit then keeps, or one that it has kept. Where the host has changed the
entry since, either may be used (R241, log 55). -/
def State.entry (s : State) (u key addr : Nat) : DWord × State :=
  let wu := s.walkers.getD u ⟨0, []⟩
  let e := BitVec.ofNat 64 (s.mem.num addr 8)
  let read := (e, { s with walkers := s.walkers.set u { wu with kept := (key, e) :: wu.kept.filter fun x => x.1 != key } })
  match wu.kept.find? fun x => x.1 = key with
  | some x => if x.2 = e then (e, s) else if Config.usesKept s.turn u key then (x.2, s) else read
  | none => read

/-- KIND of a table entry (R239). -/
def entKind (e : DWord) : Nat := (e.extractLsb' 0 3).toNat
/-- ADDR of a table entry, as an address. -/
def entAddr (e : DWord) : Nat := (e.extractLsb' 8 44).toNat * 256

/-- The end of a walk at a leaf of `size` bytes (R240). -/
def State.leaf (s : State) (u ia : Nat) (e : DWord) (size : Nat) (need : Need) : WalkRes :=
  if entKind e = 0 then .pageFault
  else if 6 ≤ entKind e ∨ e.extractLsb' 5 3 ≠ 0#3 ∨ e.extractLsb' 52 12 ≠ 0#12 ∨ entAddr e % size ≠ 0 then .walkFault 4
  else if entKind e = 4 then .busy
  else if !s.inUnit u (entAddr e) size ∨ (12 ≤ u ∧ s.placeOf (entAddr e) ≠ s.placeOf ia) then .walkFault 2
  else if (need.w ∧ !e.getLsbD 3) ∨ (need.x ∧ !e.getLsbD 4) then .denied
  else .frame (entAddr e + ia % size)

/-- The walk of an IA in the package (R240). -/
def State.tableWalk (s : State) (ia : Nat) (need : Need) : WalkRes × State :=
  let u := unitOf ia
  let root := (s.walkers.getD u ⟨0, []⟩).root
  let rel := ia - unitBase u
  let ri := rel / 2 ^ 21
  if root = 0 then (.walkFault 1, s)
  else
    let (e, s1) := s.entry u (2 * ri) (root + 8 * ri)
    match entKind e with
    | 3 => (.walkFault 1, s1)
    | 5 => (.busy, s1)
    | 2 =>
      if !s1.inUnit u (entAddr e) 256 then (.walkFault 2, s1)
      else
        let (l, s2) := s1.entry u (2 * (rel / 2 ^ 16) + 1) (entAddr e + 8 * (ia / 2 ^ 16 % 32))
        if 2 ≤ entKind l ∧ entKind l ≠ 4 then (.walkFault 4, s2) else (s2.leaf u ia l (2 ^ 16) need, s2)
    | _ => (s1.leaf u ia e (2 ^ 21) need, s1)

/-- The arena, live or dying, that holds an IA; the device maps its pages itself (R379, log 23). -/
def State.arenaAt (s : State) (ia : Nat) : Option Nat :=
  (s.arenas.find? fun x => (x.2.state = .live || x.2.state = .dying) && decide (x.2.iabase ≤ ia) &&
    decide (ia < x.2.iabase + x.2.size)).map Prod.fst

/-- Whether a peer lets an access into its export window (R433): every permission it needs counts. A peer that cannot be
reached refuses nothing: writes to it are lost (R427), and what reads there tests for that first (R429). -/
def State.peerGrants (s : State) (id ia : Nat) (need : Need) : Bool :=
  s.fabric.unreachable.contains id ||
  match s.fabric.peerExports.find? fun p => p.peer = id with
  | none => true
  | some p => decide (ia % 2 ^ 31 < p.size) && (!need.r || p.r) && (!need.w || p.w)

/-- The memory side's answer for an IA (R240, R433): the frame, or why there is none. -/
def State.walk (s : State) (ia : Nat) (need : Need) : WalkRes × State :=
  match s.placeOf ia with
  | .host => (if need.x then .denied else .frame ia, s)
  | .peer id => (if need.x ∨ !s.peerGrants id ia need then .denied else .frame ia, s)
  | _ =>
    match s.arenaAt ia with
    | some _ => (if need.x then .denied else .frame ia, s)
    | none => s.tableWalk ia need

/-- How often a busy walk has been tried (R240). -/
def State.triesOf (s : State) (k : TryKey) : Nat := ((s.tries.find? fun x => x.1 = k).map Prod.snd).getD 0

/-- A busy walk counts; at the ninth the walk fails, by `spent` (R240). -/
def State.tryAgain (s : State) (k : TryKey) : State :=
  { s with tries := upsert (fun x => x.1 = k) (k, s.triesOf k + 1) s.tries }

/-- The tries of R240 are spent: one more busy walk is a walk fault of outcome 3. -/
def State.spent (s : State) (k : TryKey) : Bool := decide (8 ≤ s.triesOf k)

/-! ### The L1 of a core (R246 to R250) -/

/-- The line number of an IA. -/
def lineOf (ia : Nat) : Nat := ia / 128

/-- The line numbers that a run of bytes touches. -/
def linesOf (ia size : Nat) : List Nat :=
  if size = 0 then [] else (List.range (lineOf (ia + size - 1) - lineOf ia + 1)).map (lineOf ia + ·)

/-- The line of a core's L1. -/
def Core.line? (c : Core) (ln : Nat) : Option L1Line := c.l1.find? fun l => l.line = ln

/-- Removes a line. -/
def Core.dropLine (c : Core) (ln : Nat) : Core := { c with l1 := c.l1.filter fun l => l.line ≠ ln }

/-- Stores a line; one that holds no byte is Invalid (R246). -/
def Core.setLine (c : Core) (l : L1Line) : Core :=
  if l.dm = 0#128 ∧ !l.whole then c.dropLine l.line
  else { c with l1 := upsert (fun x => x.line = l.line) l c.l1 }

/-- Whether a line holds byte i. -/
def L1Line.has (l : L1Line) (i : Nat) : Bool := l.whole || l.dm.getLsbD i

/-- The IA runs of an access, one for each line it touches: line, first byte in it, bytes. -/
def splitLines (ia size : Nat) : List (Nat × Nat × Nat) :=
  (linesOf ia size).map fun ln =>
    let lo := max ia (ln * 128)
    let hi := min (ia + size) (ln * 128 + 128)
    (ln, lo - ln * 128, hi - lo)

/-- Whether an L1 holds every byte of a run (R246). -/
def Core.holds (c : Core) (ia size : Nat) : Bool :=
  (splitLines ia size).all fun (ln, off, len) =>
    match c.line? ln with
    | none => false
    | some l => (List.range len).all fun i => l.has (off + i)

/-- The bytes of a run that an L1 holds. -/
def Core.bytes (c : Core) (ia size : Nat) : List Byte :=
  (splitLines ia size).flatMap fun (ln, off, len) =>
    match c.line? ln with
    | none => List.replicate len 0#8
    | some l => (l.data.drop off).take len

/-- Fills a line from its home bytes: only the bytes whose DM is 0 (R246). -/
def Core.fill (c : Core) (ln : Nat) (home : List Byte) (ctx : Nat) (tracked : Bool) : Core :=
  match c.line? ln with
  | none => c.setLine { line := ln, data := home, dm := 0#128, whole := true, ctx := ctx, tracked := tracked, err := false, crew := (0, 0) }
  | some l =>
    let data := (List.range 128).map fun i => if l.dm.getLsbD i then l.data.getD i 0#8 else home.getD i 0#8
    c.setLine { l with data := data, whole := true }

/-- The sets of a core's L1: 32 for each unit of its split (R246). A core without a split has the most there are. -/
def Core.sets (c : Core) : Nat := 32 * (c.split.map Prod.fst).getD 24

/-- The lines that share a set with a line; the set is the line's number modulo the sets (log 58). -/
def Core.setOf (c : Core) (ln : Nat) : List L1Line := c.l1.filter fun l => l.line % c.sets = ln % c.sets

/-- Writes bytes at `off`. -/
def overwrite (data : List Byte) (off : Nat) : List Byte → List Byte
  | [] => data
  | b :: r => overwrite (data.set off b) (off + 1) r

/-- The bits of a run of `len` bytes from `off`. -/
def runMask (off len : Nat) : BitVec 128 := BitVec.ofNat 128 ((2 ^ len - 1) * 2 ^ off)

/-- A store of a crew into one line (R246): DM set, the tag the store's, T kept while the line stays valid (R256). A line all
of whose bytes are dirty holds all 128, and is Full dirty. -/
def Core.storeLine (c : Core) (ln off : Nat) (bs : List Byte) (ctx : Nat) (tracked : Bool) (crew : Nat × Nat) : Core :=
  let l := (c.line? ln).getD {
    line := ln, data := List.replicate 128 0#8, dm := 0#128, whole := false, ctx := ctx, tracked := tracked, err := false
    crew := crew }
  let dm := l.dm ||| runMask off bs.length
  c.setLine
    { l with data := overwrite l.data off bs, dm := dm, whole := l.whole || dm == BitVec.allOnes 128, ctx := ctx, crew := crew }

/-- The dirty bytes of a line. -/
def L1Line.dirty (l : L1Line) : List (Option Byte) :=
  (List.range 128).map fun i => if l.dm.getLsbD i then some (l.data.getD i 0#8) else none

/-- The die of the home of an IA in the package (R238, R245). -/
def homeDie (ia : Nat) : Nat :=
  if ia < 2 ^ 40 then
    let f := fun (lo : Nat) => ia / 2 ^ lo % 128
    (((f 7 ^^^ f 14) ^^^ (f 21 ^^^ f 28)) ^^^ ((f 35 ^^^ f 42) ^^^ (ia / 2 ^ 49 % 8))) / 32
  else (ia - 2 ^ 40) / 2 ^ 30

/-- The number of a home: a die, 8 for the host, 16 and the device ID for a peer. -/
def State.homeOf (s : State) (ia : Nat) : Nat :=
  match s.placeOf ia with
  | .peer id => 16 + id
  | .host => 8
  | _ => homeDie ia

/-- A core has sent something to the home of an IA (R263). -/
def State.sentTo (s : State) (core ia : Nat) : State :=
  let h := s.homeOf ia
  s.onCore core fun c => if c.homes.contains h then c else { c with homes := c.homes ++ [h] }

/-- A run touches a line of an L1 that holds an uncorrectable error (R253). -/
def Core.errRun (c : Core) (ia size : Nat) : Bool := (linesOf ia size).any fun ln => (c.line? ln).any fun l => l.err

/-- A dirty line cannot be read for its write-back: it is dropped, and the node of its tag fails (R253). -/
def State.lineLost (s : State) (core : Nat) (l : L1Line) : State :=
  let t := s.onCore core fun c => c.dropLine l.line
  match s.allNodes.find? fun n => n.ctx = l.ctx && n.state = .running with
  | none => t
  | some n => t.nodeFault ⟨n.spec.nid, 0, 0, 0⟩ 0#64 0x47 0#64 (l.line * 128)

/-- The offset of a half of 16 bytes (R124). -/
def halfOff (high : Bool) : Nat := if high then 8 else 0

/-- A 16-byte store of which one half has performed, with the other still to come: its IA and its bytes (R124). -/
def Access.rest (a : Access) : Option (Nat × List Byte) :=
  match a.op, a.half with
  | .store, some (some high) => if a.spad then none else some (a.ia + halfOff (!high), (a.data.drop (halfOff (!high))).take 8)
  | _, _ => none

/-- The fibres of the gangs that stand on a core. -/
def State.fibresOn (s : State) (core : Nat) : List Fibre :=
  s.presentFibres.filter fun b => (s.gang? b.id.nid b.id.gid).any fun g => g.core? == some core

/-- A packet of 16 bytes of a core is half written (R60, R124). -/
def State.halfWritten (s : State) (core ia : Nat) : Bool :=
  (s.fibresOn core).any fun b => b.acc.any fun a => a.rest.any fun x => x.1 / 16 == ia / 16

/-- The second halves of the half performed stores to a line of a core perform before the line leaves: no home, and so no
fetch, holds one half without the other (R60, R124, log 56). -/
def State.finishLine (s : State) (core ln : Nat) : State :=
  (s.fibresOn core).foldl
    (fun t b => b.acc.foldl
      (fun u a => match a.rest with
        | some (ia, bs) =>
          if lineOf ia ≠ ln then u
          else
            (u.onCore core fun c => match c.line? ln with
              | none => c
              | some l => c.storeLine ln (ia % 128) bs l.ctx l.tracked (b.id.gid, b.id.cid)).onFibre b.id fun x =>
              { x with acc := x.acc.filter fun e => e.ser ≠ a.ser }
        | none => u) t) s

/-- The dirty bytes of a line leave for the home, and the line becomes Clean or Invalid (R246). -/
def State.lineLeaves (s : State) (core ln : Nat) : State :=
  match (s.core core).line? ln with
  | none => s
  | some l =>
    if l.dm = 0#128 then s
    else if l.err then s.lineLost core l
    else
      { (s.onCore core fun c => c.setLine { l with dm := 0#128 }).sentTo core (ln * 128) with
        flight := s.flight ++ [{ core := core, op := .writeBack l.ctx l.crew l.tracked, ia := ln * 128, bytes := l.dirty }] }

/-- Writes a line back (R246). -/
def State.writeBack (s : State) (core ln : Nat) : State := (s.finishLine core ln).lineLeaves core ln

/-- Writes a line back and drops it (R246, R262, R268). -/
def State.flushLine (s : State) (core ln : Nat) : State := (s.writeBack core ln).onCore core fun c => c.dropLine ln

/-- A set of a core's L1 makes room for a line that it does not hold: a full one evicts a line (R246). -/
def State.makeRoom (s : State) (core ln : Nat) : State :=
  let c := s.core core
  let l := c.setOf ln
  if (c.line? ln).isSome ∨ l.length < Config.l1Ways then s
  else
    match l[Config.victim s.turn ln % l.length]? with
    | none => s
    | some v => s.flushLine core v.line

/-- A line comes from its home into a core's L1 (R246). -/
def State.fillL1 (s : State) (core ln : Nat) (home : List Byte) (ctx : Nat) (tracked : Bool) : State :=
  (s.makeRoom core ln).onCore core fun c => c.fill ln home ctx tracked

/-- Under another split a core's L1 keeps what its sets hold, and evicts the rest (R186, R246). -/
def State.trimL1 (s : State) (core : Nat) : State :=
  (s.core core).l1.foldl
    (fun t l => if Config.l1Ways < ((t.core core).setOf l.line).length then t.flushLine core l.line else t) s

/-- Writes back the lines of a core that a test picks. -/
def State.writeBackAll (s : State) (core : Nat) (p : L1Line → Bool) : State :=
  ((s.core core).l1.filter p).foldl (fun t l => t.writeBack core l.line) s

/-- Drops every clean byte of the lines of a core that a test picks (R261, R273, R274): Clean becomes Invalid, Full
dirty becomes Partial dirty. -/
def Core.dropClean (c : Core) (p : L1Line → Bool) : Core :=
  { c with l1 := (c.l1.map fun l => if p l then { l with whole := false } else l).filter fun l => l.whole || l.dm ≠ 0#128 }

/-- A store of a crew into a core's L1 (R246): a line dirty under another context's tag is written back first (R250). -/
def State.storeL1 (s : State) (core ia : Nat) (bs : List Byte) (ctx : Nat) (tracked : Bool) (crew : Nat × Nat) : State :=
  (splitLines ia bs.length).foldl
    (fun t x =>
      let (ln, off, len) := x
      let t1 := match (t.core core).line? ln with
        | some l => if l.dm ≠ 0#128 ∧ l.ctx ≠ ctx then t.writeBack core ln else t
        | none => t
      (t1.makeRoom core ln).onCore core fun c =>
        c.storeLine ln off ((bs.drop (ln * 128 + off - ia)).take len) ctx tracked crew)
    s

/-- A write-back or home-performed access of a core to a line is still on its way. -/
def State.inFlight (s : State) (core ln : Nat) : Bool :=
  s.flight.any fun x => x.core = core && (linesOf x.ia x.bytes.length).contains ln

/-! ### Links (R423, R424, R426, R427) -/

/-- The die of a port (R423). -/
def portDie (p : Nat) : Nat := if p < 5 then 0 else if p < 9 then 1 else if p < 14 then 2 else 3

/-- The die of a UCIe module (R423). -/
def moduleDie (m : Nat) : Nat := m / 2

/-- The sublinks of the direct link of two dies, but for the retired ones (R436). -/
def State.sublinksOf (s : State) (d e : Nat) : List LinkState :=
  let lo := min d e
  let hi := max d e
  let link := if lo = 0 then hi - 1 else if lo = 1 then hi + 1 else 5
  ((List.range 4).filter fun k => !s.isRetired 4 (4 * link + k)).map fun k => s.fabric.sublinks.getD (4 * link + k) .failed

/-- A path between two dies, direct or through a third die, all of whose links pass a test. -/
def State.joined (s : State) (p : List LinkState → Bool) (d e : Nat) : Bool :=
  d == e || p (s.sublinksOf d e) ||
    (List.range Config.dies).any fun k => k != d && k != e && p (s.sublinksOf d k) && p (s.sublinksOf k e)

/-- The dies with a unit that leads to a place outside the package: a port whose path to a peer passes a test, or a UCIe
module (R423, R431, R434). -/
def State.gates (s : State) (p : LinkState → Bool) (x : Place) : List Nat :=
  match x with
  | .peer id => ((List.range Config.ports).filter fun k => s.fabric.portUp.getD k false &&
      p (((s.fabric.paths.find? fun q => q.peer = id ∧ q.path = k).map NetPath.state).getD .up)).map portDie
  | .host => ((List.range Config.modules).filter fun m => s.fabric.moduleUp.getD m false).map moduleDie
  | _ => []

/-- A way from a die to the home of an IA all of whose links pass a test (R424). -/
def State.wayTo (s : State) (p : LinkState → Bool) (d ia : Nat) : Bool :=
  let link := fun (l : List LinkState) => l.any p
  match s.placeOf ia with
  | .peer id => (s.gates p (.peer id)).any (s.joined link d)
  | .host => (s.gates p .host).any (s.joined link d)
  | _ => s.joined link d (homeDie ia)

/-- Whether the home of an IA can be reached from a core at all (R427). -/
def State.reaches (s : State) (core ia : Nat) : Bool :=
  (match s.placeOf ia with
   | .peer id => !s.fabric.unreachable.contains id
   | _ => true) && s.wayTo (fun x => x != .failed) (s.dieOf core) ia

/-- Whether some path to it is in service. -/
def State.pathUp (s : State) (core ia : Nat) : Bool := s.wayTo (fun x => x == .up) (s.dieOf core) ia

/-- A link state that is being trained. -/
def LinkState.training : LinkState → Bool
  | .retraining _ => true
  | _ => false

/-- Whether some of the six paths between two dies retrains (R424): one of the direct sublinks, or a route through a third
die that another link of it does not break (R428). -/
def State.dieTraining (s : State) (d e : Nat) : Bool :=
  let alive := fun (l : List LinkState) => l.any (· != .failed)
  let down := fun (l : List LinkState) => !l.contains .up && l.any LinkState.training
  d != e && ((s.sublinksOf d e).any LinkState.training ||
    (List.range Config.dies).any fun k => k != d && k != e && alive (s.sublinksOf d k) && alive (s.sublinksOf k e) &&
      (down (s.sublinksOf d k) || down (s.sublinksOf k e)))

/-- The dies at which the way to a home of `State.homeOf` leaves the die fabric: the home's own, or those of the units that
lead out of the package (R423, R424). -/
def State.gateDies (s : State) (home : Nat) : List Nat :=
  if 16 ≤ home then s.gates (fun x => x != .failed) (.peer (home - 16))
  else if 4 ≤ home then s.gates (fun _ => true) .host
  else [home]

/-- Whether a path from a die to a home of `State.homeOf` is retraining: markers go down all of them (R263, R428). A path
to a peer counts where its port is in service. -/
def State.retraining (s : State) (d home : Nat) : Bool :=
  (decide (16 ≤ home) && s.fabric.paths.any fun p =>
    p.peer == home - 16 && p.state.training && s.fabric.portUp.getD p.path false) ||
    (s.gateDies home).any (s.dieTraining d)

/-! ### Homes -/

/-- The bytes of a line at its home. -/
def State.homeLine (s : State) (ln : Nat) (need : Need) : Option (List Byte) × State :=
  match s.walk (ln * 128) need with
  | (.frame pa, t) => (some (t.mem.bytes pa 128), t)
  | (_, t) => (none, t)

/-- Reads a run of bytes at their homes by the frames of its lines; none when some byte has no frame. -/
def State.homeBytes (s : State) (ia size : Nat) : Option (List Byte) × State :=
  (splitLines ia size).foldl
    (fun acc x =>
      match acc with
      | (none, t) => (none, t)
      | (some bs, t) =>
        match t.walk (x.1 * 128 + x.2.1) .load with
        | (.frame pa, t1) => (some (bs ++ t1.mem.bytes pa x.2.2), t1)
        | (_, t1) => (none, t1))
    (some [], s)

/-- Writes a run of bytes at their homes; false when some byte has no frame, and then nothing is written there. -/
def State.homeWrite (s : State) (ia : Nat) (bs : List Byte) : Bool × State :=
  (splitLines ia bs.length).foldl
    (fun acc x =>
      match acc.2.walk (x.1 * 128 + x.2.1) .store with
      | (.frame pa, t1) =>
        (acc.1, { t1 with mem := t1.mem.writeBytes pa ((bs.drop (x.1 * 128 + x.2.1 - ia)).take x.2.2) })
      | (_, t1) => (false, t1))
    (true, s)

/-- Every line of a run can be reached from a core (R427). -/
def State.reachesRun (s : State) (core ia size : Nat) : Bool := (linesOf ia size).all fun ln => s.reaches core (ln * 128)

/-- Something of a core writes a run of bytes at the homes of its lines, which its next release covers (R263); what no path can
carry is lost, and the host is told (R270, R427). -/
def State.engineWrite (s : State) (core nid gid cid ia : Nat) (bs : List Byte) : State :=
  (splitLines ia bs.length).foldl
    (fun t x =>
      let a := x.1 * 128 + x.2.1
      if t.reaches core a then ((t.homeWrite a ((bs.drop (a - ia)).take x.2.2)).2).sentTo core a
      else t.tell (.lostWrite a nid gid cid)) s

/-- The core's copies of the lines of a run leave before something of the core performs at their homes (R262): the state, and
whether nothing of theirs is on its way any more. -/
def State.clearLines (s : State) (core ia size : Nat) : Bool × State :=
  let t := (linesOf ia size).foldl (fun u ln => u.flushLine core ln) s
  (!((linesOf ia size).any fun ln => t.inFlight core ln), t)

/-- The bytes an engine reads (R270): the dirty bytes of the issuing core's L1, and every other byte from its home. -/
def State.engineBytes (s : State) (core ia size : Nat) : Option (List Byte) × State :=
  match s.homeBytes ia size with
  | (none, t) => (none, t)
  | (some home, t) =>
    let c := t.core core
    (some ((List.range size).map fun i =>
      let a := ia + i
      match c.line? (lineOf a) with
      | some l => if l.dm.getLsbD (a % 128) then l.data.getD (a % 128) 0#8 else home.getD i 0#8
      | none => home.getD i 0#8), t)

/-- The first fault of a walk over the pages of a run, if any: a code, its SUB and the IA (R240, R405). -/
def State.walkRun (s : State) (ia size : Nat) (need : Need) : Option (Nat × Nat × Nat) × State :=
  (splitLines ia size).foldl
    (fun acc y =>
      match acc with
      | (some e, t) => (some e, t)
      | (none, t) =>
        let a := y.1 * 128 + y.2.1
        match t.walk a need with
        | (.frame _, t1) => (none, t1)
        | (.pageFault, t1) => (some (0x40, 0, a), t1)
        | (.walkFault o, t1) => (some (0x48, o, a), t1)
        | (.denied, t1) => (some (0x42, 0, a), t1)
        | (.busy, t1) => (some (0, 0, a), t1))
    (none, s)

/-- Reads through a core's L1, filling the lines it misses from their homes (R246); none when a home cannot be read. -/
def State.readL1 (s : State) (core ia size ctx : Nat) (tracked : Bool) (need : Need) : Option (List Byte) × State :=
  let (ok, t) := (splitLines ia size).foldl
    (fun acc x =>
      if !acc.1 then acc
      else if (acc.2.core core).holds (x.1 * 128 + x.2.1) x.2.2 then acc
      else
        match acc.2.homeLine x.1 need with
        | (none, t1) => (false, t1)
        | (some home, t1) => (true, t1.fillL1 core x.1 home ctx tracked))
    (true, s)
  if ok then (some ((t.core core).bytes ia size), t) else (none, t)

end Sys2Proof.Machine
end

