-- ==== Sys2Proof/Machine/Tiles.lean ====
section
/-!
DEFINITION. The scratchpad of a gang: offsets plain and skewed (05 R120, 12 R244), granule bits (12 R243), and the tile
block of a copy operation with its checks (17 R340 to R342).
-/
namespace Sys2Proof.Machine

/-! ### Offsets and bytes -/

/-- The bytes of scratchpad that a gang of the node is granted (R364). -/
def Node.spadBytes (n : Node) : Nat := n.spec.ssh * 16384

/-- The physical offset of logical byte `x` of a window (R244). -/
def Window.skew (k : Window) (x : Nat) : Nat :=
  let i := (x - k.base) / k.pitch
  let c := (x - k.base) % k.pitch
  k.base + i * k.pitch + c / 128 * 128 + (c % 128 + 4 * i) % 128

/-- A window in use that holds a run of bytes (R120, R244). -/
def Window.holds (k : Window) (x size : Nat) : Bool :=
  k.rows != 0 && decide (k.base ≤ x) && decide (x + size ≤ k.base + k.rows * k.pitch)

/-- The physical offsets of a scratchpad access, or none where trap 0x10 is raised (R120). -/
def Node.spadRun (n : Node) (o : Word) (size : Nat) : Option (List Nat) :=
  let x := (o.extractLsb' 0 21).toNat
  if o.extractLsb' 21 10 ≠ 0#10 ∨ n.spadBytes < x + size then .none
  else if o.getLsbD 31 then
    match n.spec.windows.find? fun k => k.holds x size with
    | .none => .none
    | .some k => .some ((List.range size).map fun i => k.skew (x + i))
  else .some ((List.range size).map (x + ·))

/-- The bytes at physical offsets. -/
def Gang.spadBytes (g : Gang) (offs : List Nat) : List Byte := offs.map g.spad.read

/-- Writes bytes at physical offsets. -/
def Gang.spadPut (g : Gang) (offs : List Nat) (bs : List Byte) : Gang :=
  { g with spad := (offs.zip bs).foldl (fun m x => m.write x.1 x.2) g.spad }

/-! ### Granules (R243): the list of full ones, in rising order -/

/-- Sets a granule's bit. -/
def granSet (g : Nat) : List Nat → List Nat
  | [] => [g]
  | x :: r => if g < x then g :: x :: r else if g = x then x :: r else x :: granSet g r

/-- Clears a granule's bit. -/
def granClear (g : Nat) (l : List Nat) : List Nat := l.filter fun x => x ≠ g

/-- Sets the bits of every granule that a run of bytes touches. -/
def granSetRun (lo len : Nat) (l : List Nat) : List Nat :=
  if len = 0 then l
  else (List.range ((lo + len - 1) / 16 - lo / 16 + 1)).foldl (fun acc i => granSet (lo / 16 + i) acc) l

/-! ### The tile block (R340) -/

/-- The fields of a tile block. -/
structure Block where
  ga : Nat
  so : Nat
  rows : Nat
  len : Nat
  gp : Nat
  fmt : Nat
  tr : Bool
  dk : Bool
  rsv : Nat
  sp : Nat
  aux : Nat
  deriving DecidableEq, Repr

/-- A number of a cell's bits. -/
def cellBits (l : List Word) (k lo len : Nat) : Nat := (l.getD k 0#32).toNat / 2 ^ lo % 2 ^ len

/-- The block in eight cells. -/
def Block.of (l : List Word) : Block where
  ga := cellBits l 0 0 32 + 2 ^ 32 * cellBits l 1 0 32
  so := cellBits l 2 0 32
  rows := cellBits l 3 0 16
  len := cellBits l 3 16 16
  gp := cellBits l 4 0 32
  fmt := cellBits l 5 0 4
  tr := cellBits l 5 4 1 == 1
  dk := cellBits l 5 5 1 == 1
  rsv := cellBits l 5 6 10
  sp := cellBits l 5 16 16
  aux := cellBits l 6 0 32 + 2 ^ 32 * cellBits l 7 0 32

/-- The forms of `cpt` by XFN [3:0] (R343). -/
def formG2s : Nat := 0
/-- `cpt.s2g`. -/
def formS2g : Nat := 1
/-- `cpt.s2g.atom`. -/
def formAtom : Nat := 2
/-- `cpt.g2s.cons`. -/
def formCons : Nat := 3
/-- `cpt.g2g`. -/
def formG2g : Nat := 4
/-- `cpt.gather`. -/
def formGather : Nat := 5
/-- `cpt.cbk`. -/
def formCbk : Nat := 6

/-- The forms whose destination is the scratchpad. -/
def toSpad (form : Nat) : Bool := form == formG2s || form == formCons || form == formGather

/-- Whether a block obeys the field rules of its form (R341). -/
def Block.fieldsOk (b : Block) (form : Nat) : Bool :=
  b.rsv == 0 && (
  if toSpad form then
    decide (b.fmt ≤ 7) && (form == formG2s || decide (b.fmt ≤ 3) || b.fmt == 7) &&
      (!b.tr || (b.fmt != 0 && form != formGather)) && (!b.dk || b.fmt != 0) && decide (1 ≤ b.rows) &&
      (b.fmt == 0 || decide (b.rows ≤ 1024)) && decide (1 ≤ b.len) &&
      (b.fmt == 0 || (decide (b.len ≤ 1024) && (decide (b.fmt < 4) || decide (6 < b.fmt) || b.len % 2 == 0))) &&
      (if b.fmt = 0 then b.sp % 16 == 0 && decide (b.len ≤ b.sp) else b.sp == 0) &&
      (if form = formG2s then (4 ≤ b.fmt && b.fmt ≤ 6) || b.aux == 0
       else form == formCons || decide (b.aux < 2 ^ 32))
  else if form = formCbk then
    b.fmt == 0 && !b.tr && !b.dk && b.rows == 0 && b.len == 0 && b.so == 0 && b.sp == 0 && b.aux == 0
  else
    b.fmt == 0 && !b.tr && !b.dk && decide (1 ≤ b.rows) && decide (1 ≤ b.len) &&
      (if form = formG2g then b.sp == 0 else b.sp % 16 == 0 && decide (b.len ≤ b.sp)) &&
      (form != formS2g || b.aux == 0))

/-- The first alignment rule that fails, by the value that trap 0x03 reports (R341). DESIGN CHOICE (log 59): where several fail, the
order is this one, SO before AUX, for no rule gives any. -/
def Block.misaligned (b : Block) (form : Nat) : Option Nat :=
  if toSpad form ∧ b.so % (if b.fmt = 0 then 16 else 128) ≠ 0 then some b.so
  else if form = formCbk ∧ b.ga % 2 ≠ 0 then some b.ga
  else if (form = formCons ∨ form = formAtom) ∧ b.aux % 8 ≠ 0 then some b.aux
  else if form = formGather ∧ b.aux % 4 ≠ 0 then some b.aux
  else none

/-- One past the last byte of the tile or rows in the scratchpad, from SO (R341). -/
def Block.extent (b : Block) : Nat :=
  if b.fmt = 0 then (b.rows - 1) * b.sp + b.len else (if b.dk then 64 else 32) * b.rows * b.len

/-- Whether a run of scratchpad bytes lies in a region of `size` bytes with bit [31] of its offset clear. -/
def inRegion (size o len : Nat) : Bool := decide (o + len ≤ size)

/-- The first offset outside the gang's region, as trap 0x10 reports it (R341): SO before AUX. DESIGN CHOICE (log 59). -/
def Block.outside (b : Block) (form size : Nat) : Option Nat :=
  if form = formG2g ∨ form = formCbk then none
  else if !inRegion size b.so b.extent then some b.so
  else if form = formGather ∧ !inRegion size b.aux (4 * b.rows) then some b.aux
  else none

/-- The check of a block in the order field, alignment, range (R341): the trap code and what TVAL reports beside the
word of a field rule. -/
def Block.check (b : Block) (form size : Nat) : Option (Nat × Nat) :=
  if !b.fieldsOk form then some (0x02, 0)
  else
    match b.misaligned form with
    | some v => some (0x03, v)
    | none => (b.outside form size).map fun v => (0x10, v)

/-- The runs of scratchpad bytes that an operation into the scratchpad writes. -/
def Block.spadRuns (b : Block) : List (Nat × Nat) :=
  if b.fmt = 0 then (List.range b.rows).map fun r => (b.so + r * b.sp, b.len) else [(b.so, b.extent)]

/-- Whether an operation into the scratchpad writes some byte of a granule. -/
def Block.writesGranule (b : Block) (form g : Nat) : Bool :=
  toSpad form && decide (b.so ≤ 16 * g) &&
    (if b.fmt = 0 then decide ((16 * g - b.so) / b.sp < b.rows) && decide ((16 * g - b.so) % b.sp < b.len)
     else decide (16 * g < b.so + b.extent))

end Sys2Proof.Machine
end

