-- ==== Sys2Proof/Machine/Access.lean ====
section
/-!
DEFINITION. How an access that a fibre has issued performs (12, 13, 15): when it may, in the L1, in the scratchpad or on
its way to a home; releases, acquires and flush markers; what a home does; and losses (23 R427).
-/
namespace Sys2Proof.Machine

/-! ### Kinds of access -/

/-- The ordering instructions, in program order among themselves (R301). -/
def AccOp.orders : AccOp → Bool
  | .lda => true
  | .str => true
  | .amo _ ar => ar
  | .fence _ _ _ => true
  | _ => false

/-- The accesses that act as a release (R261, R269). -/
def AccOp.releases : AccOp → Bool
  | .str => true
  | .amo _ ar => ar
  | .fence rel _ _ => rel
  | .stf => true
  | _ => false

/-- The accesses that return a value (R303). -/
def AccOp.returns : AccOp → Bool
  | .load _ => true
  | .ldy _ => true
  | .ldc _ => true
  | .lda => true
  | .amo _ _ => true
  | .ldf _ => true
  | .deq => true
  | _ => false

/-- The accesses that a pending release fence holds back (R303). -/
def AccOp.afterFence : AccOp → Bool
  | .load _ => false
  | .ldy _ => false
  | .ldc _ => false
  | .ldf _ => false
  | .wbr => false
  | .invr => false
  | .deq => false
  | _ => true

/-- The accesses that an earlier `mma` of the gang holds back (R332). -/
def AccOp.afterMma : AccOp → Bool
  | .store => true
  | .stf => true
  | .str => true
  | .amo _ _ => true
  | .red _ => true
  | .fence rel _ _ => rel
  | _ => false

/-- The permissions an access needs (R235, R289, R306). -/
def AccOp.need : AccOp → Need
  | .store => .store
  | .amo _ _ => .both
  | .red _ => .both
  | .str => .both
  | _ => .load

/-- Whether two accesses of a fibre touch one line of global memory (R258). -/
def Access.sharesLine (a b : Access) : Bool :=
  !a.spad && !b.spad && a.size != 0 && b.size != 0 && decide (lineOf a.ia ≤ lineOf (b.ia + b.size - 1)) &&
    decide (lineOf b.ia ≤ lineOf (a.ia + a.size - 1))

/-! ### Atomic operations (R291, R297, R298) -/

/-- Bytes of an AMO of XFN [3:0] (R291). -/
def amoSize (op : Nat) : Nat := if op < 10 then 4 else if op < 13 then 8 else 16

/-- Bytes of a RED of XFN [3:0] (R297). -/
def redSize (op : Nat) : Nat := if op = 7 then 2 else if op = 8 then 8 else 4

/-- The integer operations that AMO and RED share, on words of 32 bits. -/
def wordOp (op : Nat) (old b : Word) : Word :=
  match op with
  | 0 => old + b
  | 1 => old &&& b
  | 2 => old ||| b
  | 3 => old ^^^ b
  | 4 => if old.toInt ≤ b.toInt then old else b
  | 5 => if old.toInt ≤ b.toInt then b else old
  | 6 => if old.toNat ≤ b.toNat then old else b
  | _ => if old.toNat ≤ b.toNat then b else old

/-- What an AMO writes at its address, none for a `cas` that fails (R291, R292). -/
def amoNew (op : Nat) (old : Nat) (data : List Byte) : Option Nat :=
  let z := amoSize op
  let b := leNat (data.take z)
  let b2 := leNat ((data.drop z).take z)
  if op < 8 then some (wordOp op (BitVec.ofNat 32 old) (BitVec.ofNat 32 b)).toNat
  else if op = 8 ∨ op = 11 then some b
  else if op = 10 then some ((old + b) % 2 ^ 64)
  else if old = b then some b2 else none

/-- A floating sum of a RED: RNE, any NaN canonical, no flag (R298). -/
def redFadd (t : Fmt) (old b : Nat) : Nat :=
  let x := t.decode old
  let y := t.decode b
  if x.isNan ∨ y.isNan then t.encode V.nan
  else if x.cls = .inf then (if y.cls = .inf ∧ x.s ≠ y.s then t.encode V.nan else t.encode x)
  else if y.cls = .inf then t.encode y
  else t.rne (sumFinite [x, y] false)

/-- What a RED writes (R297). -/
def redNew (op : Nat) (old : Nat) (data : List Byte) : Nat :=
  let b := leNat (data.take (redSize op))
  if op < 6 then (wordOp op (BitVec.ofNat 32 old) (BitVec.ofNat 32 b)).toNat
  else if op = 6 then redFadd fmtFp32 old b
  else if op = 7 then redFadd fmtBf16 old b
  else (old + b) % 2 ^ 64

/-- What an atomic access writes over the old bytes: AMO, RED or `str`; none where it writes nothing. -/
def Access.writes (a : Access) (old : List Byte) : Option (List Byte) :=
  match a.op with
  | .amo op _ => (amoNew op (leNat old) a.data).map fun v => leBytes a.size v
  | .red op => some (leBytes a.size (redNew op (leNat old) a.data))
  | .str => some (a.data.take a.size)
  | _ => none

/-! ### Cells of loaded bytes (R122, R300) -/

/-- Bytes as cells of four. -/
def cellsOfBytes : Nat → List Byte → List Word
  | 0, _ => []
  | k + 1, bs => BitVec.ofNat 32 (leNat (bs.take 4)) :: cellsOfBytes k (bs.drop 4)

/-- The cells that a load's bytes become (R122). -/
def loadCells (signed : Bool) (bs : List Byte) : List Word :=
  match bs.length with
  | 1 => [if signed then (BitVec.ofNat 8 (leNat bs)).signExtend 32 else BitVec.ofNat 32 (leNat bs)]
  | 2 => [if signed then (BitVec.ofNat 16 (leNat bs)).signExtend 32 else BitVec.ofNat 32 (leNat bs)]
  | n => cellsOfBytes (n / 4) bs

/-- Cells as bytes, little-endian (R123). -/
def bytesOfCells (l : List Word) : List Byte := l.flatMap fun w => leBytes 4 w.toNat

/-! ### The place of a fibre -/

/-- A fibre with its node, its gang and the core its gang stands on. -/
structure Site where
  fib : Fibre
  node : Node
  gang : Gang
  core : Nat

/-- The place of a fibre, while its gang stands on a core. -/
def State.site? (s : State) (id : FibId) : Option Site :=
  match s.fibre? id, s.node? id.nid, s.gang? id.nid id.gid with
  | some f, some n, some g => g.core?.map fun c => ⟨f, n, g, c⟩
  | _, _, _ => none

/-- Changes an entry of a fibre. -/
def State.onAcc (s : State) (id : FibId) (ser : Nat) (k : Access → Access) : State :=
  s.onFibre id fun b => { b with acc := mapIf (fun a => decide (a.ser = ser)) k b.acc }

/-- The entry of a fibre with a serial number. -/
def Fibre.entry? (b : Fibre) (ser : Nat) : Option Access := b.acc.find? fun a => a.ser = ser

/-- An access that performs at a home and not in the L1 (R261, R293, R298). -/
def State.atHome (s : State) (a : Access) : Bool :=
  let far := match s.placeOf a.ia with
    | .peer _ => true
    | .host => true
    | _ => false
  match a.op with
  | .amo _ _ => decide (2 ≤ a.scope) || far
  | .red _ => decide (2 ≤ a.scope) || far
  | .lda => !a.spad && decide (2 ≤ a.scope)
  | .str => !a.spad && decide (2 ≤ a.scope)
  | _ => false

/-! ### When an access may perform -/

/-- Whether an operation that has been accepted will write a granule (R310). -/
def State.willFill (s : State) (g : Gang) (gr : Nat) : Bool :=
  (g.ctxs.any fun c => c.ops.any fun o => (Block.of o.block).writesGranule o.form gr) ||
  (g.cpbs.any fun c => c.off / 16 == gr || c.off / 16 + 1 == gr) ||
  (g.matq.any fun o =>
    let mn := (o.shp.extractLsb' 0 7).toNat * (o.shp.extractLsb' 7 7).toNat
    match o.word with
    | .stF32 _ off => decide (off / 16 ≤ gr) && decide (16 * gr < off + 4 * mn)
    | .stBf16 _ off => decide (off / 16 ≤ gr) && decide (16 * gr < off + 2 * mn)
    | _ => false) ||
  s.presentFibres.any fun b => b.id.nid == g.nid && b.id.gid == g.gid && b.acc.any fun a => a.op == .stf && a.ia / 16 == gr

/-- An `mma` that the engine has not taken, issued before an access (R332). -/
def Gang.mmaBefore (g : Gang) (mseq : Nat) : Bool :=
  g.matq.any fun o => decide (o.no ≤ mseq) && match o.word with
    | .mma _ _ _ _ _ _ => true
    | _ => false

/-- The lane order of AMOs and REDs of one bundle on the same bytes, fibres that have ended included (R293, R298). -/
def State.laneFirst (s : State) (id : FibId) (a : Access) : Bool :=
  (match a.op with
   | .amo _ _ => true
   | .red _ => true
   | _ => false) &&
  s.presentFibres.any fun b => b.id.nid == id.nid && b.id.gid == id.gid && decide (b.id.fid < id.fid) &&
    b.acc.any fun e => e.grp == a.grp && e.stage != .sent && decide (e.ia < a.ia + a.size) && decide (a.ia < e.ia + e.size) &&
      match e.op with
      | .amo _ _ => s.atHome e == s.atHome a
      | .red _ => s.atHome e == s.atHome a
      | _ => false

/-- An access that reads the L1 misses a line of which an earlier write-back of the core is still on its way. -/
def State.missBlocked (s : State) (core : Nat) (ia size : Nat) : Bool :=
  (splitLines ia size).any fun x => !(s.core core).holds (x.1 * 128 + x.2.1) x.2.2 && s.inFlight core x.1

/-- Whether an access may perform now, by the order rules of R258, R261, R293, R301, R303, R332 and R412. -/
def State.mayPerform (s : State) (x : Site) (a : Access) : Bool :=
  let earlier := x.fib.acc.filter fun e => e.ser < a.ser && (a.orphan || !e.orphan)
  !(earlier.any a.sharesLine) &&
  !(a.spad && earlier.any Access.spad) &&
  !(a.op.orders && earlier.any fun e => e.op.orders) &&
  !(a.op.releases && earlier.any fun e => !e.pastL1 || decide (2 ≤ a.scope)) &&
  !(earlier.any Access.acquires) &&
  !(a.op.afterFence && earlier.any fun e => match e.op with | .fence rel _ _ => rel | _ => false) &&
  !(a.op.afterMma && x.gang.mmaBefore a.mseq) &&
  (match a.op with
   | .fence false true _ => !(earlier.any fun e => e.op.returns) &&
       !(x.fib.dlv.any fun v => decide (v.ser < a.ser) && match v.kind with | .load => true | .conv _ => true | _ => false)
   | _ => true) &&
  !(a.stage.replaying && (earlier.any (fun e => e.stage.replaying) ||
    x.gang.cpbs.any fun c => c.who == x.fib.id && decide (c.ser < a.ser) && c.stage.replaying)) &&
  !(s.laneFirst x.fib.id a)

/-! ### Performing -/

/-- An access has performed: its entry goes, and the value it returns is on its way (R122). -/
def State.performed (s : State) (id : FibId) (a : Access) (vals : List Word) (status : Option Bool) : State :=
  s.onFibre id fun b =>
    let b1 := { b with acc := b.acc.filter fun e => e.ser ≠ a.ser }
    if a.op.returns && b.life == .live && !a.orphan then
      { b1 with dlv := b1.dlv ++ [{
          ser := a.ser, base := a.base, kind := .load, dest := a.dest, vals := vals, yval := none, flags := 0#6
          status := if a.mute then none else status
          bytes := [], va := a.va, ckpt := none }] }
    else b1

/-- The bytes of a converting load are on their way (R158). -/
def State.convArrived (s : State) (id : FibId) (a : Access) (bs : List Byte) : State :=
  s.onFibre id fun b =>
    let b1 := { b with acc := b.acc.filter fun e => e.ser ≠ a.ser }
    if b.life == .live && !a.orphan then
      { b1 with dlv := b1.dlv ++ [{
          ser := a.ser, base := a.base, kind := .conv a.op, dest := a.dest, vals := [], yval := none, flags := 0#6, status := none
          bytes := bs, va := a.va, ckpt := a.ckpt }] }
    else b1

/-- Cells marked empty become full again with the values they held (R302, R310, R393). -/
def Regs.refill (r : Regs) (d : Dest) : Regs :=
  d.positions.foldl (fun t i => t.setAt i (t.cells.getD i Cell.zero).val true) r

/-- The node of a fibre fails: what it has issued completes, and nothing of it is replayed (R409). -/
def State.failing (s : State) (nid : Nat) : Bool := (s.node? nid).any fun n => n.failing.isSome

/-- An access has met a fault (R241); of a node that fails it is gone, for no answer is to come (R409). -/
def State.accFails (s : State) (id : FibId) (ser code sub ia : Nat) : State :=
  if s.failing id.nid then s.onFibre id fun b => { b with acc := b.acc.filter fun a => a.ser ≠ ser }
  else s.onAcc id ser fun a => { a with stage := .faulted code sub ia, half := a.half.map fun _ => none }

/-- A walk has failed for an access: it is busy (code 0) or faulted (R240, R241). Of a load that performs as two halves
nothing is kept: it reads both anew. -/
def State.walkFailed (s : State) (id : FibId) (a : Access) (e : Nat × Nat × Nat) : State :=
  let (code, sub, ia) := e
  let waits := fun (n : Nat) (again : Bool) => s.onAcc id a.ser fun a => { a with stage := .busy n again, half := a.half.map fun _ => none }
  if code ≠ 0 then s.accFails id a.ser code sub ia
  else
    match a.stage with
    | .busy n again => if 8 ≤ n then s.accFails id a.ser 0x48 3 ia else waits (n + 1) again
    | .replay => waits 1 true
    | _ => waits 1 false

/-- An uncorrectable error lies in a run of memory (R253). -/
def State.badRun (s : State) (ia size : Nat) : Bool := (linesOf ia size).any s.bad.contains

/-- Reads a run through the L1 for an access, after its walk: the bytes, or what went wrong (R246, R253). -/
def State.fetchRun (s : State) (x : Site) (a : Access) (ia size : Nat) (need : Need) :
    (List Byte ⊕ (Nat × Nat × Nat)) × State :=
  match s.walkRun ia size need with
  | (some e, t) => (.inr e, t)
  | (none, t) =>
    if t.badRun ia size || (t.core x.core).errRun ia size then (.inr (0x47, 0, ia), t)
    else
      match t.readL1 x.core ia size x.node.ctx a.tracked .load with
      | (none, t1) => (.inr (0, 0, ia), t1)
      | (some bs, t1) => (.inl bs, t1)

/-- A miss must wait: an earlier write-back of the line is on its way, or no path to its home is in service. -/
def State.missWaits (s : State) (core ia size : Nat) : Bool := s.missBlocked core ia size || !s.pathUp core ia

/-- A plain load performs on `size` bytes from `off`: from the L1 when it holds every byte, else after a walk (R246, R257).
A home that cannot be reached is fault 0x42 (R429, log 60). -/
def State.performLoad (s : State) (x : Site) (a : Access) (off size : Nat) (k : State → List Byte → State) : State :=
  let ia := a.ia + off
  if (s.core x.core).errRun ia size then s.walkFailed x.fib.id a (0x47, 0, ia)
  else if (s.core x.core).holds ia size then k s ((s.core x.core).bytes ia size)
  else if !s.reaches x.core ia then s.walkFailed x.fib.id a (0x42, 0, ia)
  else if s.missWaits x.core ia size then s
  else
    match s.fetchRun x a ia size .load with
    | (.inr e, t) => t.walkFailed x.fib.id a e
    | (.inl bs, t) => k t bs

/-- The half of a 16-byte access that performs next, once `done` has performed: nothing fixes which comes first (R124,
log 56). -/
def Access.nextHalf (a : Access) (done : Option Bool) : Bool := done.elim (Config.highHalfFirst a.ser) not

/-- One half of a 16-byte access has performed; a load keeps its bytes (R124). -/
def State.halfDone (s : State) (id : FibId) (a : Access) (high : Bool) (data : List Byte) : State :=
  s.onAcc id a.ser fun a => { a with half := some (some high), data := data }

/-- A plain load of 16 bytes performs as two halves, each of which is single-copy atomic (R124). -/
def State.performQuad (s : State) (x : Site) (a : Access) (done : Option Bool) : State :=
  s.performLoad x a (halfOff (a.nextHalf done)) 8 fun t bs =>
    match done with
    | none => t.halfDone x.fib.id a (a.nextHalf done) bs
    | some high => t.performed x.fib.id a (loadCells false (if high then bs ++ a.data else a.data ++ bs)) none

/-- An `ldy` performs: its first nibble gives its width, and its own bytes are read, those beyond a limit of the arena or
range never (R82, R236, R450). DESIGN CHOICE (log 56): its bytes are read in one step, though R83 and R160 let one that
crosses an aligned 32-byte block be seen as a mix. -/
def State.performLdy (s : State) (x : Site) (a : Access) (slot : Nat) : State :=
  s.performLoad x a 0 1 fun t b0 =>
    let width := elemBytes (b0.headD 0#8)
    if slot < width then t.convArrived x.fib.id a b0
    else
      match t.keptXlat x.node a.va.toNat width .load with
      | .bad code ia => t.walkFailed x.fib.id a (code, 0, ia)
      | .ok _ _ => t.performLoad x a 0 width fun u bs => u.convArrived x.fib.id a bs

/-- The markers of an access leave, and it waits for them; a release leaves no home to the next one (R263). -/
def State.sendMarker (s : State) (x : Site) (a : Access) : State :=
  let homes := if 4 ≤ a.scope then (s.core x.core).homes.filter fun h => h != s.dieOf x.core else []
  let y : Flight := { core := x.core, op := .marker x.fib.id a.ser homes, ia := 0, bytes := [] }
  let t := if 4 ≤ a.scope ∧ a.op.releases then s.onCore x.core fun c => { c with homes := [] } else s
  State.onAcc { t with flight := t.flight ++ [y] } x.fib.id a.ser fun a => { a with stage := .releasing }

/-- The bits of FSTAT and LSTAT that a lost write to an IA sets in a fibre on a core (R304, R430). DESIGN CHOICE (log 77): a
lost write to host memory sets LOSTS, for R304 names the package and peers alone. -/
def State.lossBits (s : State) (core ia : Nat) : Word × Word :=
  match s.placeOf ia with
  | .peer id => (2#32, if s.fabric.unreachable.contains id then 0x18#32 else 0x08#32)
  | .host => (2#32, 0x08#32)
  | _ => (1#32, if homeDie ia = s.dieOf core then 0#32 else 2#32)

/-- Sets bits of FSTAT and LSTAT (R304, R430). -/
def Regs.setLoss (r : Regs) (f l : Word) : Regs := { r with fstat := r.fstat ||| f, lstat := r.lstat ||| l }

/-- A live fibre's FSTAT and LSTAT record a loss, in the states kept for its converting loads too (R304, R430). -/
def Fibre.sees (b : Fibre) (f l : Word) : Fibre := if b.life = .live then b.always fun r => r.setLoss f l else b

/-- A release starts (R261): every dirty byte of every tracked line of the core leaves, and the markers follow. It finds
the lost writes that it had to carry, which the fibre keeps until its own release at `pkg` or `sys` (R263, R302, log 20). -/
def State.startRelease (s : State) (x : Site) (a : Access) : State :=
  let found := x.fib.lost
  let t := s.onFibre x.fib.id fun b =>
    found.foldl (fun c ia => c.sees (s.lossBits x.core ia).1 (s.lossBits x.core ia).2)
      (if 4 ≤ a.scope then { b with lost := [] } else b)
  let t1 := if found = [] then t else t.onAcc x.fib.id a.ser fun a => { a with lost := true }
  (t1.writeBackAll x.core fun l => l.tracked).sendMarker x a

/-- An acquire at `col` or wider drops every clean byte of every tracked line (R261). -/
def State.acquire (s : State) (core scope : Nat) : State :=
  if 2 ≤ scope then s.onCore core fun c => c.dropClean fun l => l.tracked else s

/-- An access leaves for its home: the core's copy of its line is written back and dropped first (R262). -/
def State.sendHome (s : State) (x : Site) (a : Access) : State :=
  let t := ((linesOf a.ia a.size).foldl (fun u ln => u.flushLine x.core ln) s).sentTo x.core a.ia
  let y : Flight := { core := x.core, op := .access x.fib.id a.ser a.op, ia := a.ia, bytes := List.replicate a.size none }
  State.onAcc { t with flight := t.flight ++ [y] } x.fib.id a.ser fun a => { a with stage := .sent }

/-- The write of a `str` or `stf` in the scratchpad. -/
def State.spadStore (s : State) (x : Site) (a : Access) : State :=
  match x.node.spadRun (a.va.extractLsb' 0 32) a.size with
  | none => s
  | some offs => s.onGang x.gang.nid x.gang.gid fun g => g.spadPut offs a.data

/-- The fibre gets p15 from the word of a serial number: at once, or with the commit of its chain where that word has been
issued before the rest of it (R304, log 61). -/
def Fibre.status (b : Fibre) (a : Access) (p : Bool) : Fibre :=
  if b.early.any fun start => decide (start ≤ a.ser) then
    { b with dlv := b.dlv ++ [{
        ser := a.ser, base := a.base, kind := .load, dest := .none, vals := [], yval := Option.none, flags := 0#6, status := some p
        bytes := [], va := 0#64, ckpt := Option.none }] }
  else b.landed a.ser fun r => r.setP 15 p

/-- A fence completes: its acquire part, and p15 for `.chk` (R303, R304); a task word learns how its release went
(R387). -/
def State.fenceDone (s : State) (x : Site) (a : Access) (rel acq chk : Bool) : State :=
  let t := if acq then s.acquire x.core a.scope else s
  (t.performed x.fib.id a [] none).onFibre x.fib.id fun b =>
    let b1 := if b.rel = some (a.ser, none) then { b with rel := some (a.ser, some a.lost) } else b
    if chk && b1.life == .live && !a.orphan && !a.mute then b1.status a !(rel && a.lost) else b1

/-- An access that returns a status finds nothing: its cells are full again with their old values, and p15 is 0 (R310,
R393). -/
def State.comesToNothing (s : State) (id : FibId) (a : Access) : State :=
  s.onFibre id fun b =>
    let r := b.regs.refill a.dest
    { b with
      acc := b.acc.filter fun e => e.ser ≠ a.ser
      regs := if b.life == .live && !a.orphan then (if a.mute then r else r.setP 15 false) else b.regs }

/-! ### Task queues (19 R373 to R375) -/

/-- A node's spill ring on a core. -/
def Node.ring (n : Node) (core : Nat) : Ring := (n.rings.find? fun x => x.core = core).getD ⟨core, 0, 0⟩

/-- Stores a spill ring. -/
def Node.setRing (n : Node) (x : Ring) : Node := { n with rings := upsert (fun y => y.core = x.core) x n.rings }

/-- Entries of a ring, its counts being modulo 2^32. -/
def Ring.used (x : Ring) : Nat := (x.rt + 2 ^ 32 - x.rh) % 2 ^ 32

/-- Where a dequeue of a node looks on one core: its oldest entry, a refill to wait for, or nothing (R375). -/
inductive Found where
  | entry (core : Nat) (cells : List Word)
  | refill
  | nothing
  deriving DecidableEq, Repr

/-- What a core holds of a node. -/
def State.findOn (s : State) (n : Node) (core : Nat) : Found :=
  match (s.core core).queue.find? fun e => e.nid = n.spec.nid with
  | some e => .entry core e.cells
  | none => if (n.ring core).used ≠ 0 then .refill else .nothing

/-- The first core of a list that holds an entry of a node. -/
def State.findIn (s : State) (n : Node) : List Nat → Found
  | [] => .nothing
  | c :: rest =>
    match s.findOn n c with
    | .nothing => s.findIn n rest
    | x => x

/-- What a dequeue of a node finds from a core: there first, then on the others in ascending order (R375). -/
def State.findEntry (s : State) (n : Node) (core : Nat) : Found :=
  s.findIn n (core :: (List.range s.coreMap.length).filter fun k => k ≠ core)

/-- Removes the oldest entry of a node from a queue. -/
def dropEntry (nid : Nat) : List TaskEntry → List TaskEntry
  | [] => []
  | e :: r => if e.nid = nid then r else e :: dropEntry nid r

/-- A `task.deq` takes the entry it finds, and its acquire at `pkg` is made; it waits for a refill alone (R393). -/
def State.performDeq (s : State) (x : Site) (a : Access) : State :=
  match s.findEntry x.node x.core with
  | .refill => s
  | .nothing => s.comesToNothing x.fib.id a
  | .entry core cells =>
    ((s.onCore core fun c => { c with queue := dropEntry x.node.spec.nid c.queue }).acquire x.core 4).performed x.fib.id a
      cells (some true)

/-- An `ldf` meets its granule (R310): full, it is read and perhaps consumed; empty with nothing on its way, T is full
again with its old value and p15 is 0; else it goes on waiting. -/
def State.performLdf (s : State) (x : Site) (a : Access) (cons : Bool) : State :=
  let gr := a.ia / 16
  if x.gang.gran.contains gr then
    let bs := x.gang.spadBytes ((List.range 16).map (a.ia + ·))
    let t := if cons then s.onGang x.gang.nid x.gang.gid fun g => { g with gran := granClear gr g.gran } else s
    t.performed x.fib.id a (cellsOfBytes 4 bs) (some true)
  else if s.willFill x.gang gr then s
  else s.comesToNothing x.fib.id a

/-- A `wbr` or `invr` takes the lines of its range (R268, R306, R307). -/
def State.performRange (s : State) (x : Site) (a : Access) (drop : Bool) : State :=
  if a.size = 0 ∨ a.scope < 2 then s.performed x.fib.id a [] none
  else
    let inRange := fun (l : L1Line) => decide (lineOf a.ia ≤ l.line) && decide (l.line ≤ lineOf (a.ia + a.size - 1))
    let t := s.writeBackAll x.core inRange
    let t1 := if drop then t.onCore x.core fun c => { c with l1 := c.l1.filter fun l => !inRange l } else t
    t1.sendMarker x a

/-- The crew of a fibre as a line keeps it (R427). -/
def Site.crew (x : Site) : Nat × Nat := (x.fib.id.gid, x.fib.id.cid)

/-- An AMO, RED or `str` performs in the L1 (R293, R301). -/
def State.performInL1 (s : State) (x : Site) (a : Access) : State :=
  match a.op with
  | .str =>
    match s.walkRun a.ia a.size .both with
    | (some e, t) => t.walkFailed x.fib.id a e
    | (none, t) => (t.storeL1 x.core a.ia (a.data.take a.size) x.node.ctx a.tracked x.crew).performed x.fib.id a [] none
  | _ =>
    let miss := !(s.core x.core).holds a.ia a.size
    if miss ∧ !s.reaches x.core a.ia then s.walkFailed x.fib.id a (0x42, 0, a.ia)
    else if miss ∧ s.missWaits x.core a.ia a.size then s
    else
      match s.fetchRun x a a.ia a.size .both with
      | (.inr e, t) => t.walkFailed x.fib.id a e
      | (.inl old, t) =>
        let t1 := match a.writes old with
          | none => t
          | some bs => t.storeL1 x.core a.ia bs x.node.ctx a.tracked x.crew
        t1.performed x.fib.id a (cellsOfBytes (a.size / 4) old) none

/-- A RED or `str` may be lost on its way; an AMO and an `lda` are faults there (R427, R429). -/
def AccOp.mayBeLost : AccOp → Bool
  | .red _ => true
  | .str => true
  | _ => false

/-- An access cannot reach its home: fault 0x42; the write of an AMO counts as lost (R427, R429, R430, log 60). -/
def State.unreached (s : State) (id : FibId) (core : Nat) (a : Access) : State :=
  let t := s.accFails id a.ser 0x42 0 a.ia
  match a.op with
  | .amo _ _ => (t.onFibre id fun b => b.sees 0#32 (t.lossBits core a.ia).2).tell (.lostWrite a.ia id.nid id.gid id.cid)
  | _ => t

/-- An access that performs at its home is walked, and then sent, after its release where it has one (R261, R262). To a home
that cannot be reached it is sent without a walk, and lost there, or it faults (R427, R429). -/
def State.performAtHome (s : State) (x : Site) (a : Access) : State :=
  let go := fun (t : State) => if a.op.releases ∧ 2 ≤ a.scope then t.startRelease x a else t.sendHome x a
  if !s.reaches x.core a.ia then (if a.op.mayBeLost then go s else s.unreached x.fib.id x.core a)
  else
    match s.walkRun a.ia a.size a.op.need with
    | (some e, t) => t.walkFailed x.fib.id a e
    | (none, t) => go t

/-- A plain store of 1 to 8 bytes performs in the L1, and one of 16 as two halves, of which only the first is walked (R123,
R124, R246). -/
def State.performStore (s : State) (x : Site) (a : Access) : State :=
  match a.rest with
  | some (ia, bs) => (s.storeL1 x.core ia bs x.node.ctx a.tracked x.crew).performed x.fib.id a [] none
  | none =>
    match s.walkRun a.ia a.size .store with
    | (some e, t) => t.walkFailed x.fib.id a e
    | (none, t) =>
      let put := fun (off n : Nat) =>
        t.storeL1 x.core (a.ia + off) ((a.data.drop off).take n) x.node.ctx a.tracked x.crew
      match a.half with
      | none => (put 0 a.size).performed x.fib.id a [] none
      | some done =>
        let high := a.nextHalf done
        (put (halfOff high) 8).halfDone x.fib.id a high a.data

/-- A scratchpad access that was not made at issue performs: one of 16 bytes as two halves (R124), and a store that waited
for an `mma` (R332). -/
def State.performSpad (s : State) (x : Site) (a : Access) : State :=
  match x.node.spadRun (a.va.extractLsb' 0 32) a.size with
  | none => s
  | some offs =>
    let id := x.fib.id
    let high := a.nextHalf (a.half.getD none)
    let part := fun {α : Type} (l : List α) => if a.half.isSome then (l.drop (halfOff high)).take 8 else l
    match a.op with
    | .load signed =>
      let bs := x.gang.spadBytes (part offs)
      (match a.half with
       | some none => s.halfDone id a high bs
       | some (some h) => s.performed id a (loadCells false (if h then bs ++ a.data else a.data ++ bs)) none
       | none => s.performed id a (loadCells signed bs) none)
    | _ =>
      let t := s.onGang x.gang.nid x.gang.gid fun g => g.spadPut (part offs) (part a.data)
      if a.half = some none then t.halfDone id a high a.data else t.performed id a [] none

/-- An access whose turn it is performs (15 R292, R301, R303, R310, R311). -/
def State.perform (s : State) (x : Site) (a : Access) : State :=
  let id := x.fib.id
  match a.op with
  | .load signed =>
    if a.spad then s.performSpad x a
    else match a.half with
    | some done => s.performQuad x a done
    | none => s.performLoad x a 0 a.size fun t bs => t.performed id a (loadCells signed bs) none
  | .ldc _ => s.performLoad x a 0 a.size fun t bs => t.convArrived id a bs
  | .ldy k => s.performLdy x a (2 * k + 2)
  | .store => if a.spad then s.performSpad x a else s.performStore x a
  | .ldf cons => s.performLdf x a cons
  | .deq => s.performDeq x a
  | .stf =>
    let t := (s.spadStore x a).onGang x.gang.nid x.gang.gid fun g => { g with gran := granSet (a.ia / 16) g.gran }
    t.performed id a [] none
  | .fence rel acq chk =>
    if rel ∧ 2 ≤ a.scope then s.startRelease x a else s.fenceDone x a rel acq chk
  | .wbr => s.performRange x a false
  | .invr => s.performRange x a true
  | .lda =>
    if a.spad then
      match x.node.spadRun (a.va.extractLsb' 0 32) a.size with
      | none => s
      | some offs => (s.acquire x.core a.scope).performed id a (loadCells false (x.gang.spadBytes offs)) none
    else if s.atHome a then s.performAtHome x a
    else s.performLoad x a 0 a.size fun t bs => t.performed id a (loadCells false bs) none
  | .str =>
    if a.spad then (if 2 ≤ a.scope then s.startRelease x a else (s.spadStore x a).performed id a [] none)
    else if s.atHome a then s.performAtHome x a else s.performInL1 x a
  | .amo _ _ => if s.atHome a then s.performAtHome x a else s.performInL1 x a
  | .red _ => if s.atHome a then s.performAtHome x a else s.performInL1 x a

/-- A replayed access is translated again from its kept address (R412). -/
def State.retranslate (s : State) (x : Site) (a : Access) : State :=
  let size := match a.op with
    | .ldy _ => 2
    | _ => a.size
  match s.xlat x.node a.va.toNat size a.op.need with
  | .bad code ia => s.walkFailed x.fib.id a (code, 0, ia)
  | .ok ia tr =>
    (s.onAcc x.fib.id a.ser fun a => { a with ia := ia, tracked := tr }).perform x { a with ia := ia, tracked := tr }

/-- A 16-byte access of which one half has performed (R124). -/
def Access.halfway (a : Access) : Bool := a.half.any Option.isSome

/-- The memory system attempts an access of a fibre; nothing happens while it must wait. `retry` is the retry of a busy
walk (R240). -/
def State.attempt (s : State) (id : FibId) (ser : Nat) (retry : Bool) : State :=
  match s.site? id with
  | none => s
  | some x =>
    match x.fib.entry? ser with
    | none => s
    | some a =>
      if !s.mayPerform x a then s
      else
        match a.stage with
        | .issued => if retry then s else s.perform x a
        | .replay => if retry then s else if a.spad ∨ a.halfway then s.perform x a else s.retranslate x a
        | .busy _ again => if !retry then s else if again && !a.halfway then s.retranslate x a else s.perform x a
        | _ => s

/-! ### Homes, markers and losses -/

/-- What a lost write was: a home-performed access of a fibre, or a write-back with T of its line (R261). -/
inductive LostWrite where
  | access (who : FibId)
  | writeBack (tracked : Bool)
  deriving DecidableEq, Repr

/-- A word whose marker follows a lost write had to deliver it (R261, R302, R304): its fibre's own home-performed accesses and
every tracked write-back of its core for a release, the lines of its range for a `wbr` or `invr`. -/
def LostWrite.concerns (w : LostWrite) (ia : Nat) (id : FibId) (a : Access) : Bool :=
  match w with
  | .access who => a.op.releases && id == who
  | .writeBack tracked =>
    if a.op.releases then tracked
    else decide (lineOf a.ia ≤ lineOf ia) && decide (lineOf ia ≤ lineOf (a.ia + a.size - 1))

/-- A fibre's later releases had to deliver a lost write too, `here` telling whether its gang stands on the core (R261). -/
def LostWrite.stays (w : LostWrite) (here : Bool) (id : FibId) : Bool :=
  match w with
  | .access who => id == who
  | .writeBack tracked => here && tracked

/-- Marks the accesses whose markers follow a lost write of a core and that had to carry it, and records the loss in their
fibres (R302, R304). The fibres that had to carry it keep it for their next releases, but for those whose release at `pkg`
or `sys` has met it (log 20). The operation whose release it belongs to does not publish its tile (R271). -/
def State.lossTo (s : State) (core ia : Nat) (w : LostWrite) (after : List Flight) : State :=
  let bits := s.lossBits core ia
  let marks := after.filterMap fun y => match y.op with
    | .marker who ser _ =>
      if y.core ≠ core then none
      else ((s.fibre? who).bind fun b => b.entry? ser).bind fun a => if w.concerns ia who a then some (who, a) else none
    | _ => none
  let met := marks.foldl
    (fun t m => (t.onAcc m.1 m.2.ser fun a => { a with lost := true }).onFibre m.1 fun b =>
      if m.2.orphan then b else b.sees bits.1 bits.2)
    s
  let here := (s.fibresOn core).map Fibre.id
  let ranged := (marks.filter fun m => !m.2.op.releases).map Prod.fst
  let carried := (marks.filter fun m => m.2.op.releases && decide (4 ≤ m.2.scope)).map Prod.fst
  let kept := met.mapFibres (fun i => (w.stays (here.contains i) i || ranged.contains i) && !carried.contains i) fun b =>
    { b with lost := ia :: b.lost }
  after.foldl
    (fun t y => match y.op with
      | .engineMarker nid gid ctx seq _ =>
        if y.core = core ∧ w = .writeBack true then
          t.onGang nid gid fun g => { g with ctxs := g.ctxs.modify ctx fun c =>
            { c with ops := mapIf (fun o => decide (o.seq = seq) && o.form == formAtom) (fun o => { o with phase := .torn }) c.ops } }
        else t
      | _ => t) kept

/-- The write or access at a place in flight is lost (R302, R427, R429). -/
def State.lose (s : State) (k : Nat) : State :=
  match s.flight[k]? with
  | none => s
  | some x =>
    let t := { s with flight := dropAt k s.flight }
    let after := s.flight.drop (k + 1)
    match x.op with
    | .marker _ _ _ => s
    | .engineMarker _ _ _ _ _ => s
    | .writeBack ctx crew tracked =>
      let nid := ((s.allNodes.find? fun n => n.ctx = ctx).map fun n => n.spec.nid).getD 0
      (t.lossTo x.core x.ia (.writeBack tracked) after).tell (.lostWrite x.ia nid crew.1 crew.2)
    | .access who ser op =>
      let bits := s.lossBits x.core x.ia
      let orphan := ((s.fibre? who).bind fun b => b.entry? ser).any Access.orphan
      if op.mayBeLost then
        -- what is lost of a `str` is the release's own write
        let f := match op with
          | .str => bits.1
          | _ => 0#32
        let t1 := t.onFibre who fun b =>
          let b1 := { b with acc := b.acc.filter fun e => e.ser ≠ ser }
          if orphan then b1 else b1.sees f bits.2
        (t1.lossTo x.core x.ia (.access who) after).tell (.lostWrite x.ia who.nid who.gid who.cid)
      else
        match (t.fibre? who).bind fun b => b.entry? ser with
        | none => t
        | some a => t.unreached who x.core a

/-- An access arrives at its home and performs there, as one access of its bytes (R249, R292). -/
def State.arriveAccess (s : State) (k : Nat) (y : Flight) (who : FibId) (ser : Nat) : State :=
  let gone := { s with flight := dropAt k s.flight }
  match s.fibre? who with
  | none => gone
  | some b =>
    match b.entry? ser with
    | none => gone
    | some a =>
      let failed := fun (t : State) (code sub ia : Nat) =>
        State.accFails { t.triesDone (.arrival who ser) with flight := dropAt k t.flight } who ser code sub ia
      match s.walkRun a.ia a.size a.op.need with
      | (some (0, _, ia), _) => if s.spent (.arrival who ser) then failed s 0x48 3 ia else s.tryAgain (.arrival who ser)
      | (some (code, sub, ia), t) => failed t code sub ia
      | (none, t) =>
        let t := { t.triesDone (.arrival who ser) with flight := dropAt k t.flight }
        if t.badRun a.ia a.size then t.accFails who ser 0x47 0 a.ia
        else
          match t.homeBytes a.ia a.size with
          | (none, _) => s
          | (some old, t1) =>
            let t2 := match a.writes old with
              | none => t1
              | some bs => (t1.homeWrite a.ia bs).2
            let vals := match a.op with
              | .lda => loadCells false old
              | _ => cellsOfBytes (a.size / 4) old
            let t3 := if a.acquires then t2.acquire y.core a.scope else t2
            t3.performed who a vals none

/-- Something arrives at a home (R249): the arrivals of one core at one line keep their order. What no path can carry is
lost (R427). -/
def State.homeArrive (s : State) (k : Nat) : State :=
  match s.flight[k]? with
  | none => s
  | some y =>
    if y.bytes != [] && !s.reaches y.core y.ia then s.lose k
    else if y.bytes != [] && !s.pathUp y.core y.ia then s
    else if (s.flight.take k).any fun z => z.core = y.core && z.bytes != [] && y.bytes != [] &&
        decide (lineOf z.ia ≤ lineOf (y.ia + y.bytes.length - 1)) && decide (lineOf y.ia ≤ lineOf (z.ia + z.bytes.length - 1))
    then s
    else
      match y.op with
      | .marker _ _ _ => s
      | .engineMarker _ _ _ _ _ => s
      | .access who ser _ => s.arriveAccess k y who ser
      | .writeBack _ _ _ =>
        let key := TryKey.writeBack y.core (lineOf y.ia)
        match s.walk y.ia .store with
        | (.frame pa, t) => { t.triesDone key with flight := dropAt k t.flight, mem := t.mem.writeMasked pa y.bytes }
        | (.busy, _) => if s.spent key then (s.triesDone key).lose k else s.tryAgain key
        | (_, t) => (t.triesDone key).lose k

/-- A marker is acknowledged: the release of its access is done (R261, R263, R302). -/
def State.markerDone (s : State) (who : FibId) (ser : Nat) : State :=
  match s.site? who with
  | none => s
  | some x =>
    match x.fib.entry? ser with
    | none => s
    | some a =>
      match a.op with
      | .fence rel acq chk => s.fenceDone x a rel acq chk
      | .str =>
        if a.lost then s.performed who a [] none
        else if a.spad then (s.spadStore x a).performed who a [] none
        else s.sendHome x a
      | .amo _ _ =>
        if a.lost then
          s.onFibre who fun b =>
            { b with
              acc := b.acc.filter fun e => e.ser ≠ a.ser
              regs := if b.life == .live && !a.orphan then b.regs.refill a.dest else b.regs }
        else s.sendHome x a
      | _ => s.performed who a [] none

/-- A marker comes back once everything its core sent before it has been applied (R263); one whose path retrains waits,
and sets FSTAT.SLOW (R304, R428), whatever else it waits for. -/
def State.markerAck (s : State) (k : Nat) : State :=
  match s.flight[k]? with
  | none => s
  | some y =>
    match y.op with
    | .marker who ser homes =>
      if homes.any (s.retraining (s.dieOf y.core)) then
        s.onFibre who fun b => if (b.entry? ser).any Access.orphan then b else b.sees 4#32 0#32
      else if (s.flight.take k).any fun z => z.core = y.core then s
      else State.markerDone { s with flight := dropAt k s.flight } who ser
    | .engineMarker _ _ _ _ homes =>
      if homes.any (s.retraining (s.dieOf y.core)) ∨ (s.flight.take k).any fun z => z.core = y.core then s
      else { s with flight := dropAt k s.flight }
    | _ => s

end Sys2Proof.Machine
end

