-- ==== Sys2Proof/Machine/Memory.lean ====
section
/-!
DEFINITION. Loads and stores of global memory and of the scratchpad (05 R119 to R124), converting loads and rounding
stores (06 R156 to R161, R450), `ldf` and `stf` (15 R309 to R311), and what a converting load resolves to (06 R157, R158).
-/
namespace Sys2Proof.Machine

/-! ### Issue of an access -/

/-- The address d[A] + sext(OFF8) × scale, formed without wrapping (R119). -/
def Regs.va (r : Regs) (a : Fld) (o : BitVec 8) (scale : Nat) : Int := ((r.d a).toNat : Int) + o.toInt * scale

/-- The offset (w[A] + sext(OFF8) × scale) mod 2^32 (R120, R309). -/
def Regs.so (r : Regs) (a : Fld) (o : BitVec 8) (scale : Nat) : Word := r.w a + BitVec.ofInt 32 (o.toInt * scale)

/-- The entry of an access, before it takes its number (R410). -/
def newAccess (op : AccOp) (va : DWord) (ia size : Nat) (dest : Dest) (data : List Byte) : Access where
  ser := 0
  op := op
  spad := false
  va := va
  ia := ia
  size := size
  dest := dest
  data := data
  scope := 0
  tracked := true
  stage := .issued
  grp := 0
  mseq := 0
  lost := false
  base := 0
  half := none
  orphan := false
  mute := false
  ckpt := none

/-- The fibre issues an access: its destination is marked empty and it takes its place in program order (R122, R410). -/
def State.issueAccess (s : State) (a : Access) : State :=
  let mseq := if s.g.role s.f.stg = .matrix then s.g.mnext else 0
  { s with f := { s.f with
    regs := s.f.regs.markEmpty a.dest
    acc := s.f.acc ++ [{ a with ser := s.f.nextSer, grp := s.issueNo, mseq := mseq }]
    nextSer := s.f.nextSer + 1 } }

/-- The fibre issues an access that the memory system attempts at once. -/
def State.issueNow (s : State) (a : Access) : State := (s.issueAccess a).attempt s.f.id s.f.nextSer false

/-- A word with a global access: alignment, form and translation, then the entry (R121, R289). The check covers `size`
bytes. -/
def globalWord (s : State) (a : Access) (va : Int) (size : Nat) (aligned : Bool) : WordRes :=
  if aligned ∧ va % size ≠ 0 then .trap 0x03 0 (BitVec.ofInt 64 va)
  else
    match s.xlat s.n va size a.op.need with
    | .bad code ia => .fault code 0 (BitVec.ofInt 64 va) ia
    | .ok ia tr => .regs fun t => t.issueAccess { a with va := BitVec.ofInt 64 va, ia := ia, tracked := tr }

/-- A plain access of 16 bytes performs as two halves (R124). -/
def Access.split (a : Access) : Access := { a with half := if a.size = 16 then some none else none }

/-- A plain load of global memory into the cells that T names (R122). -/
def loadWord (s : State) (t a : Fld) (o : BitVec 8) (size : Nat) (signed : Bool) : WordRes :=
  let dest := Dest.cells (s.r.base + t.toNat) ((size + 3) / 4) []
  globalWord s (newAccess (.load signed) 0#64 0 size dest []).split (s.r.va a o size) size true

/-- A plain store of the low bytes of the cells from T (R123). -/
def storeWord (s : State) (t a : Fld) (o : BitVec 8) (size : Nat) : WordRes :=
  let data := (bytesOfCells (s.r.run t ((size + 3) / 4))).take size
  globalWord s (newAccess .store 0#64 0 size .none data).split (s.r.va a o size) size true

/-- The checks of a scratchpad access: alignment, then range (R120, R121). -/
def spadWord (s : State) (o : Word) (size : Nat) (k : List Nat → WordRes) : WordRes :=
  if o.toNat % size ≠ 0 then .trap 0x03 0 (o.setWidth 64)
  else
    match s.n.spadRun o size with
    | none => .trap 0x10 0 (o.setWidth 64)
    | some offs => if s.f.acc.any Access.spad then .wait else k offs

/-- A scratchpad load (R120, R122): the bytes are read at issue, and arrive later; one of 16 bytes performs as two halves
(R124). -/
def ldsWord (s : State) (t a : Fld) (o : BitVec 8) (size : Nat) (signed : Bool) : WordRes :=
  let dest := Dest.cells (s.r.base + t.toNat) ((size + 3) / 4) []
  let so := s.r.so a o size
  spadWord s so size fun offs =>
    if size = 16 then .regs fun t => t.issueAccess
      { (newAccess (.load signed) (so.setWidth 64) so.toNat size dest []).split with spad := true }
    else .regs fun t => t.sendLate
      { Deliv.blank with kind := .load, dest := dest, vals := loadCells signed (t.g.spadBytes offs) }

/-- A release fence of the fibre has not completed. -/
def Fibre.releasing (b : Fibre) : Bool := b.acc.any fun a => match a.op with
  | .fence rel _ _ => rel
  | _ => false

/-- An `mma` of a matrix stage has not read its tile (R332). -/
def State.mmaReads (s : State) : Bool := decide (s.g.role s.f.stg = .matrix) && s.g.mmaBefore s.g.mnext

/-- A scratchpad store (R120, R123), which waits for an earlier release fence (R303) and for the `mma` words of R332, one of its
own chain included. One of 16 bytes performs as two halves (R124). -/
def stsWord (s : State) (t a : Fld) (o : BitVec 8) (size : Nat) : WordRes :=
  let data := (bytesOfCells (s.r.run t ((size + 3) / 4))).take size
  let so := s.r.so a o size
  spadWord s so size fun offs =>
    if s.f.releasing ∨ s.mmaReads then .wait
    else .regs fun t =>
      if size = 16 ∨ t.mmaReads then t.issueAccess
        { (newAccess .store (so.setWidth 64) so.toNat size .none data).split with spad := true }
      else { t with g := t.g.spadPut offs data }

/-! ### Converting loads (R157, R158, R161) -/

/-- The formats of `ldc` and `stc` by SZ (R68, R161): bytes, and the fixed format, or the range of an integer. -/
def convSize (fmt : Nat) : Nat :=
  match fmt with
  | 0 => 4
  | 1 => 2
  | 2 => 2
  | 5 => 4
  | 6 => 4
  | _ => 1

/-- The fixed format of a code, none for the integers. -/
def convFmt (fmt : Nat) : Option Fmt :=
  match fmt with
  | 0 => some fmtFp32
  | 1 => some fmtBf16
  | 2 => some fmtFp16
  | 3 => some fmtE4m3
  | 4 => some fmtE5m2
  | _ => none

/-- The least and greatest integer of a code. -/
def convRange (fmt : Nat) : Int × Int :=
  match fmt with
  | 5 => (-2147483648, 2147483647)
  | 6 => (0, 4294967295)
  | 7 => (-128, 127)
  | _ => (0, 255)

/-- The value that `ldc` reads (R94, R95). -/
def convDecode (fmt x : Nat) : V :=
  match convFmt fmt with
  | some t => t.decode x
  | none =>
    let (lo, hi) := convRange fmt
    let z : Int := if lo < 0 ∧ hi < x then (x : Int) - 2 ^ (8 * convSize fmt) else x
    V.ofNK (decide (z < 0)) z.natAbs 0

/-- What `stc` writes, with its flags (R96). -/
def convEncode (fmt : Nat) (v : V) (rm : Rm) (u : Nat) : List Byte × Flags :=
  match convFmt fmt with
  | some t => let (x, fl) := t.convert v rm u; (leBytes (convSize fmt) x, fl)
  | none =>
    let (lo, hi) := convRange fmt
    let (z, fl) := toInt v lo hi rm u
    (leBytes (convSize fmt) (BitVec.ofInt 32 z).toNat, fl)

/-- What a converting load comes to. -/
inductive Resolved where
  | value (y : YReg) (fl : Flags) (drew : Bool)
  | trap (code sub : Nat) (val : DWord)

/-- A converting load resolves in the state kept at its issue (R95, R157, R450 step 7): `u` is what it draws. -/
def resolveConv (r : Regs) (op : AccOp) (va : DWord) (bs : List Byte) (u : Nat) : Resolved :=
  let u := if prcRM r.prc = .rsr then u else 0
  match op with
  | .ldc fmt =>
    let (x, fl) := roundL (convDecode fmt (leNat bs)) (prcL r.prc) (prcRM r.prc) u
    if enabled r.prc fl then .trap 0x05 fl.toNat 0#64 else .value (YReg.ofV r.lw x) fl false
  | .ldy k =>
    match vpfDecode bs (2 * k + 2) with
    | none => .trap 0x0F 0 va
    | some (x, le) =>
      if x.cls = .fin ∧ r.lw < le then
        if pxEnabled r.prc then .trap 0x06 3 va
        else
          let (z, fr) := roundL x r.lw (prcRM r.prc) u
          let fl := fr ||| flPX
          if enabled r.prc fl then .trap 0x05 fl.toNat 0#64
          else .value (YReg.ofV r.lw z) fl (prcRM r.prc = .rsr)
      else .value (YReg.ofV r.lw x) 0#6 false
  | _ => .value (YReg.zero r.lw) 0#6 false

/-- `ldc` of a format (R161, R450): sub-cause 1, alignment and address, then the entry. Under RSR it draws at issue. -/
def ldcWord (s : State) (t a : Fld) (o : BitVec 8) (fmt : Nat) : WordRes :=
  if s.r.lw < prcL s.r.prc then trapLength s.r
  else
    let size := convSize fmt
    let acc := { newAccess (.ldc fmt) 0#64 0 size (.yreg s.r.frames.length t.toNat) [] with
      base := s.f.nextSer, ckpt := some s.r }
    let drew := prcRM s.r.prc = .rsr
    match globalWord s acc (s.r.va a o size) size true with
    | .commit c k => if drew ∧ s.f.drawWaits then .wait else .commit c fun t => (k t).onRegs fun r => r.drew drew
    | x => x

/-- `ldy.k` (R157, R450): its address checks at issue cover the two bytes that every element has (log 13). -/
def ldyWord (s : State) (t a : Fld) (k : BitVec 4) (o : BitVec 8) : WordRes :=
  let acc := { newAccess (.ldy k.toNat) 0#64 0 (2 * k.toNat + 2) (.yreg s.r.frames.length t.toNat) [] with
    base := s.f.nextSer, ckpt := some s.r }
  globalWord s acc (s.r.va a o 1) 2 false

/-! ### Rounding stores (R159, R161) -/

/-- The end of `sty` and `stc` (R450 steps 3 to 5): addresses, then trap 0x05, then the entry and the flags. -/
def roundStore (s : State) (va : Int) (aligned : Bool) (data : List Byte) (fl : Flags) : WordRes :=
  match globalWord s (newAccess .store 0#64 0 data.length .none data) va data.length aligned with
  | .commit c k =>
    if enabled s.r.prc fl then trapFlags fl
    else .commit c fun t => (k t).onRegs fun r => (r.orFlags fl).drew (prcRM s.r.prc = .rsr)
  | x => x

/-- `stc` to a format (R96, R161). -/
def stcWord (s : State) (t a : Fld) (o : BitVec 8) (fmt : Nat) : WordRes :=
  match badHeader s.r [t] with
  | some f => trapHeader f
  | none =>
    let (bs, fl) := convEncode fmt (s.r.y t).value (prcRM s.r.prc) s.roundBits
    roundStore s (s.r.va a o (convSize fmt)) true bs fl

/-- The bytes that `sty.k` writes of a value, with its flags (R159). -/
def styBytes (v : V) (k L : Nat) (rm : Rm) (u : Nat) : List Byte × Flags :=
  let q := min k (classFor L)
  if v.cls ≠ .fin then (vpfEncode v 0, 0#6)
  else if k = 0 then (vpfEncode ⟨.qnan, v.s, 0, 0, 0⟩ 0, flNV)
  else
    let (z, fl) := roundL v (16 * q - 3) rm u
    (vpfEncode z q, fl)

/-- `sty.k` (R159). -/
def styWord (s : State) (t a : Fld) (k : BitVec 4) (o : BitVec 8) : WordRes :=
  match badHeader s.r [t] with
  | some f => trapHeader f
  | none =>
    let (bs, fl) := styBytes (s.r.y t).value k.toNat (prcL s.r.prc) (prcRM s.r.prc) s.roundBits
    roundStore s (s.r.va a o 1) false bs fl

/-! ### `ldf` and `stf` (R309 to R311) -/

/-- A granule access: alignment, then range with bit [31] refused (R309). -/
def granuleWord (s : State) (t a : Fld) (o : BitVec 8) (op : AccOp) : WordRes :=
  let so := s.r.so a o 16
  if so.toNat % 16 ≠ 0 then .trap 0x03 0 (so.setWidth 64)
  else if so.getLsbD 31 ∨ (s.n.spadRun so 16).isNone then .trap 0x10 0 (so.setWidth 64)
  else
    let dest := if op = .stf then Dest.none else .cells (s.r.base + t.toNat) 4 []
    let data := if op = .stf then bytesOfCells (s.r.run t 4) else []
    .regs fun t => t.issueNow
      { newAccess op (so.setWidth 64) so.toNat 16 dest data with spad := true, scope := 1 }

/-! ### ld and st (R119, R122, R123) -/

/-- LD_B (R122). -/
def bodyLdB (t a : Fld) (o : BitVec 8) (s : State) : WordRes :=
  loadWord s t a o 1 false
/-- LD_B issued alone. -/
def execLdB (t a : Fld) (ea : Bool) (o : BitVec 8) (s : State) : Host.Outcome State Fault Refusal :=
  issueOne (.ldB t a ea o) (bodyLdB t a o) s

/-- LD_BS (R122). -/
def bodyLdBs (t a : Fld) (o : BitVec 8) (s : State) : WordRes :=
  loadWord s t a o 1 true
/-- LD_BS issued alone. -/
def execLdBs (t a : Fld) (ea : Bool) (o : BitVec 8) (s : State) : Host.Outcome State Fault Refusal :=
  issueOne (.ldBs t a ea o) (bodyLdBs t a o) s

/-- LD_H (R122). -/
def bodyLdH (t a : Fld) (o : BitVec 8) (s : State) : WordRes :=
  loadWord s t a o 2 false
/-- LD_H issued alone. -/
def execLdH (t a : Fld) (ea : Bool) (o : BitVec 8) (s : State) : Host.Outcome State Fault Refusal :=
  issueOne (.ldH t a ea o) (bodyLdH t a o) s

/-- LD_HS (R122). -/
def bodyLdHs (t a : Fld) (o : BitVec 8) (s : State) : WordRes :=
  loadWord s t a o 2 true
/-- LD_HS issued alone. -/
def execLdHs (t a : Fld) (ea : Bool) (o : BitVec 8) (s : State) : Host.Outcome State Fault Refusal :=
  issueOne (.ldHs t a ea o) (bodyLdHs t a o) s

/-- LD_W (R122). -/
def bodyLdW (t a : Fld) (o : BitVec 8) (s : State) : WordRes :=
  loadWord s t a o 4 false
/-- LD_W issued alone. -/
def execLdW (t a : Fld) (ea : Bool) (o : BitVec 8) (s : State) : Host.Outcome State Fault Refusal :=
  issueOne (.ldW t a ea o) (bodyLdW t a o) s

/-- LD_D (R122). -/
def bodyLdD (t a : Fld) (o : BitVec 8) (s : State) : WordRes :=
  loadWord s t a o 8 false
/-- LD_D issued alone. -/
def execLdD (t a : Fld) (ea : Bool) (o : BitVec 8) (s : State) : Host.Outcome State Fault Refusal :=
  issueOne (.ldD t a ea o) (bodyLdD t a o) s

/-- LD_Q (R122). -/
def bodyLdQ (t a : Fld) (o : BitVec 8) (s : State) : WordRes :=
  loadWord s t a o 16 false
/-- LD_Q issued alone. -/
def execLdQ (t a : Fld) (ea : Bool) (o : BitVec 8) (s : State) : Host.Outcome State Fault Refusal :=
  issueOne (.ldQ t a ea o) (bodyLdQ t a o) s

/-- ST_B (R123). -/
def bodyStB (t a : Fld) (o : BitVec 8) (s : State) : WordRes :=
  storeWord s t a o 1
/-- ST_B issued alone. -/
def execStB (t a : Fld) (ea : Bool) (o : BitVec 8) (s : State) : Host.Outcome State Fault Refusal :=
  issueOne (.stB t a ea o) (bodyStB t a o) s

/-- ST_H (R123). -/
def bodyStH (t a : Fld) (o : BitVec 8) (s : State) : WordRes :=
  storeWord s t a o 2
/-- ST_H issued alone. -/
def execStH (t a : Fld) (ea : Bool) (o : BitVec 8) (s : State) : Host.Outcome State Fault Refusal :=
  issueOne (.stH t a ea o) (bodyStH t a o) s

/-- ST_W (R123). -/
def bodyStW (t a : Fld) (o : BitVec 8) (s : State) : WordRes :=
  storeWord s t a o 4
/-- ST_W issued alone. -/
def execStW (t a : Fld) (ea : Bool) (o : BitVec 8) (s : State) : Host.Outcome State Fault Refusal :=
  issueOne (.stW t a ea o) (bodyStW t a o) s

/-- ST_D (R123). -/
def bodyStD (t a : Fld) (o : BitVec 8) (s : State) : WordRes :=
  storeWord s t a o 8
/-- ST_D issued alone. -/
def execStD (t a : Fld) (ea : Bool) (o : BitVec 8) (s : State) : Host.Outcome State Fault Refusal :=
  issueOne (.stD t a ea o) (bodyStD t a o) s

/-- ST_Q (R123). -/
def bodyStQ (t a : Fld) (o : BitVec 8) (s : State) : WordRes :=
  storeWord s t a o 16
/-- ST_Q issued alone. -/
def execStQ (t a : Fld) (ea : Bool) (o : BitVec 8) (s : State) : Host.Outcome State Fault Refusal :=
  issueOne (.stQ t a ea o) (bodyStQ t a o) s

/-! ### lds and sts (R120, R122, R123) -/

/-- LDS_B (R120). -/
def bodyLdsB (t a : Fld) (o : BitVec 8) (s : State) : WordRes :=
  ldsWord s t a o 1 false
/-- LDS_B issued alone. -/
def execLdsB (t a : Fld) (ea : Bool) (o : BitVec 8) (s : State) : Host.Outcome State Fault Refusal :=
  issueOne (.ldsB t a ea o) (bodyLdsB t a o) s

/-- LDS_BS (R120). -/
def bodyLdsBs (t a : Fld) (o : BitVec 8) (s : State) : WordRes :=
  ldsWord s t a o 1 true
/-- LDS_BS issued alone. -/
def execLdsBs (t a : Fld) (ea : Bool) (o : BitVec 8) (s : State) : Host.Outcome State Fault Refusal :=
  issueOne (.ldsBs t a ea o) (bodyLdsBs t a o) s

/-- LDS_H (R120). -/
def bodyLdsH (t a : Fld) (o : BitVec 8) (s : State) : WordRes :=
  ldsWord s t a o 2 false
/-- LDS_H issued alone. -/
def execLdsH (t a : Fld) (ea : Bool) (o : BitVec 8) (s : State) : Host.Outcome State Fault Refusal :=
  issueOne (.ldsH t a ea o) (bodyLdsH t a o) s

/-- LDS_HS (R120). -/
def bodyLdsHs (t a : Fld) (o : BitVec 8) (s : State) : WordRes :=
  ldsWord s t a o 2 true
/-- LDS_HS issued alone. -/
def execLdsHs (t a : Fld) (ea : Bool) (o : BitVec 8) (s : State) : Host.Outcome State Fault Refusal :=
  issueOne (.ldsHs t a ea o) (bodyLdsHs t a o) s

/-- LDS_W (R120). -/
def bodyLdsW (t a : Fld) (o : BitVec 8) (s : State) : WordRes :=
  ldsWord s t a o 4 false
/-- LDS_W issued alone. -/
def execLdsW (t a : Fld) (ea : Bool) (o : BitVec 8) (s : State) : Host.Outcome State Fault Refusal :=
  issueOne (.ldsW t a ea o) (bodyLdsW t a o) s

/-- LDS_D (R120). -/
def bodyLdsD (t a : Fld) (o : BitVec 8) (s : State) : WordRes :=
  ldsWord s t a o 8 false
/-- LDS_D issued alone. -/
def execLdsD (t a : Fld) (ea : Bool) (o : BitVec 8) (s : State) : Host.Outcome State Fault Refusal :=
  issueOne (.ldsD t a ea o) (bodyLdsD t a o) s

/-- LDS_Q (R120). -/
def bodyLdsQ (t a : Fld) (o : BitVec 8) (s : State) : WordRes :=
  ldsWord s t a o 16 false
/-- LDS_Q issued alone. -/
def execLdsQ (t a : Fld) (ea : Bool) (o : BitVec 8) (s : State) : Host.Outcome State Fault Refusal :=
  issueOne (.ldsQ t a ea o) (bodyLdsQ t a o) s

/-- STS_B (R120). -/
def bodyStsB (t a : Fld) (o : BitVec 8) (s : State) : WordRes :=
  stsWord s t a o 1
/-- STS_B issued alone. -/
def execStsB (t a : Fld) (ea : Bool) (o : BitVec 8) (s : State) : Host.Outcome State Fault Refusal :=
  issueOne (.stsB t a ea o) (bodyStsB t a o) s

/-- STS_H (R120). -/
def bodyStsH (t a : Fld) (o : BitVec 8) (s : State) : WordRes :=
  stsWord s t a o 2
/-- STS_H issued alone. -/
def execStsH (t a : Fld) (ea : Bool) (o : BitVec 8) (s : State) : Host.Outcome State Fault Refusal :=
  issueOne (.stsH t a ea o) (bodyStsH t a o) s

/-- STS_W (R120). -/
def bodyStsW (t a : Fld) (o : BitVec 8) (s : State) : WordRes :=
  stsWord s t a o 4
/-- STS_W issued alone. -/
def execStsW (t a : Fld) (ea : Bool) (o : BitVec 8) (s : State) : Host.Outcome State Fault Refusal :=
  issueOne (.stsW t a ea o) (bodyStsW t a o) s

/-- STS_D (R120). -/
def bodyStsD (t a : Fld) (o : BitVec 8) (s : State) : WordRes :=
  stsWord s t a o 8
/-- STS_D issued alone. -/
def execStsD (t a : Fld) (ea : Bool) (o : BitVec 8) (s : State) : Host.Outcome State Fault Refusal :=
  issueOne (.stsD t a ea o) (bodyStsD t a o) s

/-- STS_Q (R120). -/
def bodyStsQ (t a : Fld) (o : BitVec 8) (s : State) : WordRes :=
  stsWord s t a o 16
/-- STS_Q issued alone. -/
def execStsQ (t a : Fld) (ea : Bool) (o : BitVec 8) (s : State) : Host.Outcome State Fault Refusal :=
  issueOne (.stsQ t a ea o) (bodyStsQ t a o) s

/-! ### ldy, sty, ldc, stc (R157 to R161) -/

/-- LDY (R157). -/
def bodyLdy (t a : Fld) (k : BitVec 4) (o : BitVec 8) (s : State) : WordRes :=
  ldyWord s t a k o
/-- LDY issued alone. -/
def execLdy (t a : Fld) (ea : Bool) (k : BitVec 4) (o : BitVec 8) (s : State) : Host.Outcome State Fault Refusal :=
  issueOne (.ldy t a ea k o) (bodyLdy t a k o) s

/-- STY (R159). -/
def bodySty (t a : Fld) (k : BitVec 4) (o : BitVec 8) (s : State) : WordRes :=
  styWord s t a k o
/-- STY issued alone. -/
def execSty (t a : Fld) (ea : Bool) (k : BitVec 4) (o : BitVec 8) (s : State) : Host.Outcome State Fault Refusal :=
  issueOne (.sty t a ea k o) (bodySty t a k o) s

/-- LDC_FP32 (R161). -/
def bodyLdcFp32 (t a : Fld) (o : BitVec 8) (s : State) : WordRes :=
  ldcWord s t a o 0
/-- LDC_FP32 issued alone. -/
def execLdcFp32 (t a : Fld) (ea : Bool) (o : BitVec 8) (s : State) : Host.Outcome State Fault Refusal :=
  issueOne (.ldcFp32 t a ea o) (bodyLdcFp32 t a o) s

/-- LDC_BF16 (R161). -/
def bodyLdcBf16 (t a : Fld) (o : BitVec 8) (s : State) : WordRes :=
  ldcWord s t a o 1
/-- LDC_BF16 issued alone. -/
def execLdcBf16 (t a : Fld) (ea : Bool) (o : BitVec 8) (s : State) : Host.Outcome State Fault Refusal :=
  issueOne (.ldcBf16 t a ea o) (bodyLdcBf16 t a o) s

/-- LDC_FP16 (R161). -/
def bodyLdcFp16 (t a : Fld) (o : BitVec 8) (s : State) : WordRes :=
  ldcWord s t a o 2
/-- LDC_FP16 issued alone. -/
def execLdcFp16 (t a : Fld) (ea : Bool) (o : BitVec 8) (s : State) : Host.Outcome State Fault Refusal :=
  issueOne (.ldcFp16 t a ea o) (bodyLdcFp16 t a o) s

/-- LDC_E4M3 (R161). -/
def bodyLdcE4m3 (t a : Fld) (o : BitVec 8) (s : State) : WordRes :=
  ldcWord s t a o 3
/-- LDC_E4M3 issued alone. -/
def execLdcE4m3 (t a : Fld) (ea : Bool) (o : BitVec 8) (s : State) : Host.Outcome State Fault Refusal :=
  issueOne (.ldcE4m3 t a ea o) (bodyLdcE4m3 t a o) s

/-- LDC_E5M2 (R161). -/
def bodyLdcE5m2 (t a : Fld) (o : BitVec 8) (s : State) : WordRes :=
  ldcWord s t a o 4
/-- LDC_E5M2 issued alone. -/
def execLdcE5m2 (t a : Fld) (ea : Bool) (o : BitVec 8) (s : State) : Host.Outcome State Fault Refusal :=
  issueOne (.ldcE5m2 t a ea o) (bodyLdcE5m2 t a o) s

/-- LDC_INT32 (R161). -/
def bodyLdcInt32 (t a : Fld) (o : BitVec 8) (s : State) : WordRes :=
  ldcWord s t a o 5
/-- LDC_INT32 issued alone. -/
def execLdcInt32 (t a : Fld) (ea : Bool) (o : BitVec 8) (s : State) : Host.Outcome State Fault Refusal :=
  issueOne (.ldcInt32 t a ea o) (bodyLdcInt32 t a o) s

/-- LDC_UINT32 (R161). -/
def bodyLdcUint32 (t a : Fld) (o : BitVec 8) (s : State) : WordRes :=
  ldcWord s t a o 6
/-- LDC_UINT32 issued alone. -/
def execLdcUint32 (t a : Fld) (ea : Bool) (o : BitVec 8) (s : State) : Host.Outcome State Fault Refusal :=
  issueOne (.ldcUint32 t a ea o) (bodyLdcUint32 t a o) s

/-- LDC_INT8 (R161). -/
def bodyLdcInt8 (t a : Fld) (o : BitVec 8) (s : State) : WordRes :=
  ldcWord s t a o 7
/-- LDC_INT8 issued alone. -/
def execLdcInt8 (t a : Fld) (ea : Bool) (o : BitVec 8) (s : State) : Host.Outcome State Fault Refusal :=
  issueOne (.ldcInt8 t a ea o) (bodyLdcInt8 t a o) s

/-- LDC_UINT8 (R161). -/
def bodyLdcUint8 (t a : Fld) (o : BitVec 8) (s : State) : WordRes :=
  ldcWord s t a o 8
/-- LDC_UINT8 issued alone. -/
def execLdcUint8 (t a : Fld) (ea : Bool) (o : BitVec 8) (s : State) : Host.Outcome State Fault Refusal :=
  issueOne (.ldcUint8 t a ea o) (bodyLdcUint8 t a o) s

/-- STC_FP32 (R161). -/
def bodyStcFp32 (t a : Fld) (o : BitVec 8) (s : State) : WordRes :=
  stcWord s t a o 0
/-- STC_FP32 issued alone. -/
def execStcFp32 (t a : Fld) (ea : Bool) (o : BitVec 8) (s : State) : Host.Outcome State Fault Refusal :=
  issueOne (.stcFp32 t a ea o) (bodyStcFp32 t a o) s

/-- STC_BF16 (R161). -/
def bodyStcBf16 (t a : Fld) (o : BitVec 8) (s : State) : WordRes :=
  stcWord s t a o 1
/-- STC_BF16 issued alone. -/
def execStcBf16 (t a : Fld) (ea : Bool) (o : BitVec 8) (s : State) : Host.Outcome State Fault Refusal :=
  issueOne (.stcBf16 t a ea o) (bodyStcBf16 t a o) s

/-- STC_FP16 (R161). -/
def bodyStcFp16 (t a : Fld) (o : BitVec 8) (s : State) : WordRes :=
  stcWord s t a o 2
/-- STC_FP16 issued alone. -/
def execStcFp16 (t a : Fld) (ea : Bool) (o : BitVec 8) (s : State) : Host.Outcome State Fault Refusal :=
  issueOne (.stcFp16 t a ea o) (bodyStcFp16 t a o) s

/-- STC_E4M3 (R161). -/
def bodyStcE4m3 (t a : Fld) (o : BitVec 8) (s : State) : WordRes :=
  stcWord s t a o 3
/-- STC_E4M3 issued alone. -/
def execStcE4m3 (t a : Fld) (ea : Bool) (o : BitVec 8) (s : State) : Host.Outcome State Fault Refusal :=
  issueOne (.stcE4m3 t a ea o) (bodyStcE4m3 t a o) s

/-- STC_E5M2 (R161). -/
def bodyStcE5m2 (t a : Fld) (o : BitVec 8) (s : State) : WordRes :=
  stcWord s t a o 4
/-- STC_E5M2 issued alone. -/
def execStcE5m2 (t a : Fld) (ea : Bool) (o : BitVec 8) (s : State) : Host.Outcome State Fault Refusal :=
  issueOne (.stcE5m2 t a ea o) (bodyStcE5m2 t a o) s

/-- STC_INT32 (R161). -/
def bodyStcInt32 (t a : Fld) (o : BitVec 8) (s : State) : WordRes :=
  stcWord s t a o 5
/-- STC_INT32 issued alone. -/
def execStcInt32 (t a : Fld) (ea : Bool) (o : BitVec 8) (s : State) : Host.Outcome State Fault Refusal :=
  issueOne (.stcInt32 t a ea o) (bodyStcInt32 t a o) s

/-- STC_UINT32 (R161). -/
def bodyStcUint32 (t a : Fld) (o : BitVec 8) (s : State) : WordRes :=
  stcWord s t a o 6
/-- STC_UINT32 issued alone. -/
def execStcUint32 (t a : Fld) (ea : Bool) (o : BitVec 8) (s : State) : Host.Outcome State Fault Refusal :=
  issueOne (.stcUint32 t a ea o) (bodyStcUint32 t a o) s

/-- STC_INT8 (R161). -/
def bodyStcInt8 (t a : Fld) (o : BitVec 8) (s : State) : WordRes :=
  stcWord s t a o 7
/-- STC_INT8 issued alone. -/
def execStcInt8 (t a : Fld) (ea : Bool) (o : BitVec 8) (s : State) : Host.Outcome State Fault Refusal :=
  issueOne (.stcInt8 t a ea o) (bodyStcInt8 t a o) s

/-- STC_UINT8 (R161). -/
def bodyStcUint8 (t a : Fld) (o : BitVec 8) (s : State) : WordRes :=
  stcWord s t a o 8
/-- STC_UINT8 issued alone. -/
def execStcUint8 (t a : Fld) (ea : Bool) (o : BitVec 8) (s : State) : Host.Outcome State Fault Refusal :=
  issueOne (.stcUint8 t a ea o) (bodyStcUint8 t a o) s

/-! ### ldf and stf (R309 to R311) -/

/-- LDF (R310). -/
def bodyLdf (t a : Fld) (o : BitVec 8) (s : State) : WordRes :=
  granuleWord s t a o (.ldf false)
/-- LDF issued alone. -/
def execLdf (t a : Fld) (ea : Bool) (o : BitVec 8) (s : State) : Host.Outcome State Fault Refusal :=
  issueOne (.ldf t a ea o) (bodyLdf t a o) s

/-- LDF_CONS (R310). -/
def bodyLdfCons (t a : Fld) (o : BitVec 8) (s : State) : WordRes :=
  granuleWord s t a o (.ldf true)
/-- LDF_CONS issued alone. -/
def execLdfCons (t a : Fld) (ea : Bool) (o : BitVec 8) (s : State) : Host.Outcome State Fault Refusal :=
  issueOne (.ldfCons t a ea o) (bodyLdfCons t a o) s

/-- STF (R311). -/
def bodyStf (t a : Fld) (o : BitVec 8) (s : State) : WordRes :=
  granuleWord s t a o .stf
/-- STF issued alone. -/
def execStf (t a : Fld) (ea : Bool) (o : BitVec 8) (s : State) : Host.Outcome State Fault Refusal :=
  issueOne (.stf t a ea o) (bodyStf t a o) s

end Sys2Proof.Machine
end

