-- ==== Sys2Proof/Machine/Copy.lean ====
section
/-!
DEFINITION. How a crew-uniform engine word issues (17 R336, 13 R270), per-fibre copies (16 R324, R325, 17 R337 to R339), the
copy engine: its contexts, the bytes its operations move, canonical tiles and statuses (16 R314 to R322, 17 R340 to
R345, 04 R98 to R100, 13 R271, R272), and the timeline group (17 R346, R347).
-/
namespace Sys2Proof.Machine

/-! ### Engine words (R336) -/

/-- The live fibre of lowest FID in the crew, whose operands an engine word uses. -/
def State.lead (s : State) : Fibre := s.mates.headD s.f

/-- The current fibre is that one: the engine effect is made once, with it. -/
def State.leads (s : State) : Bool := s.lead.id = s.f.id

/-- An engine word: a release at `core` scope for every fibre of the crew (R270 item 1), then the checks and the effect
on the operands of the fibre of lowest FID. -/
def engineWord (s : State) (k : Regs → WordRes) : WordRes :=
  if s.mates.any fun x => x.acc.any fun a => !a.pastL1 then .wait else k s.lead.regs

/-- The engine's part of a word, which the leading fibre makes. -/
def State.leadDoes (s : State) (k : Gang → Gang) : State → State :=
  let leads := s.leads
  fun t => if leads then { t with g := k t.g } else t

/-- Changes a copy context of a gang. -/
def Gang.onCtx (g : Gang) (x : Nat) (k : CopyCtx → CopyCtx) : Gang := { g with ctxs := g.ctxs.modify x k }

/-- A copy context of a gang. -/
def Gang.ctxAt (g : Gang) (x : Nat) : CopyCtx := g.ctxs.getD x CopyCtx.fresh

/-! ### cpb and cpw (R324, R325, R337, R338) -/

/-- `cpb` (R337). -/
def cpbWord (s : State) (d a b : Fld) (tag : Nat) : WordRes :=
  let v := (s.r.w d).toNat
  let src := s.r.d a
  let o := s.r.w b
  let go := fun (ia : Nat) =>
    if 63 ≤ s.r.bt.getD tag 0 then WordRes.wait
    else .regs fun t =>
      let op : CpbOp := {
        who := t.f.id, ser := t.f.nextSer, tag := tag, va := src, ia := ia, len := v, off := o.toNat, stage := .issued }
      { t with
        g := { t.g with cpbs := t.g.cpbs ++ [op] }
        f := { t.f with
          nextSer := t.f.nextSer + 1
          regs := { t.f.regs with bt := t.f.regs.bt.modify tag (· + 1) } } }
  if 32 < v then .illegal
  else if o.toNat % 32 ≠ 0 then .trap 0x03 0 (o.setWidth 64)
  else if s.n.spadBytes < o.toNat + 32 then .trap 0x10 0 (o.setWidth 64)
  else if v = 0 then go 0
  else
    match s.xlat s.n src.toNat v .load with
    | .bad code ia => .fault code 0 src ia
    | .ok ia _ => go ia

/-- `cpw` and `cpw.le` (R338): they wait on the fibre's own copies. -/
def cpwWord (s : State) (tag limit : Nat) : WordRes := if s.r.bt.getD tag 0 ≤ limit then .regs id else .wait

/-- An earlier release fence of a fibre still holds a copy back (R303). -/
def Fibre.holdsCopy (b : Fibre) (ser : Nat) : Bool :=
  b.acc.any fun a => decide (a.ser < ser) && match a.op with | .fence rel _ _ => rel | _ => false

/-- The copy at a place has landed (R325, R243). -/
def State.landCpb (s : State) (g : Gang) (k : Nat) (c : CpbOp) (bs : List Byte) : State :=
  let all := bs ++ List.replicate (32 - bs.length) 0#8
  let t := s.onGang g.nid g.gid fun g =>
    let g1 := g.spadPut ((List.range 32).map (c.off + ·)) all
    { g1 with cpbs := dropAt k g1.cpbs, gran := granSetRun c.off 32 g1.gran }
  t.onFibre c.who fun b => b.always fun r => { r with bt := r.bt.modify c.tag (· - 1) }

/-- The stage of a copy after a failed walk (R240, R241). -/
def Stage.walkFailed (st : Stage) (e : Nat × Nat × Nat) : Stage :=
  let (code, sub, ia) := e
  if code ≠ 0 then .faulted code sub ia
  else
    match st with
    | .busy n again => if 8 ≤ n then .faulted 0x48 3 ia else .busy (n + 1) again
    | .replay => .busy 1 true
    | _ => .busy 1 false

/-- The source of a copy is walked and read, and its bytes land (R337). -/
def State.readCpb (s : State) (n : Node) (g : Gang) (core k : Nat) (c : CpbOp) : State :=
  let failed := fun (t : State) (e : Nat × Nat × Nat) =>
    t.onGang g.nid g.gid fun g =>
      if t.failing g.nid && (c.stage.walkFailed e).faulty then { g with cpbs := dropAt k g.cpbs }
      else { g with cpbs := g.cpbs.modify k fun c => { c with stage := c.stage.walkFailed e } }
  let again := match c.stage with
    | .replay => true
    | .busy _ again => again
    | _ => false
  if c.len = 0 then s.landCpb g k c []
  else
    match (if again then s.xlat n c.va.toNat c.len .load else .ok c.ia true) with
    | .bad code ia => failed s (code, 0, ia)
    | .ok ia _ =>
      if (linesOf ia c.len).any fun ln => s.inFlight core ln then s
      else
        if !s.reaches core ia then failed s (0x42, 0, ia)
        else if !s.pathUp core ia then s
        else
        match s.walkRun ia c.len .load with
        | (some e, t) => failed t e
        | (none, t) =>
          if t.badRun ia c.len || (t.core core).errRun ia c.len then failed t (0x47, 0, ia)
          else
            match t.engineBytes core ia c.len with
            | (none, _) => s
            | (some bs, t1) => t1.landCpb g k c bs

/-- CPB_LANDING: a copy lands, unless it waits for its fibre's release fence or for its fault to be answered. -/
def cpbLand (s : State) (nid gid k : Nat) : State :=
  match s.gang? nid gid, s.node? nid with
  | some g, some n =>
    (match g.core?, g.cpbs[k]? with
     | some core, some c =>
       -- replays are made in program order (R412)
       let behind := c.stage.replaying && ((s.fibre? c.who).any (fun b => b.acc.any fun a => decide (a.ser < c.ser) && a.stage.replaying) ||
         g.cpbs.any fun e => e.who == c.who && decide (e.ser < c.ser) && e.stage.replaying)
       if behind || (s.fibre? c.who).any fun b => b.holdsCopy c.ser then s
       else
         match c.stage with
         | .issued => s.readCpb n g core k c
         | .replay => s.readCpb n g core k c
         | .busy _ _ => s.readCpb n g core k c
         | _ => s
     | _, _ => s)
  | _, _ => s

/-! ### Canonical tiles (R98 to R100, R319 to R322, R342) -/

/-- Bits of a source element of a format code. -/
def elemBits (fmt : Nat) : Nat := if fmt = 1 then 16 else if fmt ≤ 5 then 8 else 4

/-- The format makes a K8 tile (R319). -/
def isK8 (fmt : Nat) : Bool := fmt == 2 || fmt == 3

/-- K positions of one k-step of a tile (R321). -/
def Block.perStep (b : Block) : Nat := (if isK8 b.fmt then 32 else 16) * (if b.dk then 2 else 1)

/-- K positions of a row (R342). -/
def Block.k (b : Block) : Nat := b.perStep * b.len

/-- Element `i` of a source row, as its code. -/
def elemAt (bits : Nat) (row : List Byte) (i : Nat) : Nat :=
  match bits with
  | 16 => leNat ((row.drop (2 * i)).take 2)
  | 8 => (row.getD i 0#8).toNat
  | _ => (row.getD (i / 2) 0#8).toNat / 2 ^ (4 * (i % 2)) % 16

/-- The value of an element under an E8M0 scale, none for a NaN scale (R93, R98). -/
def scaled (v : V) (scale : Nat) : V :=
  if scale = 255 then { V.nan with s := v.s } else if v.cls = .fin then { v with k := v.k + scale - 127 } else v

/-- An element value as K16 (R100). -/
def toK16 (v : V) : Nat :=
  if v.isNan then 0x7FC0 + (if v.s then 0x8000 else 0)
  else if v.cls = .fin ∧ leadExp v.n v.k < -133 then fmtBf16.encode (V.zeroOf v.s)
  else (fmtBf16.convert v .rne 0).1

/-- The canonical bytes of one element of code `x` under scale `sc` (R100). -/
def expandElem (fmt : Nat) (cbt : List (BitVec 16)) (x sc : Nat) : List Byte :=
  match fmt with
  | 1 => leBytes 2 (toK16 (fmtBf16.decode x))
  | 4 => leBytes 2 (toK16 (scaled (fmtE4m3.decode x) sc))
  | 5 => leBytes 2 (toK16 (scaled (fmtE5m2.decode x) sc))
  | 6 => leBytes 2 (toK16 (scaled (fmtE2m1.decode x) sc))
  | 7 => leBytes 2 (toK16 (fmtBf16.decode (cbt.getD x 0#16).toNat))
  | _ => leBytes 1 x

/-- The bytes of a canonical tile from SO upward (R320, R321): `rows` are the source rows of R342, `scales` the scale
bytes of each tile row. -/
def Block.tile (b : Block) (cbt : List (BitVec 16)) (rows scales : List (List Byte)) : List Byte :=
  let bits := elemBits b.fmt
  (List.range b.len).flatMap fun j =>
    (List.range b.rows).flatMap fun r =>
      (List.range b.perStep).flatMap fun p =>
        let pos := j * b.perStep + p
        let x := if b.tr then elemAt bits (rows.getD pos []) r else elemAt bits (rows.getD r []) pos
        expandElem b.fmt cbt x ((scales.getD r []).getD (pos / 32) 0#8).toNat

/-! ### The runs of an operation (R342, R344) -/

/-- A run of global bytes that an operation accesses, and whether it reads them. -/
structure Run where
  va : Nat
  size : Nat
  need : Need
  reads : Bool
  deriving DecidableEq, Repr

/-- A run that is read. -/
def Run.source (va size : Nat) : Run := ⟨va, size, .load, true⟩

/-- The arena slot that a run names. -/
def Run.slot (x : Run) : Option Nat := if x.va / 2 ^ 56 = 0xA5 then some (x.va / 2 ^ 44 % 4096) else none

/-- Bytes of `n` packed elements. -/
def packedBytes (fmt n : Nat) : Nat := (n * elemBits fmt + 7) / 8

/-- The source rows of an operation that expands elements (R342, R344); `idx` is the index list of a `gather`. -/
def Block.sources (b : Block) (form : Nat) (idx : List Nat) : List Run :=
  let row := fun (i size : Nat) => Run.source (b.ga + i * b.gp) size
  let len := packedBytes b.fmt b.k
  if form = formGather then (idx.take b.rows).map fun i => row i len
  else if b.tr then (List.range b.k).map fun k => row k (packedBytes b.fmt b.rows)
  else (List.range b.rows).map fun r => row r len

/-- The scale rows (R342). -/
def Block.scaleRuns (b : Block) (form : Nat) : List Run :=
  if form = formG2s ∧ 4 ≤ b.fmt ∧ b.fmt ≤ 6 then
    (List.range b.rows).map fun r => Run.source (b.aux + r * (b.k / 32)) (b.k / 32)
  else []

/-- The version word (R271, R272). -/
def Block.versionRun (b : Block) (form : Nat) : List Run :=
  if form = formAtom then [⟨b.aux, 8, .both, true⟩] else if form = formCons then [Run.source b.aux 8] else []

/-- The index list of a `gather`, as it stands in the scratchpad. -/
def Gang.indexList (g : Gang) (b : Block) (form : Nat) : List Nat :=
  if form = formGather then (List.range b.rows).map fun r => g.spad.num (b.aux + 4 * r) 4 else []

/-- How many parts an operation moves one after another: its rows of bytes, or all of a tile that it expands. -/
def Block.parts (b : Block) (form : Nat) : Nat := if b.fmt ≠ 0 ∨ form = formCbk then 1 else b.rows

/-- The runs of a part (R342, R344). -/
def Block.partRuns (b : Block) (form : Nat) (idx : List Nat) (r : Nat) : List Run :=
  if form = formCbk then [Run.source b.ga 32]
  else if b.fmt ≠ 0 then b.sources form idx ++ b.scaleRuns form
  else if form = formS2g then [⟨b.ga + r * b.gp, b.len, .store, false⟩]
  else if form = formAtom then [⟨b.ga + r * b.gp, b.len, .both, false⟩]
  else if form = formG2g then [Run.source (b.ga + r * b.gp) b.len, ⟨b.aux + r * b.so, b.len, .store, false⟩]
  else if form = formGather then [Run.source (b.ga + idx.getD r 0 * b.gp) b.len]
  else [Run.source (b.ga + r * b.gp) b.len]

/-- The runs whose arenas an operation checks at its start (R380). -/
def Block.firstRuns (b : Block) (form : Nat) (idx : List Nat) : List Run := b.versionRun form ++ b.partRuns form idx 0

/-- The arena checks of an operation at its start: whether some run meets the outlived-reference check (R236, R380). -/
def State.staleRuns (s : State) (n : Node) (l : List Run) : Bool :=
  l.any fun x => match s.xlat n x.va x.size x.need with
    | .bad 0x43 _ => true
    | _ => false

/-- Translation for an operation: an arena that it has checked already answers it also once it has begun to die (R380). -/
def State.runXlat (s : State) (n : Node) (known : List Nat) (x : Run) : Xlat :=
  if x.slot.any known.contains then s.keptXlat n x.va x.size x.need else s.xlat n x.va x.size x.need

/-- What the checks of runs come to. -/
inductive RunsRes where
  /-- Every run has its IA. -/
  | ok (ias : List Nat)
  /-- The operation ends with a status (R316, R345), at an IA. -/
  | ends (status ia : Nat)
  /-- It waits for the host's service of a page. -/
  | page
  /-- Its walk is busy. -/
  | busy
  /-- It waits for bytes of its core on their way to a home, or for a link. -/
  | wait
  deriving DecidableEq, Repr

/-- The checks and walks of runs in order; the core's own copies of lines to be written leave first (R270). What is read
must be within reach (R429); what is written to a home that no path leads to is lost (R427). -/
def State.checkRuns (s : State) (n : Node) (core : Nat) (known : List Nat) : List Run → RunsRes × State
  | [] => (.ok [], s)
  | x :: rest =>
    match s.runXlat n known x with
    | .bad code ia => (.ends (if code = 0x43 then 5 else 3) ia, s)
    | .ok ia _ =>
      if x.reads && !s.reachesRun core ia x.size then (.ends 3 ia, s)
      else if (linesOf ia x.size).any fun ln => s.reaches core (ln * 128) && !s.pathUp core (ln * 128) then (.wait, s)
      else
      match s.walkRun ia x.size x.need with
      | (some (0, _, _), t) => (.busy, t)
      | (some (0x40, _, _), t) => (.page, t)
      | (some (_, _, e), t) => (.ends 3 e, t)
      | (none, t) =>
        if x.reads && (t.badRun ia x.size || (t.core core).errRun ia x.size) then (.ends 4 ia, t)
        else
          let lines := linesOf ia x.size
          let t1 := if x.need.w then lines.foldl (fun u ln => u.flushLine core ln) t else t
          if lines.any fun ln => t1.inFlight core ln then (.wait, t1)
          else
            match t1.checkRuns n core known rest with
            | (.ok ias, t2) => (.ok (ia :: ias), t2)
            | (y, t2) => (y, t2)

/-! ### Starting and completing (R315, R316, R344) -/

/-- STAT after an operation completes with a status (R316). -/
def statAfter (stat : Word) (seq status : Nat) : Word :=
  if status = 0 then stat
  else
    let bit := stat ||| BitVec.ofNat 32 (2 ^ (status - 1))
    if stat.extractLsb' 8 8 = 0#8 then bit ||| BitVec.ofNat 32 (256 * status + 65536 * (seq % 65536)) else bit

/-- The context once an operation has completed with a status (R314 to R316). -/
def CopyCtx.complete (c : CopyCtx) (seq status : Nat) : CopyCtx :=
  let ops := c.ops.filter fun o => o.seq ≠ seq
  { c with
    ops := ops
    completed := match ops with
      | [] => c.issued
      | o :: _ => o.seq - 1
    stat := statAfter c.stat seq status }

/-- An uncorrectable error found by the copy engine fails the node that issued the read (R253). DESIGN CHOICE (log 76): the record
names the crew of the operation, with its lane 0, PC 0 and VA 0. -/
def State.engineError (s : State) (g : Gang) (o : CopyOp) (ia : Nat) : State :=
  s.nodeFault ⟨g.nid, g.gid, o.crew, 0⟩ 0#64 0x47 0#64 ia

/-- An operation completes; with done or torn, the granules of its destination are set (R271, R272, R316). -/
def State.copyEnds (s : State) (g : Gang) (x : Nat) (o : CopyOp) (status : Nat) : State :=
  let b := Block.of o.block
  s.onGang g.nid g.gid fun g =>
    let g1 := g.onCtx x fun c => c.complete o.seq status
    if toSpad o.form ∧ status ≤ 1 then
      { g1 with gran := b.spadRuns.foldl (fun l y => granSetRun y.1 y.2 l) g1.gran }
    else g1

/-- Changes an operation of a context. -/
def State.onCopy (s : State) (g : Gang) (x seq : Nat) (k : CopyOp → CopyOp) : State :=
  s.onGang g.nid g.gid fun g => g.onCtx x fun c => { c with ops := mapIf (fun o => decide (o.seq = seq)) k c.ops }

/-- An operation's checks have come to something else than their end. -/
def State.copyStops (s : State) (g : Gang) (x : Nat) (o : CopyOp) : RunsRes → State
  | .ok _ => s
  | .ends st ia => (if st = 4 then s.engineError g o ia else s).copyEnds g x o st
  | .page => s.onCopy g x o.seq fun o => { o with paged := true }
  | .busy =>
    let key := TryKey.copy g.nid g.gid x o.seq
    if s.spent key then (s.triesDone key).copyEnds g x o 3 else s.tryAgain key
  | .wait => s

/-- The number in a version word at its home. -/
def State.versionAt (s : State) (ia : Nat) : Nat := leNat ((s.homeBytes ia 8).1.getD [])

/-- A row that an operation reads, by the engine's rule, or from homes alone for `g2s.cons` (R270, R272). -/
def State.readRow (s : State) (core form ia size : Nat) : List Byte :=
  ((if form = formCons then (s.homeBytes ia size).1 else (s.engineBytes core ia size).1).getD [])

/-- A row of the scratchpad that an operation out of it moves. -/
def Gang.sourceRow (g : Gang) (b : Block) (r : Nat) : List Byte :=
  (List.range b.len).map fun i => g.spad.read (b.so + r * b.sp + i)

/-- The movement of a part whose runs have their IAs (R344). Bytes that land in the scratchpad get their granule bits with
the operation's status (R323). -/
def State.movePart (s : State) (g : Gang) (core x : Nat) (o : CopyOp) (ias : List Nat) : State :=
  let b := Block.of o.block
  let idx := g.indexList b o.form
  let runs := b.partRuns o.form idx o.row
  let read := fun (y : Nat × Run) => s.readRow core o.form y.1 y.2.size
  let rows := ((ias.zip runs).filter fun y => y.2.reads).map read
  let write := fun (t : State) (ia : Nat) (bs : List Byte) => t.engineWrite core g.nid g.gid o.crew ia bs
  if o.form = formCbk then
    let bs := rows.headD []
    s.onGang g.nid g.gid fun g => g.onCtx x fun c =>
      { c with cbt := (List.range 16).map fun i => BitVec.ofNat 16 (leNat ((bs.drop (2 * i)).take 2)) }
  else if b.fmt ≠ 0 then
    let n := (b.sources o.form idx).length
    let bs := b.tile o.cbt (rows.take n) (rows.drop n)
    s.onGang g.nid g.gid fun g => g.spadPut ((List.range bs.length).map (b.so + ·)) bs
  else if o.form = formG2g then write s (ias.getD 1 0) (rows.headD [])
  else if toSpad o.form then
    s.onGang g.nid g.gid fun g => g.spadPut ((List.range b.len).map (b.so + o.row * b.sp + ·)) (rows.headD [])
  else write s (ias.headD 0) (g.sourceRow b o.row)

/-- The homes of the lines of some runs. -/
def State.homesOf (s : State) (runs : List (Nat × Nat)) : List Nat :=
  distinct (runs.flatMap fun x => (linesOf x.1 x.2).map fun ln => s.homeOf (ln * 128))

/-- What a part of `s2g.atom` writes is lost: the tile is not whole, so that the operation stops with status fault and leaves its
version word odd (R271, R345, log 72). -/
def State.copyTorn (s : State) (g : Gang) (core x : Nat) (o : CopyOp) (runs : List (Nat × Nat)) : State :=
  let lines := (runs.flatMap fun y => linesOf y.1 y.2).filter fun ln => !s.reaches core (ln * 128)
  (lines.foldl (fun t ln => t.tell (.lostWrite (ln * 128) g.nid g.gid o.crew)) s).copyEnds g x o 3

/-- Whether the markers of an operation are still on their way. -/
def State.marking (s : State) (g : Gang) (x seq : Nat) : Bool := s.flight.any fun y => match y.op with
  | .engineMarker nid gid ctx no _ => nid == g.nid && gid == g.gid && ctx == x && no == seq
  | _ => false

/-- Everything that an operation writes has left: its markers follow, and the tracked dirty lines of its core before those
of a `s2g.atom`, which releases at `pkg` scope (R270, R271). -/
def State.markCopy (s : State) (g : Gang) (core x : Nat) (o : CopyOp) (v : Nat) : State :=
  let t := if o.form = formAtom then s.writeBackAll core fun l => l.tracked else s
  -- a release covers what its core has sent, another operation what it has written itself
  let all := if o.form = formAtom then distinct (o.homes ++ (t.core core).homes) else o.homes
  let homes := all.filter fun h => h != t.dieOf core
  let y : Flight := { core := core, op := .engineMarker g.nid g.gid x o.seq homes, ia := 0, bytes := [] }
  State.onCopy { t with flight := t.flight ++ [y] } g x o.seq fun o => { o with phase := .flushing v }

/-- The next of the five attempts of `g2s.cons`, or status torn (R272). -/
def State.copyAgain (s : State) (g : Gang) (x : Nat) (o : CopyOp) : State :=
  if 4 ≤ o.attempt then s.copyEnds g x o 1
  else s.onCopy g x o.seq fun o => { o with attempt := o.attempt + 1, row := 0, phase := .begin }

/-- An operation begins, or an attempt of `g2s.cons`, whose read of the version word is an acquire at `pkg` scope (R271,
R272). -/
def State.copyBegins (s : State) (g : Gang) (core x : Nat) (o : CopyOp) (ver : Option Nat) : State :=
  let goes := fun (t : State) (p : CopyPhase) => t.onCopy g x o.seq fun o => { o with phase := p, row := 0 }
  match ver with
  | none => goes s (.moving 0)
  | some ia =>
    let v := s.versionAt ia
    if o.form = formAtom then (if v % 2 = 1 then s.copyEnds g x o 2 else goes s (.looked v))
    else if v % 2 = 1 then (s.acquire core 4).copyAgain g x o
    else goes (s.acquire core 4) (.moving v)

/-- Every part of an operation is moved (R271, R272, R344). -/
def State.copyMoved (s : State) (g : Gang) (core x : Nat) (o : CopyOp) (v : Nat) (ver : Option Nat) : State :=
  if o.form = formCons then
    (if s.versionAt (ver.getD 0) = v then s.copyEnds g x o 0 else s.copyAgain g x o)
  else if toSpad o.form ∨ o.form = formCbk then s.copyEnds g x o 0
  else s.markCopy g core x o v

/-- One move of an operation that has started (R344): the version protocol of R271 and R272 where its form has one, its
parts in order, and its end. -/
def State.copyStep (s : State) (n : Node) (g : Gang) (core x : Nat) (o : CopyOp) : State :=
  let b := Block.of o.block
  let idx := g.indexList b o.form
  let key := TryKey.copy g.nid g.gid x o.seq
  let checked := fun (runs : List Run) (k : State → List Nat → State) =>
    match s.checkRuns n core o.known runs with
    | (.ok ias, t) => k (t.triesDone key) ias
    | (y, t) => t.copyStops g x o y
  match o.phase with
  | .begin => checked (b.versionRun o.form) fun t vs => t.copyBegins g core x o vs.head?
  | .looked v => checked (b.versionRun o.form) fun t vs =>
      if t.versionAt (vs.headD 0) ≠ v then t.copyEnds g x o 2
      else (t.engineWrite core g.nid g.gid o.crew (vs.headD 0) (leBytes 8 (v + 1))).onCopy g x o.seq fun o =>
        { o with phase := .moving v, homes := t.homesOf [(vs.headD 0, 8)] }
  | .moving v =>
    if o.row < b.parts o.form then
      let runs := b.partRuns o.form idx o.row
      checked runs fun t ias =>
        let writes := ((ias.zip runs).filter fun y => y.2.need.w).map fun y => (y.1, y.2.size)
        if o.form = formAtom ∧ !(writes.all fun y => t.reachesRun core y.1 y.2) then t.copyTorn g core x o writes
        else (t.movePart g core x o ias).onCopy g x o.seq fun o =>
          { o with
            row := o.row + 1, known := distinct (o.known ++ runs.filterMap Run.slot)
            homes := distinct (o.homes ++ t.homesOf writes) }
    else if o.form = formCons then checked (b.versionRun o.form) fun t vs => t.copyMoved g core x o v vs.head?
    else s.copyMoved g core x o v none
  | .flushing v =>
    if s.marking g x o.seq then s
    else if o.form = formAtom then
      checked (b.versionRun o.form) fun t vs =>
        (t.engineWrite core g.nid g.gid o.crew (vs.headD 0) (leBytes 8 ((v + 2) % 2 ^ 64))).copyEnds g x o 0
    else s.copyEnds g x o 0
  | .torn => if s.marking g x o.seq then s else s.copyEnds g x o 3

/-- COPY_OP_START: the context's next operation starts, with its arena checks; one that expands CB4 waits for the
earlier `cpt.cbk` of its context (R315, R344, R380). -/
def copyStart (s : State) (nid gid x : Nat) : State :=
  match s.gang? nid gid, s.node? nid with
  | some g, some n =>
    let c := g.ctxAt x
    (match g.core?, c.ops.find? fun o => !o.started with
     | some _, some o =>
       let b := Block.of o.block
       if b.fmt = 7 ∧ c.ops.any fun e => e.form = formCbk && decide (e.seq < o.seq) then s
       else
         let runs := b.firstRuns o.form (g.indexList b o.form)
         let stale := s.staleRuns n runs
         s.onCopy g x o.seq fun e =>
           { e with started := true, stale := stale, cbt := c.cbt, known := distinct (runs.filterMap Run.slot) }
     | _, _ => s)
  | _, _ => s

/-- COPY_OP_COMPLETE: an operation that has started moves on, and at last completes (R316, R344); the `cpt.cbk` of a context
in their order, for each applies to every later operation (R315). -/
def copyComplete (s : State) (nid gid x seq : Nat) : State :=
  match s.gang? nid gid, s.node? nid with
  | some g, some n =>
    (match g.core?, (g.ctxAt x).ops.find? fun o => o.seq = seq with
     | some core, some o =>
       if !o.started ∨ o.paged then s
       else if o.form = formCbk ∧ (g.ctxAt x).ops.any fun e => e.form = formCbk && decide (e.seq < o.seq) then s
       else if o.stale then s.copyEnds g x o 5
       else s.copyStep n g core x o
     | _, _ => s)
  | _, _ => s

/-- COPY_PAGE_RESUME: the host has serviced the page (R316). -/
def copyPageResume (s : State) (nid gid x seq : Nat) : State :=
  match s.gang? nid gid with
  | some g => if (g.ctxAt x).ops.any fun o => o.seq = seq && o.paged then s.onCopy g x seq fun o => { o with paged := false } else s
  | none => s

/-! ### cpt and the timeline group (R343, R346, R347) -/

/-- `cpt` of a form on a context (R341, R343). -/
def cptWord (s : State) (d a : Fld) (x : BitVec 3) (form : Nat) : WordRes :=
  engineWord s fun r =>
    let block := r.run a 8
    match (Block.of block).check form s.n.spadBytes with
    | some (0x02, _) => .illegal
    | some (code, v) => .trap code 0 (BitVec.ofNat 64 v)
    | none =>
      let c := s.g.ctxAt x.toNat
      if Config.copyOut ≤ c.ops.length then .wait
      else
        let n := c.issued + 1
        let op : CopyOp := {
          seq := n, form := form, block := block, crew := s.f.id.cid, started := false, paged := false, stale := false
          cbt := [], row := 0, known := [], homes := [], attempt := 0, phase := .begin }
        .regs fun t =>
          s.putD d (BitVec.ofNat 64 n)
            (s.leadDoes (fun g => g.onCtx x.toNat fun c => { c with issued := n, ops := c.ops ++ [op] }) t)

/-- `twait` (R346). -/
def twaitWord (s : State) (a : Fld) (x : BitVec 3) : WordRes :=
  engineWord s fun r =>
    let n := (r.d a).toNat
    let c := s.g.ctxAt x.toNat
    if c.issued < n then .regs (s.putP 15 false) else if c.completed < n then .wait else .regs (s.putP 15 true)

/-- `tread` and `tissued` (R347). -/
def timelineWord (s : State) (d : Fld) (v : Nat) : WordRes := engineWord s fun _ => .regs (s.putD d (BitVec.ofNat 64 v))

/-- `tstat` (R347): it reads STAT and clears it. -/
def tstatWord (s : State) (d : Fld) (x : BitVec 3) : WordRes :=
  engineWord s fun _ =>
    .regs fun t => s.putW d (s.g.ctxAt x.toNat).stat (s.leadDoes (fun g => g.onCtx x.toNat fun c => { c with stat := 0#32 }) t)

/-- CPB (R337). -/
def bodyCpb (d a b : Fld) (g : BitVec 2) (s : State) : WordRes :=
  cpbWord s d a b g.toNat
/-- CPB issued alone. -/
noncomputable def execCpb (d a b : Fld) (g : BitVec 2) (s : State) : Host.Outcome State Fault Refusal :=
  issueOne (.cpb d a b g) (bodyCpb d a b g) s

/-- CPW (R338). -/
def bodyCpw (g : BitVec 2) (s : State) : WordRes :=
  cpwWord s g.toNat 0
/-- CPW issued alone. -/
noncomputable def execCpw (g : BitVec 2) (s : State) : Host.Outcome State Fault Refusal :=
  issueOne (.cpw g) (bodyCpw g) s

/-- CPW_LE (R338). -/
def bodyCpwLe (a : Fld) (g : BitVec 2) (s : State) : WordRes :=
  cpwWord s g.toNat (s.r.w a).toNat
/-- CPW_LE issued alone. -/
noncomputable def execCpwLe (a : Fld) (g : BitVec 2) (s : State) : Host.Outcome State Fault Refusal :=
  issueOne (.cpwLe a g) (bodyCpwLe a g) s

/-- CPT_G2S (R344). -/
def bodyCptG2s (d a : Fld) (x : BitVec 3) (s : State) : WordRes :=
  cptWord s d a x formG2s
/-- CPT_G2S issued alone. -/
noncomputable def execCptG2s (d a : Fld) (x : BitVec 3) (s : State) : Host.Outcome State Fault Refusal :=
  issueOne (.cptG2s d a x) (bodyCptG2s d a x) s

/-- CPT_S2G (R344). -/
def bodyCptS2g (d a : Fld) (x : BitVec 3) (s : State) : WordRes :=
  cptWord s d a x formS2g
/-- CPT_S2G issued alone. -/
noncomputable def execCptS2g (d a : Fld) (x : BitVec 3) (s : State) : Host.Outcome State Fault Refusal :=
  issueOne (.cptS2g d a x) (bodyCptS2g d a x) s

/-- CPT_S2G_ATOM (R271). -/
def bodyCptS2gAtom (d a : Fld) (x : BitVec 3) (s : State) : WordRes :=
  cptWord s d a x formAtom
/-- CPT_S2G_ATOM issued alone. -/
noncomputable def execCptS2gAtom (d a : Fld) (x : BitVec 3) (s : State) : Host.Outcome State Fault Refusal :=
  issueOne (.cptS2gAtom d a x) (bodyCptS2gAtom d a x) s

/-- CPT_G2S_CONS (R272). -/
def bodyCptG2sCons (d a : Fld) (x : BitVec 3) (s : State) : WordRes :=
  cptWord s d a x formCons
/-- CPT_G2S_CONS issued alone. -/
noncomputable def execCptG2sCons (d a : Fld) (x : BitVec 3) (s : State) : Host.Outcome State Fault Refusal :=
  issueOne (.cptG2sCons d a x) (bodyCptG2sCons d a x) s

/-- CPT_G2G (R344). -/
def bodyCptG2g (d a : Fld) (x : BitVec 3) (s : State) : WordRes :=
  cptWord s d a x formG2g
/-- CPT_G2G issued alone. -/
noncomputable def execCptG2g (d a : Fld) (x : BitVec 3) (s : State) : Host.Outcome State Fault Refusal :=
  issueOne (.cptG2g d a x) (bodyCptG2g d a x) s

/-- CPT_GATHER (R344). -/
def bodyCptGather (d a : Fld) (x : BitVec 3) (s : State) : WordRes :=
  cptWord s d a x formGather
/-- CPT_GATHER issued alone. -/
noncomputable def execCptGather (d a : Fld) (x : BitVec 3) (s : State) : Host.Outcome State Fault Refusal :=
  issueOne (.cptGather d a x) (bodyCptGather d a x) s

/-- CPT_CBK (R344). -/
def bodyCptCbk (d a : Fld) (x : BitVec 3) (s : State) : WordRes :=
  cptWord s d a x formCbk
/-- CPT_CBK issued alone. -/
noncomputable def execCptCbk (d a : Fld) (x : BitVec 3) (s : State) : Host.Outcome State Fault Refusal :=
  issueOne (.cptCbk d a x) (bodyCptCbk d a x) s

/-- TWAIT (R346). -/
def bodyTwait (a : Fld) (x : BitVec 3) (s : State) : WordRes :=
  twaitWord s a x
/-- TWAIT issued alone. -/
noncomputable def execTwait (a : Fld) (x : BitVec 3) (s : State) : Host.Outcome State Fault Refusal :=
  issueOne (.twait a x) (bodyTwait a x) s

/-- TREAD (R347). -/
def bodyTread (d : Fld) (x : BitVec 3) (s : State) : WordRes :=
  timelineWord s d (s.g.ctxAt x.toNat).completed
/-- TREAD issued alone. -/
noncomputable def execTread (d : Fld) (x : BitVec 3) (s : State) : Host.Outcome State Fault Refusal :=
  issueOne (.tread d x) (bodyTread d x) s

/-- TISSUED (R347). -/
def bodyTissued (d : Fld) (x : BitVec 3) (s : State) : WordRes :=
  timelineWord s d (s.g.ctxAt x.toNat).issued
/-- TISSUED issued alone. -/
noncomputable def execTissued (d : Fld) (x : BitVec 3) (s : State) : Host.Outcome State Fault Refusal :=
  issueOne (.tissued d x) (bodyTissued d x) s

/-- TSTAT (R347). -/
def bodyTstat (d : Fld) (x : BitVec 3) (s : State) : WordRes :=
  tstatWord s d x
/-- TSTAT issued alone. -/
noncomputable def execTstat (d : Fld) (x : BitVec 3) (s : State) : Host.Outcome State Fault Refusal :=
  issueOne (.tstat d x) (bodyTstat d x) s

/-! ### Events -/

/-- COPY_OP_START (R315). -/
def execCopyOpStart (nid gid ctx : Nat) (s : State) : Host.Outcome State Fault Refusal :=
  event (fun t => copyStart t nid gid ctx) s

/-- COPY_OP_COMPLETE (R316). -/
def execCopyOpComplete (nid gid ctx seq : Nat) (s : State) : Host.Outcome State Fault Refusal :=
  event (fun t => copyComplete t nid gid ctx seq) s

/-- COPY_PAGE_RESUME (R316). -/
def execCopyPageResume (nid gid ctx seq : Nat) (s : State) : Host.Outcome State Fault Refusal :=
  event (fun t => Sys2Proof.Machine.copyPageResume t nid gid ctx seq) s

/-- CPB_LANDING (R325). -/
def execCpbLanding (nid gid k : Nat) (s : State) : Host.Outcome State Fault Refusal :=
  event (fun t => cpbLand t nid gid k) s

end Sys2Proof.Machine
end

