-- ==== Sys2Proof/Machine/Arrive.lean ====
section
/-!
DEFINITION. What reaches a fibre after issue: late results (06 R145, 10 R220), loaded data (05 R122), what a converting load
resolves to (06 R157, R158), the steps of the memory side (12 R240, R241, R246, R249, 13 R263), and the faults found there
(22 R408).
-/
namespace Sys2Proof.Machine

/-! ### Late values -/

/-- The word of a serial number has been issued before the rest of its chain, which has still to commit (log 61). -/
def Fibre.ahead (b : Fibre) (ser : Nat) : Bool := b.early.any fun start => decide (start ≤ ser)

/-- The value of a kind and serial number reaches its fibre, once its chain has committed. -/
def delivers (s : State) (who : FibId) (ser : Nat) (kind : DelivKind) : State :=
  match s.fibre? who with
  | none => s
  | some b =>
    if b.ahead ser then s
    else match b.dlv.find? fun v => v.ser == ser && v.kind == kind with
    | none => s
    | some v => s.setFibre (b.arrive v)

/-- An older converting load that a test picks is still to resolve. -/
def Fibre.olderConv (b : Fibre) (ser : Nat) (p : AccOp → Bool) : Bool :=
  (b.acc.any fun a => decide (a.ser < ser) && a.op.converting && p a.op) ||
    b.dlv.any fun v => decide (v.ser < ser) && match v.kind with | .conv op => p op | _ => false

/-- A converting load resolves (R157, R158). A trap waits until every older one has resolved and every earlier flag has
landed; an `ldy` under RSR waits for the older ones, which may draw (log 15). Of one whose chain has still to commit, only
that it comes to a value is noted, once nothing older can take that back. -/
def convResolve (s : State) (who : FibId) (ser : Nat) : State :=
  match s.fibre? who, s.node? who.nid with
  | some b, some n =>
    (match b.dlv.find? fun v => v.ser == ser && v.converting with
     | none => s
     | some v =>
       match v.kind, v.ckpt with
       | .conv op, some r0 =>
         let isLdy : AccOp → Bool := fun o => match o with | .ldy _ => true | _ => false
         if prcRM r0.prc = .rsr ∧ isLdy op ∧ b.olderConv ser isLdy then s
         else
           let u := (rand32 n.spec.seed (BitVec.ofNat 64 who.gfi) r0.rndc).toNat
           (match resolveConv r0 op v.va v.bytes u with
            | .value y fl drew =>
              let b1 := b.arrive { v with yval := some y, flags := fl }
              if b.ahead ser then
                (if b.olderConv ser (fun _ => true) then s
                 else s.setFibre { b with dlv := mapIf (fun u => u.ser == ser) (fun u => { u with yval := some y }) b.dlv })
              else s.setFibre (if drew then b1.landed ser fun r => r.drew true else b1)
            | .trap code sub val =>
              if b.olderConv ser (fun _ => true) then s
              else
                let b1 := b.rewind v.base r0
                if b1.flagsPending then s
                else ((s.setFibre b1).focus who).trap r0.pc r0.pc code sub val)
       | _, _ => s)
  | _, _ => s

/-! ### The memory side -/

/-- The L1 of a core evicts a line (R246). -/
def evict (s : State) (core line : Nat) : State :=
  match (s.core core).line? line with
  | none => s
  | some _ => s.flushLine core line

/-- The item of a fault that an access met. -/
def Access.item (a : Access) (b : Fibre) : Option FaultItem :=
  match a.stage with
  | .faulted code sub ia => some ⟨b.id, b.regs.pc, code, sub, a.va, ia⟩
  | _ => none

/-- The item of a fault that a per-fibre copy met. -/
def CpbOp.item (c : CpbOp) (pc : DWord) : Option FaultItem :=
  match c.stage with
  | .faulted code sub ia => some ⟨c.who, pc, code, sub, c.va, ia⟩
  | _ => none

/-- A fault found at the memory side, other than a page fault, is reported, in a record of its own (R241, R408). It waits while an
older converting load is unresolved, whose trap would discard the word (R158). -/
def memoryFault (s : State) (who : FibId) (ser : Nat) : State :=
  match s.fibre? who with
  | none => s
  | some b =>
    match (b.entry? ser).bind fun a => a.item b with
    | some x => if x.code = 0x40 ∨ b.olderConv ser (fun _ => true) then s else (s.onAcc who ser fun a => { a with stage := .reported }).actOn [x]
    | none =>
      match s.gang? who.nid who.gid with
      | none => s
      | some g =>
        match (g.cpbs.find? fun c => decide (c.who = who) && c.ser == ser).bind fun c => c.item b.regs.pc with
        | none => s
        | some x =>
          if x.code = 0x40 ∨ b.olderConv ser (fun _ => true) then s
          else
            (s.onGang who.nid who.gid fun g =>
              { g with cpbs := mapIf (fun c => decide (c.who = who) && c.ser == ser) (fun c => { c with stage := .reported }) g.cpbs }).actOn
              [x]

/-- Y_RESULT_DELIVERY (R145). -/
def execYResultDelivery (who : FibId) (k : Nat) (s : State) : Host.Outcome State Fault Refusal :=
  event (fun t => delivers t who k .yop) s

/-- REDUX_YADD_RESULT (R220). -/
def execReduxYaddResult (who : FibId) (k : Nat) (s : State) : Host.Outcome State Fault Refusal :=
  event (fun t => delivers t who k .redux) s

/-- LOAD_DATA_ARRIVAL (R122). -/
def execLoadDataArrival (who : FibId) (k : Nat) (s : State) : Host.Outcome State Fault Refusal :=
  event (fun t => delivers t who k .load) s

/-- CONVERTING_LOAD_RESOLVE (R158). -/
def execConvertingLoadResolve (who : FibId) (k : Nat) (s : State) : Host.Outcome State Fault Refusal :=
  event (fun t => convResolve t who k) s

/-- L1_EVICTION (R246). -/
def execL1Eviction (core line : Nat) (s : State) : Host.Outcome State Fault Refusal :=
  event (fun t => evict t core line) s

/-- HOME_ARRIVAL (R249). -/
def execHomeArrival (k : Nat) (s : State) : Host.Outcome State Fault Refusal :=
  event (fun t => t.homeArrive k) s

/-- FLUSH_MARKER_ACK (R263). -/
def execFlushMarkerAck (k : Nat) (s : State) : Host.Outcome State Fault Refusal :=
  event (fun t => t.markerAck k) s

/-- WALK (R240). -/
def execWalk (who : FibId) (k : Nat) (s : State) : Host.Outcome State Fault Refusal :=
  event (fun t => t.attempt who k false) s

/-- WALK_RETRY (R240). -/
def execWalkRetry (who : FibId) (k : Nat) (s : State) : Host.Outcome State Fault Refusal :=
  event (fun t => t.attempt who k true) s

/-- MEMORY_SIDE_FAULT (R241). -/
def execMemorySideFault (who : FibId) (k : Nat) (s : State) : Host.Outcome State Fault Refusal :=
  event (fun t => memoryFault t who k) s

end Sys2Proof.Machine
end

