-- ==== Sys2Proof/Machine/Control.lean ====
section
/-!
DEFINITION. Control flow, windows and hardware loops (05 R125 to R136, 01 R21 to R24, R32, 22 R417, R418), system
registers and traps (05 R137 to R139, 01 R27), and fibre control (10 R212 to R216).
-/
namespace Sys2Proof.Machine

/-! ### Branches, calls and windows -/

/-- The target of a packet-relative offset (R125). -/
def target (s : State) (o : BitVec 20) : DWord := pcPacket s.r.pc + (o.signExtend 64 <<< 4)

/-- The packet target of one pair of an `mbr` (R65, R136). -/
def pairTarget (s : State) (o : BitVec 12) : DWord := pcPacket s.r.pc + (o.signExtend 64 <<< 4)

/-- A call (R126, R127): trap 0x07 when fewer than 12 cells would be left, else the slide. RPC is the PC after the
chain, at which the words of a chain act. -/
def callTo (s : State) (pc : DWord) : WordRes :=
  let left := s.r.wq - 4 - (8 - min s.r.n 8 : Nat)
  if left < 12 then .trap 0x07 0 (s.r.spillVal left)
  else .commit (.goto pc) fun t => t.onRegs fun r => r.slideCall r.pc

/-- A write is pending to a cell at or above a position, or to a y register of a window with `levels` or more frames
under it (R131). -/
def Fibre.pendingFrom (b : Fibre) (pos levels : Nat) : Bool :=
  b.pending.any fun d => match d with
    | .yreg v _ => decide (levels ≤ v)
    | x => x.positions.any fun i => decide (pos ≤ i)

/-- The destinations of late values of the same chain that the new window does not keep go nowhere (R15, R131). -/
def State.clip (s : State) (top levels : Nat) : State :=
  { s with f := { s.f with
    acc := s.f.acc.map fun a => { a with dest := a.dest.clip top levels }
    dlv := s.f.dlv.map fun v => { v with dest := v.dest.clip top levels } } }

/-- `enter n, m, Lw` (R21, R130, R131). DEDUCED (log 70): Lw of 0 takes PRC.L, as R21 says, though the worked program beside R130
shows WINF with Lw 0 after such a word. -/
def enterWord (s : State) (n m lw : Nat) : WordRes :=
  let r := s.r
  let lw := if lw = 0 then prcL r.prc else lw
  let left : Int := (r.quota : Int) - (r.base + n) - (r.down - yCost r.m r.lw + yCost m lw)
  if left < 12 then .trap 0x07 0 (r.spillVal left)
  else if s.f.pendingFrom (r.base + min r.n n) r.frames.length then .wait
  else .regs fun t =>
    (t.clip (t.r.base + min t.r.n n) t.r.frames.length).onRegs fun r => r.enter n m lw

/-- Pops the loop entries of the frame being left (R135). DESIGN CHOICE (log 69): an entry belongs to the window by its BASE
alone, so a callee whose caller has n of 8 or less, and that has its base (R22), takes its caller's entries for its own. -/
def Regs.leaveFrame (r : Regs) : Regs := { r with loops := r.loops.filter fun e => e.base ≠ r.base }

/-- `ret` (R24, R128, R131). DESIGN CHOICE (log 71): one that ends the fibre waits for its pending writes, as any other. -/
def retWord (s : State) : WordRes :=
  match s.r.frames with
  | [] =>
    if s.r.sfc ≠ 0 then .trap 0x08 0 ((BitVec.ofInt 16 s.r.wq).setWidth 64)
    else if s.f.pendingFrom 0 0 then .wait
    else .commit .gone State.endFibre
  | fr :: rest =>
    if fr.kind = 1 then .illegal
    else if s.f.pendingFrom (s.r.base - fr.delta) rest.length then .wait
    else .commit (.arrive fr.rpc) fun t =>
      (t.clip (t.r.base - fr.delta + fr.n) (rest.length + 1)).onRegs fun r => r.leaveFrame.unslide fr rest

/-! ### Spill and fill (R418) -/

/-- The cells of the VPF area that a frame keeps, in the order y0 upward, header first. -/
def Frame.yCells (fr : Frame) : List Word := fr.ys.flatMap fun y => y.hdr :: y.sig

/-- The cells of a frame record (R23). -/
def Frame.record (fr : Frame) : List Word :=
  [fr.rpc.extractLsb' 0 32, fr.rpc.extractLsb' 32 32,
   BitVec.ofNat 32 (fr.n + 256 * fr.m + 65536 * fr.lw + 2 ^ 24 * fr.kind), BitVec.ofNat 32 fr.delta]

/-- The bytes of a slot (R418): the frame whose cells lie at the bottom of the stack. -/
def Regs.slotBytes (fr : Frame) (cells : List Cell) : List Byte :=
  let ints := (cells.take fr.delta).map Cell.val
  bytesOfCells (fr.record ++ [BitVec.ofNat 32 ints.length, BitVec.ofNat 32 fr.yCells.length, 0#32, 0#32] ++ ints ++
    fr.yCells)

/-- The y registers of a run of cells. -/
def yRegsOf (c : Nat) : Nat → List Word → List YReg
  | 0, _ => []
  | k + 1, ws => ⟨ws.headD 0#32, (ws.drop 1).take c, true⟩ :: yRegsOf c k (ws.drop (1 + c))

/-- A slot's record, none where it breaks R23 or its KIND is not 0; N, M, LW outside what a window can have break it
(DEDUCED, log 32). -/
def slotRecord (bs : List Byte) : Option Frame :=
  let w := cellsOfBytes 4 bs
  let rpc := w.getD 1 0#32 ++ w.getD 0 0#32
  let c2 := (w.getD 2 0#32).toNat
  let c3 := (w.getD 3 0#32).toNat
  let fr : Frame := { rpc := rpc, n := c2 % 256, m := c2 / 256 % 256, lw := c2 / 65536 % 256, kind := 0, delta := c3, ys := [] }
  if c2 / 2 ^ 24 ≠ 0 ∨ 128 ≤ c3 ∨ pcInvalid rpc ∨ fr.n = 0 ∨ 64 < fr.n ∨ 16 < fr.m ∨ fr.lw = 1 ∨ 237 < fr.lw then none
  else some fr

/-- The oldest frame leaves the stack (R418): positions are renumbered. -/
def Regs.frameOut (r : Regs) : Regs :=
  match r.frames.getLast? with
  | none => r
  | some fr =>
    { r with
      frames := r.frames.dropLast
      cells := r.cells.drop fr.delta ++ List.replicate fr.delta Cell.zero
      base := r.base - fr.delta
      loops := r.loops.map fun e => { e with base := (e.base + 65536 - fr.delta) % 65536 }
      sfc := r.sfc + 1 }

/-- A spilled frame comes back below the resident frames (R418). -/
def Regs.frameIn (r : Regs) (fr : Frame) (ints : List Word) : Regs :=
  { r with
    frames := r.frames ++ [fr]
    cells := (ints.map fun v => ⟨v, true⟩) ++ r.cells.take (r.quota - fr.delta)
    base := r.base + fr.delta
    loops := r.loops.map fun e => { e with base := (e.base + fr.delta) % 65536 }
    sfc := r.sfc - 1 }

/-- What `eret` finds of the frames it moves. -/
inductive Moved where
  | none
  | wait
  | busy (va : Nat)
  | fault (code sub : Nat) (va : DWord) (ia : Nat)
  | out (slots : List (Nat × Bool × List Byte))
  | back (frames : List (Frame × List Word)) (reads : List (Nat × Nat × Bool))

/-- One slot access of the fibre, checked as its own plain store or load is (R240, R253, R418): its IA with T, or the fault,
or what it waits for. -/
def State.slotAccess (s : State) (va : Int) (size : Nat) (write : Bool) : Moved ⊕ (Nat × Bool) :=
  let stop := fun (code sub ia : Nat) => show Moved ⊕ (Nat × Bool) from .inl (.fault code sub (BitVec.ofInt 64 va) ia)
  let need := if write then Need.store else Need.load
  match s.xlat s.n va size need with
  | .bad code ia => stop code 0 ia
  | .ok ia tr =>
    if !write ∧ s.c.errRun ia size then stop 0x47 0 ia
    else if !write ∧ s.c.holds ia size then .inr (ia, tr)
    else if !write ∧ !s.reaches s.c.num ia then stop 0x42 0 ia
    else if !write ∧ s.missWaits s.c.num ia size then .inl .wait
    else
      match (s.walkRun ia size need).1 with
      | some (0, _, a) => if s.spent (.word s.f.id va.toNat) then stop 0x48 3 a else .inl (.busy va.toNat)
      | some (code, sub, a) => stop code sub a
      | none => if !write ∧ s.badRun ia size then stop 0x47 0 ia else .inr (ia, tr)

/-- The slots of a spill: the k oldest frames, oldest first. -/
def State.spillSlots (s : State) (va : Int) : Nat → Regs → List (Nat × Bool × List Byte) → Moved
  | 0, _, acc => .out acc
  | k + 1, r, acc =>
    match r.frames.getLast? with
    | .none => .out acc
    | .some fr =>
      let bs := Regs.slotBytes fr r.cells
      match s.slotAccess va bs.length true with
      | .inl e => e
      | .inr (ia, tr) => s.spillSlots (va + 1024) k r.frameOut (acc ++ [(ia, tr, bs)])

/-- The slots of a fill: the k youngest spilled frames, youngest first. -/
def State.fillSlots (s : State) (va : Int) (refused : Moved) :
    Nat → List (Frame × List Word) → List (Nat × Nat × Bool) → Moved
  | 0, acc, reads => .back acc reads
  | k + 1, acc, reads =>
    match s.slotAccess va 32 false with
    | .inl e => e
    | .inr (ia, tr) =>
      match slotRecord (((s.readL1 s.c.num ia 32 s.n.ctx tr .load).1).getD []) with
      | .none => refused
      | .some fr =>
        let size := 32 + 4 * (fr.delta + yCost fr.m fr.lw)
        match s.slotAccess va size false with
        | .inl e => e
        | .inr (ia, tr) =>
          let bs := ((s.readL1 s.c.num ia size s.n.ctx tr .load).1).getD []
          let ws := cellsOfBytes (fr.delta + yCost fr.m fr.lw) (bs.drop 32)
          let ys := yRegsOf ((fr.lw + 31) / 32) fr.m (ws.drop fr.delta)
          s.fillSlots (va - 1024) refused k (acc ++ [({ fr with ys := ys }, ws.take fr.delta)]) (reads ++ [(ia, size, tr)])

/-- The frames that `eret` moves for TCAUSE and TVAL, with the double traps of R418. -/
def State.frameMove (s : State) : Moved :=
  let r := s.r
  let code := (r.tcause.extractLsb' 0 8).toNat
  let k := (r.tcause.extractLsb' 8 8).toNat
  let refused := Moved.fault 0x46 code r.tval 0
  if k = 0 ∨ (code ≠ 0x07 ∧ code ≠ 0x08) then .none
  else if s.f.acc ≠ [] ∨ s.f.pendingFrom 0 0 then .wait
  else if r.tval.toNat % 16 ≠ 0 then refused
  else if code = 0x07 then
    if r.movable < k ∨ 65535 < r.sfc + k then refused else s.spillSlots r.tval.toNat k r []
  else if r.sfc < k then refused
  else
    match s.fillSlots r.tval.toNat refused k [] [] with
    | .back l reads =>
      let need := total (l.map fun x => x.1.delta + x.1.cost)
      let wq : Int := match r.frames with
        | [] => r.wq
        | fr :: rest => (r.unslide fr rest).wq
      if wq < (need : Int) then refused else .back l reads
    | x => x

/-- The effect of the frames moved. -/
def State.moveFrames (s : State) : Moved → State
  | .out slots =>
    let t := slots.foldl (fun u x => u.storeL1 u.c.num x.1 x.2.2 u.n.ctx x.2.1 (u.f.id.gid, u.f.id.cid)) s
    slots.foldl (fun u _ => u.onRegs Regs.frameOut) t
  | .back l reads =>
    let t := reads.foldl (fun u x => (u.readL1 u.c.num x.1 x.2.1 u.n.ctx x.2.2 .load).2) s
    l.foldl (fun u x => u.onRegs fun r => r.frameIn x.1 x.2) t
  | _ => s

/-- `eret` (R32, R129, R131, R418). -/
def eretWord (s : State) : WordRes :=
  match s.r.frames with
  | [] => .illegal
  | fr :: rest =>
    if fr.kind = 0 ∨ pcInvalid s.r.tepc then .illegal
    else if s.f.pendingFrom (s.r.base - fr.delta) rest.length then .wait
    else
      match s.frameMove with
      | .wait => .wait
      | .busy va => .hold fun t => t.tryAgain (.word t.f.id va)
      | .fault code sub va ia => .fault code sub va ia
      | m => .commit (.arrive s.r.tepc) fun t =>
        let u := ((t.wordDone t.f.id).clip (t.r.base - fr.delta + fr.n) (rest.length + 1)).moveFrames m
        u.onRegs fun r =>
          match r.frames with
          | [] => r
          | fr :: rest => r.leaveFrame.trapReturn fr rest

/-! ### Hardware loops (R132) -/

/-- `loop wD, L` (R132). -/
def loopWord (s : State) (d : Fld) (i : BitVec 19) : WordRes :=
  let cnt := s.r.w d
  let packet := pcPacket s.r.pc
  let last := packet + (i.setWidth 64 <<< 4)
  if cnt = 0#32 then .commit (.arrive (last + 16#64)) id
  else if 4 ≤ s.r.loops.length then .trap 0x09 0 (cnt.setWidth 64)
  else .regs fun t => t.onRegs fun r =>
    { r with loops := { start := packet + 16#64, last := last, count := cnt, base := r.base } :: r.loops }

/-! ### System registers (R27, R137) -/

/-- WINF (R27). -/
def Regs.winf (r : Regs) : Word := BitVec.ofNat 32 (r.n + 256 * r.m + 65536 * r.lw)

/-- COLT of the core under the fibre (R189). -/
def State.colt (s : State) : Word :=
  let x := s.sensorOf s.c.num
  BitVec.ofNat 32 ((if x.valid then x.temp % 4096 else 0xFFF) + 65536 * s.colOf s.c.num + (if x.valid then 2 ^ 31 else 0))

/-- The value that `gets` reads under a selector, none for a reserved one (R27). -/
def State.sysReg (s : State) (sel : Nat) : Option Word :=
  let r := s.r
  let sp := s.n.spec
  match sel with
  | 0 => some (r.pw.setWidth 32)
  | 1 => some r.prc
  | 2 => some (BitVec.ofNat 32 s.f.id.fid)
  | 3 => some (BitVec.ofNat 32 s.f.id.cid)
  | 4 => some (BitVec.ofNat 32 s.f.id.gid)
  | 5 => some (BitVec.ofNat 32 s.f.stg)
  | 6 => some (BitVec.ofNat 32 s.f.id.nid)
  | 7 => some (sp.larg.extractLsb' 0 32)
  | 8 => some (sp.larg.extractLsb' 32 32)
  | 9 => some (sp.omb.extractLsb' 0 32)
  | 10 => some (sp.omb.extractLsb' 32 32)
  | 11 => some r.ostep
  | 12 => some (r.rndc.extractLsb' 0 32)
  | 13 => some (r.rndc.extractLsb' 32 32)
  | 14 => some s.g.shp
  | 15 => some r.ydl
  | 16 => some (r.tvec.extractLsb' 0 32)
  | 17 => some (r.tvec.extractLsb' 32 32)
  | 18 => some r.tcause
  | 19 => some (r.tepc.extractLsb' 0 32)
  | 20 => some (r.tepc.extractLsb' 32 32)
  | 21 => some (r.tval.extractLsb' 0 32)
  | 22 => some (r.tval.extractLsb' 32 32)
  | 23 => some r.winf
  | 24 => some (BitVec.ofInt 32 r.wq)
  | 25 => some (if sp.det then 1#32 else 0#32)
  | 26 => some s.colt
  | 27 => some (BitVec.ofNat 32 s.c.num)
  | 28 => some (BitVec.ofNat 32 (s.dieOf s.c.num))
  | 29 => some r.lstat
  | 30 => some r.fstat
  | _ => none

/-- Replaces the low or the high half of a pair. -/
def setLow (x : DWord) (v : Word) : DWord := x.extractLsb' 32 32 ++ v
/-- Replaces the high half. -/
def setHigh (x : DWord) (v : Word) : DWord := v ++ x.extractLsb' 0 32

/-- What `sets` makes of the registers, none where it raises trap 0x02 (R25, R27, R30, R304, R430). -/
def setSys (sel : Nat) (v : Word) : Option (Regs → Regs) :=
  match sel with
  | 0 => some fun r => r.setPw (v.extractLsb' 0 16)
  | 1 => if prcBad v then none else some fun r => { r with prc := v }
  | 12 => some fun r => { r with rndc := setLow r.rndc v }
  | 13 => some fun r => { r with rndc := setHigh r.rndc v }
  | 16 => if v.extractLsb' 0 4 ≠ 0#4 then none else some fun r => { r with tvec := setLow r.tvec v }
  | 17 => some fun r => { r with tvec := setHigh r.tvec v }
  | 18 => if v.extractLsb' 16 15 ≠ 0#15 then none else some fun r => { r with tcause := v }
  | 19 => if v.extractLsb' 2 2 ≠ 0#2 then none else some fun r => { r with tepc := setLow r.tepc v }
  | 20 => some fun r => { r with tepc := setHigh r.tepc v }
  | 21 => some fun r => { r with tval := setLow r.tval v }
  | 22 => some fun r => { r with tval := setHigh r.tval v }
  | 29 => if v.extractLsb' 5 27 ≠ 0#27 then none else some fun r => { r with lstat := r.lstat &&& ~~~v }
  | 30 => if v.extractLsb' 3 29 ≠ 0#29 then none else some fun r => { r with fstat := r.fstat &&& ~~~v }
  | _ => none

/-- `gets` (R137); a read of PRC waits for the flags still pending (R146). -/
def getsWord (s : State) (d : Fld) (sel : Nat) : WordRes :=
  match s.sysReg sel with
  | none => .illegal
  | some v => if sel = 1 ∧ s.f.flagsPending then .wait else .regs (s.putW d v)

/-- `sets` (R137); a write of PRC waits for the flags still pending (R146). -/
def setsWord (s : State) (a : Fld) (sel : Nat) : WordRes :=
  match setSys sel (s.r.w a) with
  | none => .illegal
  | some k => if sel = 1 ∧ s.f.flagsPending then .wait else .regs fun t => t.onRegs k

/-! ### Fibre control (R212 to R216) -/

/-- What `spawn` returns where it makes no crew, or the CID it takes (R213). -/
def State.spawnResult (s : State) (mask : Word) : Word :=
  if mask = 0#32 then 0x80000001#32
  else if Config.crewsPerGang ≤ s.g.crews.length then 0x80000002#32
  else if s.freeContext s.c.num = none then 0x80000003#32
  else
    let part := (s.c.split.getD (0, 0)).2 * Config.cellsPerUnit
    if part < s.regCells s.c.num + popcount mask * s.n.spec.quota then 0x80000004#32
    else
      BitVec.ofNat 32 (((List.range 32).find? fun c => s.g.crews.all fun x => x.cid ≠ c).getD 0)

/-- A new fibre under an identifier; accesses that an earlier fibre of that identifier has left still complete. -/
def State.bear (s : State) (x : Fibre) : State :=
  match s.fibre? x.id with
  | none => s.setFibre x
  | some old => s.setFibre { x with acc := old.acc.filter Access.orphan, nextSer := old.nextSer }

/-- A crew is admitted to the core with the youngest age (R172, R175, R213). -/
def State.addCrew (s : State) (nid gid core : Nat) (c : Crew) : State :=
  let age := (s.core core).nextAge
  let ctx := (s.freeContext core).getD 0
  (s.onGang nid gid fun g => { g with crews := g.crews ++ [{ c with ctx := ctx, age := age }] }).onCore core fun x =>
    { x with nextAge := age + 1 }

/-- `spawn` acts for the current fibre (R213, R214); the outcome goes to the cell at `pos`. -/
def State.spawn (s : State) (mask : Word) (pc : DWord) (cells : List Word) (pos : Nat) : State :=
  let v := s.spawnResult mask
  let t :=
    if v.getLsbD 31 then s
    else
      let cid := v.toNat
      let id := s.f.id
      let u := s.addCrew id.nid id.gid s.c.num
        { cid := cid, stg := s.f.stg, lanes := mask, ctx := 0, age := 0, state := .starting id s.f.nextSer, place := .here }
      ((List.range 32).filter fun l => mask.getLsbD l).foldl
        (fun w l => w.bear (Fibre.fresh { id with cid := cid, fid := l } s.f.stg s.n.spec.quota s.n.spec.ydef pc cells)) u
  t.onRegs fun r => r.setAt pos v true

/-- `spawn wD, dA, wB` (R213). -/
def spawnWord (s : State) (d a b : Fld) : WordRes :=
  let pc := s.r.d a
  if pc.extractLsb' 0 4 ≠ 0#4 then .illegal
  else
    let mask := s.r.w d
    let cells := s.r.run b 8
    let pos := s.r.base + d.toNat
    .regs fun t => t.spawn mask pc cells pos

/-- The partition that serves a crew of the current gang. -/
def State.partOf (s : State) (cid : Nat) : Nat := ((s.g.crew? cid).map fun c => c.ctx % 16).getD 0

/-- `yield hint, deadline` (R182, R183, R216); LEFT is set when its chain commits. -/
def yieldWord (s : State) (h : Nat) : WordRes :=
  .regs fun t =>
    let clock := (t.c.parts.getD (t.partOf s.f.id.cid) ⟨0, 0⟩).clock
    let u := t.onRegs fun r =>
      { r with ydl := ydlOf (ydlLeft r.ydl) h (if h = 0 then 0 else min (ydlIdle r.ydl + 1) 16) }
    if h = 2 then { u with f := { u.f with backoff := some (clock + 16) } } else u

/-! ### Branches (R125, R136) -/

/-- BR (R125). -/
def bodyBr (p : BitVec 4) (n : Bool) (o : BitVec 20) (s : State) : WordRes :=
  if condHolds s p n then .commit (.taken (target s o)) id else .commit .seq id
/-- BR issued alone. -/
def execBr (p : BitVec 4) (n : Bool) (o : BitVec 20) (s : State) : Host.Outcome State Fault Refusal :=
  issueOne (.br p n o) (bodyBr p n o) s

/-- BRA (R125). -/
def bodyBra (o : BitVec 20) (s : State) : WordRes :=
  .commit (.taken (target s o)) id
/-- BRA issued alone. -/
def execBra (o : BitVec 20) (s : State) : Host.Outcome State Fault Refusal :=
  issueOne (.bra o) (bodyBra o) s

/-! ### Calls, returns, `enter`, `loop` (R126 to R132) -/

/-- CALL (R126). -/
def bodyCall (p : BitVec 4) (n : Bool) (o : BitVec 20) (s : State) : WordRes :=
  if condHolds s p n then callTo s (target s o) else .commit .seq id
/-- CALL issued alone. -/
def execCall (p : BitVec 4) (n : Bool) (o : BitVec 20) (s : State) : Host.Outcome State Fault Refusal :=
  issueOne (.call p n o) (bodyCall p n o) s

/-- RET (R128). -/
def bodyRet (s : State) : WordRes :=
  retWord s
/-- RET issued alone. -/
def execRet (s : State) : Host.Outcome State Fault Refusal :=
  issueOne (.ret) bodyRet s

/-- CALLR (R127). -/
def bodyCallr (a : Fld) (s : State) : WordRes :=
  if pcInvalid (s.r.d a) then .illegal else callTo s (s.r.d a)
/-- CALLR issued alone. -/
def execCallr (a : Fld) (s : State) : Host.Outcome State Fault Refusal :=
  issueOne (.callr a) (bodyCallr a) s

/-- JMPR (R127). -/
def bodyJmpr (a : Fld) (s : State) : WordRes :=
  if pcInvalid (s.r.d a) then .illegal else .commit (.taken (s.r.d a)) id
/-- JMPR issued alone. -/
def execJmpr (a : Fld) (s : State) : Host.Outcome State Fault Refusal :=
  issueOne (.jmpr a) (bodyJmpr a) s

/-- ERET (R32). -/
def bodyEret (s : State) : WordRes :=
  eretWord s
/-- ERET issued alone. -/
def execEret (s : State) : Host.Outcome State Fault Refusal :=
  issueOne (.eret) bodyEret s

/-- ENTER (R21). -/
def bodyEnter (d a : Fld) (i : BitVec 12) (s : State) : WordRes :=
  enterWord s (d.toNat + 1) a.toNat i.toNat
/-- ENTER issued alone. -/
def execEnter (d a : Fld) (i : BitVec 12) (s : State) : Host.Outcome State Fault Refusal :=
  issueOne (.enter d a i) (bodyEnter d a i) s

/-- LOOP (R132). -/
def bodyLoop (d : Fld) (i : BitVec 19) (s : State) : WordRes :=
  loopWord s d i
/-- LOOP issued alone. -/
def execLoop (d : Fld) (i : BitVec 19) (s : State) : Host.Outcome State Fault Refusal :=
  issueOne (.loop d i) (bodyLoop d i) s

/-- MBR (R65). -/
def bodyMbr (np : BitVec 2) (p1 p2 p3 p4 : BitVec 4) (n1 n2 n3 n4 : Bool) (off1 off2 off3 off4 : BitVec 12) (s : State) : WordRes :=
  if condHolds s p1 n1 then .commit (.taken (pairTarget s off1)) id
  else if 1 ≤ np.toNat ∧ condHolds s p2 n2 then .commit (.taken (pairTarget s off2)) id
  else if 2 ≤ np.toNat ∧ condHolds s p3 n3 then .commit (.taken (pairTarget s off3)) id
  else if 3 ≤ np.toNat ∧ condHolds s p4 n4 then .commit (.taken (pairTarget s off4)) id
  else .commit .seq id
/-- MBR issued alone. -/
def execMbr (np : BitVec 2) (p1 p2 p3 p4 : BitVec 4) (n1 n2 n3 n4 : Bool) (off1 off2 off3 off4 : BitVec 12) (s : State) : Host.Outcome State Fault Refusal :=
  issueOne (.mbr np p1 p2 p3 p4 n1 n2 n3 n4 off1 off2 off3 off4) (bodyMbr np p1 p2 p3 p4 n1 n2 n3 n4 off1 off2 off3 off4) s

/-! ### Fibre control (R212 to R216) -/

/-- END (R212). -/
def bodyEndFibre (_s : State) : WordRes :=
  .commit .gone State.endFibre
/-- END issued alone. -/
def execEndFibre (s : State) : Host.Outcome State Fault Refusal :=
  issueOne (.endFibre) bodyEndFibre s

/-- SPAWN (R213). -/
def bodySpawn (d a b : Fld) (s : State) : WordRes :=
  spawnWord s d a b
/-- SPAWN issued alone. -/
def execSpawn (d a b : Fld) (s : State) : Host.Outcome State Fault Refusal :=
  issueOne (.spawn d a b) (bodySpawn d a b) s

/-- FID (R215). -/
def bodyFid (d : Fld) (s : State) : WordRes :=
  .regs (s.putW d (BitVec.ofNat 32 s.f.id.fid))
/-- FID issued alone. -/
def execFid (d : Fld) (s : State) : Host.Outcome State Fault Refusal :=
  issueOne (.fid d) (bodyFid d) s

/-- CID (R215). -/
def bodyCid (d : Fld) (s : State) : WordRes :=
  .regs (s.putW d (BitVec.ofNat 32 s.f.id.cid))
/-- CID issued alone. -/
def execCid (d : Fld) (s : State) : Host.Outcome State Fault Refusal :=
  issueOne (.cid d) (bodyCid d) s

/-- GID (R215). -/
def bodyGid (d : Fld) (s : State) : WordRes :=
  .regs (s.putW d (BitVec.ofNat 32 s.f.id.gid))
/-- GID issued alone. -/
def execGid (d : Fld) (s : State) : Host.Outcome State Fault Refusal :=
  issueOne (.gid d) (bodyGid d) s

/-- STG (R215). -/
def bodyStg (d : Fld) (s : State) : WordRes :=
  .regs (s.putW d (BitVec.ofNat 32 s.f.stg))
/-- STG issued alone. -/
def execStg (d : Fld) (s : State) : Host.Outcome State Fault Refusal :=
  issueOne (.stg d) (bodyStg d) s

/-- NID (R215). -/
def bodyNid (d : Fld) (s : State) : WordRes :=
  .regs (s.putW d (BitVec.ofNat 32 s.f.id.nid))
/-- NID issued alone. -/
def execNid (d : Fld) (s : State) : Host.Outcome State Fault Refusal :=
  issueOne (.nid d) (bodyNid d) s

/-- YIELD (R182). -/
def bodyYield (h : BitVec 3) (s : State) : WordRes :=
  yieldWord s h.toNat
/-- YIELD issued alone. -/
def execYield (h : BitVec 3) (i : BitVec 16) (s : State) : Host.Outcome State Fault Refusal :=
  issueOne (.yield h i) (bodyYield h) s

/-! ### SYS (R137 to R139) -/

/-- GETS (R137). -/
def bodyGets (d b : Fld) (s : State) : WordRes :=
  getsWord s d b.toNat
/-- GETS issued alone. -/
noncomputable def execGets (d b : Fld) (s : State) : Host.Outcome State Fault Refusal :=
  issueOne (.gets d b) (bodyGets d b) s

/-- SETS (R137). -/
def bodySets (a b : Fld) (s : State) : WordRes :=
  setsWord s a b.toNat
/-- SETS issued alone. -/
noncomputable def execSets (a b : Fld) (s : State) : Host.Outcome State Fault Refusal :=
  issueOne (.sets a b) (bodySets a b) s

/-- TRAP (R138). -/
def bodyTrap (b : Fld) (_s : State) : WordRes :=
  .after 0x0D b.toNat
/-- TRAP issued alone. -/
noncomputable def execTrap (b : Fld) (s : State) : Host.Outcome State Fault Refusal :=
  issueOne (.trap b) (bodyTrap b) s

/-- BRK (R138). -/
def bodyBrk (_s : State) : WordRes :=
  .after 0x0C 0
/-- BRK issued alone. -/
noncomputable def execBrk (s : State) : Host.Outcome State Fault Refusal :=
  issueOne (.brk) bodyBrk s

/-- NOP (R139). -/
def bodyNop (_s : State) : WordRes :=
  .commit .seq id
/-- NOP issued alone. -/
noncomputable def execNop (s : State) : Host.Outcome State Fault Refusal :=
  issueOne (.nop) bodyNop s

end Sys2Proof.Machine
end

