-- ==== Sys2Proof/Machine/Sha3.lean ====
section
/-!
DEFINITION. SHA3-512, which 19 R383 names for the digest of the loaded firmware: Keccak on 25 lanes of 64 bits with a rate of
72 bytes. The function itself is that of its published standard (log 68).
-/
namespace Sys2Proof.Machine

/-- The rotations of the lanes, lane x + 5y at that place. -/
def keccakRot : List Nat := [0, 1, 62, 28, 27, 36, 44, 6, 55, 20, 3, 10, 43, 25, 39, 41, 45, 15, 21, 8, 18, 2, 61, 56, 14]

/-- The round constants. -/
def keccakRc : List (BitVec 64) :=
  [0x0000000000000001#64, 0x0000000000008082#64, 0x800000000000808A#64, 0x8000000080008000#64, 0x000000000000808B#64,
   0x0000000080000001#64, 0x8000000080008081#64, 0x8000000000008009#64, 0x000000000000008A#64, 0x0000000000000088#64,
   0x0000000080008009#64, 0x000000008000000A#64, 0x000000008000808B#64, 0x800000000000008B#64, 0x8000000000008089#64,
   0x8000000000008003#64, 0x8000000000008002#64, 0x8000000000000080#64, 0x000000000000800A#64, 0x800000008000000A#64,
   0x8000000080008081#64, 0x8000000000008080#64, 0x0000000080000001#64, 0x8000000080008008#64]

/-- A lane. -/
def lane (a : List (BitVec 64)) (x y : Nat) : BitVec 64 := a.getD (x % 5 + 5 * (y % 5)) 0#64

/-- The 25 lanes by their places. -/
def lanes (f : Nat → Nat → BitVec 64) : List (BitVec 64) := (List.range 25).map fun i => f (i % 5) (i / 5)

/-- The step that mixes columns. -/
def keccakTheta (a : List (BitVec 64)) : List (BitVec 64) :=
  let c := (List.range 5).map fun x => (lane a x 0 ^^^ lane a x 1) ^^^ (lane a x 2 ^^^ lane a x 3) ^^^ lane a x 4
  let d := (List.range 5).map fun x => c.getD ((x + 4) % 5) 0#64 ^^^ (c.getD ((x + 1) % 5) 0#64).rotateLeft 1
  lanes fun x y => lane a x y ^^^ d.getD x 0#64

/-- The steps that rotate lanes and move them: the lane that comes to (x, y) stood at (x + 3y, x). -/
def keccakRhoPi (a : List (BitVec 64)) : List (BitVec 64) :=
  lanes fun x y => (lane a (x + 3 * y) x).rotateLeft (keccakRot.getD ((x + 3 * y) % 5 + 5 * x) 0)

/-- The step that is not linear. -/
def keccakChi (a : List (BitVec 64)) : List (BitVec 64) :=
  lanes fun x y => lane a x y ^^^ (~~~(lane a (x + 1) y) &&& lane a (x + 2) y)

/-- One round. -/
def keccakRound (a : List (BitVec 64)) (rc : BitVec 64) : List (BitVec 64) :=
  (keccakChi (keccakRhoPi (keccakTheta a))).modify 0 (· ^^^ rc)

/-- The 24 rounds. -/
def keccakF (a : List (BitVec 64)) : List (BitVec 64) := keccakRc.foldl keccakRound a

/-- A block of 72 bytes is taken in. -/
def keccakAbsorb (a : List (BitVec 64)) (block : List Byte) : List (BitVec 64) :=
  keccakF (lanes fun x y =>
    let i := x + 5 * y
    lane a x y ^^^ if i < 9 then BitVec.ofNat 64 (leNat ((block.drop (8 * i)).take 8)) else 0#64)

/-- The blocks of a padded message. -/
def keccakBlocks : Nat → List Byte → List (BitVec 64) → List (BitVec 64)
  | 0, _, a => a
  | n + 1, bs, a => keccakBlocks n (bs.drop 72) (keccakAbsorb a (bs.take 72))

/-- The message with the bits that end it. -/
def sha3Pad (bs : List Byte) : List Byte :=
  let z := 72 - bs.length % 72
  bs ++ (if z = 1 then [0x86#8] else 0x06#8 :: List.replicate (z - 2) 0#8 ++ [0x80#8])

/-- The 64 bytes of SHA3-512. -/
def sha3 (bs : List Byte) : List Byte :=
  let m := sha3Pad bs
  ((keccakBlocks (m.length / 72) m (List.replicate 25 0#64)).take 8).flatMap fun w => leBytes 8 w.toNat

/-- The digest over the digests of every engine's firmware, in engine order (R383). -/
def firmwareDigest (firmware : List Nat) : Nat := leNat (sha3 (firmware.flatMap (leBytes 64)))

end Sys2Proof.Machine
end

