-- ==== Sys2Proof/Machine/Launch.lean ====
section
/-!
DEFINITION. Making nodes (19 R364 to R372, R383, R384): reading a node spec and what it points to, the rules of its fields, the
manifest, acceptance and refusal, STATUS, and dependence signals.
-/
namespace Sys2Proof.Machine

/-! ### Reads of the task engine (R448) -/

/-- What a read comes to. -/
inductive ReadRes where
  | ok (bs : List Byte)
  | fail (code sub ia : Nat)
  | busy (ia : Nat)
  deriving DecidableEq, Repr

/-- The home of an IA is a peer that cannot be reached (R427). -/
def State.cutOff (s : State) (ia : Nat) : Bool :=
  match s.placeOf ia with
  | .peer id => s.fabric.unreachable.contains id
  | _ => false

/-- The bytes of a run at their homes, after their walk (R240, R253, R429). -/
def State.readHome (s : State) (ia size : Nat) (need : Need) : ReadRes :=
  if s.cutOff ia then .fail 0x42 0 ia
  else
    match s.walkRun ia size need with
    | (some (0, _, a), _) => .busy a
    | (some (code, sub, a), _) => .fail code sub a
    | (none, t) =>
      if t.badRun ia size then .fail 0x47 0 ia
      else
        match (t.homeBytes ia size).1 with
        | some bs => .ok bs
        | none => .busy ia

/-- The tries of a busy read are spent: the walk has failed (R240). -/
def ReadRes.orSpent (x : ReadRes) (spent : Bool) : ReadRes :=
  match x with
  | .busy ia => if spent then .fail 0x48 3 ia else .busy ia
  | y => y

/-- A read at a VA of a node (R386). -/
def State.readVa (s : State) (n : Node) (need : Need) (va size : Nat) : ReadRes :=
  match s.xlat n va size need with
  | .bad code ia => .fail code 0 ia
  | .ok ia _ => s.readHome ia size need

/-- A read at an IA as it stands (R448). -/
def State.readIa (s : State) (ia size : Nat) : ReadRes :=
  if s.placed ia size then s.readHome ia size .load else .fail 0x42 0 ia

/-- Translation of an address of the node's own launch through its range registers alone (R448). -/
def State.ownXlat (s : State) (n : Node) (va size : Nat) (need : Need) : Xlat :=
  if va / 2 ^ 56 ≠ 0 ∨ (va + size - 1) / 2 ^ 56 ≠ 0 then .bad 0x42 0 else s.rangeXlat n.spec.ranges n.spec.swm va size need

/-- A read at such an address. -/
def State.readOwn (s : State) (n : Node) (need : Need) (va size : Nat) : ReadRes :=
  match s.ownXlat n va size need with
  | .bad code ia => .fail code 0 ia
  | .ok ia _ => s.readHome ia size need

/-! ### Fields -/

/-- The little-endian number in `n` bytes at an offset. -/
def num (bs : List Byte) (off n : Nat) : Nat := leNat ((bs.drop off).take n)

/-- Bits of a number. -/
def bitsOf (x lo len : Nat) : Nat := x / 2 ^ lo % 2 ^ len

/-- The range register at an offset of the extension block (R234). -/
def rangeAt (ext : List Byte) (off : Nat) : Range where
  v := num ext off 8 % 2 == 1
  pr := bitsOf (num ext off 8) 1 1 == 1
  pw := bitsOf (num ext off 8) 2 1 == 1
  px := bitsOf (num ext off 8) 3 1 == 1
  base := num ext (off + 8) 8
  limit := num ext (off + 16) 8
  offset := num ext (off + 24) 8 % 2 ^ 52

/-- The field rules of a range register in use (R234). -/
def rangeOk (ext : List Byte) (off : Nat) : Bool :=
  let w0 := num ext off 8
  let base := num ext (off + 8) 8
  let limit := num ext (off + 16) 8
  let w3 := num ext (off + 24) 8
  w0 % 2 == 0 ||
    (w0 / 16 == 0 && base / 2 ^ 56 == 0 && base % 65536 == 0 && limit / 2 ^ 56 == 0 && limit % 65536 == 65535 &&
      decide (base ≤ limit) && w3 / 2 ^ 52 == 0 && w3 % 65536 == 0)

/-- The tile window at an offset of the extension block (R244, R365). -/
def windowAt (ext : List Byte) (off : Nat) : Window :=
  let w := num ext off 8
  ⟨bitsOf w 0 21, bitsOf w 32 13, bitsOf w 48 11⟩

/-- The rules of one tile window (R244, R365). -/
def windowOk (ext : List Byte) (off : Nat) : Bool :=
  let w := num ext off 8
  let k := windowAt ext off
  bitsOf w 21 11 == 0 && bitsOf w 45 3 == 0 && bitsOf w 59 5 == 0 &&
    (k.rows == 0 || (k.base % 128 == 0 && k.pitch % 128 == 0 && decide (128 ≤ k.pitch) && decide (k.pitch ≤ 4096) &&
      decide (k.rows ≤ 1024)))

/-- Two windows in use share a byte (R244). -/
def Window.overlaps (a b : Window) : Bool :=
  a.rows != 0 && b.rows != 0 && decide (a.base < b.base + b.rows * b.pitch) && decide (b.base < a.base + a.rows * a.pitch)

/-- No two windows of a list overlap. -/
def windowsApart : List Window → Bool
  | [] => true
  | k :: rest => rest.all (fun x => !k.overlaps x) && windowsApart rest

/-- The arena request at an offset of the spec (R378). -/
def areqAt (sp : List Byte) (off : Nat) : AReq :=
  let w := num sp off 8
  ⟨bitsOf w 0 21, bitsOf w 21 2, bitsOf w 23 5, bitsOf w 28 1 == 1, bitsOf w 29 12⟩

/-- The rules of an arena request (R378). -/
def State.areqOk (s : State) (sp : List Byte) (off nsucc : Nat) : Bool :=
  let w := num sp off 8
  let r := areqAt sp off
  let most := if r.place = 2 then s.massifSize r.col else greatest ((List.range 32).map s.massifSize)
  bitsOf w 41 23 == 0 && decide (r.size ≤ 2 ^ 20) && r.place != 3 && (r.place == 2 || r.col == 0) &&
    (!r.hv || decide (r.hix < nsucc)) && (r.place == 0 || decide (r.size * 65536 ≤ most))

/-- A power of two. -/
def isPow2 (x : Nat) : Bool := x != 0 && 2 ^ Nat.log2 x == x

/-! ### The manifest (R383, R384) -/

/-- Compares a manifest with the present configuration and a spec: the code of the first field that differs, and for MAP
the first entry. -/
def State.compareManifest (s : State) (m sp : List Byte) : Nat × Nat :=
  let count := s.coreMap.length
  let entry := fun (k : Nat) => num m (96 + 2 * k) 2
  if num m 0 4 ≠ 0x4D4E4146 ∨ num m 4 4 ≠ 1 then (1, 0)
  else if num m 8 64 ≠ firmwareDigest s.fabric.firmware then (2, 0)
  else if num m 72 1 ≠ bitsOf (num sp 17 1) 4 1 then (3, 0)
  else if num m 74 2 ≠ num sp 28 2 then (4, 0)
  else if num m 76 4 ≠ Config.clockKHz then (5, 0)
  else if num m 80 2 ≠ count then (6, 0)
  else
    match (List.range 256).find? fun k => entry k ≠ s.coreMap.getD k 0 with
    | some k => (7, k)
    | none => if num m 88 8 ≠ num sp 56 8 then (8, 0) else (0, 0)

/-! ### The rules of a spec (R364 to R366) -/

/-- Stages of a spec. -/
def specStages (sp : List Byte) : Nat := bitsOf (num sp 17 1) 0 4
/-- DET of a spec. -/
def specDet (sp : List Byte) : Bool := bitsOf (num sp 17 1) 4 1 == 1
/-- NSUCC of a spec. -/
def specNsucc (sp : List Byte) : Nat := num sp 68 4

/-- The role field of stage `i`. -/
def specRole (sp : List Byte) (i : Nat) : Nat := bitsOf (num sp 18 2) (2 * i) 2
/-- The crews of stage `i`. -/
def specCrews (sp : List Byte) (i : Nat) : Nat := bitsOf (num sp 20 4) (4 * i) 4

/-- Whether a node takes part in the graph still: accepted, and neither ended nor refused. -/
def Node.live (n : Node) : Bool :=
  match n.state with
  | .waiting => true
  | .runnable => true
  | .running => true
  | _ => false

/-- A node that still holds its launch context: its end is not done (R377). -/
def Node.alive (n : Node) : Bool := n.live || n.closing || n.failing.isSome

/-- The successor list names only nodes accepted and still waiting (R366, R372). -/
def State.succOk (s : State) (l : List Nat) : Bool := l.all fun i => (s.node? i).any fun n => n.state == .waiting && n.failing.isNone

/-- The NIDs of a successor list. -/
def succNids (bs : List Byte) (n : Nat) : List Nat := (List.range n).map fun i => num bs (4 * i) 4

/-- Every range register of an extension block obeys its rules (R234). -/
def rangesOk (ext : List Byte) : Bool := (List.range 8).all fun i => rangeOk ext (32 * i)

/-- The rules of the extension block (R365). -/
def extOk (ext : List Byte) (det : Bool) : Bool :=
  let tqn := num ext 328 4
  let rsn := num ext 344 4
  rangesOk ext && (List.range 8).all (fun i => windowOk ext (256 + 8 * i)) &&
    windowsApart ((List.range 8).map fun i => windowAt ext (256 + 8 * i)) &&
    num ext 320 8 % 32 == 0 && isPow2 tqn && decide (32 ≤ tqn) && decide (tqn ≤ 65536) && num ext 332 4 == 0 &&
    num ext 336 8 % 16 == 0 && (if det then decide (1 ≤ rsn) && decide (rsn ≤ 2 ^ 24) else rsn == 0) &&
    num ext 348 8 % 64 == 0 && num ext 356 28 == 0

/-- The field rules of a spec in rising order of offset, but for what lies outside it (R364, R366); `host` tells a launch
queue entry from a spec of `task.tnode`. -/
def State.specRules (s : State) (host : Bool) (sp : List Byte) : List (Nat × Bool) :=
  let st := specStages sp
  let nid := num sp 8 4
  let l1 := bitsOf (num sp 28 2) 0 6
  let rg := bitsOf (num sp 28 2) 6 6
  let q := num sp 32 2
  let inS := (List.range 8).filter fun i => i < st
  let outS := (List.range 8).filter fun i => st ≤ i
  [ (0, num sp 0 8 % 64 == 0)
  , (8, if host then decide (1 ≤ nid) && decide (nid ≤ 0x7FFFFFFF) && !(s.node? nid).any Node.alive else nid == 0)
  , (12, decide (1 ≤ num sp 12 4) && decide (num sp 12 4 ≤ 0x7FFFFFFF))
  , (16, num sp 16 1 / 8 == 0)
  , (17, decide (1 ≤ st) && decide (st ≤ 8) && num sp 17 1 / 32 == 0)
  , (18, inS.all (fun i => specRole sp i != 3) && outS.all fun i => specRole sp i == 0)
  , (20, inS.all (fun i => specCrews sp i != 0) && outS.all (fun i => specCrews sp i == 0) &&
      decide (total ((List.range 8).map (specCrews sp)) ≤ Config.crewsPerGang))
  , (24, num sp 24 4 != 0)
  , (28, num sp 28 2 / 4096 == 0 && decide (10 ≤ l1) && decide (l1 ≤ 24) && decide (8 ≤ rg) && decide (rg ≤ 34) &&
      decide (4 ≤ 48 - l1 - rg) && decide (48 - l1 - rg ≤ 30))
  , (30, decide (1 ≤ num sp 30 2) && decide (num sp 30 2 ≤ 4 * (48 - l1 - rg)))
  , (32, q % 8 == 0 && decide (24 ≤ q) && decide (q ≤ 4096))
  , (34, num sp 34 2 != 0)
  , (36, num sp 36 2 / 4096 == 0)
  , (39, num sp 39 1 == 0)
  , (48, num sp 48 8 % 8 == 0)
  , (68, decide (specNsucc sp ≤ 4096))
  , (72, num sp 72 8 % 4 == 0)
  , (80, num sp 80 8 % 64 == 0)
  , (88, s.areqOk sp 88 (specNsucc sp))
  , (96, s.areqOk sp 96 (specNsucc sp))
  , (104, s.areqOk sp 104 (specNsucc sp))
  , (112, s.areqOk sp 112 (specNsucc sp))
  , (124, num sp 124 4 == 0) ]

/-- What a spec points to, with the bytes of the spec itself, and the fields that point to what cannot be read. -/
structure Launch where
  sp : List Byte
  succ : List Byte
  ext : List Byte
  mani : List Byte
  failed : List Nat
  deriving DecidableEq, Repr

/-- What the reads of a launch come to. -/
inductive LaunchRes where
  | ok (l : Launch)
  /-- The read of what a field points to cannot be made. -/
  | bad (field va code sub ia : Nat)
  | busy (field va ia : Nat)
  deriving DecidableEq, Repr

/-- One read of a launch, at the address a field gives; no bytes where none are wanted. In a launch of the host a read that
cannot be made gives none either, and breaks the rule of its field (R366). -/
def part (rd : Nat → Nat → ReadRes) (host : Bool) (field a size : Nat) (wanted : Bool) (failed : List Nat)
    (k : List Byte → List Nat → LaunchRes) : LaunchRes :=
  if !wanted then k [] failed
  else
    match rd a size with
    | .ok bs => k bs failed
    | .fail code sub ia => if host then k [] (field :: failed) else .bad field a code sub ia
    | .busy ia => .busy field a ia

/-- Reads a spec and what it points to, where the pointers obey their own rules (R366). -/
def readLaunch (rd : Nat → Nat → ReadRes) (host : Bool) (addr : Nat) : LaunchRes :=
  part rd host 0 addr 128 true [] fun sp f0 =>
    let n := specNsucc sp
    part rd host 72 (num sp 72 8) (4 * n) (decide (0 < n ∧ n ≤ 4096) && num sp 72 8 % 4 == 0) f0 fun succ f1 =>
      part rd host 80 (num sp 80 8) 384 (num sp 80 8 % 64 == 0) f1 fun ext f2 =>
        let mani := num ext 348 8
        part rd host 80 mani 608 (mani != 0 && mani % 64 == 0) f2 fun m f3 => .ok ⟨sp, succ, ext, m, f3⟩

/-- The node spec of a launch whose rules hold; `addr` is the IA of the spec, `nid` its NID, `entry` its entry packet. -/
def State.specOf (s : State) (l : Launch) (addr nid : Nat) (entry : DWord) : Spec where
  addr := addr
  image := num l.sp 0 8
  nid := nid
  gangs := num l.sp 12 4
  ent := num l.sp 16 1 % 8
  stages := specStages l.sp
  det := specDet l.sp
  roles := (List.range (specStages l.sp)).map fun i =>
    match specRole l.sp i with
    | 0 => .copy
    | 1 => .matrix
    | _ => .vector
  crews := (List.range (specStages l.sp)).map (specCrews l.sp)
  lmask := BitVec.ofNat 32 (num l.sp 24 4)
  l1Units := bitsOf (num l.sp 28 2) 0 6
  regUnits := bitsOf (num l.sp 28 2) 6 6
  ssh := num l.sp 30 2
  quota := num l.sp 32 2
  ydef := num l.sp 34 2
  thr := num l.sp 36 2 % 4096
  swm := BitVec.ofNat 8 (num l.sp 38 1)
  larg := BitVec.ofNat 64 (num l.sp 40 8)
  omb := BitVec.ofNat 64 (num l.sp 48 8)
  seed := BitVec.ofNat 64 (num l.sp 56 8)
  deps := num l.sp 64 4
  succ := succNids l.succ (specNsucc l.sp)
  areqs := [88, 96, 104, 112].map (areqAt l.sp)
  ranges := (List.range 8).map fun i => rangeAt l.ext (32 * i)
  windows := ((List.range 8).map fun i => windowAt l.ext (256 + 8 * i)).filter fun k => k.rows != 0
  tqb := num l.ext 320 8
  tqn := num l.ext 328 4
  rsb := num l.ext 336 8
  rsn := num l.ext 344 4
  mani := num l.ext 348 8
  entry := entry
  mapC := s.coreMap.length

/-- The rules of what a launch points to: successors, extension block, manifest (R366, R384). -/
def State.pointedRules (s : State) (l : Launch) : List (Nat × Bool) :=
  let det := specDet l.sp
  [ (72, !l.failed.contains 72 && s.succOk (succNids l.succ (specNsucc l.sp)))
  , (80, !l.failed.contains 80 && extOk l.ext det &&
      (!det || num l.ext 348 8 == 0 || (s.compareManifest l.mani l.sp).1 == 0)) ]

/-- The first broken rule of a list. -/
def firstBroken (l : List (Nat × Bool)) : Option Nat := (l.find? fun x => !x.2).map Prod.fst

/-- The image header read through the node's own ranges, as a fetch (R75, R448): the entry packet, the offset that the
refusal names, or none where the walk is busy; with its tries spent, that read has failed too (R240). -/
def State.readHeader (s : State) (spent : Bool) (l : Launch) : Option (Nat ⊕ DWord) :=
  let n := { Node.none with spec := s.specOf l 0 1 0#64 }
  let image := num l.sp 0 8
  match (s.readOwn n .fetch image 64).orSpent spent with
  | .busy _ => none
  | .fail _ _ _ => some (.inl 0)
  | .ok h =>
    let ent := num l.sp 16 1 % 8
    let pkt := num h (32 + 4 * ent) 4
    if num h 20 1 ≤ ent ∨ num h 8 4 ≤ pkt then some (.inl 16) else some (.inr (BitVec.ofNat 64 (image + 64 + 16 * pkt)))

/-- What the rules make of a launch (R366, R367). -/
inductive Judged where
  | accept (entry : DWord)
  | refuse (code : Nat)
  | busy
  deriving DecidableEq, Repr

/-- The first field in order of offset that breaks its rule, or acceptance. The header counts where IMAGE, EXT and the range
registers through which it is read obey their own rules, whatever stands in the rest of the extension block. DESIGN CHOICE
(log 66). -/
def State.judge (s : State) (host spent : Bool) (l : Launch) : Judged :=
  let own := s.specRules host l.sp
  -- what a field points to counts at that field's offset, after the field's own rule
  let all := (own.filter fun x => x.1 ≤ 80) ++ (s.pointedRules l) ++ (own.filter fun x => 80 < x.1)
  let first := (sortOn Prod.fst (all.filter fun x => !x.2)).head?.map Prod.fst
  if (firstBroken (own.filter fun x => x.1 = 80 || x.1 = 0)).isSome ∨ l.ext = [] ∨ !rangesOk l.ext then .refuse (first.getD 0)
  else
    match s.readHeader spent l with
    | none => .busy
    | some (.inl code) => .refuse (match first with | some x => min x code | none => code)
    | some (.inr entry) =>
      match first with
      | some code => .refuse code
      | none => .accept entry

/-! ### STATUS (R367) -/

/-- The number of a node state. -/
def NodeState.code : NodeState → Nat
  | .waiting => 0
  | .runnable => 1
  | .running => 2
  | .completed => 3
  | .failed => 4
  | .refused => 5

/-- The STATUS word of a node. -/
def Node.status (n : Node) : Nat := n.state.code + 256 * n.code + 65536 * n.flags.toNat

/-- The device itself writes at the home of an IA; to a peer that cannot be reached the write is lost (R427). -/
def State.deviceWrite (s : State) (ia : Nat) (bs : List Byte) : State :=
  if s.cutOff ia then s.tell (.lostWrite ia 0 0 0) else (s.homeWrite ia bs).2

/-- A write at its home that the current fibre's crew sends (R427). -/
def State.ownWrite (s : State) (ia : Nat) (bs : List Byte) : State :=
  s.engineWrite s.c.num s.f.id.nid s.f.id.gid s.f.id.cid ia bs

/-- A walk of a run is busy. -/
def State.busyRun (s : State) (ia size : Nat) (need : Need) : Bool :=
  match (s.walkRun ia size need).1 with
  | some (0, _, _) => true
  | _ => false

/-- STATUS is written at the spec's address; while the walk there is busy the write is still to be made (R240, R367). -/
def State.putStatus (s : State) (nid : Nat) : State :=
  match s.node? nid with
  | none => s
  | some n =>
    let busy := s.busyRun (n.spec.addr + 120) 4 .store
    (s.setNode { n with statusDue := busy }).deviceWrite (n.spec.addr + 120) (leBytes 4 n.status)

/-- A node takes a state. -/
def State.nodeState (s : State) (nid : Nat) (st : NodeState) : State :=
  (s.onNode nid fun n => { n with state := st }).putStatus nid

/-- Sets a bit of STATUS [20:16], which the host is told the first time (R367). -/
def State.setFlag (s : State) (nid bit : Nat) : State :=
  match s.node? nid with
  | none => s
  | some x =>
    if x.flags.getLsbD (bit - 16) then s
    else ((s.setNode { x with flags := x.flags ||| BitVec.ofNat 5 (2 ^ (bit - 16)) }).tell (.status nid bit)).putStatus nid

/-! ### Acceptance (R366, R369, R370) -/

/-- The lowest free launch context (R369). -/
def State.freeLaunch (s : State) : Option Nat :=
  (List.range Config.launchContexts).find? fun c => s.allNodes.all fun n => !n.alive || n.ctx != c

/-- An accepted node. -/
def Node.fresh (sp : Spec) (ctx : Nat) : Node :=
  { Node.none with
    spec := sp
    state := if sp.deps = 0 then .runnable else .waiting
    counter := sp.deps
    ctx := ctx }

/-- The device accepts a node (R366, R370). -/
def State.accept (s : State) (sp : Spec) (ctx : Nat) : State := (s.setNode (Node.fresh sp ctx)).putStatus sp.nid

/-- Whether a handle is current: its context holds its NID (R388). -/
def State.current (s : State) (h : DWord) : Option Node :=
  let nid := (h.extractLsb' 0 32).toNat
  match s.node? nid with
  | none => none
  | some n =>
    if n.alive && n.ctx = (h.extractLsb' 32 10).toNat && h.extractLsb' 42 22 == 0#22 then some n
    else none

/-- The handle of a node (R388). -/
def Node.handle (n : Node) : DWord := BitVec.ofNat 64 (n.spec.nid + 2 ^ 32 * n.ctx)

/-! ### Dependences (R370, R371) -/

/-- A signal reaches a node's counter. -/
def State.signal (s : State) (nid : Nat) : State :=
  match s.node? nid with
  | none => s
  | some n =>
    if n.counter = 0 then s.setFlag nid 16
    else
      let t := s.setNode { n with counter := n.counter - 1 }
      if n.counter = 1 ∧ n.state = .waiting ∧ n.failing = none then t.nodeState nid .runnable else t

/-- Whether a dependence added to a node now would be dropped. -/
def Node.tooLate (n : Node) : Bool := n.state != .waiting || n.failing.isSome || n.counter == 2 ^ 32 - 1

/-- A dependence is added to a node (R371). -/
def State.addDep (s : State) (nid : Nat) : State :=
  match s.node? nid with
  | none => s
  | some n => if n.tooLate then s.setFlag nid 17 else s.setNode { n with counter := n.counter + 1 }

end Sys2Proof.Machine
end

