-- ==== Sys2Proof/Machine/Task.lean ====
section
/-!
DEFINITION. Task and arena instructions (20 R385 to R397), the per-core task queues and their spill rings (19 R373 to
R375).
-/
namespace Sys2Proof.Machine

/-! ### The release of a task word (R387) -/

/-- The release at `pkg` begins: it is an entry of the fibre, whose outcome the word waits for. -/
def State.beginRelease (s : State) : State :=
  let ser := s.f.nextSer
  let fence := { newAccess (.fence true false false) 0#64 0 0 .none [] with scope := 4 }
  State.issueNow { s with f := { s.f with rel := some (ser, none) } } fence

/-- The release is over and its word commits; a loss sets FSTAT.LOSTP, wherever the write was lost (R387). -/
def State.endRelease (s : State) (lost : Bool) : State :=
  let t := State.wordDone { s with f := { s.f with rel := none } } s.f.id
  if lost then { t with f := t.f.sees 1#32 0#32 } else t

/-- A word whose walk of a VA is busy tries again; at the ninth that walk has failed (R240). -/
def State.busyWord (s : State) (va : Nat) (failed : WordRes) : WordRes :=
  if s.spent (.word s.f.id va) then failed else .hold fun t => t.tryAgain (.word t.f.id va)

/-- A word that carries a release before its own action: `act` makes the word's result, and is told whether the
release lost a write. -/
def releaseFirst (s : State) (act : Bool → WordRes) : WordRes :=
  match s.f.rel with
  | none => .release State.beginRelease
  | some (_, none) => .wait
  | some (_, some lost) =>
    match act lost with
    | .commit ctl k => .commit ctl fun t => k (t.endRelease lost)
    | x => x

/-! ### Making nodes (R389) -/

/-- The pair {0, code} that `task.tnode` writes where it makes no node. -/
def noNode (code : Nat) : DWord := BitVec.ofNat 64 (2 ^ 32 * code)

/-- A spec that has been read at an IA is refused, or accepted under the next device NID (R389): what `task.tnode`
writes, and the state. `spent` tells that the tries of its reads are spent (R240). -/
def State.submit (s : State) (spent : Bool) (l : Launch) (ia : Nat) : DWord × State :=
  match s.judge false spent l with
  | .busy => (noNode 1, s)
  | .refuse code => (noNode 1, s.ownWrite (ia + 120) (leBytes 4 (5 + 256 * code)))
  | .accept entry =>
    match s.freeLaunch with
    | none => (noNode 2, s)
    | some ctx =>
      if 2 ^ 32 ≤ s.nextNid then (noNode 3, s)
      else
        let nid := s.nextNid
        let t := State.ownWrite { s with nextNid := nid + 1 } (ia + 8) (leBytes 4 nid)
        let n := Node.fresh (t.specOf l ia nid entry) ctx
        (n.handle, t.accept n.spec ctx)

/-- What the current fibre reads of a spec at a VA (R386, R448). -/
def State.readMaker (s : State) (va : DWord) : LaunchRes := readLaunch (fun v size => s.readVa s.n .load v size) false va.toNat

/-- `task.tnode dD, dA` (R389), whose spec is walked before its chain does anything (R386, R406), and again once its release is
done. -/
def tnodeWord (s : State) (d a : Fld) : WordRes :=
  let va := s.r.d a
  if va.toNat % 128 ≠ 0 then .trap 0x03 0 va
  else
    match s.xlat s.n va.toNat 128 .load with
    | .bad code ia => .fault code 0 va ia
    | .ok ia _ =>
      let act := releaseFirst s fun lost =>
        if lost then .regs (s.putD d (noNode 4))
        else
          match s.readMaker va with
          | .busy _ v e => s.busyWord v (.fault 0x48 3 (BitVec.ofNat 64 v) e)
          | .bad _ v code sub e => .fault code sub (BitVec.ofNat 64 v) e
          | .ok l =>
            let image := num l.sp 0 8
            let spent := s.spent (.word s.f.id image)
            if s.judge false spent l = .busy then s.busyWord image .wait
            else .regs fun t =>
              -- a lane before this one may have written the spec
              let x := t.submit spent (match t.readMaker va with | .ok m => m | _ => l) ia
              s.putD d x.1 x.2
      if s.f.rel.isSome then act
      else
        match s.readHome ia 128 .load with
        | .busy e => s.busyWord va.toNat (.fault 0x48 3 va e)
        | .fail code sub e => .fault code sub va e
        | .ok _ => act

/-! ### Linking and signalling (R390, R391) -/

/-- Whether a node takes part still, and does not fail. -/
def Node.open_ (n : Node) : Bool := n.live && n.failing.isNone

/-- One dependence is added to the node that `a` names, in the order that `b` gives (R390): a node that fails has not completed
until its end is done (R377, R409). -/
def State.depend (s : State) (a b : DWord) : State :=
  match s.current a with
  | none => s
  | some n =>
    let nid := n.spec.nid
    if b.extractLsb' 0 32 = 0#32 then s.addDep nid
    else
      match s.current b with
      | none => s
      | some p =>
        if !p.live then s
        else if n.tooLate then s.addDep nid
        else if 64 ≤ p.added.length then (s.setFlag nid 17).tell (.edgeDropped nid)
        else (s.addDep nid).onNode p.spec.nid fun p => { p with added := p.added ++ [nid] }

/-- A signal reaches the node that a handle names (R391). -/
def State.sendSignal (s : State) (h : DWord) : State :=
  match s.current h with
  | none => s.tell (.signalDropped (h.extractLsb' 0 32).toNat)
  | some n => s.signal n.spec.nid

/-- A word whose action follows a release, and is left out when that loses a write (R387). -/
def afterRelease (s : State) (k : State → State) : WordRes :=
  releaseFirst s fun lost => if lost then .regs id else .regs k

/-! ### Task queues (R373 to R375) -/

/-- The address of ring entry `i` of a node on a core (R365, R373). -/
def Node.ringVa (n : Node) (core i : Nat) : Nat := n.spec.tqb + 32 * n.spec.tqn * core + 32 * (i % n.spec.tqn)

/-- The current fibre's entry goes to the hardware queue of its core, and not to the ring (R374). -/
def State.queueTakes (s : State) : Bool :=
  let ring := s.n.ring s.c.num
  ring.rt == ring.rh && decide (s.c.queue.length < Config.taskQueue)

/-- The current fibre, whose chain stands at `pc`, enqueues eight cells on its own core, once the ring can be written where
it takes them (R374). -/
def State.enqueue (s : State) (pc : DWord) (cells : List Word) : State :=
  let core := s.c.num
  let ring := s.n.ring core
  if s.queueTakes then { s with c := { s.c with queue := s.c.queue ++ [⟨s.n.spec.nid, cells⟩] } }
  else if s.n.spec.tqn ≤ ring.used then s.setFlag s.n.spec.nid 18
  else
    let va := s.n.ringVa core ring.rt
    match s.ownXlat s.n va 32 .both with
    | .bad _ ia => s.nodeFault s.f.id pc 0x42 (BitVec.ofNat 64 va) ia
    | .ok ia _ =>
      match (s.walkRun ia 32 .both).1 with
      | some (0, _, e) => s.nodeFails s.f.id pc 0x48 3 (BitVec.ofNat 64 va) e
      | some (code, sub, e) => s.nodeFails s.f.id pc code sub (BitVec.ofNat 64 va) e
      | none => State.ownWrite { s with n := s.n.setRing { ring with rt := (ring.rt + 1) % 2 ^ 32 } } ia (bytesOfCells cells)

/-- The walk of a ring entry that the current fibre, or a lane that issues with it, is to write is busy (R240). -/
def State.ringBusy (s : State) : Bool :=
  let ring := s.n.ring s.c.num
  let room := if ring.rt = ring.rh then Config.taskQueue - s.c.queue.length else 0
  (List.range (s.mates.length - room)).any fun j =>
    decide (ring.used + j < s.n.spec.tqn) && match s.ownXlat s.n (s.n.ringVa s.c.num (ring.rt + j)) 32 .both with
      | .bad _ _ => false
      | .ok ia _ => s.busyRun ia 32 .both

/-- `task.enq wA` (R392). Where the ring's page is being migrated it tries again (R240). DESIGN CHOICE (log 62): a ring that
cannot be walked fails its node with that code. -/
def enqWord (s : State) (a : Fld) : WordRes :=
  let put := WordRes.regs fun t => t.enqueue s.r.pc (s.r.run a 8)
  releaseFirst s fun lost => if lost then .regs id else
    if s.ringBusy then s.busyWord (s.n.ringVa s.c.num (s.n.ring s.c.num).rt) put else put

/-- `task.deq wD` (R393): an access that takes an entry, or finds none, or waits for a refill. -/
def deqWord (s : State) (d : Fld) : WordRes :=
  .regs fun t => t.issueNow (newAccess .deq 0#64 0 0 (.cells (s.r.base + d.toNat) 8 []) [])

/-- TASK_QUEUE_REFILL: the hardware queue takes the oldest ring entry of the node with the lowest launch context (R374). A
ring that cannot be read fails its node. -/
def refill (s : State) (core : Nat) : State :=
  if Config.taskQueue ≤ (s.core core).queue.length then s
  else
    match (sortOn Node.ctx (s.allNodes.filter fun n => n.open_ && (n.ring core).used != 0)).head? with
    | none => s
    | some n =>
      let ring := n.ring core
      let va := n.ringVa core ring.rh
      let key := TryKey.ring n.spec.nid core
      match (s.readOwn n .both va 32).orSpent (s.spent key) with
      | .busy _ => s.tryAgain key
      | .fail code sub ia => (s.triesDone key).nodeFails ⟨n.spec.nid, 0, 0, 0⟩ 0#64 code sub (BitVec.ofNat 64 va) ia
      | .ok bs =>
        let e : TaskEntry := ⟨n.spec.nid, cellsOfBytes 8 bs⟩
        ((s.triesDone key).setNode (n.setRing { ring with rh := (ring.rh + 1) % 2 ^ 32 })).onCore core fun c =>
          { c with queue := c.queue ++ [e] }

/-! ### Continuations (R394) -/

/-- WAIT of a control word. -/
def contWait (w : Word) : Nat := (w.extractLsb' 16 8).toNat

/-- The control word breaks a rule of R394; `n` is the window's. -/
def contBad (w : Word) (n : Nat) : Bool :=
  let x := contWait w
  w.extractLsb' 24 8 != 0#8 || x % 4 == 3 || decide (32 ≤ x) || (x % 4 == 2 && decide (3 < x / 4)) ||
    (List.range 16).any fun k => w.getLsbD k && decide (n ≤ k)

/-- The 80 bytes of a record (R376). -/
def contBytes (r : Regs) (w : Word) (rpc : DWord) : List Byte :=
  leBytes 8 rpc.toNat ++ leBytes 2 (w.extractLsb' 0 16).toNat ++ [BitVec.ofNat 8 (contWait w)] ++ List.replicate 5 0#8 ++
    bytesOfCells ((List.range 16).map fun k => if w.getLsbD k then (r.cell k).val else 0#32)

/-- The record is written, and the current fibre ends (R394). `r` is the window as it stood at issue. -/
def State.suspendInto (s : State) (r : Regs) (va : DWord) (ia : Nat) (w : Word) : State :=
  let kind := contWait w % 4
  let sel := contWait w / 4
  let rec_ : Cont := {
    va := va, who := s.f.id, kind := kind, sel := sel
    need := if kind = 1 then (s.g.ctxAt sel).issued else s.f.nextSer, taken := false }
  let t := s.ownWrite ia (contBytes r w s.r.pc)
  State.endFibre { t with n := { t.n with conts := t.n.conts ++ [rec_] } }

/-- `task.cont dA, wB` (R394). -/
def contWord (s : State) (a b : Fld) : WordRes :=
  let va := s.r.d a
  let w := s.r.w b
  if contBad w s.r.n then .illegal
  else if (List.range 16).any fun k => w.getLsbD k && !(s.r.cell k).full then .wait
  else if va.toNat % 16 ≠ 0 then .trap 0x03 0 va
  else
    match s.xlat s.n va.toNat 80 .both with
    | .bad code ia => .fault code 0 va ia
    | .ok ia _ =>
      let act := releaseFirst s fun lost =>
        if lost then .commit .seq id else .commit .gone fun t => t.suspendInto s.r va ia w
      -- a release under way is waited for before the record is walked again
      if s.f.rel.any fun x => x.2.isNone then act
      else if !s.reaches s.c.num ia then .fault 0x42 0 va ia
      else
        match (s.walkRun ia 80 .both).1 with
        | some (0, _, e) => s.busyWord va.toNat (.fault 0x48 3 va e)
        | some (code, sub, e) => .fault code sub va e
        | none => act

/-! ### Arenas (R395 to R397) -/

/-- The number of an arena state (R237). -/
def ArenaState.code : ArenaState → Nat
  | .free => 0
  | .live => 1
  | .dying => 2
  | .dead => 3

/-- Bits [31:0] of word 0 of an entry (R237). -/
def Arena.word0 (e : Arena) : Nat := e.gen.toNat + 256 * e.state.code + 2048 * e.place + 8192 * e.col

/-- The pointer to offset 0 of an arena (R395). -/
def arenaPtr (slot : Nat) (gen : BitVec 8) : DWord := BitVec.ofNat 64 (0xA5 * 2 ^ 56 + slot * 2 ^ 44 + gen.toNat * 2 ^ 36)

/-- What `arena.aptr` gives for an index of the current fibre's node. -/
def State.aptr (s : State) (i : Nat) : DWord :=
  match s.n.arenas.getD i none with
  | none => 0#64
  | some slot =>
    let e := s.arena slot
    if e.state = .live ∧ e.nid = s.n.spec.nid then arenaPtr slot e.gen else 0#64

/-- The slot that a pointer names. -/
def ptrSlot (p : DWord) : Nat := (p.extractLsb' 44 12).toNat

/-- The four cells of `arena.ainfo` (R396). -/
def State.ainfo (s : State) (p : DWord) : List Word :=
  if p.extractLsb' 56 8 = 0xA5#8 then
    let e := s.arena (ptrSlot p)
    [BitVec.ofNat 32 e.word0, BitVec.ofNat 32 e.nid, BitVec.ofNat 32 (e.size / 65536), BitVec.ofNat 32 e.heir]
  else List.replicate 4 0#32

/-- The test of `arena.check` (R397). -/
def State.arenaPass (s : State) (p : DWord) (len : Nat) : Bool :=
  let e := s.arena (ptrSlot p)
  p.extractLsb' 56 8 == 0xA5#8 && e.state == .live && e.gen == p.extractLsb' 36 8 &&
    decide ((p.extractLsb' 0 36).toNat + len ≤ e.size)

/-! ### Instructions -/

/-- TASK_TNODE (R389). -/
def bodyTaskTnode (d a : Fld) (s : State) : WordRes :=
  tnodeWord s d a
/-- TASK_TNODE issued alone. -/
noncomputable def execTaskTnode (d a : Fld) (s : State) : Host.Outcome State Fault Refusal :=
  issueOne (.taskTnode d a) (bodyTaskTnode d a) s

/-- TASK_TDEP (R390). -/
def bodyTaskTdep (a b : Fld) (s : State) : WordRes :=
  afterRelease s fun t => t.depend (s.r.d a) (s.r.d b)
/-- TASK_TDEP issued alone. -/
noncomputable def execTaskTdep (a b : Fld) (s : State) : Host.Outcome State Fault Refusal :=
  issueOne (.taskTdep a b) (bodyTaskTdep a b) s

/-- TASK_TSIG (R391). -/
def bodyTaskTsig (a : Fld) (s : State) : WordRes :=
  afterRelease s fun t => t.sendSignal (s.r.d a)
/-- TASK_TSIG issued alone. -/
noncomputable def execTaskTsig (a : Fld) (s : State) : Host.Outcome State Fault Refusal :=
  issueOne (.taskTsig a) (bodyTaskTsig a) s

/-- TASK_ENQ (R392). -/
def bodyTaskEnq (a : Fld) (s : State) : WordRes :=
  enqWord s a
/-- TASK_ENQ issued alone. -/
noncomputable def execTaskEnq (a : Fld) (s : State) : Host.Outcome State Fault Refusal :=
  issueOne (.taskEnq a) (bodyTaskEnq a) s

/-- TASK_DEQ (R393). -/
def bodyTaskDeq (d : Fld) (s : State) : WordRes :=
  deqWord s d
/-- TASK_DEQ issued alone. -/
noncomputable def execTaskDeq (d : Fld) (s : State) : Host.Outcome State Fault Refusal :=
  issueOne (.taskDeq d) (bodyTaskDeq d) s

/-- TASK_CONT (R394). -/
def bodyTaskCont (a b : Fld) (s : State) : WordRes :=
  contWord s a b
/-- TASK_CONT issued alone. -/
noncomputable def execTaskCont (a b : Fld) (s : State) : Host.Outcome State Fault Refusal :=
  issueOne (.taskCont a b) (bodyTaskCont a b) s

/-- TASK_NSELF (R388). -/
def bodyTaskNself (d : Fld) (s : State) : WordRes :=
  .regs (s.putD d s.n.handle)
/-- TASK_NSELF issued alone. -/
noncomputable def execTaskNself (d : Fld) (s : State) : Host.Outcome State Fault Refusal :=
  issueOne (.taskNself d) (bodyTaskNself d) s

/-- ARENA_APTR (R395). -/
def bodyArenaAptr (d a : Fld) (s : State) : WordRes :=
  if 15 < (s.r.w a).toNat then .illegal else .regs (s.putD d (s.aptr (s.r.w a).toNat))
/-- ARENA_APTR issued alone. -/
noncomputable def execArenaAptr (d a : Fld) (s : State) : Host.Outcome State Fault Refusal :=
  issueOne (.arenaAptr d a) (bodyArenaAptr d a) s

/-- ARENA_AINFO (R396). -/
def bodyArenaAinfo (d a : Fld) (s : State) : WordRes :=
  .regs (s.putRun d (s.ainfo (s.r.d a)))
/-- ARENA_AINFO issued alone. -/
noncomputable def execArenaAinfo (d a : Fld) (s : State) : Host.Outcome State Fault Refusal :=
  issueOne (.arenaAinfo d a) (bodyArenaAinfo d a) s

/-- ARENA_CHECK (R397). -/
def bodyArenaCheck (a b : Fld) (s : State) : WordRes :=
  .regs (s.putP 15 (s.arenaPass (s.r.d a) (s.r.w b).toNat))
/-- ARENA_CHECK issued alone. -/
noncomputable def execArenaCheck (a b : Fld) (s : State) : Host.Outcome State Fault Refusal :=
  issueOne (.arenaCheck a b) (bodyArenaCheck a b) s

/-- TASK_QUEUE_REFILL (R374). -/
def execTaskQueueRefill (core : Nat) (s : State) : Host.Outcome State Fault Refusal :=
  event (fun t => refill t core) s

end Sys2Proof.Machine
end

