-- ==== Sys2Proof/Machine/Atomic.lean ====
section
/-!
DEFINITION. Atomic, ordering and cache instructions (15 R288 to R308) and the RED hold buffer (13 R267).
-/
namespace Sys2Proof.Machine

/-! ### AMO (R291 to R295) -/

/-- The cells of B that an AMO reads (R291). -/
def amoCells (op : Nat) : Nat :=
  if op < 9 then 1 else if op < 12 then 2 else if op = 12 then 4 else 8

/-- An AMO or AMO.ar at a scope (R289, R292). -/
def amoWord (s : State) (d a b : Fld) (op : Nat) (ar : Bool) (scope : BitVec 3) : WordRes :=
  let z := amoSize op
  let dest := Dest.cells (s.r.base + d.toNat) (z / 4) []
  let data := bytesOfCells (s.r.run b (amoCells op))
  globalWord s { newAccess (.amo op ar) 0#64 0 z dest data with scope := scope.toNat } (s.r.d a).toNat z true

/-! ### RED (R297 to R299, R267) -/

/-- The held REDs of a core that are still in its hold buffer. -/
def State.holdCount (s : State) (core : Nat) : Nat :=
  total (s.allGangs.map fun g => (g.held.filter fun h => h.core = core && !h.spilled).length)

/-- The held REDs in a node's spill area on a core. -/
def State.spillCount (s : State) (nid core : Nat) : Nat :=
  total (s.allGangs.map fun g => if g.nid = nid then (g.held.filter fun h => h.core = core && h.spilled).length else 0)

/-- Whether a RED of a node finds room on a core (R267). -/
def State.redRoom (s : State) (n : Node) (core : Nat) : Bool :=
  decide (s.holdCount core < Config.redHold) || decide (s.spillCount n.spec.nid core < n.spec.rsn)

/-- The issue number and gang of the oldest entry of a node in a core's hold buffer. -/
def State.oldestHeld (s : State) (nid core : Nat) : Option (Nat × Nat) :=
  (sortOn Prod.fst ((s.allGangs.filter fun g => g.nid = nid).flatMap fun g =>
    (g.held.filter fun h => h.core = core && !h.spilled).map fun h => (h.no, g.gid))).head?

/-- Moves the first entry of an issue number in a hold buffer to the spill area. -/
def spillFirst (core no : Nat) : List HeldRed → List HeldRed
  | [] => []
  | h :: r => if h.core = core ∧ h.no = no ∧ h.spilled = false then { h with spilled := true } :: r
    else h :: spillFirst core no r

/-- The address of an entry of a node's RED spill area on a core (R365). -/
def Node.spillVa (n : Node) (core k : Nat) : Nat := n.spec.rsb + 16 * n.spec.rsn * core + 16 * k

/-- The entry that the next move of a node's REDs on a core writes (log 39). -/
def State.nextSpill (s : State) (n : Node) (core : Nat) : Nat := n.spillVa core (s.spillCount n.spec.nid core)

/-- Why the device cannot write that entry now (R240, R448): a code, 0 for a busy walk, its SUB and the IA. -/
def State.spillStop (s : State) (n : Node) (core : Nat) : Option (Nat × Nat × Nat) :=
  match s.ownXlat n (s.nextSpill n core) 16 .both with
  | .bad _ ia => some (0x42, 0, ia)
  | .ok ia _ => (s.walkRun ia 16 .both).1

/-- The device writes that entry at the homes of its lines (R365): 16 bytes whose form nothing fixes (log 39). -/
def State.spillWrite (s : State) (n : Node) (core : Nat) : State :=
  match s.ownXlat n (s.nextSpill n core) 16 .both with
  | .ok ia _ => s.ownWrite ia ((List.range 16).map (Config.spillByte s.issueNo))
  | .bad _ _ => s

/-- The hold buffer of a core is full (R267). -/
def State.holdFull (s : State) (core : Nat) : Bool := decide (Config.redHold ≤ s.holdCount core)

/-- A RED takes its place among those its gang holds (R267): the node's oldest entry makes room where the buffer is full, or
the RED goes to the spill area itself. -/
def State.keepRed (s : State) (op ia : Nat) (va : DWord) (data : List Byte) : State :=
  let core := s.c.num
  let nid := s.f.id.nid
  let full := s.holdFull core
  let old := if full then s.oldestHeld nid core else none
  let u := if full then s.spillWrite s.n core else s
  let t := match old with
    | none => u
    | some (no, gid) => u.onGang nid gid fun g => { g with held := spillFirst core no g.held }
  let h : HeldRed := {
    cid := s.f.id.cid, fid := s.f.id.fid, ser := s.f.nextSer, op := op, ia := ia, data := data
    arena := if va.toNat / 2 ^ 56 = 0xA5 then some (va.toNat / 2 ^ 44 % 4096) else none
    spilled := full && old.isNone, core := core, no := s.issueNo }
  { t with g := { t.g with held := t.g.held ++ [h] }, f := { t.f with nextSer := t.f.nextSer + 1 } }

/-- A RED of the current fibre, whose chain stands at `pc`, is held (R267), or its node fails because the spill area that it
needs cannot be written (R448); DESIGN CHOICE (log 62): one that cannot be walked fails it with that code. -/
def State.holdRed (s : State) (pc : DWord) (op ia : Nat) (va : DWord) (data : List Byte) : State :=
  let t := s.wordDone s.f.id
  let va' := BitVec.ofNat 64 (s.nextSpill s.n s.c.num)
  if !s.redRoom s.n s.c.num then t.raise [⟨s.f.id, pc, 0x49, 0, va, ia⟩]
  else
    match if s.holdFull s.c.num then s.spillStop s.n s.c.num else none with
    | some (0, _, e) => t.nodeFails s.f.id pc 0x48 3 va' e
    | some (code, sub, e) => t.nodeFails s.f.id pc code sub va' e
    | none => t.keepRed op ia va data

/-- The page of the spill entry that a RED needs is being migrated (R240). -/
def State.spillBusy (s : State) : Bool :=
  s.holdFull s.c.num && (s.spillStop s.n s.c.num).any fun e => e.1 == 0

/-- A RED at a scope: held in deterministic mode, after all its checks (R298, R299). -/
def redWord (s : State) (a b : Fld) (op : Nat) (scope : BitVec 3) : WordRes :=
  let z := redSize op
  let data := (bytesOfCells (s.r.run b (if op = 8 then 2 else 1))).take z
  let va := s.r.d a
  if !s.n.spec.det then
    globalWord s { newAccess (.red op) 0#64 0 z .none data with scope := scope.toNat } va.toNat z true
  else if va.toNat % z ≠ 0 then .trap 0x03 0 va
  else
    match s.xlat s.n va.toNat z .both with
    | .bad code ia => .fault code 0 va ia
    | .ok ia _ =>
      match (s.walkRun ia z .both).1 with
      | some (0, _, e) => s.busyWord va.toNat (.fault 0x48 3 va e)
      | some (code, sub, e) => .fault code sub va e
      | none =>
        let hold := WordRes.regs fun t => t.holdRed s.r.pc op ia va data
        if !s.redRoom s.n s.c.num then .fault 0x49 0 va ia
        else if s.spillBusy then s.busyWord (s.nextSpill s.n s.c.num) hold
        else hold

/-! ### lda, str and fence (R290, R300 to R304) -/

/-- An ordered access of the scratchpad, at the offset in the low half of the pair (R290). -/
def orderedSpad (s : State) (acc : Access) (o : Word) : WordRes :=
  if o.toNat % acc.size ≠ 0 then .trap 0x03 0 (o.setWidth 64)
  else if (s.n.spadRun o acc.size).isNone then .trap 0x10 0 (o.setWidth 64)
  else .regs fun t => t.issueNow { acc with spad := true, va := o.setWidth 64, ia := (o.extractLsb' 0 21).toNat }

/-- An `lda` or `str`: the scratchpad form, or a global access (R289, R290). -/
def orderedWord (s : State) (a : Fld) (acc : Access) : WordRes :=
  let va := s.r.d a
  if va.extractLsb' 32 32 = 0xFFFFFFFF#32 then orderedSpad s acc (va.extractLsb' 0 32)
  else globalWord s acc va.toNat acc.size true

/-- `lda` of `size` bytes (R300, R301). -/
def ldaWord (s : State) (d a : Fld) (size : Nat) (scope : BitVec 3) : WordRes :=
  let dest := Dest.cells (s.r.base + d.toNat) ((size + 3) / 4) []
  orderedWord s a { newAccess .lda 0#64 0 size dest [] with scope := scope.toNat }

/-- `str` of `size` bytes (R300, R301). -/
def strWord (s : State) (a b : Fld) (size : Nat) (scope : BitVec 3) : WordRes :=
  let data := (bytesOfCells (s.r.run b ((size + 3) / 4))).take size
  orderedWord s a { newAccess .str 0#64 0 size .none data with scope := scope.toNat }

/-- A fence of a kind (R303). -/
def fenceWord (rel acq chk : Bool) (scope : BitVec 3) : WordRes :=
  .regs fun t => t.issueNow { newAccess (.fence rel acq chk) 0#64 0 0 .none [] with scope := scope.toNat }

/-! ### wbr, invr and pref (R305 to R308) -/

/-- `wbr` and `invr`: the whole range is checked as one access, and a length of 0 names no line (R305, R306). -/
def rangeWord (s : State) (a b : Fld) (op : AccOp) (scope : BitVec 3) : WordRes :=
  let va := s.r.d a
  let len := (s.r.w b).toNat
  if len = 0 then .regs id
  else
    match s.xlat s.n va.toNat len .load with
    | .bad code ia => .fault code 0 va ia
    | .ok ia tr => .regs fun t => t.issueNow
        { newAccess op va ia len .none [] with scope := scope.toNat, tracked := tr }

/-- A line is prefetched into the L1 of the current core, when its checks and its walk allow it and nothing earlier of
the fibre or on its way concerns it (R308). -/
def State.prefLine (s : State) (va : Nat) : State :=
  match s.xlat s.n va 1 .load with
  | .bad _ _ => s
  | .ok ia tr =>
    let ln := lineOf ia
    let mine := s.f.acc.any fun e => !e.spad && e.size != 0 && decide (lineOf e.ia ≤ ln) && decide (ln ≤ lineOf (e.ia + e.size - 1))
    if (s.c.line? ln).isSome ∨ mine ∨ !s.reaches s.c.num ia ∨ !s.pathUp s.c.num ia ∨ s.inFlight s.c.num ln ∨ s.bad.contains ln then s
    else
      match s.walkRun (ln * 128) 128 .load with
      | (some _, _) => s
      | (none, t) =>
        match t.homeLine ln .load with
        | (none, _) => s
        | (some home, t1) => t1.fillL1 t1.c.num ln home t1.n.ctx tr

/-- `pref`: at `crew` and `core` scope the first 512 lines of the range come into the L1; at wider scopes nothing that a
program can tell changes (R308). -/
def prefWord (s : State) (a b : Fld) (scope : BitVec 3) : WordRes :=
  let va := (s.r.d a).toNat
  let len := (s.r.w b).toNat
  if len = 0 ∨ 2 ≤ scope.toNat then .regs id
  else
    let count := min 512 ((va + len - 1) / 128 - va / 128 + 1)
    .regs fun t => (List.range count).foldl (fun u i => u.prefLine (if i = 0 then va else (va / 128 + i) * 128)) t

/-! ### Instructions -/

/-- AMO_ADD (R292). -/
def bodyAmoAdd (d a b : Fld) (sc : BitVec 3) (s : State) : WordRes :=
  amoWord s d a b 0 false sc
/-- AMO_ADD issued alone. -/
noncomputable def execAmoAdd (d a b : Fld) (sc : BitVec 3) (s : State) : Host.Outcome State Fault Refusal :=
  issueOne (.amoAdd d a b sc) (bodyAmoAdd d a b sc) s

/-- AMO_AND (R292). -/
def bodyAmoAnd (d a b : Fld) (sc : BitVec 3) (s : State) : WordRes :=
  amoWord s d a b 1 false sc
/-- AMO_AND issued alone. -/
noncomputable def execAmoAnd (d a b : Fld) (sc : BitVec 3) (s : State) : Host.Outcome State Fault Refusal :=
  issueOne (.amoAnd d a b sc) (bodyAmoAnd d a b sc) s

/-- AMO_OR (R292). -/
def bodyAmoOr (d a b : Fld) (sc : BitVec 3) (s : State) : WordRes :=
  amoWord s d a b 2 false sc
/-- AMO_OR issued alone. -/
noncomputable def execAmoOr (d a b : Fld) (sc : BitVec 3) (s : State) : Host.Outcome State Fault Refusal :=
  issueOne (.amoOr d a b sc) (bodyAmoOr d a b sc) s

/-- AMO_XOR (R292). -/
def bodyAmoXor (d a b : Fld) (sc : BitVec 3) (s : State) : WordRes :=
  amoWord s d a b 3 false sc
/-- AMO_XOR issued alone. -/
noncomputable def execAmoXor (d a b : Fld) (sc : BitVec 3) (s : State) : Host.Outcome State Fault Refusal :=
  issueOne (.amoXor d a b sc) (bodyAmoXor d a b sc) s

/-- AMO_MIN (R292). -/
def bodyAmoMin (d a b : Fld) (sc : BitVec 3) (s : State) : WordRes :=
  amoWord s d a b 4 false sc
/-- AMO_MIN issued alone. -/
noncomputable def execAmoMin (d a b : Fld) (sc : BitVec 3) (s : State) : Host.Outcome State Fault Refusal :=
  issueOne (.amoMin d a b sc) (bodyAmoMin d a b sc) s

/-- AMO_MAX (R292). -/
def bodyAmoMax (d a b : Fld) (sc : BitVec 3) (s : State) : WordRes :=
  amoWord s d a b 5 false sc
/-- AMO_MAX issued alone. -/
noncomputable def execAmoMax (d a b : Fld) (sc : BitVec 3) (s : State) : Host.Outcome State Fault Refusal :=
  issueOne (.amoMax d a b sc) (bodyAmoMax d a b sc) s

/-- AMO_MINU (R292). -/
def bodyAmoMinu (d a b : Fld) (sc : BitVec 3) (s : State) : WordRes :=
  amoWord s d a b 6 false sc
/-- AMO_MINU issued alone. -/
noncomputable def execAmoMinu (d a b : Fld) (sc : BitVec 3) (s : State) : Host.Outcome State Fault Refusal :=
  issueOne (.amoMinu d a b sc) (bodyAmoMinu d a b sc) s

/-- AMO_MAXU (R292). -/
def bodyAmoMaxu (d a b : Fld) (sc : BitVec 3) (s : State) : WordRes :=
  amoWord s d a b 7 false sc
/-- AMO_MAXU issued alone. -/
noncomputable def execAmoMaxu (d a b : Fld) (sc : BitVec 3) (s : State) : Host.Outcome State Fault Refusal :=
  issueOne (.amoMaxu d a b sc) (bodyAmoMaxu d a b sc) s

/-- AMO_SWAP (R292). -/
def bodyAmoSwap (d a b : Fld) (sc : BitVec 3) (s : State) : WordRes :=
  amoWord s d a b 8 false sc
/-- AMO_SWAP issued alone. -/
noncomputable def execAmoSwap (d a b : Fld) (sc : BitVec 3) (s : State) : Host.Outcome State Fault Refusal :=
  issueOne (.amoSwap d a b sc) (bodyAmoSwap d a b sc) s

/-- AMO_CAS (R292). -/
def bodyAmoCas (d a b : Fld) (sc : BitVec 3) (s : State) : WordRes :=
  amoWord s d a b 9 false sc
/-- AMO_CAS issued alone. -/
noncomputable def execAmoCas (d a b : Fld) (sc : BitVec 3) (s : State) : Host.Outcome State Fault Refusal :=
  issueOne (.amoCas d a b sc) (bodyAmoCas d a b sc) s

/-- AMO_ADD_D (R292). -/
def bodyAmoAddD (d a b : Fld) (sc : BitVec 3) (s : State) : WordRes :=
  amoWord s d a b 10 false sc
/-- AMO_ADD_D issued alone. -/
noncomputable def execAmoAddD (d a b : Fld) (sc : BitVec 3) (s : State) : Host.Outcome State Fault Refusal :=
  issueOne (.amoAddD d a b sc) (bodyAmoAddD d a b sc) s

/-- AMO_SWAP_D (R292). -/
def bodyAmoSwapD (d a b : Fld) (sc : BitVec 3) (s : State) : WordRes :=
  amoWord s d a b 11 false sc
/-- AMO_SWAP_D issued alone. -/
noncomputable def execAmoSwapD (d a b : Fld) (sc : BitVec 3) (s : State) : Host.Outcome State Fault Refusal :=
  issueOne (.amoSwapD d a b sc) (bodyAmoSwapD d a b sc) s

/-- AMO_CAS_D (R292). -/
def bodyAmoCasD (d a b : Fld) (sc : BitVec 3) (s : State) : WordRes :=
  amoWord s d a b 12 false sc
/-- AMO_CAS_D issued alone. -/
noncomputable def execAmoCasD (d a b : Fld) (sc : BitVec 3) (s : State) : Host.Outcome State Fault Refusal :=
  issueOne (.amoCasD d a b sc) (bodyAmoCasD d a b sc) s

/-- AMO_CAS_Q (R295). -/
def bodyAmoCasQ (d a b : Fld) (sc : BitVec 3) (s : State) : WordRes :=
  amoWord s d a b 13 false sc
/-- AMO_CAS_Q issued alone. -/
noncomputable def execAmoCasQ (d a b : Fld) (sc : BitVec 3) (s : State) : Host.Outcome State Fault Refusal :=
  issueOne (.amoCasQ d a b sc) (bodyAmoCasQ d a b sc) s

/-- AMO_ADD_AR (R294). -/
def bodyAmoAddAr (d a b : Fld) (sc : BitVec 3) (s : State) : WordRes :=
  amoWord s d a b 0 true sc
/-- AMO_ADD_AR issued alone. -/
noncomputable def execAmoAddAr (d a b : Fld) (sc : BitVec 3) (s : State) : Host.Outcome State Fault Refusal :=
  issueOne (.amoAddAr d a b sc) (bodyAmoAddAr d a b sc) s

/-- AMO_AND_AR (R294). -/
def bodyAmoAndAr (d a b : Fld) (sc : BitVec 3) (s : State) : WordRes :=
  amoWord s d a b 1 true sc
/-- AMO_AND_AR issued alone. -/
noncomputable def execAmoAndAr (d a b : Fld) (sc : BitVec 3) (s : State) : Host.Outcome State Fault Refusal :=
  issueOne (.amoAndAr d a b sc) (bodyAmoAndAr d a b sc) s

/-- AMO_OR_AR (R294). -/
def bodyAmoOrAr (d a b : Fld) (sc : BitVec 3) (s : State) : WordRes :=
  amoWord s d a b 2 true sc
/-- AMO_OR_AR issued alone. -/
noncomputable def execAmoOrAr (d a b : Fld) (sc : BitVec 3) (s : State) : Host.Outcome State Fault Refusal :=
  issueOne (.amoOrAr d a b sc) (bodyAmoOrAr d a b sc) s

/-- AMO_XOR_AR (R294). -/
def bodyAmoXorAr (d a b : Fld) (sc : BitVec 3) (s : State) : WordRes :=
  amoWord s d a b 3 true sc
/-- AMO_XOR_AR issued alone. -/
noncomputable def execAmoXorAr (d a b : Fld) (sc : BitVec 3) (s : State) : Host.Outcome State Fault Refusal :=
  issueOne (.amoXorAr d a b sc) (bodyAmoXorAr d a b sc) s

/-- AMO_MIN_AR (R294). -/
def bodyAmoMinAr (d a b : Fld) (sc : BitVec 3) (s : State) : WordRes :=
  amoWord s d a b 4 true sc
/-- AMO_MIN_AR issued alone. -/
noncomputable def execAmoMinAr (d a b : Fld) (sc : BitVec 3) (s : State) : Host.Outcome State Fault Refusal :=
  issueOne (.amoMinAr d a b sc) (bodyAmoMinAr d a b sc) s

/-- AMO_MAX_AR (R294). -/
def bodyAmoMaxAr (d a b : Fld) (sc : BitVec 3) (s : State) : WordRes :=
  amoWord s d a b 5 true sc
/-- AMO_MAX_AR issued alone. -/
noncomputable def execAmoMaxAr (d a b : Fld) (sc : BitVec 3) (s : State) : Host.Outcome State Fault Refusal :=
  issueOne (.amoMaxAr d a b sc) (bodyAmoMaxAr d a b sc) s

/-- AMO_MINU_AR (R294). -/
def bodyAmoMinuAr (d a b : Fld) (sc : BitVec 3) (s : State) : WordRes :=
  amoWord s d a b 6 true sc
/-- AMO_MINU_AR issued alone. -/
noncomputable def execAmoMinuAr (d a b : Fld) (sc : BitVec 3) (s : State) : Host.Outcome State Fault Refusal :=
  issueOne (.amoMinuAr d a b sc) (bodyAmoMinuAr d a b sc) s

/-- AMO_MAXU_AR (R294). -/
def bodyAmoMaxuAr (d a b : Fld) (sc : BitVec 3) (s : State) : WordRes :=
  amoWord s d a b 7 true sc
/-- AMO_MAXU_AR issued alone. -/
noncomputable def execAmoMaxuAr (d a b : Fld) (sc : BitVec 3) (s : State) : Host.Outcome State Fault Refusal :=
  issueOne (.amoMaxuAr d a b sc) (bodyAmoMaxuAr d a b sc) s

/-- AMO_SWAP_AR (R294). -/
def bodyAmoSwapAr (d a b : Fld) (sc : BitVec 3) (s : State) : WordRes :=
  amoWord s d a b 8 true sc
/-- AMO_SWAP_AR issued alone. -/
noncomputable def execAmoSwapAr (d a b : Fld) (sc : BitVec 3) (s : State) : Host.Outcome State Fault Refusal :=
  issueOne (.amoSwapAr d a b sc) (bodyAmoSwapAr d a b sc) s

/-- AMO_CAS_AR (R294). -/
def bodyAmoCasAr (d a b : Fld) (sc : BitVec 3) (s : State) : WordRes :=
  amoWord s d a b 9 true sc
/-- AMO_CAS_AR issued alone. -/
noncomputable def execAmoCasAr (d a b : Fld) (sc : BitVec 3) (s : State) : Host.Outcome State Fault Refusal :=
  issueOne (.amoCasAr d a b sc) (bodyAmoCasAr d a b sc) s

/-- AMO_ADD_D_AR (R294). -/
def bodyAmoAddDAr (d a b : Fld) (sc : BitVec 3) (s : State) : WordRes :=
  amoWord s d a b 10 true sc
/-- AMO_ADD_D_AR issued alone. -/
noncomputable def execAmoAddDAr (d a b : Fld) (sc : BitVec 3) (s : State) : Host.Outcome State Fault Refusal :=
  issueOne (.amoAddDAr d a b sc) (bodyAmoAddDAr d a b sc) s

/-- AMO_SWAP_D_AR (R294). -/
def bodyAmoSwapDAr (d a b : Fld) (sc : BitVec 3) (s : State) : WordRes :=
  amoWord s d a b 11 true sc
/-- AMO_SWAP_D_AR issued alone. -/
noncomputable def execAmoSwapDAr (d a b : Fld) (sc : BitVec 3) (s : State) : Host.Outcome State Fault Refusal :=
  issueOne (.amoSwapDAr d a b sc) (bodyAmoSwapDAr d a b sc) s

/-- AMO_CAS_D_AR (R294). -/
def bodyAmoCasDAr (d a b : Fld) (sc : BitVec 3) (s : State) : WordRes :=
  amoWord s d a b 12 true sc
/-- AMO_CAS_D_AR issued alone. -/
noncomputable def execAmoCasDAr (d a b : Fld) (sc : BitVec 3) (s : State) : Host.Outcome State Fault Refusal :=
  issueOne (.amoCasDAr d a b sc) (bodyAmoCasDAr d a b sc) s

/-- AMO_CAS_Q_AR (R294). -/
def bodyAmoCasQAr (d a b : Fld) (sc : BitVec 3) (s : State) : WordRes :=
  amoWord s d a b 13 true sc
/-- AMO_CAS_Q_AR issued alone. -/
noncomputable def execAmoCasQAr (d a b : Fld) (sc : BitVec 3) (s : State) : Host.Outcome State Fault Refusal :=
  issueOne (.amoCasQAr d a b sc) (bodyAmoCasQAr d a b sc) s

/-- RED_ADD (R297). -/
def bodyRedAdd (a b : Fld) (sc : BitVec 3) (s : State) : WordRes :=
  redWord s a b 0 sc
/-- RED_ADD issued alone. -/
noncomputable def execRedAdd (a b : Fld) (sc : BitVec 3) (s : State) : Host.Outcome State Fault Refusal :=
  issueOne (.redAdd a b sc) (bodyRedAdd a b sc) s

/-- RED_AND (R297). -/
def bodyRedAnd (a b : Fld) (sc : BitVec 3) (s : State) : WordRes :=
  redWord s a b 1 sc
/-- RED_AND issued alone. -/
noncomputable def execRedAnd (a b : Fld) (sc : BitVec 3) (s : State) : Host.Outcome State Fault Refusal :=
  issueOne (.redAnd a b sc) (bodyRedAnd a b sc) s

/-- RED_OR (R297). -/
def bodyRedOr (a b : Fld) (sc : BitVec 3) (s : State) : WordRes :=
  redWord s a b 2 sc
/-- RED_OR issued alone. -/
noncomputable def execRedOr (a b : Fld) (sc : BitVec 3) (s : State) : Host.Outcome State Fault Refusal :=
  issueOne (.redOr a b sc) (bodyRedOr a b sc) s

/-- RED_XOR (R297). -/
def bodyRedXor (a b : Fld) (sc : BitVec 3) (s : State) : WordRes :=
  redWord s a b 3 sc
/-- RED_XOR issued alone. -/
noncomputable def execRedXor (a b : Fld) (sc : BitVec 3) (s : State) : Host.Outcome State Fault Refusal :=
  issueOne (.redXor a b sc) (bodyRedXor a b sc) s

/-- RED_MIN (R297). -/
def bodyRedMin (a b : Fld) (sc : BitVec 3) (s : State) : WordRes :=
  redWord s a b 4 sc
/-- RED_MIN issued alone. -/
noncomputable def execRedMin (a b : Fld) (sc : BitVec 3) (s : State) : Host.Outcome State Fault Refusal :=
  issueOne (.redMin a b sc) (bodyRedMin a b sc) s

/-- RED_MAX (R297). -/
def bodyRedMax (a b : Fld) (sc : BitVec 3) (s : State) : WordRes :=
  redWord s a b 5 sc
/-- RED_MAX issued alone. -/
noncomputable def execRedMax (a b : Fld) (sc : BitVec 3) (s : State) : Host.Outcome State Fault Refusal :=
  issueOne (.redMax a b sc) (bodyRedMax a b sc) s

/-- RED_FADD_F32 (R298). -/
def bodyRedFaddF32 (a b : Fld) (sc : BitVec 3) (s : State) : WordRes :=
  redWord s a b 6 sc
/-- RED_FADD_F32 issued alone. -/
noncomputable def execRedFaddF32 (a b : Fld) (sc : BitVec 3) (s : State) : Host.Outcome State Fault Refusal :=
  issueOne (.redFaddF32 a b sc) (bodyRedFaddF32 a b sc) s

/-- RED_FADD_BF16 (R298). -/
def bodyRedFaddBf16 (a b : Fld) (sc : BitVec 3) (s : State) : WordRes :=
  redWord s a b 7 sc
/-- RED_FADD_BF16 issued alone. -/
noncomputable def execRedFaddBf16 (a b : Fld) (sc : BitVec 3) (s : State) : Host.Outcome State Fault Refusal :=
  issueOne (.redFaddBf16 a b sc) (bodyRedFaddBf16 a b sc) s

/-- RED_ADD_D (R297). -/
def bodyRedAddD (a b : Fld) (sc : BitVec 3) (s : State) : WordRes :=
  redWord s a b 8 sc
/-- RED_ADD_D issued alone. -/
noncomputable def execRedAddD (a b : Fld) (sc : BitVec 3) (s : State) : Host.Outcome State Fault Refusal :=
  issueOne (.redAddD a b sc) (bodyRedAddD a b sc) s

/-- LDA_W (R301). -/
def bodyLdaW (d a : Fld) (sc : BitVec 3) (s : State) : WordRes :=
  ldaWord s d a 4 sc
/-- LDA_W issued alone. -/
noncomputable def execLdaW (d a : Fld) (sc : BitVec 3) (s : State) : Host.Outcome State Fault Refusal :=
  issueOne (.ldaW d a sc) (bodyLdaW d a sc) s

/-- LDA_D (R301). -/
def bodyLdaD (d a : Fld) (sc : BitVec 3) (s : State) : WordRes :=
  ldaWord s d a 8 sc
/-- LDA_D issued alone. -/
noncomputable def execLdaD (d a : Fld) (sc : BitVec 3) (s : State) : Host.Outcome State Fault Refusal :=
  issueOne (.ldaD d a sc) (bodyLdaD d a sc) s

/-- LDA_B (R301). -/
def bodyLdaB (d a : Fld) (sc : BitVec 3) (s : State) : WordRes :=
  ldaWord s d a 1 sc
/-- LDA_B issued alone. -/
noncomputable def execLdaB (d a : Fld) (sc : BitVec 3) (s : State) : Host.Outcome State Fault Refusal :=
  issueOne (.ldaB d a sc) (bodyLdaB d a sc) s

/-- STR_W (R301). -/
def bodyStrW (a b : Fld) (sc : BitVec 3) (s : State) : WordRes :=
  strWord s a b 4 sc
/-- STR_W issued alone. -/
noncomputable def execStrW (a b : Fld) (sc : BitVec 3) (s : State) : Host.Outcome State Fault Refusal :=
  issueOne (.strW a b sc) (bodyStrW a b sc) s

/-- STR_D (R301). -/
def bodyStrD (a b : Fld) (sc : BitVec 3) (s : State) : WordRes :=
  strWord s a b 8 sc
/-- STR_D issued alone. -/
noncomputable def execStrD (a b : Fld) (sc : BitVec 3) (s : State) : Host.Outcome State Fault Refusal :=
  issueOne (.strD a b sc) (bodyStrD a b sc) s

/-- STR_B (R301). -/
def bodyStrB (a b : Fld) (sc : BitVec 3) (s : State) : WordRes :=
  strWord s a b 1 sc
/-- STR_B issued alone. -/
noncomputable def execStrB (a b : Fld) (sc : BitVec 3) (s : State) : Host.Outcome State Fault Refusal :=
  issueOne (.strB a b sc) (bodyStrB a b sc) s

/-- FENCE (R303). -/
def bodyFence (sc : BitVec 3) (k : Bool) (_s : State) : WordRes :=
  fenceWord true true k sc
/-- FENCE issued alone. -/
noncomputable def execFence (sc : BitVec 3) (k : Bool) (s : State) : Host.Outcome State Fault Refusal :=
  issueOne (.fence sc k) (bodyFence sc k) s

/-- FENCE_ACQ (R303). -/
def bodyFenceAcq (sc : BitVec 3) (k : Bool) (_s : State) : WordRes :=
  fenceWord false true k sc
/-- FENCE_ACQ issued alone. -/
noncomputable def execFenceAcq (sc : BitVec 3) (k : Bool) (s : State) : Host.Outcome State Fault Refusal :=
  issueOne (.fenceAcq sc k) (bodyFenceAcq sc k) s

/-- FENCE_REL (R303). -/
def bodyFenceRel (sc : BitVec 3) (k : Bool) (_s : State) : WordRes :=
  fenceWord true false k sc
/-- FENCE_REL issued alone. -/
noncomputable def execFenceRel (sc : BitVec 3) (k : Bool) (s : State) : Host.Outcome State Fault Refusal :=
  issueOne (.fenceRel sc k) (bodyFenceRel sc k) s

/-- WBR (R306). -/
def bodyWbr (a b : Fld) (sc : BitVec 3) (s : State) : WordRes :=
  rangeWord s a b .wbr sc
/-- WBR issued alone. -/
noncomputable def execWbr (a b : Fld) (sc : BitVec 3) (s : State) : Host.Outcome State Fault Refusal :=
  issueOne (.wbr a b sc) (bodyWbr a b sc) s

/-- INVR (R307). -/
def bodyInvr (a b : Fld) (sc : BitVec 3) (s : State) : WordRes :=
  rangeWord s a b .invr sc
/-- INVR issued alone. -/
noncomputable def execInvr (a b : Fld) (sc : BitVec 3) (s : State) : Host.Outcome State Fault Refusal :=
  issueOne (.invr a b sc) (bodyInvr a b sc) s

/-- PREF (R308). -/
def bodyPref (a b : Fld) (sc : BitVec 3) (s : State) : WordRes :=
  prefWord s a b sc
/-- PREF issued alone. -/
noncomputable def execPref (a b : Fld) (sc : BitVec 3) (s : State) : Host.Outcome State Fault Refusal :=
  issueOne (.pref a b sc) (bodyPref a b sc) s

end Sys2Proof.Machine
end

