-- ==== Sys2Proof/Machine/Matrix.lean ====
section
/-!
DEFINITION. The matrix engine: shapes and grants (16 R327 to R329, 17 R349, R350), canonical tiles as it reads them (16
R321, R322, R326), the A26 sums and promotion (04 R101 to R104, 16 R330, R331), and the words `mma` and ACC (17 R351
to R357).
-/
namespace Sys2Proof.Machine

/-! ### Grants (R327, R328, R349) -/

/-- M of SHP. -/
def shpM (w : Word) : Nat := (w.extractLsb' 0 7).toNat
/-- N of SHP. -/
def shpN (w : Word) : Nat := (w.extractLsb' 7 7).toNat
/-- T of SHP. -/
def shpT (w : Word) : Nat := (w.extractLsb' 21 5).toNat
/-- K8 of SHP. -/
def shpK8 (w : Word) : Bool := w.getLsbD 26
/-- SP of SHP. -/
def shpSp (w : Word) : Bool := w.getLsbD 27
/-- Value slots used of each group in a sparse row: 2, 4 or 8 (R322, R328). -/
def shpKept (w : Word) : Nat := 2 ^ ((w.extractLsb' 28 2).toNat + 1)

/-- Accumulator bytes of a grant (R329). -/
def grantBytes (w : Word) : Nat := 8 * shpM w * shpN w * shpT w

/-- The accumulator bytes of the core that other gangs do not hold: a gang's previous grant counts as free (R327). -/
def State.freeAcc (s : State) : Nat :=
  Config.accBytes - total ((s.gangsOn s.c.num).map fun g =>
    if g.nid = s.g.nid ∧ g.gid = s.g.gid then 0 else grantBytes g.shp)

/-- The grant of a request, as the cells {M, N, K, T}, with its flags SP and SN; none for a request that breaks a rule
(R327, R349). -/
def grantOf (req : List Word) (free : Nat) : Option (Nat × Nat × Nat × Nat) :=
  let m := (req.getD 0 0#32).toNat
  let n := (req.getD 1 0#32).toNat
  let k := (req.getD 2 0#32).toNat
  let f := (req.getD 3 0#32).toNat
  let side := fun (x : Nat) => x == 16 || x == 32 || x == 64
  if !side m ∨ !side n ∨ (k ≠ 16 ∧ k ≠ 32) ∨ 8 ≤ f ∨ (f % 2 = 0 ∧ f ≠ 0) ∨ 6 ≤ f then none
  else some (m, n, if f % 2 = 1 then 2 * k else k, min 16 (free / (8 * m * n)))

/-- SHP of a grant (R328). -/
def shpOf (req : List Word) (m n k t : Nat) : Word :=
  let f := (req.getD 3 0#32).toNat
  BitVec.ofNat 32 (m + 2 ^ 7 * n + 2 ^ 14 * k + 2 ^ 21 * t + (if (req.getD 2 0#32).toNat = 32 then 2 ^ 26 else 0) +
    2 ^ 27 * (f % 2) + 2 ^ 28 * (f / 2))

/-- A new tile (R350). -/
def Tile.fresh (mn : Nat) : Tile := ⟨List.replicate mn 0#32, List.replicate mn 0#26, 0, 0, none⟩

/-- The gang issues a matrix word to its engine. -/
def Gang.queueWord (g : Gang) (w : MWord) : Gang :=
  { g with
    mnext := g.mnext + 1
    matq := g.matq ++ [{ no := g.mnext + 1, shp := g.shp, p := g.promP, rsr := g.promRsr, word := w }] }

/-- `shape` (R349, R350): it never waits. -/
def shapeWord (s : State) (d a : Fld) : WordRes :=
  engineWord s fun r =>
    let req := r.run a 4
    let (cells, shp) := match grantOf req s.freeAcc with
      | none => ([0, 0, 0, 0], 0#32)
      | some (m, n, k, t) => ([m, n, k, t], shpOf req m n k t)
    .regs fun t => s.putRun d (cells.map (BitVec.ofNat 32))
      (s.leadDoes (fun g => { g with shp := shp }.queueWord (.shape shp)) t)

/-! ### A26 and promotion (R101 to R103) -/

/-- A26 as a format of patterns; it has no subnormals (R101). -/
def fmtA26 : Fmt := ⟨8, 17, 127, true⟩

/-- Rounding to A26 (R101). -/
def toA26 (v : V) : BitVec 26 :=
  if v.isNan then BitVec.ofNat 26 (fmtA26.encode V.nan)
  else if v.cls ≠ .fin then BitVec.ofNat 26 (fmtA26.encode v)
  else
    let r := (roundMag v.s (.rat v.n 1 v.k) 18 (-1000000) 1000000 .rne 0).1
    let e := leadExp r.n r.k
    if 128 ≤ e then BitVec.ofNat 26 (fmtA26.encode (V.infOf v.s))
    else if e < -126 then BitVec.ofNat 26 (fmtA26.encode (V.zeroOf v.s))
    else BitVec.ofNat 26 (fmtA26.encode r)

/-- The exact sum of values of which some may be infinite or NaN, without flags (R102, R103). -/
def plainSum (l : List V) : V :=
  if l.any V.isNan then V.nan
  else
    match l.filter fun v => v.cls == .inf with
    | [] => sumFinite l false
    | v :: rest => if rest.all fun u => u.s == v.s then v else V.nan

/-- The exact product of two elements, a NaN for 0 × ∞ (R102). -/
def plainProduct (a b : V) : V :=
  if a.isNan ∨ b.isNan then V.nan
  else if (a.cls = .zero ∧ b.cls = .inf) ∨ (a.cls = .inf ∧ b.cls = .zero) then V.nan
  else if a.cls = .inf ∨ b.cls = .inf then V.infOf (xor a.s b.s)
  else mulFinite a b

/-- A partial after a k-step's products (R102). -/
def addStep (part : BitVec 26) (products : List V) : BitVec 26 :=
  let step := toA26 (plainSum products)
  toA26 (plainSum [fmtA26.decode part.toNat, fmtA26.decode step.toNat])

/-- The random bits of a promotion under RSR (R103). -/
def promBits (seed : DWord) (gid j t e : Nat) : Nat :=
  (rand32 (seed ^^^ 0xA5A5A5A5A5A5A5A5#64) (BitVec.ofNat 64 gid)
    (BitVec.ofNat 64 (j * 2 ^ 20 ||| t * 2 ^ 16 ||| e))).toNat

/-- The element after a promotion (R103). -/
def promoted (c : Word) (part : BitVec 26) (rsr : Bool) (u : Nat) : Word :=
  let v := plainSum [fmtFp32.decode c.toNat, fmtA26.decode part.toNat]
  if v.isNan then BitVec.ofNat 32 (fmtFp32.encode V.nan)
  else BitVec.ofNat 32 (fmtFp32.convert v (if rsr then .rsr else .rne) u).1

/-- Promotes every element of tile number `t` (R103): partials +0, count 0, j one more. -/
def Tile.promote (x : Tile) (seed : DWord) (gid t : Nat) (rsr : Bool) : Tile :=
  { x with
    elems := (List.range x.elems.length).map fun e =>
      promoted (x.elems.getD e 0#32) (x.parts.getD e 0#26) rsr (promBits seed gid x.j t e)
    parts := x.parts.map fun _ => 0#26
    count := 0
    j := x.j + 1 }

/-! ### k-steps (R321, R322, R331, R352) -/

/-- The format of a K8 element of the A or of the B tile, by the type of the `mma` (R351). -/
def k8Fmt (type : Nat) (isB : Bool) : Fmt :=
  match type with
  | 1 => fmtE4m3
  | 2 => fmtE5m2
  | _ => if isB then fmtE5m2 else fmtE4m3

/-- The element at a byte offset of the scratchpad, K16 or K8. -/
def Gang.tileElem (g : Gang) (type : Nat) (isB : Bool) (o i : Nat) : V :=
  if type = 0 then fmtBf16.decode (g.spad.num (o + 2 * i) 2) else (k8Fmt type isB).decode (g.spad.num (o + i) 1)

/-- The products of k-step j of output row `i`, column `n` (R102, R331). -/
def Gang.products (g : Gang) (shp : Word) (type : Nat) (sparse : Bool) (a b j i n : Nat) : List V :=
  let h := shpM shp
  let w := shpN shp
  let slots := if type = 0 then 16 else 32
  if sparse then
    let rowBytes := if type = 0 then 40 else 48
    let ar := a + rowBytes * (j * h + i)
    let br := b + 64 * (j * w + n)
    (List.range (slots / 8)).flatMap fun grp =>
      (List.range (shpKept shp)).map fun q =>
        let slot := 8 * grp + q
        let pos := g.spad.num (ar + 32 + slot / 2) 1 / 2 ^ (4 * (slot % 2)) % 16
        plainProduct (g.tileElem type false ar slot) (g.tileElem type true br (16 * grp + pos))
  else
    let ar := a + 32 * (j * h + i)
    let br := b + 32 * (j * w + n)
    (List.range slots).map fun k => plainProduct (g.tileElem type false ar k) (g.tileElem type true br k)

/-- One k-step of an `mma` on a tile (R352). -/
def Gang.kStep (g : Gang) (seed : DWord) (o : MOp) (t type : Nat) (sparse : Bool) (a b j : Nat) : Gang :=
  let n := shpN o.shp
  { g with tiles := g.tiles.modify t fun x =>
      let parts := (List.range x.parts.length).map fun e =>
        addStep (x.parts.getD e 0#26) (g.products o.shp type sparse a b j (e / n) (e % n))
      let y := { x with parts := parts, count := x.count + 1 }
      if o.p ≤ y.count then y.promote seed g.gid t o.rsr else y }

/-! ### Taking words (R332, R353 to R357) -/

/-- Stores of a tile: its elements as bytes from an offset, with granule bits (R356). -/
def Gang.storeTile (g : Gang) (off : Nat) (bs : List Byte) : Gang :=
  let g1 := g.spadPut ((List.range bs.length).map (off + ·)) bs
  { g1 with gran := granSetRun off bs.length g1.gran }

/-- An element rounded to bf16 (R356). -/
def elemBf16 (w : Word) : Nat := fmtBf16.rne (fmtFp32.decode w.toNat)

/-- The elements of a tile of the gang. -/
def Gang.elems (g : Gang) (t : Nat) : List Word := (g.tiles.getD t (Tile.fresh 0)).elems

/-- What the engine does with a word, an `mma` with all its k-steps in order (R350 to R357). DESIGN CHOICE (log 75): `acc.ld.f32`
keeps a NaN as its bytes stand, as R357 reads them, though R102 makes a NaN in a tile the canonical one. -/
def Gang.takeWord (g : Gang) (seed : DWord) (o : MOp) : Gang :=
  let on := fun (t : Nat) (k : Tile → Tile) => { g with tiles := g.tiles.modify t k }
  match o.word with
  | .shape shp => { g with tiles := List.replicate (shpT shp) (Tile.fresh (shpM shp * shpN shp)) }
  | .mma t type sparse a b left => left.foldl (fun g j => g.kStep seed o t type sparse a b j) g
  | .zero t => on t fun x => { Tile.fresh x.elems.length with chain := x.chain }
  | .chainB t reorder => on t fun x =>
      { (if x.chain.isSome then x.promote seed g.gid t o.rsr else x) with chain := some reorder }
  | .chainE t => on t fun x => { x.promote seed g.gid t o.rsr with chain := none }
  | .flush t => on t fun x => x.promote seed g.gid t o.rsr
  | .setprom => g
  | .stF32 t off => g.storeTile off (bytesOfCells (g.elems t))
  | .stBf16 t off => g.storeTile off ((g.elems t).flatMap fun w => leBytes 2 (elemBf16 w))
  | .ldF32 t off => on t fun x =>
      { x with
        elems := (List.range x.elems.length).map fun e => BitVec.ofNat 32 (g.spad.num (off + 4 * e) 4)
        parts := x.parts.map fun _ => 0#26
        count := 0 }

/-- Whether the k-steps of an `mma` on a tile may be taken in any order (R104). -/
def Gang.mayReorder (g : Gang) (det : Bool) (t : Nat) : Bool :=
  !det && (g.tiles.getD t (Tile.fresh 0)).chain == some true

/-- The place in the queue and the k-step that a pick names, in a chain that may be reordered: every earlier word is an
`mma` too. -/
def Gang.picked (g : Gang) (det : Bool) (pick : Nat) : Option (Nat × Nat) :=
  let k := pick / 16
  match g.matq[k]? with
  | none => none
  | some o =>
    match o.word with
    | .mma t _ _ _ _ left =>
      if g.mayReorder det t ∧ left.contains (pick % 16) ∧
          (g.matq.take k).all (fun e => match e.word with | .mma _ _ _ _ _ _ => true | _ => false) then
        some (k, pick % 16)
      else none
    | _ => none

/-- One k-step of the `mma` at a place of the queue; the word goes with its last. -/
def Gang.takeStep (g : Gang) (seed : DWord) (k j : Nat) : Gang :=
  match g.matq[k]? with
  | none => g
  | some o =>
    match o.word with
    | .mma t type sparse a b left =>
      let rest := left.filter fun x => x ≠ j
      let g1 := g.kStep seed o t type sparse a b j
      if rest = [] then { g1 with matq := dropAt k g1.matq }
      else { g1 with matq := g1.matq.set k { o with word := .mma t type sparse a b rest } }
    | _ => g

/-- A gang in the order of the turns: its age, that of its oldest live crew, 0 when its crews have ended; then NID and GID
(R333, log 48). -/
def Gang.turnKey (g : Gang) : Nat × Nat × Nat :=
  ((g.crews.map Crew.age).foldl min ((g.crews.head?.map Crew.age).getD 0), g.nid, g.gid)

/-- The order of the keys. -/
def turnBefore (x y : Nat × Nat × Nat) : Bool :=
  decide (x.1 < y.1 ∨ (x.1 = y.1 ∧ (x.2.1 < y.2.1 ∨ (x.2.1 = y.2.1 ∧ x.2.2 < y.2.2))))

/-- The first of some keys. -/
def firstTurn : List (Nat × Nat × Nat) → Option (Nat × Nat × Nat)
  | [] => none
  | x :: rest =>
    match firstTurn rest with
    | none => some x
    | some y => some (if turnBefore y x then y else x)

/-- The gang whose turn it is on a core's matrix engine: after the one that had it last the next younger with a word to
take, and then the oldest again (R333). -/
def State.matrixTurn (s : State) (core : Nat) : Option (Nat × Nat × Nat) :=
  let keys := ((s.gangsOn core).filter fun g => g.matq != []).map Gang.turnKey
  let later := keys.filter fun k => (s.core core).mturn.any fun last => turnBefore last k
  if later = [] then firstTurn keys else firstTurn later

/-- MATRIX_WORD_TAKE: when it is the gang's turn the engine takes a k-step of its next word, or another word whole (R333); where a
chain may be reordered, `pick` names the word and the k-step that it takes (R104, R353). -/
def matrixTake (s : State) (nid gid pick : Nat) : State :=
  match s.gang? nid gid, s.node? nid with
  | some g, some n =>
    (match g.core?, g.matq with
     | some core, o :: rest =>
       if s.matrixTurn core ≠ some g.turnKey then s
       else
         let seed := n.spec.seed
         let g1 := match g.picked n.spec.det pick with
           | some (k, j) => g.takeStep seed k j
           | none =>
             match o.word with
             | .mma _ _ _ _ _ left => g.takeStep seed 0 (left.headD 0)
             | _ => { g.takeWord seed o with matq := rest }
         (s.setGang g1).onCore core fun c => { c with mturn := some g.turnKey }
     | _, _ => s)
  | _, _ => s

/-! ### mma and ACC (R351 to R357) -/

/-- A word that names a tile: trap 0x02 without it (R327), then its own checks, and the room in the queue (R353). -/
def tileWord (s : State) (t : Nat) (checks : Regs → Option WordRes) (w : Regs → MWord) : WordRes :=
  engineWord s fun r =>
    if shpT s.g.shp ≤ t then .illegal
    else
      match checks r with
      | some x => x
      | none =>
        if Config.matrixQueue ≤ s.g.matq.length then .wait
        else
          let word := w r
          .regs (s.leadDoes fun g => g.queueWord word)

/-- An offset that must be aligned and whose bytes must lie in the gang's scratchpad (R326, R356). -/
def offsetCheck (s : State) (o : Word) (align len : Nat) : Option WordRes :=
  if o.toNat % align ≠ 0 then some (.trap 0x03 0 (o.setWidth 64))
  else if s.n.spadBytes < o.toNat + len then some (.trap 0x10 0 (o.setWidth 64))
  else none

/-- `mma` of a type (R351, R352). DESIGN CHOICE (log 59): where both offsets break a rule, TVAL names A's. -/
def mmaWord (s : State) (d a b : Fld) (p : Bool) (k : BitVec 4) (type : Nat) : WordRes :=
  let shp := s.g.shp
  let steps := k.toNat + 1
  let aLen := (if p then (if type = 0 then 40 else 48) else 32) * shpM shp * steps
  let bLen := (if p then 64 else 32) * shpN shp * steps
  tileWord s d.toNat
    (fun r =>
      let x := r.w a
      let y := r.w b
      if decide (type = 0) = shpK8 shp ∨ p ≠ shpSp shp then some .illegal
      else if x.toNat % 128 ≠ 0 then some (.trap 0x03 0 (x.setWidth 64))
      else if y.toNat % 128 ≠ 0 then some (.trap 0x03 0 (y.setWidth 64))
      else
        match offsetCheck s x 128 aLen with
        | some e => some e
        | none => offsetCheck s y 128 bLen)
    fun r => .mma d.toNat type p (r.w a).toNat (r.w b).toNat (List.range steps)

/-- The bytes of a tile at `size` bytes for each element. -/
def State.tileBytes (s : State) (size : Nat) : Nat := size * shpM s.g.shp * shpN s.g.shp

/-- `acc.st.*` and `acc.ld.f32` (R356, R357). -/
def accMove (s : State) (d a : Fld) (size : Nat) (w : Nat → MWord) : WordRes :=
  tileWord s d.toNat (fun r => offsetCheck s (r.w a) 16 (s.tileBytes size)) fun r => w (r.w a).toNat

/-- `acc.setprom` (R355). -/
def setpromWord (s : State) (a b : Fld) : WordRes :=
  engineWord s fun r =>
    let p := (r.w a).toNat
    let mode := (r.w b).toNat
    if shpT s.g.shp = 0 ∨ p = 0 ∨ 64 < p ∨ 1 < mode then .illegal
    else if Config.matrixQueue ≤ s.g.matq.length then .wait
    else .regs (s.leadDoes fun g => { g with promP := p, promRsr := mode == 1 }.queueWord .setprom)

/-- `acc.chain.b` (R354). -/
def chainBegin (s : State) (d a : Fld) : WordRes :=
  tileWord s d.toNat (fun r => if 1 < (r.w a).toNat then some .illegal else none) fun r => .chainB d.toNat ((r.w a).getLsbD 0)

/-- SHAPE (R349). -/
def bodyShape (d a : Fld) (s : State) : WordRes :=
  shapeWord s d a
/-- SHAPE issued alone. -/
noncomputable def execShape (d a : Fld) (s : State) : Host.Outcome State Fault Refusal :=
  issueOne (.shape d a) (bodyShape d a) s

/-- MMA_BF16 (R352). -/
def bodyMmaBf16 (d a b : Fld) (p : Bool) (k : BitVec 4) (s : State) : WordRes :=
  mmaWord s d a b p k 0
/-- MMA_BF16 issued alone. -/
noncomputable def execMmaBf16 (d a b : Fld) (p : Bool) (k : BitVec 4) (s : State) : Host.Outcome State Fault Refusal :=
  issueOne (.mmaBf16 d a b p k) (bodyMmaBf16 d a b p k) s

/-- MMA_E4M3 (R352). -/
def bodyMmaE4m3 (d a b : Fld) (p : Bool) (k : BitVec 4) (s : State) : WordRes :=
  mmaWord s d a b p k 1
/-- MMA_E4M3 issued alone. -/
noncomputable def execMmaE4m3 (d a b : Fld) (p : Bool) (k : BitVec 4) (s : State) : Host.Outcome State Fault Refusal :=
  issueOne (.mmaE4m3 d a b p k) (bodyMmaE4m3 d a b p k) s

/-- MMA_E5M2 (R352). -/
def bodyMmaE5m2 (d a b : Fld) (p : Bool) (k : BitVec 4) (s : State) : WordRes :=
  mmaWord s d a b p k 2
/-- MMA_E5M2 issued alone. -/
noncomputable def execMmaE5m2 (d a b : Fld) (p : Bool) (k : BitVec 4) (s : State) : Host.Outcome State Fault Refusal :=
  issueOne (.mmaE5m2 d a b p k) (bodyMmaE5m2 d a b p k) s

/-- MMA_E4M3E5M2 (R352). -/
def bodyMmaE4m3e5m2 (d a b : Fld) (p : Bool) (k : BitVec 4) (s : State) : WordRes :=
  mmaWord s d a b p k 3
/-- MMA_E4M3E5M2 issued alone. -/
noncomputable def execMmaE4m3e5m2 (d a b : Fld) (p : Bool) (k : BitVec 4) (s : State) : Host.Outcome State Fault Refusal :=
  issueOne (.mmaE4m3e5m2 d a b p k) (bodyMmaE4m3e5m2 d a b p k) s

/-- ACC_ZERO (R354). -/
def bodyAccZero (d : Fld) (s : State) : WordRes :=
  tileWord s d.toNat (fun _ => none) fun _ => .zero d.toNat
/-- ACC_ZERO issued alone. -/
noncomputable def execAccZero (d : Fld) (s : State) : Host.Outcome State Fault Refusal :=
  issueOne (.accZero d) (bodyAccZero d) s

/-- ACC_CHAIN_B (R354). -/
def bodyAccChainB (d a : Fld) (s : State) : WordRes :=
  chainBegin s d a
/-- ACC_CHAIN_B issued alone. -/
noncomputable def execAccChainB (d a : Fld) (s : State) : Host.Outcome State Fault Refusal :=
  issueOne (.accChainB d a) (bodyAccChainB d a) s

/-- ACC_CHAIN_E (R354). -/
def bodyAccChainE (d : Fld) (s : State) : WordRes :=
  tileWord s d.toNat (fun _ => none) fun _ => .chainE d.toNat
/-- ACC_CHAIN_E issued alone. -/
noncomputable def execAccChainE (d : Fld) (s : State) : Host.Outcome State Fault Refusal :=
  issueOne (.accChainE d) (bodyAccChainE d) s

/-- ACC_SETPROM (R355). -/
def bodyAccSetprom (a b : Fld) (s : State) : WordRes :=
  setpromWord s a b
/-- ACC_SETPROM issued alone. -/
noncomputable def execAccSetprom (a b : Fld) (s : State) : Host.Outcome State Fault Refusal :=
  issueOne (.accSetprom a b) (bodyAccSetprom a b) s

/-- ACC_ST_F32 (R356). -/
def bodyAccStF32 (d a : Fld) (s : State) : WordRes :=
  accMove s d a 4 fun o => .stF32 d.toNat o
/-- ACC_ST_F32 issued alone. -/
noncomputable def execAccStF32 (d a : Fld) (s : State) : Host.Outcome State Fault Refusal :=
  issueOne (.accStF32 d a) (bodyAccStF32 d a) s

/-- ACC_ST_BF16 (R356). -/
def bodyAccStBf16 (d a : Fld) (s : State) : WordRes :=
  accMove s d a 2 fun o => .stBf16 d.toNat o
/-- ACC_ST_BF16 issued alone. -/
noncomputable def execAccStBf16 (d a : Fld) (s : State) : Host.Outcome State Fault Refusal :=
  issueOne (.accStBf16 d a) (bodyAccStBf16 d a) s

/-- ACC_LD_F32 (R357). -/
def bodyAccLdF32 (d a : Fld) (s : State) : WordRes :=
  accMove s d a 4 fun o => .ldF32 d.toNat o
/-- ACC_LD_F32 issued alone. -/
noncomputable def execAccLdF32 (d a : Fld) (s : State) : Host.Outcome State Fault Refusal :=
  issueOne (.accLdF32 d a) (bodyAccLdF32 d a) s

/-- ACC_FLUSH (R354). -/
def bodyAccFlush (d : Fld) (s : State) : WordRes :=
  tileWord s d.toNat (fun _ => none) fun _ => .flush d.toNat
/-- ACC_FLUSH issued alone. -/
noncomputable def execAccFlush (d : Fld) (s : State) : Host.Outcome State Fault Refusal :=
  issueOne (.accFlush d) (bodyAccFlush d) s

/-! ### Event -/

/-- MATRIX_WORD_TAKE (R353). -/
def execMatrixWordTake (nid gid pick : Nat) (s : State) : Host.Outcome State Fault Refusal :=
  event (fun t => matrixTake t nid gid pick) s

end Sys2Proof.Machine
end

