-- ==== Sys2Proof/Machine/Object.lean ====
section
/-!
DEFINITION. Announced objects (09 R195 to R211) and the object instructions (10 R221 to R226). A step of the object
sequencer is up to three steps of the device: its reads, its committing compare-and-swap with the guarded writes before
it, and what follows the commit; other agents act in between (R202, log 26).
-/
namespace Sys2Proof.Machine

/-! ### Layouts (R195 to R199) -/

/-- The header words that a step reads, word 1 whole too. -/
structure ObjHdr where
  next : Nat
  applied : Nat
  lo : Nat
  hi : Nat
  word1 : Nat
  word2 : Nat
  word3 : Nat
  deriving DecidableEq, Repr

/-- A header of its words. -/
def objHdrOf (next w1 w2 w3 : Nat) : ObjHdr where
  next := next
  applied := w1 % 2 ^ 32
  lo := w1 / 2 ^ 32 % 65536
  hi := w1 / 2 ^ 48
  word1 := w1
  word2 := w2
  word3 := w3

/-- Reads header words 0 to 3 at a frame address. -/
def State.readHdr (s : State) (hp : Nat) : ObjHdr :=
  objHdrOf (s.mem.num hp 8) (s.mem.num (hp + 8) 8) (s.mem.num (hp + 16) 8) (s.mem.num (hp + 24) 8)

/-- KIND (R196). -/
def ObjHdr.kind (h : ObjHdr) : Nat := h.word3 % 16
/-- CAP (R196). -/
def ObjHdr.cap (h : ObjHdr) : Nat := h.word3 / 2 ^ 32 % 65536
/-- SCOPE (R196). -/
def ObjHdr.scope (h : ObjHdr) : Nat := h.word3 / 16 % 8
/-- A reserved bit of word 3 is set (R196). -/
def ObjHdr.reserved (h : ObjHdr) : Bool := h.word3 / 128 % 2 ^ 25 != 0 || h.word3 / 2 ^ 48 != 0

/-- An announcement record (R197): its fields without the bits a reader ignores, and W0 and W1 whole, which a
compare-and-swap compares. -/
structure ObjRec where
  w0 : Nat
  w1 : Nat
  ticket : Nat
  state : Nat
  op : Nat
  cl : Nat
  operand : Nat
  agid : Nat
  deriving DecidableEq, Repr

/-- A record of its words W0 and W1. -/
def recOf (w0 w1 : Nat) : ObjRec where
  w0 := w0
  w1 := w1
  ticket := w0 % 2 ^ 32
  state := w0 / 2 ^ 32 % 16
  op := w0 / 2 ^ 36 % 16
  cl := w0 / 2 ^ 48 % 1024
  operand := w1 % 2 ^ 32
  agid := w1 / 2 ^ 32

/-- The offset of the record of a ticket in its object (R195). -/
def recOff (t : Nat) : Nat := 64 + 32 * (t % 8)

/-- Reads W0 and W1 of a record at a frame address. -/
def State.readRec (s : State) (rp : Nat) : ObjRec := recOf (s.mem.num rp 8) (s.mem.num (rp + 8) 8)

/-- Writes a number at a frame address. -/
def State.putNum (s : State) (pa size v : Nat) : State := { s with mem := s.mem.writeBytes pa (leBytes size v) }

/-- W0 of a record (R197). -/
def recW0 (ticket state op status cl : Nat) : Nat :=
  ticket + 2 ^ 32 * state + 2 ^ 36 * op + 2 ^ 40 * status + 2 ^ 48 * cl

/-- STATUS of a result word (R199). -/
def rwStatus (w : Nat) : Nat := w / 2 ^ 32 % 4
/-- TAG of a result word (R199). -/
def rwTag (w : Nat) : Nat := w / 2 ^ 34
/-- A result word of its fields (R199). -/
def rwOf (result status ticket : Nat) : Nat := result % 2 ^ 32 + 2 ^ 32 * status + 2 ^ 34 * (ticket % 2 ^ 30)
/-- A result word is older than ticket u (R199). -/
def rwOlder (w u : Nat) : Bool :=
  let x := (u % 2 ^ 30 + 2 ^ 30 - rwTag w) % 2 ^ 30
  decide (1 ≤ x) && decide (x ≤ 2 ^ 29)
/-- The open mailbox of a ticket on an object (R199, R203). -/
def openBox (obj t : Nat) : Nat := rwOf (obj / 64) 3 t
/-- The VA of the mailbox of a GFI, by the OMB of a node (R200). -/
def mailboxVa (n : Node) (gfi : Nat) : Nat := n.spec.omb.toNat + 8 * gfi

/-! ### Effects (R201) -/

/-- What applying a ticket does: KSTATE as its halves, word 2, whether the element slot is written, RESULT, STATUS. -/
structure ObjEffect where
  lo : Nat
  hi : Nat
  word2 : Nat
  writes : Bool
  result : Nat
  status : Nat
  deriving DecidableEq, Repr

/-- Whether an OP belongs to a KIND (R201). -/
def opFits (kind op : Nat) : Bool :=
  match kind with
  | 1 => op == 1 || op == 2 || op == 7
  | 2 => op == 3 || op == 4 || op == 7
  | 3 => op == 5 || op == 7
  | 4 => op == 6 || op == 7
  | _ => false

/-- The element slot that applying an OP touches (R201). -/
def ObjHdr.slot (h : ObjHdr) (op : Nat) : Option Nat :=
  if h.kind = 1 ∧ opFits 1 op then
    (if op = 1 then (if h.lo < h.cap then some h.lo else none) else if 0 < h.lo then some (h.lo - 1) else none)
  else if h.kind = 2 ∧ opFits 2 op then
    (if op = 3 then (if h.hi < h.cap then some ((h.lo + h.hi) % h.cap) else none)
     else if 0 < h.hi then some h.lo else none)
  else none

/-- The effect of an OP with operand `b` at the kind state of a header; `v` is the VALUE of its element slot (R201). DESIGN CHOICE
(log 73): a program may have stored a TOP or COUNT above CAP, or a CAP of 0; that object counts as full, and a HEAD taken
modulo 0 is itself. -/
def ObjHdr.effect (h : ObjHdr) (op b v : Nat) : ObjEffect :=
  let same : ObjEffect := ⟨h.lo, h.hi, h.word2, false, 0, 0⟩
  if !opFits h.kind op then same
  else
    match h.kind with
    | 1 =>
      if op = 1 then
        (if h.lo < h.cap then { same with lo := h.lo + 1, writes := true, result := h.lo } else { same with status := 2 })
      else if h.lo = 0 then { same with status := 1 }
      else { same with lo := if op = 2 then h.lo - 1 else h.lo, result := v }
    | 2 =>
      if op = 3 then
        (if h.hi < h.cap then { same with hi := h.hi + 1, writes := true, result := (h.lo + h.hi) % h.cap }
         else { same with status := 2 })
      else if h.hi = 0 then { same with status := 1 }
      else if op = 4 then
        { same with lo := if h.cap = 0 then (h.lo + 1) % 65536 else (h.lo + 1) % h.cap, hi := h.hi - 1, result := v }
      else { same with result := v }
    | 3 =>
      { same with
        word2 := if op = 5 then (h.word2 + ((BitVec.ofNat 32 b).signExtend 64).toNat) % 2 ^ 64 else h.word2
        result := h.word2 % 2 ^ 32 }
    | _ =>
      if op = 7 then { same with result := h.hi * 65536 + h.lo }
      else if h.lo + 1 = h.cap then { same with lo := 0, hi := (h.hi + 1) % 65536, result := h.hi }
      else { same with lo := (h.lo + 1) % 65536, result := h.hi }

/-! ### Touching homes (R202) -/

/-- What touching an address of a step comes to: the frame address and the IA, or why there is none. -/
inductive Touch where
  | ok (pa ia : Nat)
  /-- A walk is busy, or the core's own copy of a line is still on its way to its home (R262). -/
  | wait
  | fault (code sub va ia : Nat)
  deriving DecidableEq, Repr

/-- A step of a fibre touches `size` bytes at a VA whose translation is given: the checks, the walk, and the core's copies of
the lines leave (R202, R240, R262, R429). The IA is told too. -/
def State.touch (s : State) (x : Site) (tr : Xlat) (va size : Nat) (need : Need) : Touch × State :=
  match tr with
  | .bad code ia => (.fault code 0 va ia, s)
  | .ok ia _ =>
    if !s.reaches x.core ia then (.fault 0x42 0 va ia, s)
    else if !s.pathUp x.core ia then (.wait, s)
    else
      match s.walkRun ia size need with
      | (some (0, _, a), _) =>
        if s.spent (.step x.fib.id) then (.fault 0x48 3 va a, s) else (.wait, s.tryAgain (.step x.fib.id))
      | (some (code, sub, a), t) => (.fault code sub va a, t)
      | (none, t) =>
        if t.badRun ia size then (.fault 0x47 0 va ia, t)
        else
          match (t.sentTo x.core ia).clearLines x.core ia size with
          | (false, t1) => (.wait, t1)
          | (true, t1) =>
            match t1.walk ia need with
            | (.frame pa, t2) => (.ok pa ia, t2)
            | (_, t2) => (.wait, t2)

/-- A fault abandons the step: its crew stops, and with it the instruction (R202, R224). -/
def State.stepFault (s : State) (x : Site) (code sub va ia : Nat) : State :=
  (s.triesDone (.step x.fib.id)).raise [⟨x.fib.id, x.fib.regs.pc, code, sub, BitVec.ofNat 64 va, ia⟩]

/-- A step touches an address and goes on with its frame address; its run keeps the lines. The addresses of a step are
translated in the order in which it comes to use them: header, record, mailbox, element slot; the first that fails is
reported. DESIGN CHOICE (log 26). -/
def State.touching (s : State) (x : Site) (tr : Xlat) (va size : Nat) (need : Need) (k : State → Nat → State) : State :=
  match s.touch x tr va size need with
  | (.ok pa ia, t) => k (t.onFibre x.fib.id fun b =>
      { b with obj := b.obj.map fun r => { r with lines := distinct (r.lines ++ linesOf ia size) } }) pa
  | (.wait, t) => t
  | (.fault code sub va ia, t) => t.stepFault x code sub va ia

/-- A step touches an address of its object or of an element, as the fibre's own access translates it (R202). -/
def State.touchVa (s : State) (x : Site) (va size : Nat) (need : Need) (k : State → Nat → State) : State :=
  s.touching x (s.xlat x.node va size need) va size need k

/-- Touches the header of a run's object. -/
def State.atHeader (s : State) (x : Site) (r : ObjRun) (k : State → Nat → State) : State :=
  s.touchVa x r.va.toNat 32 .both k

/-- Touches the record of a ticket. -/
def State.atRecord (s : State) (x : Site) (r : ObjRun) (t : Nat) (k : State → Nat → State) : State :=
  s.touchVa x (r.va.toNat + recOff t) 32 .both k

/-- Touches a mailbox, through the node's own range registers (R448). -/
def State.atBox (s : State) (x : Site) (gfi : Nat) (k : State → Nat → State) : State :=
  s.touching x (s.ownXlat x.node (mailboxVa x.node gfi) 8 .both) (mailboxVa x.node gfi) 8 .both k

/-- A step writes at homes that it has translated: the copies of their lines that the core has come by since leave first
(R202, R260, R262), and its next release covers those homes (R263). -/
def State.stepWrites (s : State) (x : Site) (r : ObjRun) (k : State → State) : State :=
  let t := r.lines.foldl (fun u ln => u.flushLine x.core ln) s
  if r.lines.any fun ln => t.inFlight x.core ln then t
  else k (r.lines.foldl (fun u ln => u.sentTo x.core (ln * 128)) t)

/-! ### Runs (R208, R209, R222, R224) -/

/-- CID × 32 + FID of a fibre (R197). -/
def clOf (i : FibId) : Nat := i.cid * 32 + i.fid

/-- The run of a fibre. -/
def State.onRun (s : State) (id : FibId) (k : ObjRun → ObjRun) : State :=
  s.onFibre id fun b => { b with obj := b.obj.map k }

/-- The step under way of a run. -/
def State.setMid (s : State) (id : FibId) (m : ObjMid) : State := s.onRun id fun r => { r with mid := m }

/-- A step of a run has been taken; at 18 steps a run that is not complete completes as pending, or as none where it
holds no ticket (R209, R226). DESIGN CHOICE (log 27): a ticket installed at step 18 is held, so that run is pending. -/
def ObjRun.counted (r : ObjRun) : ObjRun :=
  let r1 := { r with steps := r.steps + 1 }
  match r.phase with
  | .complete _ => r1
  | _ =>
    if r1.steps < Config.objSteps then r1
    else { r1 with phase := .complete (if r.xfn = 8 ∨ r.ticket = 0 then 4 else 3) }

/-- The crew of a fibre runs. -/
def Gang.runs (g : Gang) (cid : Nat) : Bool := (g.crew? cid).any fun c => c.state == .running

/-- The step is over and counted after its change of the run; a run that was stopped meanwhile is interrupted now (R208,
R209). -/
def State.countStep (s : State) (x : Site) (k : ObjRun → ObjRun) : State :=
  (s.triesDone (.step x.fib.id)).onFibre x.fib.id fun b =>
    match b.obj with
    | none => b
    | some r =>
      let q := (k { r with mid := .idle, lines := [] }).counted
      if !r.halted then { b with obj := some q }
      else if b.life ≠ .live then { b with obj := none }
      else
        let b1 := { b with obj := some { q with phase := .stopped, halted := false } }
        if x.gang.runs b.id.cid then b1.resumed else b1

/-- A lower lane of the same issue is still at work (R222). -/
def State.lowerLane (s : State) (x : Site) (r : ObjRun) : Bool :=
  s.allFibres.any fun b => b.id.nid == x.fib.id.nid && b.id.gid == x.fib.id.gid && decide (b.id.fid < x.fib.id.fid) &&
    match b.obj with
    | some q => q.grp == r.grp && (match q.phase with | .complete _ => false | .stopped => false | _ => true)
    | none => false

/-- The release of an object instruction at the object's SCOPE, a fence of the fibre (R210). -/
def Fibre.releaseAt (b : Fibre) (scope mseq : Nat) (r : ObjRun) : Fibre :=
  let a : Access := {
    ser := b.nextSer, base := b.nextSer, op := .fence true false false, spad := false, va := 0#64, ia := 0, size := 0
    dest := .none, data := [], scope := scope, tracked := true, stage := .issued, grp := r.grp, mseq := mseq, lost := false
    half := Option.none, orphan := false, mute := false, ckpt := Option.none }
  { b with acc := b.acc ++ [a], nextSer := b.nextSer + 1, obj := some { r with scope := scope, fence := some a.ser } }

/-- The sequencer acts for a fibre whose run is at work, when its lane's turn has come (R222). Before its first step it reads
the object's SCOPE, and the run's release at that scope is performed (R210). The end of a step that has committed waits
for nothing (R202). DESIGN CHOICE (log 74): a SCOPE of 0, 6 or 7 that a program has stored in the header is taken as it
stands. -/
def State.objStep (s : State) (who : FibId) (k : State → Site → ObjRun → State) : State :=
  match s.site? who with
  | none => s
  | some x =>
    match x.fib.obj with
    | none => s
    | some r =>
      if r.mid.tail then k s x r
      else if r.xfn = 0 ∨ r.phase = .stopped ∨ !x.gang.runs who.cid ∨ s.lowerLane x r then s
      else
        match r.fence with
        | none =>
          s.atHeader x r fun t hp =>
            let mseq := if x.gang.role x.fib.stg = .matrix then x.gang.mnext else 0
            (t.triesDone (.step who)).onFibre who fun b => b.releaseAt (t.readHdr hp).scope mseq r
        | some ser => if x.fib.acc.any fun a => a.ser == ser then s else k s x r

/-! ### Steps (R203 to R206) -/

/-- A run completes with the result word of its ticket, or as refused (R206, R222). -/
def ObjRun.collect (r : ObjRun) : Option Nat → ObjRun
  | none => { r with phase := .complete 5 }
  | some w => { r with phase := .complete (rwStatus w), result := BitVec.ofNat 32 w }

/-- The result word of a committed ticket of a fibre, none where it can no longer be found (R206): its record is at `rp`, its
own mailbox at `mp`. -/
def State.collected (s : State) (rp mp t : Nat) : Option Nat :=
  let box := s.mem.num mp 8
  if (s.readRec rp).ticket = t then some (s.mem.num (rp + 16) 8)
  else if rwTag box = t % 2 ^ 30 ∧ rwStatus box ≠ 3 then some box
  else none

/-- What a help of `obj.help` reads without a fault: the record of a ticket. -/
def State.peekRec (s : State) (x : Site) (r : ObjRun) (t : Nat) : Option (Nat × ObjRec) :=
  match s.touch x (s.xlat x.node (r.va.toNat + recOff t) 32 .both) (r.va.toNat + recOff t) 32 .both with
  | (.ok rp _, u) => some (rp, u.readRec rp)
  | _ => none

/-- The tickets below a bound that a record can still show. -/
def ringBelow (bound : Nat) : List Nat := ((List.range 8).map fun i => bound - 8 + i).filter fun u => u ≠ 0 ∧ u < bound

/-- A ticket that has committed, and whose record still shows it announced. -/
def ObjRec.unfinished (c : ObjRec) (h : ObjHdr) (u : Nat) : Bool := decide (u ≤ h.applied) && c.ticket == u && c.state == 1

/-- The first ticket below a bound that is to be finished, with its record (R205, R226). -/
def State.unfinished (s : State) (x : Site) (r : ObjRun) (h : ObjHdr) (bound : Nat) : Option (Nat × Nat × ObjRec) :=
  (ringBelow bound).findSome? fun u =>
    match s.peekRec x r u with
    | some (rp, c) => if c.unfinished h u then some (u, rp, c) else none
    | none => none

/-- Every ticket below a bound is applied, and none is left to be finished (R226). -/
def State.allDone (s : State) (x : Site) (r : ObjRun) (h : ObjHdr) (bound : Nat) : Bool :=
  decide (bound ≤ h.applied + 1) && (ringBelow bound).all fun u => (s.peekRec x r u).any fun c => !c.2.unfinished h u

/-- A step of `obj.help` is over: it is done when every ticket below its bound is applied and finished (R226). -/
def State.helped (s : State) (x : Site) (r : ObjRun) (bound : Nat) : State :=
  let h := match s.touch x (s.xlat x.node r.va.toNat 32 .both) r.va.toNat 32 .both with
    | (.ok hp _, t) => some (t.readHdr hp)
    | _ => none
  s.countStep x fun q =>
    { q with
      bound := some bound, result := (h.map fun y => BitVec.ofNat 32 y.applied).getD q.result
      phase := if h.any fun y => s.allDone x r y bound then .complete 0 else q.phase }

/-- The end of a step that gives its own fibre nothing more. -/
def State.stepEnds (s : State) (x : Site) (r : ObjRun) : State :=
  if r.xfn = 8 then s.helped x r (r.bound.getD 0) else s.countStep x id

/-- A finish step begins for a ticket whose record, at `rp`, has been read (R205). -/
def State.beginFinish (s : State) (x : Site) (u rp : Nat) (c : ObjRec) : State :=
  s.atBox x (c.agid * 1024 + c.cl) fun t mp => t.setMid x.fib.id (.finishing u rp mp)

/-- An apply step reads (R204): the record of ticket APPLIED + 1 and its element slot; every address is translated. -/
def State.beginApply (s : State) (x : Site) (r : ObjRun) (hp : Nat) : State :=
  let h := s.readHdr hp
  let u := h.applied + 1
  s.atRecord x r u fun s rp =>
    let c := s.readRec rp
    if c.ticket ≠ u ∨ c.state ≠ 1 then s.stepEnds x r
    else
      s.atBox x (c.agid * 1024 + c.cl) fun s mp =>
        let go := fun (s : State) (slot : Option (Nat × Nat)) =>
          s.setMid x.fib.id (.applying u hp rp mp h.word1 h.word2 h.word3 c.w0 c.w1 slot)
        match h.slot c.op with
        | none => go s none
        | some i => s.touchVa x (h.word2 + 8 * i) 8 .both fun s sp => go s (some (sp, s.mem.num sp 8))

/-- The guarded writes of an apply step and its commit (R204): the element slot from the {old, tag} read when the ticket is
above the tag; W2 when it is older; header words 1 and 2 from what was read. Whether the commit succeeded is told. -/
def State.commitStep (s : State) (u hp rp : Nat) (h : ObjHdr) (c : ObjRec) (slot : Option (Nat × Nat)) : Bool × State :=
  let e := h.effect c.op c.operand ((slot.map Prod.snd).getD 0 % 2 ^ 32)
  let t := match slot with
    | none => s
    | some (sp, old) =>
      if e.writes ∧ old / 2 ^ 32 < u ∧ s.mem.num sp 8 = old then s.putNum sp 8 (c.operand + 2 ^ 32 * u) else s
  let t1 := if rwOlder (t.mem.num (rp + 16) 8) u then t.putNum (rp + 16) 16 (rwOf e.result e.status u) else t
  if t1.mem.num (hp + 8) 8 = h.word1 ∧ t1.mem.num (hp + 16) 8 = h.word2 then
    (true, t1.putNum (hp + 8) 16 (u + 2 ^ 32 * e.lo + 2 ^ 48 * e.hi + 2 ^ 64 * e.word2))
  else (false, t1)

/-- Finishes a committed ticket (R205): record at `rp`, its announcer's mailbox at `mp`. -/
def State.finishAt (s : State) (obj u rp mp : Nat) : State :=
  let w2 := s.mem.num (rp + 16) 8
  let t := if s.mem.num mp 8 = openBox obj u then s.putNum mp 8 w2 else s
  let box := t.mem.num mp 8
  let c := t.readRec rp
  if rwTag box = u % 2 ^ 30 ∧ rwStatus box ≠ 3 ∧ c.ticket = u ∧ c.state = 1 then
    t.putNum rp 8 (recW0 u 2 c.op (rwStatus w2) c.cl)
  else t

/-- The install of an announce step (R203): the mailbox is opened, and the record taken when it still is as it was read, and
empty or applied with ticket t - 8. -/
def State.install (s : State) (x : Site) (r : ObjRun) (t w0 w1 hp rp mp : Nat) : State :=
  let u := s.putNum mp 8 (openBox r.va.toNat t)
  let c := recOf w0 w1
  if u.mem.num rp 8 = w0 ∧ u.mem.num (rp + 8) 8 = w1 ∧ (c.state = 0 ∨ (c.state = 2 ∧ c.ticket + 8 = t)) then
    let u1 := u.putNum rp 16 (recW0 t 1 r.xfn 0 (clOf x.fib.id) + 2 ^ 64 * (r.operand.toNat + 2 ^ 32 * x.fib.id.gid))
    (u1.onFibre x.fib.id fun b => { b with regs := b.regs.setAt r.pos (BitVec.ofNat 32 t) true }).onRun x.fib.id fun q =>
      { q with ticket := t, phase := .apply, mid := .moving t hp }
  else u.countStep x id

/-- An announce step reads (R203), and ends where it takes no ticket; `r.xfn` is its OP. -/
def State.beginAnnounce (s : State) (x : Site) (r : ObjRun) : State :=
  s.atHeader x r fun s hp =>
    let h := s.readHdr hp
    let t := h.next
    s.atRecord x r t fun s rp =>
      let c := s.readRec rp
      if 0xFFFFFFFF ≤ t ∨ !opFits h.kind r.xfn ∨ h.reserved then s.countStep x fun q => { q with phase := .complete 5 }
      else if h.applied + 8 ≤ t ∨ (c.state = 1 ∧ c.ticket + 8 = t) then
        (if c.state = 1 ∧ c.ticket + 8 = t ∧ c.ticket ≤ h.applied then s.beginFinish x c.ticket rp c
         else s.beginApply x r hp)
      else if (c.state = 1 ∨ c.state = 2) ∧ c.ticket = t then s.setMid x.fib.id (.moving t hp)
      else s.atBox x x.fib.id.gfi fun s mp => s.setMid x.fib.id (.announcing t c.w0 c.w1 hp rp mp)

/-- A ticket presented at the start is at or above NEXT, or another fibre's (R208). -/
def foreignTicket (id : FibId) (h : ObjHdr) (c : ObjRec) (t : Nat) : Bool :=
  decide (h.next ≤ t) || (c.ticket == t && (c.cl != clOf id || c.agid != id.gid))

/-- The header and the record of the ticket of a run; a foreign ticket is refused at the first step, which counts. DESIGN
CHOICE (log 27). -/
def State.ownTicket (s : State) (x : Site) (r : ObjRun) (k : State → Nat → Nat → State) : State :=
  s.atHeader x r fun s hp =>
    s.atRecord x r r.ticket fun s rp =>
      if r.steps = 0 ∧ foreignTicket x.fib.id (s.readHdr hp) (s.readRec rp) r.ticket then
        s.countStep x fun q => { q with phase := .complete 5 }
      else k s hp rp

/-- OBJ_ANNOUNCE_STEP (R203): the reads of an announce step, its install, and the move of NEXT. -/
def announceEvent (s : State) (who : FibId) : State :=
  s.objStep who fun s x r =>
    match r.mid with
    | .idle => if r.phase = .announce then s.beginAnnounce x r else s
    | .announcing t w0 w1 hp rp mp => s.stepWrites x r fun s => s.install x r t w0 w1 hp rp mp
    | .moving t hp => s.stepWrites x r fun s =>
        State.countStep (if s.mem.num hp 8 = t then s.putNum hp 8 (t + 1) else s) x id
    | _ => s

/-- Every record that a help may look at is translated. -/
def State.atRecords (s : State) (x : Site) (r : ObjRun) (k : State → State) : List Nat → State
  | [] => k s
  | u :: rest => s.atRecord x r u fun t _ => t.atRecords x r k rest

/-- The first step of `obj.help` reads NEXT, and each later apply step begins here; where others have applied and finished the
rest, the step finds it done (R226). A record is touched only where it is looked at (R202). -/
def State.helpStep (s : State) (x : Site) (r : ObjRun) : State :=
  s.atHeader x r fun s hp =>
    let h := s.readHdr hp
    let bound := r.bound.getD h.next
    if bound ≤ h.applied + 1 then
      s.atRecords x r (fun s => if r.bound.isNone || s.allDone x r h bound then s.helped x r bound else s) (ringBelow bound)
    else if r.bound.isNone then s.helped x r bound
    else s.beginApply x r hp

/-- A commit has come to something: the step goes on to its finish, or it is over and counts (R204, R208). -/
def State.afterCommit (y : Bool × State) (x : Site) (r : ObjRun) (m : ObjMid) : State :=
  if y.1 then y.2.setMid x.fib.id m else y.2.stepEnds x r

/-- OBJ_APPLY_STEP (R204, R222): the reads of an apply step, and its commit; a commit that fails is a failure that
counts. The run's own record is looked at in its first step alone (R202, R208). -/
def applyEvent (s : State) (who : FibId) : State :=
  s.objStep who fun s x r =>
    match r.mid with
    | .idle =>
      let go := fun (s : State) (hp : Nat) => if r.ticket ≤ (s.readHdr hp).applied then s else s.beginApply x r hp
      if r.phase ≠ .apply then s
      else if r.xfn = 8 then s.helpStep x r
      else if r.steps = 0 then s.ownTicket x r fun s hp _ => go s hp
      else s.atHeader x r go
    | .applying u hp rp mp w1 w2 w3 r0 r1 slot => s.stepWrites x r fun s =>
        State.afterCommit (s.commitStep u hp rp (objHdrOf 0 w1 w2 w3) (recOf r0 r1) slot) x r (.finishing u rp mp)
    | _ => s

/-- OBJ_FINISH_STEP (R205): the read of a finish step for another ticket below the run's, and the end of a step that has
committed. The fibre's own ticket is collected in the same step (R206). -/
def finishEvent (s : State) (who : FibId) : State :=
  s.objStep who fun s x r =>
    match r.mid with
    | .idle =>
      if r.phase ≠ .apply ∨ (r.xfn = 8 ∧ r.bound = none) ∨ (r.xfn ≠ 8 ∧ r.steps = 0) then s
      else
        s.atHeader x r fun s hp =>
          let h := s.readHdr hp
          if r.xfn ≠ 8 ∧ r.ticket ≤ h.applied then s
          else
            match s.unfinished x r h (if r.xfn = 8 then r.bound.getD 0 else r.ticket) with
            | none => s
            | some (u, rp, c) => s.beginFinish x u rp c
    | .finishing u rp mp => s.stepWrites x r fun s =>
      let t := s.finishAt r.va.toNat u rp mp
      if r.xfn ≠ 8 ∧ u = r.ticket then t.countStep x fun q => q.collect (t.collected rp mp u) else t.stepEnds x r
    | _ => s

/-- OBJ_COLLECT (R206): the fibre's ticket is found committed; it is finished first where its record still shows it
announced, and its result is taken. -/
def collectEvent (s : State) (who : FibId) : State :=
  s.objStep who fun s x r =>
    if r.mid ≠ .idle ∨ r.phase ≠ .apply ∨ r.xfn = 8 then s
    else
      s.ownTicket x r fun s hp rp =>
        if (s.readHdr hp).applied < r.ticket then s
        else
          s.atBox x who.gfi fun s mp =>
            let c := s.readRec rp
            if c.ticket = r.ticket ∧ c.state = 1 then s.setMid who (.finishing r.ticket rp mp)
            else s.countStep x fun q => q.collect (s.collected rp mp r.ticket)

/-! ### Instructions (R221 to R226) -/

/-- OSTEP (R221). -/
def ostepOf (steps status : Nat) : Word := BitVec.ofNat 32 (steps + 256 * status)

/-- An object address that translates into a peer window (R195). -/
def State.objPeer (s : State) (va : DWord) : Bool :=
  match s.xlat s.n va.toNat 32 .both with
  | .ok ia _ => (match s.placeOf ia with | .peer _ => true | _ => false)
  | .bad _ _ => false

/-- A run completes (R223, R226): its cells, p15, OSTEP, and the acquire of R210 at the object's SCOPE. -/
def State.objDone (s : State) (r : ObjRun) (status : Nat) : State :=
  let ok := decide (status ≤ 2)
  let t := if ok then s.acquire s.c.num r.scope else s
  let low := if status = 5 then r.low else if r.xfn = 8 ∨ status = 4 then 0#32 else BitVec.ofNat 32 r.ticket
  let high :=
    if status = 5 then r.high
    else if r.xfn = 8 ∨ status = 0 then r.result
    else if ok then 0#32
    else r.high
  let t1 := t.onRegs fun g =>
    { ((g.setAt r.pos low true).setAt (r.pos + 1) high true).setP 15 ok with ostep := ostepOf r.steps status }
  { t1 with f := { t1.f with obj := none } }

/-- A new run, for position `pos` of w[D]. -/
def runOf (s : State) (xfn pos : Nat) (va : DWord) (operand low : Word) : ObjRun where
  xfn := xfn
  va := va
  operand := operand
  ticket := low.toNat
  steps := 0
  phase := if xfn ≠ 8 ∧ low = 0#32 then .announce else .apply
  result := 0#32
  bound := none
  pos := pos
  low := low
  high := (s.r.cells.getD (pos + 1) Cell.zero).val
  grp := s.issueNo
  scope := 0
  fence := none
  mid := .idle
  lines := []
  halted := false

/-- An object instruction other than `obj.init` (R222, R224, R226): it marks w[D+1] empty and starts its run, waits for it,
and commits with its outcome. One refused before any step has taken none, and OSTEP.STEPS is 0. DESIGN CHOICE (log 27). -/
def objWord (s : State) (d a b : Fld) (xfn : Nat) : WordRes :=
  match s.f.obj with
  | some r =>
    (match r.phase with
     | .complete status => .regs fun t => t.objDone r status
     | _ => .wait)
  | none =>
    let va := s.r.d a
    let run := runOf s xfn (s.r.base + d.toNat) va (if xfn = 8 then 0#32 else s.r.w b) (s.r.w d)
    if va.toNat % 64 ≠ 0 then .trap 0x03 0 va
    else if s.objPeer va ∨ (xfn = 8 ∧ s.r.w d ≠ 0#32) then .regs fun u => u.objDone run 5
    else .hold fun u => State.onRegs { u with f := { u.f with obj := some run } } fun g => g.emptyRun (run.pos + 1) 1

/-- The header that `obj.init` writes, none where it raises trap 0x02 (R225): words 2 and 3. -/
def initHeader (word2 : DWord) (b : Word) : Option (Nat × Nat) :=
  let kind := (b.extractLsb' 0 4).toNat
  let scope := (b.extractLsb' 4 3).toNat
  let cap := (b.extractLsb' 16 16).toNat
  if kind = 0 ∨ 4 < kind ∨ scope = 0 ∨ 5 < scope ∨ b.extractLsb' 7 9 ≠ 0#9 ∨ (kind = 3 ↔ cap ≠ 0) ∨
      (kind ≤ 2 ∧ word2.toNat % 8 ≠ 0) ∨ (kind = 4 ∧ word2 ≠ 0#64) then none
  else some (word2.toNat, kind + 16 * scope + 2 ^ 32 * cap)

/-- The 320 bytes of a new object (R195 to R197). -/
def initBytes (word2 word3 : Nat) : List Byte :=
  leBytes 8 1 ++ leBytes 8 0 ++ leBytes 8 word2 ++ leBytes 8 word3 ++ List.replicate 288 0#8

/-- The first of the twenty pieces of `obj.init` that cannot be written: a code, 0 for a busy walk, its SUB, VA and IA. -/
def State.initStop (s : State) (va : Nat) : Option (Nat × Nat × Nat × Nat) :=
  (List.range 20).findSome? fun i =>
    let a := va + 16 * i
    match s.xlat s.n a 16 .store with
    | .bad code ia => some (code, 0, a, ia)
    | .ok ia _ =>
      if !s.reaches s.c.num ia then some (0x42, 0, a, ia)
      else (s.walkRun ia 16 .store).1.map fun e => (e.1, e.2.1, a, e.2.2)

/-- The current fibre writes the next piece of its `obj.init`, 16 bytes at their home (R225). -/
def State.initPiece (s : State) (r : ObjRun) (bs : List Byte) : State :=
  match s.site? s.f.id with
  | none => s
  | some x =>
    s.touchVa x (r.va.toNat + 16 * r.steps) 16 .store fun t pa =>
      State.onRun { t with mem := t.mem.writeBytes pa ((bs.drop (16 * r.steps)).take 16) } s.f.id fun q =>
        { q with steps := r.steps + 1 }

/-- `obj.init` (R225): its release at the SCOPE it is given, then the twenty pieces, one after another. DESIGN CHOICE
(log 16): a misaligned object is refused before a bad operand. -/
def objInitWord (s : State) (d a b : Fld) : WordRes :=
  let va := s.r.d a
  if va.toNat % 64 ≠ 0 then .trap 0x03 0 va
  else
    match initHeader (s.r.d d) (s.r.w b) with
    | none => .illegal
    | some (w2, w3) =>
      if s.objPeer va then .regs fun t => t.onRegs fun r => { r.setP 15 false with ostep := ostepOf 0 5 }
      else
        match s.f.obj with
        | some r =>
          if s.f.acc.any fun e => some e.ser == r.fence then .wait
          else if r.steps < 20 then .hold fun u => u.initPiece r (initBytes w2 w3)
          else .regs fun u =>
            let v := (u.triesDone (.step u.f.id)).onRegs fun g => { g.setP 15 true with ostep := ostepOf 1 0 }
            { v with f := { v.f with obj := none } }
        | none =>
          match s.initStop va.toNat with
          | some (0, _, v, e) => s.busyWord v (.fault 0x48 3 (BitVec.ofNat 64 v) e)
          | some (code, sub, v, e) => .fault code sub (BitVec.ofNat 64 v) e
          | none =>
            .hold fun u =>
              let mseq := if u.g.role u.f.stg = .matrix then u.g.mnext else 0
              let t := u.wordDone u.f.id
              { t with f := t.f.releaseAt (w3 / 16 % 8) mseq (runOf s 0 0 va 0#32 0#32) }

/-- OBJ_INIT (R225). -/
def bodyObjInit (d a b : Fld) (s : State) : WordRes :=
  objInitWord s d a b
/-- OBJ_INIT issued alone. -/
def execObjInit (d a b : Fld) (s : State) : Host.Outcome State Fault Refusal :=
  issueOne (.objInit d a b) (bodyObjInit d a b) s

/-- OBJ_PUSH (R222). -/
def bodyObjPush (d a b : Fld) (s : State) : WordRes :=
  objWord s d a b 1
/-- OBJ_PUSH issued alone. -/
def execObjPush (d a b : Fld) (s : State) : Host.Outcome State Fault Refusal :=
  issueOne (.objPush d a b) (bodyObjPush d a b) s

/-- OBJ_POP (R222). -/
def bodyObjPop (d a b : Fld) (s : State) : WordRes :=
  objWord s d a b 2
/-- OBJ_POP issued alone. -/
noncomputable def execObjPop (d a b : Fld) (s : State) : Host.Outcome State Fault Refusal :=
  issueOne (.objPop d a b) (bodyObjPop d a b) s

/-- OBJ_ENQ (R222). -/
def bodyObjEnq (d a b : Fld) (s : State) : WordRes :=
  objWord s d a b 3
/-- OBJ_ENQ issued alone. -/
noncomputable def execObjEnq (d a b : Fld) (s : State) : Host.Outcome State Fault Refusal :=
  issueOne (.objEnq d a b) (bodyObjEnq d a b) s

/-- OBJ_DEQ (R222). -/
def bodyObjDeq (d a b : Fld) (s : State) : WordRes :=
  objWord s d a b 4
/-- OBJ_DEQ issued alone. -/
noncomputable def execObjDeq (d a b : Fld) (s : State) : Host.Outcome State Fault Refusal :=
  issueOne (.objDeq d a b) (bodyObjDeq d a b) s

/-- OBJ_ADD (R222). -/
def bodyObjAdd (d a b : Fld) (s : State) : WordRes :=
  objWord s d a b 5
/-- OBJ_ADD issued alone. -/
noncomputable def execObjAdd (d a b : Fld) (s : State) : Host.Outcome State Fault Refusal :=
  issueOne (.objAdd d a b) (bodyObjAdd d a b) s

/-- OBJ_ARRIVE (R222). -/
def bodyObjArrive (d a b : Fld) (s : State) : WordRes :=
  objWord s d a b 6
/-- OBJ_ARRIVE issued alone. -/
noncomputable def execObjArrive (d a b : Fld) (s : State) : Host.Outcome State Fault Refusal :=
  issueOne (.objArrive d a b) (bodyObjArrive d a b) s

/-- OBJ_PEEK (R222). -/
def bodyObjPeek (d a b : Fld) (s : State) : WordRes :=
  objWord s d a b 7
/-- OBJ_PEEK issued alone. -/
noncomputable def execObjPeek (d a b : Fld) (s : State) : Host.Outcome State Fault Refusal :=
  issueOne (.objPeek d a b) (bodyObjPeek d a b) s

/-- OBJ_HELP (R226). -/
def bodyObjHelp (d a b : Fld) (s : State) : WordRes :=
  objWord s d a b 8
/-- OBJ_HELP issued alone. -/
noncomputable def execObjHelp (d a b : Fld) (s : State) : Host.Outcome State Fault Refusal :=
  issueOne (.objHelp d a b) (bodyObjHelp d a b) s

/-! ### Events -/

/-- OBJ_ANNOUNCE_STEP (R203). -/
def execObjAnnounceStep (who : FibId) (s : State) : Host.Outcome State Fault Refusal :=
  event (fun t => announceEvent t who) s

/-- OBJ_APPLY_STEP (R204). -/
def execObjApplyStep (who : FibId) (s : State) : Host.Outcome State Fault Refusal :=
  event (fun t => applyEvent t who) s

/-- OBJ_FINISH_STEP (R205). -/
def execObjFinishStep (who : FibId) (s : State) : Host.Outcome State Fault Refusal :=
  event (fun t => finishEvent t who) s

/-- OBJ_COLLECT (R206). -/
def execObjCollect (who : FibId) (s : State) : Host.Outcome State Fault Refusal :=
  event (fun t => collectEvent t who) s

end Sys2Proof.Machine
end

