-- ==== Sys2Proof/Machine/Body.lean ====
section
/-!
DEFINITION. What every instruction word asks for at issue, constructor by constructor: the words of a chain are judged
together before any of them acts (03 R57).
-/
namespace Sys2Proof.Machine

/-- What a word asks for at issue. An event is no word of a chain. -/
def bodyOf (i : Instr) (s : State) : WordRes :=
  match i with
  | .add d a b _ _ => bodyAdd d a b s
  | .sub d a b _ _ => bodySub d a b s
  | .mul d a b _ _ => bodyMul d a b s
  | .mulh d a b _ _ => bodyMulh d a b s
  | .mulhu d a b _ _ => bodyMulhu d a b s
  | .div d a b _ _ => bodyDiv d a b s
  | .divu d a b _ _ => bodyDivu d a b s
  | .rem d a b _ _ => bodyRem d a b s
  | .remu d a b _ _ => bodyRemu d a b s
  | .and d a b _ _ => bodyAnd d a b s
  | .or d a b _ _ => bodyOr d a b s
  | .xor d a b _ _ => bodyXor d a b s
  | .andn d a b _ _ => bodyAndn d a b s
  | .orn d a b _ _ => bodyOrn d a b s
  | .shl d a b _ _ => bodyShl d a b s
  | .shr d a b _ _ => bodyShr d a b s
  | .sar d a b _ _ => bodySar d a b s
  | .rotl d a b _ _ => bodyRotl d a b s
  | .min d a b _ _ => bodyMin d a b s
  | .max d a b _ _ => bodyMax d a b s
  | .minu d a b _ _ => bodyMinu d a b s
  | .maxu d a b _ _ => bodyMaxu d a b s
  | .adds d a b _ _ => bodyAdds d a b s
  | .subs d a b _ _ => bodySubs d a b s
  | .addus d a b _ _ => bodyAddus d a b s
  | .subus d a b _ _ => bodySubus d a b s
  | .lea1 d a b _ _ => bodyLea1 d a b s
  | .lea2 d a b _ _ => bodyLea2 d a b s
  | .lea3 d a b _ _ => bodyLea3 d a b s
  | .lea4 d a b _ _ => bodyLea4 d a b s
  | .addD d a b _ _ => bodyAddD d a b s
  | .subD d a b _ _ => bodySubD d a b s
  | .mulD d a b _ _ => bodyMulD d a b s
  | .mulhD d a b _ _ => bodyMulhD d a b s
  | .mulhuD d a b _ _ => bodyMulhuD d a b s
  | .andD d a b _ _ => bodyAndD d a b s
  | .orD d a b _ _ => bodyOrD d a b s
  | .xorD d a b _ _ => bodyXorD d a b s
  | .shlD d a b _ _ => bodyShlD d a b s
  | .shrD d a b _ _ => bodyShrD d a b s
  | .sarD d a b _ _ => bodySarD d a b s
  | .minD d a b _ _ => bodyMinD d a b s
  | .maxD d a b _ _ => bodyMaxD d a b s
  | .minuD d a b _ _ => bodyMinuD d a b s
  | .maxuD d a b _ _ => bodyMaxuD d a b s
  | .addwD d a b _ _ => bodyAddwD d a b s
  | .adduwD d a b _ _ => bodyAdduwD d a b s
  | .mulwD d a b _ _ => bodyMulwD d a b s
  | .muluwD d a b _ _ => bodyMuluwD d a b s
  | .mov d a _ => bodyMov d a s
  | .not d a _ => bodyNot d a s
  | .neg d a _ => bodyNeg d a s
  | .abs d a _ => bodyAbs d a s
  | .clz d a _ => bodyClz d a s
  | .ctz d a _ => bodyCtz d a s
  | .popc d a _ => bodyPopc d a s
  | .brev d a _ => bodyBrev d a s
  | .bswap d a _ => bodyBswap d a s
  | .sextb d a _ => bodySextb d a s
  | .sexth d a _ => bodySexth d a s
  | .zextb d a _ => bodyZextb d a s
  | .zexth d a _ => bodyZexth d a s
  | .movD d a _ => bodyMovD d a s
  | .clzD d a _ => bodyClzD d a s
  | .popcD d a _ => bodyPopcD d a s
  | .sextD d a _ => bodySextD d a s
  | .zextD d a _ => bodyZextD d a s
  | .eq d a b _ _ => bodyEq d a b s
  | .ne d a b _ _ => bodyNe d a b s
  | .lt d a b _ _ => bodyLt d a b s
  | .le d a b _ _ => bodyLe d a b s
  | .ltu d a b _ _ => bodyLtu d a b s
  | .leu d a b _ _ => bodyLeu d a b s
  | .eqD d a b _ _ => bodyEqD d a b s
  | .neD d a b _ _ => bodyNeD d a b s
  | .ltD d a b _ _ => bodyLtD d a b s
  | .leD d a b _ _ => bodyLeD d a b s
  | .ltuD d a b _ _ => bodyLtuD d a b s
  | .leuD d a b _ _ => bodyLeuD d a b s
  | .tst d a b _ _ => bodyTst d a b s
  | .tstz d a b _ _ => bodyTstz d a b s
  | .sel d a b p n => bodySel d a b p n s
  | .selD d a b p n => bodySelD d a b p n s
  | .selY d a b p n => bodySelY d a b p n s
  | .pand d a b => bodyPand d a b s
  | .por d a b => bodyPor d a b s
  | .pxor d a b => bodyPxor d a b s
  | .pandn d a b => bodyPandn d a b s
  | .pnot d a => bodyPnot d a s
  | .pmov d a => bodyPmov d a s
  | .p2w d => bodyP2w d s
  | .w2p a _ => bodyW2p a s
  | .pset d => bodyPset d s
  | .pclr d => bodyPclr d s
  | .addi d a _ i => bodyAddi d a i s
  | .andi d a _ i => bodyAndi d a i s
  | .ori d a _ i => bodyOri d a i s
  | .xori d a _ i => bodyXori d a i s
  | .shli d a _ n => bodyShli d a n s
  | .shri d a _ n => bodyShri d a n s
  | .sari d a _ n => bodySari d a n s
  | .rotli d a _ n => bodyRotli d a n s
  | .shliD d a _ n => bodyShliD d a n s
  | .shriD d a _ n => bodyShriD d a n s
  | .sariD d a _ n => bodySariD d a n s
  | .rotliD d a _ n => bodyRotliD d a n s
  | .cmpiEq d a _ i => bodyCmpiEq d a i s
  | .cmpiNe d a _ i => bodyCmpiNe d a i s
  | .cmpiLt d a _ i => bodyCmpiLt d a i s
  | .cmpiLe d a _ i => bodyCmpiLe d a i s
  | .cmpiLtu d a _ i => bodyCmpiLtu d a i s
  | .cmpiLeu d a _ i => bodyCmpiLeu d a i s
  | .cmpiGt d a _ i => bodyCmpiGt d a i s
  | .cmpiGe d a _ i => bodyCmpiGe d a i s
  | .li d i => bodyLi d i s
  | .lih d i => bodyLih d i s
  | .ldB t a _ o => bodyLdB t a o s
  | .ldBs t a _ o => bodyLdBs t a o s
  | .ldH t a _ o => bodyLdH t a o s
  | .ldHs t a _ o => bodyLdHs t a o s
  | .ldW t a _ o => bodyLdW t a o s
  | .ldD t a _ o => bodyLdD t a o s
  | .ldQ t a _ o => bodyLdQ t a o s
  | .stB t a _ o => bodyStB t a o s
  | .stH t a _ o => bodyStH t a o s
  | .stW t a _ o => bodyStW t a o s
  | .stD t a _ o => bodyStD t a o s
  | .stQ t a _ o => bodyStQ t a o s
  | .ldsB t a _ o => bodyLdsB t a o s
  | .ldsBs t a _ o => bodyLdsBs t a o s
  | .ldsH t a _ o => bodyLdsH t a o s
  | .ldsHs t a _ o => bodyLdsHs t a o s
  | .ldsW t a _ o => bodyLdsW t a o s
  | .ldsD t a _ o => bodyLdsD t a o s
  | .ldsQ t a _ o => bodyLdsQ t a o s
  | .stsB t a _ o => bodyStsB t a o s
  | .stsH t a _ o => bodyStsH t a o s
  | .stsW t a _ o => bodyStsW t a o s
  | .stsD t a _ o => bodyStsD t a o s
  | .stsQ t a _ o => bodyStsQ t a o s
  | .ldy t a _ k o => bodyLdy t a k o s
  | .sty t a _ k o => bodySty t a k o s
  | .ldcFp32 t a _ o => bodyLdcFp32 t a o s
  | .ldcBf16 t a _ o => bodyLdcBf16 t a o s
  | .ldcFp16 t a _ o => bodyLdcFp16 t a o s
  | .ldcE4m3 t a _ o => bodyLdcE4m3 t a o s
  | .ldcE5m2 t a _ o => bodyLdcE5m2 t a o s
  | .ldcInt32 t a _ o => bodyLdcInt32 t a o s
  | .ldcUint32 t a _ o => bodyLdcUint32 t a o s
  | .ldcInt8 t a _ o => bodyLdcInt8 t a o s
  | .ldcUint8 t a _ o => bodyLdcUint8 t a o s
  | .stcFp32 t a _ o => bodyStcFp32 t a o s
  | .stcBf16 t a _ o => bodyStcBf16 t a o s
  | .stcFp16 t a _ o => bodyStcFp16 t a o s
  | .stcE4m3 t a _ o => bodyStcE4m3 t a o s
  | .stcE5m2 t a _ o => bodyStcE5m2 t a o s
  | .stcInt32 t a _ o => bodyStcInt32 t a o s
  | .stcUint32 t a _ o => bodyStcUint32 t a o s
  | .stcInt8 t a _ o => bodyStcInt8 t a o s
  | .stcUint8 t a _ o => bodyStcUint8 t a o s
  | .ldf t a _ o => bodyLdf t a o s
  | .ldfCons t a _ o => bodyLdfCons t a o s
  | .stf t a _ o => bodyStf t a o s
  | .yadd d a b _ _ => bodyYadd d a b s
  | .ysub d a b _ _ => bodyYsub d a b s
  | .ymul d a b _ _ => bodyYmul d a b s
  | .ydiv d a b _ _ => bodyYdiv d a b s
  | .ymin d a b _ _ => bodyYmin d a b s
  | .ymax d a b _ _ => bodyYmax d a b s
  | .yminm d a b _ _ => bodyYminm d a b s
  | .ymaxm d a b _ _ => bodyYmaxm d a b s
  | .ycopysign d a b _ _ => bodyYcopysign d a b s
  | .yrem d a b _ _ => bodyYrem d a b s
  | .yscale d a b _ _ => bodyYscale d a b s
  | .yfma d a b _ _ => bodyYfma d a b s
  | .yfms d a b _ _ => bodyYfms d a b s
  | .yfnma d a b _ _ => bodyYfnma d a b s
  | .ymov d a _ => bodyYmov d a s
  | .yneg d a _ => bodyYneg d a s
  | .yabs d a _ => bodyYabs d a s
  | .ysqrt d a _ => bodyYsqrt d a s
  | .yrint d a _ => bodyYrint d a s
  | .ytrunc d a _ => bodyYtrunc d a s
  | .ylogb d a _ => bodyYlogb d a s
  | .yclass d a _ => bodyYclass d a s
  | .ysig d a _ => bodyYsig d a s
  | .ymant d a _ => bodyYmant d a s
  | .yrecip d a _ => bodyYrecip d a s
  | .yrsqrt d a _ => bodyYrsqrt d a s
  | .ycmpEq d a b _ _ => bodyYcmpEq d a b s
  | .ycmpLt d a b _ _ => bodyYcmpLt d a b s
  | .ycmpLe d a b _ _ => bodyYcmpLe d a b s
  | .ycmpUn d a b _ _ => bodyYcmpUn d a b s
  | .ycmpEqs d a b _ _ => bodyYcmpEqs d a b s
  | .ycmpLts d a b _ _ => bodyYcmpLts d a b s
  | .ycmpLes d a b _ _ => bodyYcmpLes d a b s
  | .ycvtYW d a _ => bodyYcvtYW d a s
  | .ycvtYUw d a _ => bodyYcvtYUw d a s
  | .ycvtYD d a _ => bodyYcvtYD d a s
  | .ycvtYUd d a _ => bodyYcvtYUd d a s
  | .ycvtWY d a _ => bodyYcvtWY d a s
  | .ycvtUwY d a _ => bodyYcvtUwY d a s
  | .ycvtDY d a _ => bodyYcvtDY d a s
  | .ycvtUdY d a _ => bodyYcvtUdY d a s
  | .setprc a => bodySetprc a s
  | .getprc d => bodyGetprc d s
  | .setl a => bodySetl a s
  | .setrm a => bodySetrm a s
  | .getflags d => bodyGetflags d s
  | .clrflags a => bodyClrflags a s
  | .rnd d => bodyRnd d s
  | .br p n o => bodyBr p n o s
  | .bra o => bodyBra o s
  | .call p n o => bodyCall p n o s
  | .ret => bodyRet s
  | .callr a => bodyCallr a s
  | .jmpr a => bodyJmpr a s
  | .eret => bodyEret s
  | .enter d a i => bodyEnter d a i s
  | .loop d i => bodyLoop d i s
  | .mbr np p1 p2 p3 p4 n1 n2 n3 n4 off1 off2 off3 off4 => bodyMbr np p1 p2 p3 p4 n1 n2 n3 n4 off1 off2 off3 off4 s
  | .endFibre => bodyEndFibre s
  | .spawn d a b => bodySpawn d a b s
  | .fid d => bodyFid d s
  | .cid d => bodyCid d s
  | .gid d => bodyGid d s
  | .stg d => bodyStg d s
  | .nid d => bodyNid d s
  | .yield h _ => bodyYield h s
  | .shfl d a b => bodyShfl d a b s
  | .shflXor d a b => bodyShflXor d a b s
  | .shflUp d a b => bodyShflUp d a b s
  | .shflDown d a b => bodyShflDown d a b s
  | .voteAny d a b => bodyVoteAny d a b s
  | .voteAll d a b => bodyVoteAll d a b s
  | .ballot d a b => bodyBallot d a b s
  | .reduxAdd d a b => bodyReduxAdd d a b s
  | .reduxMin d a b => bodyReduxMin d a b s
  | .reduxMax d a b => bodyReduxMax d a b s
  | .reduxYadd d a b => bodyReduxYadd d a b s
  | .matchLanes d a b => bodyMatchLanes d a b s
  | .present d b => bodyPresent d b s
  | .objInit d a b => bodyObjInit d a b s
  | .objPush d a b => bodyObjPush d a b s
  | .objPop d a b => bodyObjPop d a b s
  | .objEnq d a b => bodyObjEnq d a b s
  | .objDeq d a b => bodyObjDeq d a b s
  | .objAdd d a b => bodyObjAdd d a b s
  | .objArrive d a b => bodyObjArrive d a b s
  | .objPeek d a b => bodyObjPeek d a b s
  | .objHelp d a b => bodyObjHelp d a b s
  | .amoAdd d a b sc => bodyAmoAdd d a b sc s
  | .amoAnd d a b sc => bodyAmoAnd d a b sc s
  | .amoOr d a b sc => bodyAmoOr d a b sc s
  | .amoXor d a b sc => bodyAmoXor d a b sc s
  | .amoMin d a b sc => bodyAmoMin d a b sc s
  | .amoMax d a b sc => bodyAmoMax d a b sc s
  | .amoMinu d a b sc => bodyAmoMinu d a b sc s
  | .amoMaxu d a b sc => bodyAmoMaxu d a b sc s
  | .amoSwap d a b sc => bodyAmoSwap d a b sc s
  | .amoCas d a b sc => bodyAmoCas d a b sc s
  | .amoAddD d a b sc => bodyAmoAddD d a b sc s
  | .amoSwapD d a b sc => bodyAmoSwapD d a b sc s
  | .amoCasD d a b sc => bodyAmoCasD d a b sc s
  | .amoCasQ d a b sc => bodyAmoCasQ d a b sc s
  | .amoAddAr d a b sc => bodyAmoAddAr d a b sc s
  | .amoAndAr d a b sc => bodyAmoAndAr d a b sc s
  | .amoOrAr d a b sc => bodyAmoOrAr d a b sc s
  | .amoXorAr d a b sc => bodyAmoXorAr d a b sc s
  | .amoMinAr d a b sc => bodyAmoMinAr d a b sc s
  | .amoMaxAr d a b sc => bodyAmoMaxAr d a b sc s
  | .amoMinuAr d a b sc => bodyAmoMinuAr d a b sc s
  | .amoMaxuAr d a b sc => bodyAmoMaxuAr d a b sc s
  | .amoSwapAr d a b sc => bodyAmoSwapAr d a b sc s
  | .amoCasAr d a b sc => bodyAmoCasAr d a b sc s
  | .amoAddDAr d a b sc => bodyAmoAddDAr d a b sc s
  | .amoSwapDAr d a b sc => bodyAmoSwapDAr d a b sc s
  | .amoCasDAr d a b sc => bodyAmoCasDAr d a b sc s
  | .amoCasQAr d a b sc => bodyAmoCasQAr d a b sc s
  | .redAdd a b sc => bodyRedAdd a b sc s
  | .redAnd a b sc => bodyRedAnd a b sc s
  | .redOr a b sc => bodyRedOr a b sc s
  | .redXor a b sc => bodyRedXor a b sc s
  | .redMin a b sc => bodyRedMin a b sc s
  | .redMax a b sc => bodyRedMax a b sc s
  | .redFaddF32 a b sc => bodyRedFaddF32 a b sc s
  | .redFaddBf16 a b sc => bodyRedFaddBf16 a b sc s
  | .redAddD a b sc => bodyRedAddD a b sc s
  | .ldaW d a sc => bodyLdaW d a sc s
  | .ldaD d a sc => bodyLdaD d a sc s
  | .ldaB d a sc => bodyLdaB d a sc s
  | .strW a b sc => bodyStrW a b sc s
  | .strD a b sc => bodyStrD a b sc s
  | .strB a b sc => bodyStrB a b sc s
  | .fence sc k => bodyFence sc k s
  | .fenceAcq sc k => bodyFenceAcq sc k s
  | .fenceRel sc k => bodyFenceRel sc k s
  | .wbr a b sc => bodyWbr a b sc s
  | .invr a b sc => bodyInvr a b sc s
  | .pref a b sc => bodyPref a b sc s
  | .cpb d a b g => bodyCpb d a b g s
  | .cpw g => bodyCpw g s
  | .cpwLe a g => bodyCpwLe a g s
  | .cptG2s d a x => bodyCptG2s d a x s
  | .cptS2g d a x => bodyCptS2g d a x s
  | .cptS2gAtom d a x => bodyCptS2gAtom d a x s
  | .cptG2sCons d a x => bodyCptG2sCons d a x s
  | .cptG2g d a x => bodyCptG2g d a x s
  | .cptGather d a x => bodyCptGather d a x s
  | .cptCbk d a x => bodyCptCbk d a x s
  | .twait a x => bodyTwait a x s
  | .tread d x => bodyTread d x s
  | .tissued d x => bodyTissued d x s
  | .tstat d x => bodyTstat d x s
  | .shape d a => bodyShape d a s
  | .mmaBf16 d a b p k => bodyMmaBf16 d a b p k s
  | .mmaE4m3 d a b p k => bodyMmaE4m3 d a b p k s
  | .mmaE5m2 d a b p k => bodyMmaE5m2 d a b p k s
  | .mmaE4m3e5m2 d a b p k => bodyMmaE4m3e5m2 d a b p k s
  | .accZero d => bodyAccZero d s
  | .accChainB d a => bodyAccChainB d a s
  | .accChainE d => bodyAccChainE d s
  | .accSetprom a b => bodyAccSetprom a b s
  | .accStF32 d a => bodyAccStF32 d a s
  | .accStBf16 d a => bodyAccStBf16 d a s
  | .accLdF32 d a => bodyAccLdF32 d a s
  | .accFlush d => bodyAccFlush d s
  | .taskTnode d a => bodyTaskTnode d a s
  | .taskTdep a b => bodyTaskTdep a b s
  | .taskTsig a => bodyTaskTsig a s
  | .taskEnq a => bodyTaskEnq a s
  | .taskDeq d => bodyTaskDeq d s
  | .taskCont a b => bodyTaskCont a b s
  | .taskNself d => bodyTaskNself d s
  | .arenaAptr d a => bodyArenaAptr d a s
  | .arenaAinfo d a => bodyArenaAinfo d a s
  | .arenaCheck a b => bodyArenaCheck a b s
  | .gets d b => bodyGets d b s
  | .sets a b => bodySets a b s
  | .trap b => bodyTrap b s
  | .brk => bodyBrk s
  | .nop => bodyNop s
  | .regroup .. => .wait
  | .seniorForcedIssue .. => .wait
  | .backoffExpiry .. => .wait
  | .watchdog .. => .wait
  | .yResultDelivery .. => .wait
  | .reduxYaddResult .. => .wait
  | .loadDataArrival .. => .wait
  | .convertingLoadResolve .. => .wait
  | .l1Eviction .. => .wait
  | .homeArrival .. => .wait
  | .flushMarkerAck .. => .wait
  | .walk .. => .wait
  | .walkRetry .. => .wait
  | .memorySideFault .. => .wait
  | .pageFaultReport .. => .wait
  | .faultRecordWrite => .wait
  | .resume .. => .wait
  | .fail .. => .wait
  | .endCommand .. => .wait
  | .launchQueueTailWrite .. => .wait
  | .nodeSpecAccept .. => .wait
  | .compareManifest .. => .wait
  | .preemptGang .. => .wait
  | .preemptCrew .. => .wait
  | .crewRestore .. => .wait
  | .gangSwap .. => .wait
  | .gangPlacement .. => .wait
  | .gangRestore .. => .wait
  | .gangRelease .. => .wait
  | .spawnedCrewStart .. => .wait
  | .nodeCompletion .. => .wait
  | .arenaDrained .. => .wait
  | .arenaBirth .. => .wait
  | .dependenceSignal .. => .wait
  | .taskQueueRefill .. => .wait
  | .continuationResume .. => .wait
  | .copyOpStart .. => .wait
  | .copyOpComplete .. => .wait
  | .copyPageResume .. => .wait
  | .cpbLanding .. => .wait
  | .matrixWordTake .. => .wait
  | .objAnnounceStep .. => .wait
  | .objApplyStep .. => .wait
  | .objFinishStep .. => .wait
  | .objCollect .. => .wait
  | .redBatchApply .. => .wait
  | .flitCrcFail .. => .wait
  | .dieSublinkRetrain .. => .wait
  | .dieSublinkFail .. => .wait
  | .networkPathRetrain .. => .wait
  | .networkPathFail .. => .wait
  | .transportResend .. => .wait
  | .peerPacketArrival .. => .wait
  | .walkInvalidate .. => .wait
  | .setMassifCachePart .. => .wait
  | .setPower .. => .wait
  | .firmwareUpdate .. => .wait
  | .substituteSpareCore .. => .wait
  | .retireRecalibrate .. => .wait
  | .replacePort .. => .wait
  | .attestationRequest .. => .wait
  | .setDeviceId .. => .wait
  | .managementRegisterWrite .. => .wait
  | .thermalTrip .. => .wait
  | .scrub .. => .wait
  | .deviceReset => .wait
  | .illegalInstruction .. => .wait
  | .sensorReading .. => .wait
  | .sublinkReturnToService .. => .wait
  | .pathReturnToService .. => .wait
  | .hostMainbandAccess .. => .wait
  | .unitRetirement .. => .wait

end Sys2Proof.Machine
end

