-- ==== Sys2Proof/Machine/Bundle.lean ====
section
/-!
DEFINITION. From the bytes at the PC to an issue: fetching a packet (03 R59, R60, 12 R235), the chain that starts at a PC
and the decode levels 1 to 5 (R57, R58, R65, R71), the issue of a bundle (08 R171, R177, R178, 22 R406, R408), the
regroup (R176), and the choice of a partition (R179, R180, R183).
-/
namespace Sys2Proof.Machine

/-! ### Fetching a chain -/

/-- What stands at a PC. -/
inductive Fetched where
  /-- The packet cannot be had yet: its walk is busy. -/
  | wait
  /-- The fetch faults (R235, R240, R253). -/
  | fault (code sub : Nat) (ia : Nat)
  /-- A level of R71 below 6 refuses the chain; the word that TVAL names. -/
  | bad (level : Nat) (word : Word)
  /-- A chain, with the PC after it. -/
  | chain (ws : List ChainWord) (next : DWord)

/-- The C bit of a word. -/
def wordC (w : Word) : Bool := w.getLsbD 31
/-- The major opcode of a word. -/
def wordMaj (w : Word) : Nat := (w.extractLsb' 25 6).toNat

/-- The words of the chain that starts at a slot, with their slots (R57). -/
def chainSlots (w0 w1 w2 : Word) (slot : Nat) : List (Nat × Word) :=
  if slot = 0 then
    (0, w0) :: if wordC w0 then (1, w1) :: if wordC w1 then [(2, w2)] else [] else []
  else if slot = 1 then (1, w1) :: if wordC w1 then [(2, w2)] else []
  else [(2, w2)]

/-- A branch packet: its MAJ and C bits (R65). -/
def isMbrPacket (w0 w1 w2 : Word) : Bool :=
  wordMaj w0 == 0x21 && wordMaj w1 == 0x22 && wordMaj w2 == 0x22 && wordC w0 && wordC w1 && !wordC w2

/-- A word of a branch packet where none may stand. -/
def isMbrWord (w : Word) : Bool := wordMaj w == 0x21 || wordMaj w == 0x22

/-- The first word of a chain that level 4 refuses: C in slot 2, a pipe that a later word needs too, or a branch word
(R57, R65). -/
def levelFour : List (Nat × Word) → Option Word
  | [] => none
  | (slot, w) :: rest =>
    let pipe := fun (x : Word) => pipeOfMaj (wordMaj x)
    if isMbrWord w || (slot == 2 && wordC w) || rest.any fun y => pipe y.2 == pipe w then some w
    else levelFour rest

/-- The instruction of a word, as the decoder and the field rules judge it: its level of R71 where one refuses it. -/
noncomputable def wordInfo (w : Word) : Nat ⊕ Instr :=
  match decode w with
  | .illegal => .inl 3
  | .badField => .inl 5
  | .ok i =>
    match faultLevel i with
    | some l => .inl l
    | none => .inr i

/-- The chain word of an instruction; a word with C = 1 is reported with it. -/
def chainWord (pc : DWord) (w : Word) (i : Instr) : ChainWord :=
  ⟨pc, if wordC w then { infoOf i with word := w } else infoOf i, bodyOf i⟩

/-- The words of a branch packet that break a rule of level 5, lowest slot first (R65, R71). -/
def mbrBad (w0 w1 w2 : Word) : Option Word :=
  let np := (w0.extractLsb' 23 2).toNat
  let head := wf (.mbr (w0.extractLsb' 23 2) (w0.extractLsb' 19 4) (w0.extractLsb' 15 4) (w0.extractLsb' 11 4)
    (w0.extractLsb' 7 4) (w0.getLsbD 6) (w0.getLsbD 5) (w0.getLsbD 4) (w0.getLsbD 3) 0#12 0#12 0#12 0#12)
  if w0.extractLsb' 0 3 ≠ 0#3 ∨ !head then some w0
  else if w1.getLsbD 24 ∨ (np < 1 ∧ w1.extractLsb' 0 12 ≠ 0#12) then some w1
  else if w2.getLsbD 24 ∨ (np < 2 ∧ w2.extractLsb' 12 12 ≠ 0#12) ∨ (np < 3 ∧ w2.extractLsb' 0 12 ≠ 0#12) then some w2
  else none

/-- The first word that a level refuses. -/
noncomputable def refusedAt (level : Nat) (l : List (Nat × Word)) : Option Word :=
  (l.find? fun x => match wordInfo x.2 with | .inl k => k == level | .inr _ => false).map Prod.snd

/-- The chain at a PC of a packet, by levels 1 to 5 of R71. A PC that names no word (R14), which only a continuation
record can give, is refused at level 1. -/
noncomputable def decodeChain (pc : DWord) (w0 w1 w2 tail : Word) : Fetched :=
  let slot := pcSlot pc
  let entered := if slot = 0 then w0 else if slot = 1 then w1 else w2
  if tail.extractLsb' 0 12 ≠ 0#12 ∨ pcInvalid pc then .bad 1 entered
  else if (slot = 1 ∧ wordC w0) ∨ (slot = 2 ∧ wordC w1) then .bad 2 entered
  else if slot = 0 ∧ isMbrPacket w0 w1 w2 then
    match mbrBad w0 w1 w2, decodeMbr w0 w1 w2 with
    | some w, _ => .bad 5 w
    | none, .ok i => .chain [⟨pc, infoOf i, bodyOf i⟩] (pcPacket pc + 16#64)
    | none, _ => .bad 5 w0
  else
    let ws := chainSlots w0 w1 w2 slot
    match refusedAt 3 (ws.filter fun x => !isMbrWord x.2), levelFour ws, refusedAt 5 ws with
    | some w, _, _ => .bad 3 w
    | none, some w, _ => .bad 4 w
    | none, none, some w => .bad 5 w
    | none, none, none =>
      let cs := ws.filterMap fun x => match wordInfo x.2 with
        | .inr i => some (chainWord (pcOf pc x.1) x.2 i)
        | .inl _ => none
      .chain cs (pcNext (pcOf pc (slot + ws.length - 1)))

/-- The fetch of the packet at the current fibre's PC through the L1 of its core (R60, R235, R240, R245, R246, R253): its 16
bytes, or why not, and the state with the line filled. It waits while the packet is half written (R60, R124). -/
def State.fetchStep (s : State) : (Fetched ⊕ List Byte) × State :=
  let stop := fun (code sub ia : Nat) => show (Fetched ⊕ List Byte) × State from (.inl (.fault code sub ia), s)
  match s.xlat s.n (pcPacket s.r.pc).toNat 16 .fetch with
  | .bad code ia => stop code 0 ia
  | .ok ia tr =>
    if s.c.errRun ia 16 then stop 0x47 0 ia
    else if s.halfWritten s.c.num ia then (.inl .wait, s)
    else if s.c.holds ia 16 then (.inr (s.c.bytes ia 16), s)
    else if !s.reaches s.c.num ia then stop 0x42 0 ia
    else if s.missWaits s.c.num ia 16 then (.inl .wait, s)
    else
      match s.walkRun ia 16 .fetch with
      | (some (0, _, e), _) => if s.spent (.fetch s.f.id) then stop 0x48 3 e else (.inl .wait, s)
      | (some (code, sub, e), _) => stop code sub e
      | (none, t) =>
        if t.badRun ia 16 then stop 0x47 0 ia
        else
          match t.readL1 t.c.num ia 16 t.n.ctx tr .fetch with
          | (some bs, u) => (.inr bs, u)
          | (none, _) => (.inl .wait, s)

/-- What the fetch comes to. -/
def State.fetchPacket (s : State) : Fetched ⊕ List Byte := s.fetchStep.1

/-- The state once the packet has been fetched. -/
def State.fetched (s : State) : State := s.fetchStep.2.triesDone (.fetch s.f.id)

/-- The walk of the fetch is busy (R240). -/
def State.fetchBusy (s : State) : Bool :=
  match s.xlat s.n (pcPacket s.r.pc).toNat 16 .fetch with
  | .ok ia _ => !s.halfWritten s.c.num ia && !s.c.holds ia 16 && !s.missWaits s.c.num ia 16 && s.busyRun ia 16 .fetch
  | .bad _ _ => false

/-- The chain at the current fibre's PC. -/
noncomputable def State.fetchChain (s : State) : Fetched :=
  match s.fetchPacket with
  | .inl x => x
  | .inr bs =>
    let w := fun (k : Nat) => wordOfBytes ((bs.drop (4 * k)).take 4)
    decodeChain s.r.pc (w 0) (w 1) (w 2) (w 3)

/-! ### The issue of a bundle -/

/-- What an issue leaves so far: the state, the system faults to be raised together (R408), and the fibres that have
issued, trapped or faulted. -/
structure Issued where
  st : State
  items : List FaultItem
  done : List FibId

/-- The current fibre, which is `id`, does what its chain comes to; faults are gathered. -/
def Issued.lane (x : Issued) (id : FibId) (first : DWord) (res : ChainRes) : Issued :=
  match res with
  | .wait => x
  | .trap code sub val => ⟨x.st.enterTrap first code sub val, x.items, x.done ++ [id]⟩
  | .fault code sub va ia => ⟨x.st, x.items ++ [⟨id, first, code, sub, va, ia⟩], x.done ++ [id]⟩
  | .hold k => ⟨k x.st, x.items, x.done ++ [id]⟩
  | .go k => ⟨k x.st, x.items, x.done ++ [id]⟩

/-- The fibre `id` becomes the current one. -/
def Issued.at_ (x : Issued) (id : FibId) : Issued := { x with st := x.st.focus id }

/-- The end of an issue: the faults are raised, and the next issue has the next number. -/
def Issued.finish (x : Issued) : State × List FibId := ((x.st.raise x.items).tick, x.done)

/-- The fibres of a bundle are independent, and are served in ascending lane order (R406). -/
def issuePlain (ws : List ChainWord) (next pc : DWord) (ids : List FibId) (x : Issued) : Issued :=
  ids.foldl (fun y id =>
    let z := y.at_ id
    z.lane id pc (evalChain ws next z.st)) x

/-- Whether a chain waits. -/
def ChainRes.waits : ChainRes → Bool
  | .wait => true
  | _ => false

/-- A chain commits, or is at work. -/
def ChainRes.good : ChainRes → Bool
  | .hold _ => true
  | .go _ => true
  | _ => false

/-- A chain that is at work and has not committed. -/
def ChainRes.holds : ChainRes → Bool
  | .hold _ => true
  | _ => false

/-- While some fibre is at work on its chain, the fibres whose chain is ready to commit wait for it. -/
def together (res : List (FibId × ChainRes)) : List (FibId × ChainRes) :=
  if res.any fun r => r.2.holds then res.map fun r => if r.2.good && !r.2.holds then (r.1, .wait) else r else res

/-- The fibres of a list do what their chains come to. -/
def Issued.lanes (x : Issued) (pc : DWord) (res : List (FibId × ChainRes)) : Issued :=
  res.foldl (fun y r => (y.at_ r.1).lane r.1 pc r.2) x

/-- A chain with a collective issues only when every fibre of the bundle can issue, and every fibre reads before any of
them writes (R178, R217). -/
def issueColl (ws : List ChainWord) (next pc : DWord) (ids : List FibId) (x : Issued) : Issued :=
  let res := ids.map fun id => (id, evalChain ws next (x.st.focus id))
  if res.any fun r => r.2.waits then x
  else x.lanes pc (together res)

/-- A fibre whose crew-mate fails a chain with a crew-uniform word raises trap 0x0B (R171). -/
def partialRes (ws : List ChainWord) (s : State) : ChainRes :=
  let m := (s.partialLanes (ws.map ChainWord.info)).setWidth 64
  (s.trapRes 0x0B 0 m).afterConv s.f

/-- What the chain of one crew with a crew-uniform word comes to in its fibres: it commits in every one, or in none (R171). -/
def crewRes (ws : List ChainWord) (next : DWord) (ids : List FibId) (x : Issued) : List (FibId × ChainRes) :=
  let res := ids.map fun id => (id, evalChain ws next (x.st.focus id))
  if res.all fun r => r.2.good then res
  else res.map fun r => if r.2.good then (r.1, partialRes ws (x.st.focus r.1)) else r

/-- The chain of one crew with a crew-uniform word. None where some fibre waits. -/
def issueCrew (ws : List ChainWord) (next pc : DWord) (ids : List FibId) (x : Issued) : Option Issued :=
  let res := crewRes ws next ids x
  if res.any fun r => r.2.waits then none else some (x.lanes pc (together res))

/-- The crews of a bundle (R171): while a fibre of one is at work on its chain, the chains that are ready in the others wait for
it (R178); then one after another. -/
def issueCrews (ws : List ChainWord) (next pc : DWord) (ids : List FibId) (x : Issued) : Issued :=
  let crews := (distinct (ids.map FibId.cid)).map fun c => ids.filter fun i => i.cid = c
  let all := crews.flatMap fun l => crewRes ws next l x
  if all.any fun r => r.2.waits then x
  else if all.any fun r => r.2.holds then x.lanes pc (together all)
  else (crews.foldl (fun acc l => acc.bind fun y => issueCrew ws next pc l y) (some x)).getD x

/-- Every fibre of a bundle takes the trap of a level below 6, unless it waits for a trap that is due (R146) or for the report of
its crew (R410). -/
def issueBad (level : Nat) (word : Word) (pc : DWord) (ids : List FibId) (x : Issued) : Issued :=
  let code := if level ≤ 4 then 0x01 else 0x02
  let val := wordVal word level
  ids.foldl (fun y id =>
    let z := y.at_ id
    z.lane id pc (if z.st.f.due.isSome || z.st.f.met.isSome then .wait else (z.st.trapRes code 0 val).afterConv z.st.f)) x

/-- The fibres of a list whose due trap no flag holds back any more enter it (R146). -/
def issueDue (pc : DWord) (ids : List FibId) (x : Issued) : Issued :=
  ids.foldl (fun y id =>
    let z := y.at_ id
    match z.st.f.due with
    | some (code, sub, val) => if z.st.f.flagsPending then z else z.lane id pc (.trap code sub val)
    | none => z) x

/-- Some fibres at one PC issue together, in ascending lane order; the fibres that did are returned. A trap that is due is entered
before anything is fetched. -/
noncomputable def State.issueBundle (s : State) (ids : List FibId) : State × List FibId :=
  let sorted := sortOn FibId.fid ids
  match sorted with
  | [] => (s, [])
  | id :: _ =>
    let t := State.focus { s with issue := ids } id
    let pc := t.r.pc
    let due := issueDue pc sorted ⟨t, [], []⟩
    if due.done ≠ [] then due.finish
    else
    let x : Issued := ⟨t.fetched, [], []⟩
    match t.fetchChain with
    | .wait => (s, [])
    | .fault code sub ia =>
      -- a trap that is due comes first (R146); a converting load that has not resolved may yet discard what its fibre would
      -- fetch (R158)
      let met := sorted.filter fun i => (t.fibre? i).any fun b => b.convPending == 0 && b.due.isNone && b.met.isNone
      if met = [] then (s, [])
      else Issued.finish ⟨t, met.map fun i => ⟨i, pc, code, sub, pcPacket pc, ia⟩, met⟩
    | .bad level word => (issueBad level word pc sorted x).finish
    | .chain ws next =>
      let infos := ws.map ChainWord.info
      if infos.any fun i => i.role.isSome then (issueCrews ws next pc sorted x).finish
      else if infos.any Info.coll then (issueColl ws next pc sorted x).finish
      else (issuePlain ws next pc sorted x).finish

/-! ### Partitions -/

/-- Whether a crew's fibres may run (R176). -/
def Gang.canRun (g : Gang) (cid : Nat) : Bool :=
  (match g.place with | .resident _ => true | _ => false) && g.leaving.isNone &&
    (g.crew? cid).any fun c => c.state == .running && c.place == .here

/-- The runnable fibres that a partition of a core serves (R175, R176). -/
def State.runnable (s : State) (core part : Nat) : List Fibre :=
  let gangs := s.gangsOn core
  s.allFibres.filter fun f => gangs.any fun g => g.nid == f.id.nid && g.gid == f.id.gid && g.canRun f.id.cid &&
    (g.crew? f.id.cid).any fun c => c.ctx % 16 == part

/-- The age of a fibre's crew. -/
def State.ageOf (s : State) (id : FibId) : Nat :=
  (((s.gang? id.nid id.gid).bind fun g => g.crew? id.cid).map Crew.age).getD 0

/-- Two sets of fibres share no home lane. -/
def lanesApart (a b : List FibId) : Bool := a.all fun x => b.all fun y => x.fid != y.fid

/-- One crew's fibres at a PC join the first bundle whose lanes are apart from theirs (R176). -/
def joinBundle (ids : List FibId) : List (List FibId) → List (List FibId)
  | [] => [ids]
  | b :: rest => if lanesApart ids b then (b ++ ids) :: rest else b :: joinBundle ids rest

/-- The bundles that a regroup makes of a partition's runnable fibres (R176). -/
def State.bundlesOf (s : State) (part : Nat) (fs : List Fibre) : List Bundle :=
  let key := fun (f : Fibre) => (f.id.nid, f.id.gid, f.stg, f.regs.pc)
  (distinct (fs.map key)).flatMap fun k =>
    let here := fs.filter fun f => key f = k
    let crews := sortOn (fun c => s.ageOf ⟨k.1, k.2.1, c, 0⟩) (distinct (here.map fun f => f.id.cid))
    let groups := crews.map fun c => (sortOn (fun (i : FibId) => i.fid) ((here.filter fun f => f.id.cid = c).map Fibre.id))
    (groups.foldl (fun bs ids => joinBundle ids bs) []).map fun ids =>
      ⟨part, k.1, k.2.1, k.2.2.1, k.2.2.2, ids⟩

/-- The regroup of a partition (R176). -/
def State.regroup (s : State) (core part : Nat) : State :=
  let bs := s.bundlesOf part (s.runnable core part)
  s.onCore core fun c => { c with bundles := (c.bundles.filter fun b => b.part ≠ part) ++ bs }

/-- The bundles of a partition with the fibres that still stand in them and may run. -/
def State.standing (s : State) (core part : Nat) : List Bundle :=
  let fs := s.runnable core part
  ((s.core core).bundles.filter fun b => b.part = part).filterMap fun b =>
    let ids := b.ids.filter fun i => fs.any fun f => f.id = i && f.regs.pc == b.pc
    if ids = [] then none else some { b with ids := ids }

/-- A bundle is held while another of its gang, stage and PC stands beside it on lanes apart from its own (R179). -/
def heldIn (bs : List Bundle) (b : Bundle) : Bool :=
  bs.any fun x => x.ids != b.ids && x.nid == b.nid && x.gid == b.gid && x.stg == b.stg && x.pc == b.pc &&
    lanesApart x.ids b.ids

/-- The lowest of some identifiers. -/
def lowestId : List FibId → Option FibId
  | [] => none
  | i :: rest =>
    match lowestId rest with
    | none => some i
    | some j => some (if i.lt j then i else j)

/-- The senior fibre of a partition (R179). -/
def State.senior (s : State) (core part : Nat) : Option FibId := lowestId ((s.runnable core part).map Fibre.id)

/-- A partition of a core. -/
def State.part (s : State) (core part : Nat) : Part := (s.core core).parts.getD part ⟨0, 0⟩

/-- Whether a fibre is in polling back-off (R183). -/
def State.backsOff (s : State) (clock : Nat) (id : FibId) : Bool :=
  match (s.fibre? id).bind Fibre.backoff with
  | none => false
  | some b => decide (clock ≤ b)

/-- A bundle that is ready and not held, with its rank in the order of R179 and what its issue leaves. -/
structure Ready1 where
  b : Bundle
  back : Bool
  age : Nat
  low : FibId
  res : State × List FibId

/-- The order of R179. -/
def Ready1.before (x y : Ready1) : Bool :=
  if x.back != y.back then !x.back
  else if x.age ≠ y.age then decide (x.age < y.age)
  else if x.b.pc ≠ y.b.pc then decide (x.b.pc.toNat < y.b.pc.toNat)
  else x.low.lt y.low

/-- The bundles of a partition that are ready and not held. -/
noncomputable def State.readyBundles (s : State) (core part : Nat) : List Ready1 :=
  let bs := s.standing core part
  let senior := s.senior core part
  let clock := (s.part core part).clock
  (bs.filter fun b => !heldIn bs b).filterMap fun b =>
    let res := s.issueBundle b.ids
    let low := (lowestId b.ids).getD ⟨0, 0, 0, 0⟩
    let back := !(senior.any fun i => b.ids.contains i) && b.ids.all (s.backsOff clock)
    if res.2 = [] then none
    else some ⟨b, back, (b.ids.map s.ageOf).foldl min (s.ageOf low), low, res⟩

/-- The first bundle in the order of R179. -/
def firstReady : List Ready1 → Option Ready1
  | [] => none
  | x :: rest =>
    match firstReady rest with
    | none => some x
    | some y => some (if y.before x then y else x)

/-- After a bundle has issued: the fibres that did stand in one bundle for each PC they have reached, and the others in a
bundle of their own (R177, R178). -/
def State.splitBundle (s : State) (core : Nat) (b : Bundle) (done : List FibId) : State :=
  let stay := b.ids.filter fun i => !done.contains i
  let live := done.filterMap fun i => match s.fibre? i with
    | some f => if f.life = .live then some f else none
    | none => none
  let moved := (distinct (live.map fun f => f.regs.pc)).map fun pc =>
    { b with pc := pc, ids := (live.filter fun f => f.regs.pc = pc).map Fibre.id }
  let left := if stay = [] then [] else [{ b with ids := stay }]
  s.onCore core fun c =>
    { c with bundles := (c.bundles.filter fun x => !(x.part == b.part && x.ids.any b.ids.contains)) ++ left ++ moved }

/-- SEN after a clock (R179). -/
def senAfter (sen : Nat) (senior : Option FibId) (ready : List Ready1) (x : Ready1) : Nat :=
  match senior with
  | none => sen
  | some i =>
    if x.res.2.contains i then 0
    else if x.b.ids.contains i then sen
    else if ready.any fun x => x.b.ids.contains i then min 63 (sen + 1)
    else sen

/-- Changes a partition. -/
def State.onPart (s : State) (core part : Nat) (k : Part → Part) : State :=
  s.onCore core fun c => { c with parts := c.parts.modify part k }

/-- The bundle that a partition issues (R179): its senior fibre's when SEN is 63, else the first in order. -/
def chosen (sen : Nat) (senior : Option FibId) (ready : List Ready1) : Option Ready1 :=
  let forced := if sen = 63 then ready.find? fun x => senior.any fun i => x.b.ids.contains i else none
  match forced with
  | some x => some x
  | none => firstReady ready

/-- A partition issues at most one bundle (R179). -/
noncomputable def State.issuePart (s : State) (core part : Nat) : State :=
  let ready := s.readyBundles core part
  let senior := s.senior core part
  let sen := (s.part core part).sen
  match chosen sen senior ready with
  | none => s
  | some x =>
    (x.res.1.splitBundle core x.b x.res.2).onPart core part fun p => { p with sen := senAfter sen senior ready x }

/-- The busy fetches of a partition's bundles are tried again at each of its clocks (R240). -/
def State.fetchTries (s : State) (core part : Nat) : State :=
  (s.standing core part).foldl
    (fun t b => match (sortOn FibId.fid b.ids).head? with
      | none => t
      | some id => if (s.focus id).fetchBusy then t.tryAgain (.fetch id) else t) s

/-- One clock of a partition: on every fourth it regroups first (R176, R179). -/
noncomputable def State.partClock (s : State) (core part : Nat) : State :=
  let t := (if (s.part core part).clock % 4 = 0 then s.regroup core part else s).fetchTries core part
  (t.issuePart core part).onPart core part fun p => { p with clock := p.clock + 1 }

end Sys2Proof.Machine
end

