-- ==== Sys2Proof/Machine/Sched.lean ====
section
/-!
DEFINITION. The steps of the scheduler: regroup and forced issue (08 R176, R179), back-off (R183), the watchdog (R182, 22
R420), and a word that is no instruction (03 R71).
-/
namespace Sys2Proof.Machine

/-- SENIOR_FORCED_ISSUE: with SEN at 63 the senior fibre's bundle, when it is ready and not held, issues (R179, R180). -/
noncomputable def forcedIssue (s : State) (core part : Nat) : State :=
  if (s.part core part).sen ≠ 63 then s
  else
    match (s.readyBundles core part).find? fun x => (s.senior core part).any fun i => x.b.ids.contains i with
    | none => s
    | some x => (x.res.1.splitBundle core x.b x.res.2).onPart core part fun p =>
        { p with sen := senAfter 63 (s.senior core part) [x] x }

/-- The clock of the partition that serves a fibre. -/
def State.clockOf (s : State) (id : FibId) : Nat :=
  match s.gang? id.nid id.gid with
  | none => 0
  | some g =>
    match g.core?, g.crew? id.cid with
    | some core, some c => (s.part core (c.ctx % 16)).clock
    | _, _ => 0

/-- BACKOFF_EXPIRY: back-off ends after 16 clocks of the partition (R183). -/
def backoffEnds (s : State) (who : FibId) : State :=
  match (s.fibre? who).bind Fibre.backoff with
  | none => s
  | some b => if s.clockOf who ≤ b then s else s.onFibre who fun f => { f with backoff := none }

/-- The chain at a fibre's PC ends in the watchdog (R182). -/
noncomputable def State.watchdogDue (s : State) : Bool :=
  match s.fetchChain with
  | .chain ws next =>
    match evalChain ws next s with
    | .fault 0x45 _ _ _ => true
    | _ => false
  | _ => false

/-- WATCHDOG: a running fibre that is about to commit with LEFT 0 ends its node (R182, R420). -/
noncomputable def watchdog (s : State) (who : FibId) : State :=
  match s.gang? who.nid who.gid with
  | none => s
  | some g =>
    if !g.canRun who.cid ∨ s.fibre? who = none then s
    else
      let t := State.focus { s with issue := [who] } who
      if t.f.life = .live ∧ t.watchdogDue then t.raise [⟨who, t.r.pc, 0x45, 0, 0#64, 0⟩] else s

/-- ILLEGAL_INSTRUCTION: the current fibre has reached a word or chain that a level of R71 below 7 refuses; its trap waits
for the flags still pending (R146), and a refused one for the converting loads that may yet discard the word (R158). -/
def illegalWord (s : State) (level : Nat) (word : Word) : State :=
  let code := if level ≤ 4 then 0x01 else 0x02
  if s.f.life ≠ .live ∨ s.f.due.isSome ∨ s.f.met.isSome ∨ (s.r.trapRefused ∧ 0 < s.f.convPending) then s
  else State.trap { s with f := { s.f with obj := none, rel := none, early := none } } s.r.pc s.r.pc code 0 (wordVal word level)

/-- REGROUP (R176). -/
def execRegroup (core part : Nat) (s : State) : Host.Outcome State Fault Refusal :=
  event (fun t => t.regroup core part) s

/-- SENIOR_FORCED_ISSUE (R179). -/
noncomputable def execSeniorForcedIssue (core part : Nat) (s : State) : Host.Outcome State Fault Refusal :=
  event (fun t => forcedIssue t core part) s

/-- BACKOFF_EXPIRY (R183). -/
def execBackoffExpiry (who : FibId) (s : State) : Host.Outcome State Fault Refusal :=
  event (fun t => backoffEnds t who) s

/-- WATCHDOG (R182). -/
noncomputable def execWatchdog (who : FibId) (s : State) : Host.Outcome State Fault Refusal :=
  event (fun t => Sys2Proof.Machine.watchdog t who) s

/-- ILLEGAL_INSTRUCTION (R71). -/
def execIllegalInstruction (level : Nat) (word : BitVec 32) (s : State) : Host.Outcome State Fault Refusal :=
  event (fun t => illegalWord t level word) s

end Sys2Proof.Machine
end

