-- ==== Sys2Proof/Machine/Fault.lean ====
section
/-!
DEFINITION. Faults and their answers (22): the batch of a page-fault report and the runahead that fills it (R410, R411), fault
records in the host's queue (R408), and the host's answers (R409, R412).
-/
namespace Sys2Proof.Machine

/-! ### Runahead (R410, R411) -/

/-- The stop words (R411). -/
def Info.stopsAhead (x : Info) : Bool :=
  (decide (0x26 ≤ x.maj) && decide (x.maj ≤ 0x37)) || x.maj == 0x24 || x.setsPrc ||
    (x.maj == 0x23 && decide ((x.word.extractLsb' 0 7).toNat ≤ 2)) || (x.maj == 0x38 && x.word.extractLsb' 0 7 == 1#7)

/-- The bytes that an access walks: of an `ldy`, its first, and those of its element once that can be read (R156, R450). -/
def State.reachOf (s : State) (core : Nat) (a : Access) : Nat :=
  match a.op with
  | .ldy _ =>
    match (s.engineBytes core a.ia 1).1 with
    | some b0 => if a.size < elemBytes (b0.headD 0#8) then 1 else elemBytes (b0.headD 0#8)
    | none => 1
  | _ => a.size

/-- A runahead under way: a copy of the machine that is thrown away, in which a POISON register is empty; the POISON
predicates; the words that may still be followed; the batch. -/
structure Ahead where
  st : State
  pois : List Nat
  left : Nat
  pages : List Nat

/-- A converting load made ahead (R157): its value is in place, or it would trap, and the runahead stops. -/
def Ahead.convert (x : Ahead) (op : AccOp) (r0 : Regs) (va : DWord) (dest : Dest) (bs : List Byte) : Ahead × Bool :=
  let s := x.st
  let u := (rand32 s.n.spec.seed (BitVec.ofNat 64 s.f.id.gfi) r0.rndc).toNat
  match resolveConv r0 op va bs u with
  | .value y _ _ => ({ x with st := s.onRegs fun r => r.deliver dest [] (some y) }, true)
  | .trap _ _ _ => (x, false)

/-- The results that the copy's fibre has waited for arrive. -/
def Ahead.arrivals (x : Ahead) : Ahead × Bool :=
  let vs := x.st.f.dlv
  let y := { x with st := { x.st with f := { x.st.f with dlv := [] } } }
  vs.foldl
    (fun p v =>
      if !p.2 then p
      else
        match v.kind, v.ckpt with
        | .conv op, some r0 => p.1.convert op r0 v.va v.dest v.bytes
        | _, _ => ({ p.1 with st := { p.1.st with f := p.1.st.f.arrive v } }, true))
    (y, true)

/-- The bytes of an access made ahead give its result: a load's cells, what an AMO or `lda` returns, a converting load's
value. Nothing is written. -/
def Ahead.result (x : Ahead) (a : Access) (bs : List Byte) : Ahead × Bool :=
  let cells := fun (vs : List Word) => (({ x with st := x.st.onRegs fun r => r.deliver a.dest vs none } : Ahead), true)
  match a.op with
  | .load signed => cells (loadCells signed bs)
  | .lda => cells (loadCells false bs)
  | .amo _ _ => cells (cellsOfBytes (a.size / 4) bs)
  | .ldy _ => x.convert a.op (a.ckpt.getD x.st.r) a.va a.dest bs
  | .ldc _ => x.convert a.op (a.ckpt.getD x.st.r) a.va a.dest bs
  | _ => (x, true)

/-- An access made ahead: a load is checked, walked and read, a store is checked and walked. False when the runahead
stops there. -/
def Ahead.access (x : Ahead) (a : Access) : Ahead × Bool :=
  let core := x.st.c.num
  let size := max 1 (x.st.reachOf core a)
  if a.spad then
    match x.st.n.spadRun (a.va.extractLsb' 0 32) a.size with
    | some offs => x.result a (x.st.g.spadBytes offs)
    | none => (x, false)
  else if x.st.c.errRun a.ia size then (x, false)
  else if !a.op.need.w && x.st.c.holds a.ia size then x.result a (x.st.c.bytes a.ia size)
  else
    match x.st.walkRun a.ia size a.op.need with
    | (some (code, _, ia), _) => if code = 0x40 then ({ x with pages := joinPage ia x.pages }, true) else (x, false)
    | (none, t) =>
      if t.badRun a.ia size then (x, false)
      else
        match (t.engineBytes core a.ia size).1 with
        | some bs => Ahead.result { x with st := t } a bs
        | none => if a.op.returns then (x, false) else ({ x with st := t }, true)

/-- What the words just followed have sent arrives or is made ahead. -/
def Ahead.settle (x : Ahead) : Ahead × Bool :=
  let accs := x.st.f.acc
  let y := Ahead.arrivals { x with st := { x.st with f := { x.st.f with acc := [] } } }
  accs.foldl (fun p a => if p.2 then p.1.access a else p) y

/-- A word reads a POISON register or predicate. -/
def Ahead.poisoned (x : Ahead) (w : ChainWord) : Bool :=
  (w.info.ops.any fun o => o.reads && isEmpty x.st.r o) || w.info.preads.any x.pois.contains

/-- A store whose data alone is POISON: its address is checked still. -/
def Ahead.storesPoison (x : Ahead) (w : ChainWord) : Bool :=
  (w.info.maj == 0x10 || w.info.maj == 0x14 || w.info.maj == 0x16) && (w.info.ops.drop 1).all fun o => !isEmpty x.st.r o

/-- The registers that words write or, for the stores, hold POISON data in. -/
def poisonOf (r : Regs) (ws : List ChainWord) : List Dest :=
  ws.flatMap fun w => (w.info.ops.filter fun o => o.writes || isEmpty r o).map (destOf r)

/-- One chain is followed; false when the runahead stops with it. A control word with a POISON source acts on what the
register holds, and the runahead stops where it is taken (R411, log 42). -/
noncomputable def Ahead.chain (x : Ahead) (ws : List ChainWord) (next : DWord) : Ahead × Bool :=
  let bad := ws.filter x.poisoned
  let guessed := fun (w : ChainWord) => x.storesPoison w || w.info.control
  let stores := bad.filter guessed
  let run := ws.filter fun w => !x.poisoned w || guessed w
  if (ws.any fun w => w.info.stopsAhead) || decide (x.left < ws.length) then (x, false)
  else
    let r := x.st.r
    let poison := poisonOf r bad
    let filled := (poisonOf r stores).foldl Regs.markFull { r with ydl := ydlOf 65535 0 0 }
    match evalChain run next (x.st.onRegs fun _ => filled) with
    | .go k =>
      let t := k (x.st.onRegs fun _ => filled)
      let taken := (bad.any fun w => w.info.control) && t.r.pc != (filled.arriveAt next).pc
      let fresh := writtenBy r ((run.filter fun w => !x.poisoned w).map ChainWord.info)
      let t1 := t.onRegs fun q => (poison.map fun d => fresh.foldl Dest.without d).foldl Regs.markEmpty q
      let clean := (run.flatMap fun w => w.info.pwrites)
      let pois := (x.pois.filter fun p => !clean.contains p) ++ bad.flatMap fun w => w.info.pwrites
      -- a trap that a `brk` or `trap` takes stops it too, and a `ret` that ends the fibre
      if taken || t.f.life != .live || t.f.due.isSome || (t.r.tcause.getLsbD 31 && !r.tcause.getLsbD 31) then (x, false)
      else Ahead.settle { x with st := t1, pois := pois, left := x.left - ws.length }
    | _ => (x, false)

/-- The next chain of a runahead. -/
noncomputable def Ahead.next (x : Ahead) : Ahead × Bool :=
  if Config.batchPages ≤ x.pages.length then (x, false)
  else
    match x.st.fetchChain with
    | .chain ws next => x.chain ws next
    | .fault code _ ia => if code = 0x40 then ({ x with pages := joinPage ia x.pages }, false) else (x, false)
    | _ => (x, false)

/-- A runahead of at most so many chains. -/
noncomputable def aheadFrom : Nat → Ahead → Ahead
  | 0, x => x
  | n + 1, x =>
    match x.next with
    | (y, true) => aheadFrom n y
    | (y, false) => y

/-- The pages of a batch after the runahead of one fibre; nothing else of it is kept (R410). The accesses that have not faulted
bring their results first. -/
noncomputable def State.runahead (s : State) (id : FibId) (pages : List Nat) : List Nat :=
  let t := State.focus { s with issue := [id] } id
  let b := { t.f with acc := [], obj := .none, rel := .none, early := .none, due := .none, met := .none }
  let x := Ahead.arrivals ⟨{ t with f := b }, [], Config.runaheadWords, pages⟩
  let going := t.f.acc.filter fun a => !a.stage.faulty && !a.spad && a.op.returns
  let y := going.foldl (fun p a => if p.2 then p.1.access a else p) x
  (if y.2 then aheadFrom Config.runaheadWords y.1 else y.1).pages

/-! ### The report of page faults (R408, R410) -/

/-- The accesses of global memory that are walked. -/
def AccOp.walks : AccOp → Bool
  | .fence _ _ _ => false
  | .wbr => false
  | .invr => false
  | .ldf _ => false
  | .stf => false
  | _ => true

/-- A batch under way, with the accesses it answers for. -/
structure Batch where
  st : State
  pages : List Nat
  items : List FaultItem

/-- An access of a fibre joins the batch when its page is missing. Those issued after a faulted one are walked for it
(log 42). -/
def Batch.entry (x : Batch) (b : Fibre) (a : Access) : Batch :=
  let found := match a.stage with
    | .issued =>
      if a.spad || !a.op.walks || a.size == 0 then none
      else
        let core := ((x.st.site? b.id).map Site.core).getD 0
        match (x.st.walkRun a.ia (x.st.reachOf core a) a.op.need).1 with
        | some (code, _, ia) => if code = 0x40 then some ia else none
        | none => none
    | st => st.pageFault
  match found with
  | none => x
  | some ia =>
    let pages := joinPage ia x.pages
    if pages.contains (pageOf ia) then
      ⟨x.st.onAcc b.id a.ser fun a => { a with stage := .reported }, pages, x.items ++ [⟨b.id, b.regs.pc, 0x40, 0, a.va, ia⟩]⟩
    else x

/-- A per-fibre copy joins the batch when its page is missing (R337). -/
def Batch.copy (x : Batch) (b : Fibre) (c : CpbOp) : Batch :=
  match c.stage.pageFault with
  | none => x
  | some ia =>
    let pages := joinPage ia x.pages
    if pages.contains (pageOf ia) then
      ⟨x.st.onGang b.id.nid b.id.gid fun g =>
          { g with cpbs := mapIf (fun e => decide (e.who = b.id) && e.ser == c.ser) (fun e => { e with stage := .reported }) g.cpbs },
        pages, x.items ++ [⟨b.id, b.regs.pc, 0x40, 0, c.va, ia⟩]⟩
    else x

/-- A page fault that a fibre has raised at issue joins the batch. -/
def Batch.met (x : Batch) (i : FaultItem) : Batch :=
  let pages := joinPage i.ia x.pages
  if i.code = 0x40 ∧ pages.contains (pageOf i.ia) then ⟨x.st, pages, x.items ++ [i]⟩ else x

/-- One fibre's part of the batch; `ahead` says that its crew runs, so that it runs ahead, and `mets` lists what its crew has
raised at issue. -/
noncomputable def Batch.fibre (ahead : Bool) (mets : List FaultItem) (x : Batch) (b : Fibre) : Batch :=
  let own := mets.filter fun i => i.id = b.id
  let x := own.foldl Batch.met x
  let later := b.acc.dropWhile fun a => a.stage.pageFault.isNone
  let copies := ((x.st.gang? b.id.nid b.id.gid).map fun g => g.cpbs.filter fun c => c.who = b.id && c.stage.pageFault.isSome).getD []
  let y := copies.foldl (fun y c => y.copy b c) (later.foldl (fun y a => y.entry b a) x)
  if ahead && b.life == .live && !(later.isEmpty && copies.isEmpty && own.isEmpty) then { y with pages := y.st.runahead b.id y.pages } else y

/-- PAGE_FAULT_REPORT: the crew stops, a batch is made, and one record reports it (R408, R410); the other codes that its lanes
raised at the same issue follow. -/
noncomputable def pageReport (s : State) (nid gid cid : Nat) : State :=
  let runs := ((s.gang? nid gid).bind fun g => g.crew? cid).any fun c => c.state == .running
  let mets := (s.crewAll nid gid cid).filterMap Fibre.met
  let t := s.stopRuns nid gid cid
  let x := (t.crewAll nid gid cid).foldl (Batch.fibre runs mets) ⟨t, [], []⟩
  match sortOn (fun i => i.id.fid) x.items with
  | [] => s
  | i :: _ =>
    ((x.st.report {
      code := 0x40, sub := 0, pages := x.pages, nid := nid, gid := gid, cid := cid
      lmask := laneMask (x.items.map fun y => y.id.fid), pc := i.pc, va := i.va, ia := i.ia }).suspend nid gid cid 0x40).actAll
      (mets.filter fun i => i.code ≠ 0x40)

/-! ### Fault records (R408) -/

/-- The 256 bytes of a record. -/
def FaultRec.bytes (x : FaultRec) : List Byte :=
  leBytes 1 x.code ++ leBytes 1 x.sub ++ leBytes 2 x.pages.length ++ leBytes 4 x.nid ++ leBytes 4 x.gid ++ leBytes 4 x.cid ++
    leBytes 8 x.lmask.toNat ++ leBytes 8 x.pc.toNat ++ leBytes 8 x.va.toNat ++ leBytes 8 x.ia ++ List.replicate 16 0#8 ++
    ((List.range 16).flatMap fun k => leBytes 8 (x.pages.getD k 0)) ++ List.replicate 64 0#8

/-- FAULT_RECORD_WRITE: the oldest record that waits is written once an entry is free (R408). -/
def recordWrite (s : State) : State :=
  let q := s.faultq
  match q.waiting with
  | [] => s
  | x :: rest =>
    if q.size = 0 ∨ q.size ≤ q.tail - q.head then s
    else
      match s.homeWrite (q.base + 256 * (q.tail % q.size)) x.bytes with
      | (true, t) => { t with faultq := { q with waiting := rest, tail := q.tail + 1 } }
      | (false, _) => s

/-! ### The host's answers (R409, R412) -/

/-- A fault has been met and awaits its answer. -/
def Stage.met : Stage → Bool
  | .faulted _ _ _ => true
  | .reported => true
  | _ => false

/-- The entries of a fibre that its resume replays: the faulted ones, whether or not a record has told of them, and each later
one on a line of one that is replayed (R412). -/
def replayFrom (earlier : List Access) : List Access → List Access
  | [] => []
  | a :: rest =>
    let again := a.stage.met || (a.stage == .issued && earlier.any a.sharesLine)
    let b := if again then { a with stage := .replay } else a
    b :: replayFrom (if again then b :: earlier else earlier) rest

/-- A copy that met a fault is made again. -/
def CpbOp.again (c : CpbOp) : CpbOp := if c.stage.met then { c with stage := .replay } else c

/-- RESUME: a suspended crew runs again, its faulted accesses first (R409, R412). The accesses that fibres of an ended crew
left are replayed too. -/
def resumeCrew (s : State) (nid gid cid : Nat) : State :=
  let mine := fun (i : FibId) => decide (i.nid = nid ∧ i.gid = gid ∧ i.cid = cid)
  let t := s.onGang nid gid fun g =>
    { g.onCrew cid fun c => { c with state := match c.state with | .suspended _ => .running | x => x } with
      cpbs := mapIf (fun c => mine c.who) CpbOp.again g.cpbs }
  match (s.gang? nid gid).bind fun g => g.crew? cid with
  | some c =>
    (match c.state with
     | .suspended _ => t.mapFibres mine fun b => Fibre.resumed { b with acc := replayFrom [] b.acc }
     | _ => s)
  | none => t.mapFibres mine fun b => { b with acc := replayFrom [] b.acc }

/-- FAIL: the node of a suspended crew ends with the crew's code (R409). -/
def failCrew (s : State) (nid gid cid : Nat) : State :=
  match (s.gang? nid gid).bind fun g => g.crew? cid with
  | some c =>
    (match c.state with
     | .suspended code => s.failNode nid code
     | _ => s)
  | none => s

/-- PAGE_FAULT_REPORT (R410). -/
noncomputable def execPageFaultReport (nid gid cid : Nat) (s : State) : Host.Outcome State Fault Refusal :=
  event (fun t => pageReport t nid gid cid) s

/-- FAULT_RECORD_WRITE (R408). -/
def execFaultRecordWrite (s : State) : Host.Outcome State Fault Refusal :=
  event recordWrite s

/-- RESUME (R409). -/
def execResume (nid gid cid : Nat) (s : State) : Host.Outcome State Fault Refusal :=
  event (fun t => resumeCrew t nid gid cid) s

/-- FAIL (R409). -/
def execFail (nid gid cid : Nat) (s : State) : Host.Outcome State Fault Refusal :=
  event (fun t => failCrew t nid gid cid) s

/-- END_COMMAND (R409). -/
def execEndCommand (nid : Nat) (s : State) : Host.Outcome State Fault Refusal :=
  event (fun t => t.failNode nid 0) s

end Sys2Proof.Machine
end

