-- ==== Sys2Proof/Machine/Gangs.lean ====
section
/-!
DEFINITION. The gang dispatcher and the pre-emption engine: placement and pools (08 R172, R175, R186, R187, R190, R191), swaps
(R184), saving and restoring gangs and crews (03 R74, 22 R413 to R416, R449), release (08 R174), and the start of spawned
crews (10 R214).
-/
namespace Sys2Proof.Machine

/-! ### Room on a core (R186, R187, R416) -/

/-- The split of a node's spec. -/
def Spec.split (x : Spec) : Nat × Nat := (x.l1Units, x.regUnits)

/-- Scratchpad shares that the gangs on a core hold, in 16 KiB. -/
def State.sharesOn (s : State) (core : Nat) : Nat :=
  total ((s.gangsOn core).map fun g => ((s.node? g.nid).map fun n => n.spec.ssh).getD 0)

/-- Register cells that a gang's crews take. -/
def Gang.cellsFor (g : Gang) (quota : Nat) : Nat := total (g.crews.map fun c => popcount c.lanes * quota)

/-- A core has room for a gang (R187), and its accumulator memory can hold the gang's grant (R416). -/
def State.fits (s : State) (n : Node) (g : Gang) (core : Nat) : Bool :=
  decide ((s.gangsOn core).length < Config.gangSlots) &&
    decide ((s.crewsOn core).length + g.crews.length ≤ Config.crewContexts) &&
    decide (s.regCells core + g.cellsFor n.spec.quota ≤ n.spec.regUnits * Config.cellsPerUnit) &&
    decide (s.sharesOn core + n.spec.ssh ≤ 4 * (Config.poolUnits - n.spec.l1Units - n.spec.regUnits)) &&
    decide (total ((s.gangsOn core).map fun x => grantBytes x.shp) + grantBytes g.shp ≤ Config.accBytes)

/-- A core takes gangs of a split: it is empty, or it has that split and drains for none; and it waits for no spare (R186,
R190). -/
def State.takesSplit (s : State) (core : Nat) (split : Nat × Nat) : Bool :=
  let c := s.core core
  c.spare == none && ((s.gangsOn core).isEmpty || (c.drainFor == none && c.split == some split))

/-- The temperature test of a node (R190). -/
def State.coolEnough (s : State) (n : Node) (core : Nat) : Bool :=
  n.spec.thr == 0 || ((s.sensorOf core).valid && decide ((s.sensorOf core).temp < n.spec.thr))

/-- A core admits a gang. -/
def State.admits (s : State) (n : Node) (g : Gang) (core : Nat) : Bool := s.takesSplit core n.spec.split && s.fits n g core

/-- The order in which eligible cores are taken: coolest column, then die, then core (R190). -/
def State.coolness (s : State) (core : Nat) : Nat :=
  let x := s.sensorOf core
  ((if x.valid then x.temp else 4096) * 4 + s.dieOf core) * 4096 + core

/-- The core of a gang of a deterministic node (R191, R381). -/
def Node.fixedCore (n : Node) (gid : Nat) : Nat := gid % max 1 n.spec.mapC

/-- The logical cores. -/
def State.coreNums (s : State) : List Nat := List.range s.coreMap.length

/-- The core that a gang is placed on, if one is eligible (R190, R191). -/
def State.choose (s : State) (n : Node) (g : Gang) : Option Nat :=
  if n.spec.det then (if s.admits n g (n.fixedCore g.gid) then some (n.fixedCore g.gid) else none)
  else (sortOn s.coolness (s.coreNums.filter fun c => s.admits n g c && s.coolEnough n c)).head?

/-- The core that is to drain for a gang that no core has room for, of whatever split (R186); none while one already drains
for its split. -/
def State.drainCore (s : State) (n : Node) (g : Gang) : Option Nat :=
  let cand := if n.spec.det then [n.fixedCore g.gid] else s.coreNums
  if cand.any fun c => s.admits n g c || (s.core c).drainFor == some n.spec.split then none
  else
    let others := cand.filter fun c => (s.core c).drainFor == none && (s.core c).spare == none && !(s.gangsOn c).isEmpty
    (sortOn (fun c => (s.crewsOn c).length * 2 ^ 32 + s.coolness c) others).head?

/-! ### Admission (R172, R175, R273, R274) -/

/-- A core takes a gang with its crews in the order of their ages. -/
def State.admitted (s : State) (n : Node) (g : Gang) (core : Nat) : State :=
  let t := (s.setGang { g with place := .resident core, crews := [], leaving := .none }).onCore core fun c =>
    { c with split := some n.spec.split, drainFor := .none }
  (sortOn Crew.age g.crews).foldl (fun u c => u.addCrew g.nid g.gid core c) (t.trimL1 core)

/-- Every clean byte of a core's L1 is dropped. -/
def State.dropAllClean (s : State) (core : Nat) : State := s.onCore core fun c => c.dropClean fun _ => true

/-- The crews that a launch starts a gang with, in CID order (R169, R172). -/
def Spec.launchCrews (x : Spec) : List Crew :=
  let stages := (List.range x.stages).flatMap fun i => List.replicate (x.crews.getD i 0) i
  (List.range stages.length).map fun c =>
    { cid := c, stg := stages.getD c 0, lanes := x.lmask, ctx := 0, age := c, state := .running, place := .here }

/-- A gang that has not started. -/
def Node.newGang (n : Node) (gid : Nat) : Gang :=
  { Gang.fresh n.spec.nid gid n.spec.roles with crews := n.spec.launchCrews }

/-- The fibres of a launched gang (R28, R172). -/
def Node.newFibres (n : Node) (gid : Nat) : List Fibre :=
  n.spec.launchCrews.flatMap fun c =>
    ((List.range 32).filter fun l => n.spec.lmask.getLsbD l).map fun l =>
      Fibre.fresh ⟨n.spec.nid, gid, c.cid, l⟩ c.stg n.spec.quota n.spec.ydef n.spec.entry (List.replicate 8 0#32)

/-- A node may have gangs placed. -/
def Node.places (n : Node) : Bool :=
  n.born && n.failing.isNone && !n.closing && (n.state == .runnable || n.state == .running)

/-- A gang starts on a core (R172, R367). -/
def State.start (s : State) (n : Node) (g : Gang) (core : Nat) : State :=
  let t := (s.admitted n g core).dropAllClean core
  if g.cont.isSome then t
  else
    let u := (n.newFibres g.gid).foldl State.bear t
    let v := u.onNode n.spec.nid fun n => { n with placed := n.placed + 1 }
    if n.state = .runnable then v.nodeState n.spec.nid .running else v

/-- A gang waits to be put back on a core. -/
def Gang.isSaved (g : Gang) : Bool :=
  match g.place with
  | .saved _ _ => true
  | _ => false

/-- Every crew of a gang is suspended (R409). -/
def Gang.suspended (g : Gang) : Bool :=
  !g.crews.isEmpty && g.crews.all fun c => match c.state with
    | .suspended _ => true
    | _ => false

/-- A gang waits to be placed: resumed from a record, or saved and not suspended (R184, R376, R413, log 35). -/
def Gang.waits (g : Gang) : Bool := g.place == .waiting || (g.isSaved && !g.suspended)

/-- The gangs of a node, by rising GID. -/
def State.gangsOf (s : State) (nid : Nat) : List Gang := sortOn Gang.gid (s.allGangs.filter fun g => g.nid = nid)

/-- A gang has ended (R174). -/
def Gang.over (g : Gang) : Bool :=
  match g.place with
  | .ended => true
  | .draining _ => true
  | _ => false

/-- Whether a gang of a deterministic node has its core to itself (R191). -/
def State.coreFree (s : State) (n : Node) (gid : Nat) : Bool :=
  let core := n.fixedCore gid
  (s.gangsOf n.spec.nid).all fun g => g.over || g.gid == gid || n.fixedCore g.gid != core || (g.place == .waiting && gid < g.gid)

/-- The gangs of a node that wait to be placed, `but` left out: they come before those not yet started, and among themselves
by rising GID (R184, R190, R376). -/
def State.waitersBut (s : State) (n : Node) (but : Option Nat) : List Gang :=
  (s.gangsOf n.spec.nid).filter fun g => g.waits && some g.gid != but

/-- No gang of its node is to be placed before one that waits; in deterministic mode cores do not wait for each other (R190,
R191). -/
def State.firstOf (s : State) (n : Node) (but : Option Nat) (gid : Nat) : Bool :=
  (s.waitersBut n but).all fun g => decide (gid ≤ g.gid) || (n.spec.det && n.fixedCore g.gid != n.fixedCore gid)

/-- The gang that a placement of GID `gid` would start, if that GID is due once gang `but` of the node has left its core
(R184, R190, R191, R376). -/
def State.dueGangBut (s : State) (n : Node) (but : Option Nat) (gid : Nat) : Option Gang :=
  if !n.places then none
  else
    match s.gang? n.spec.nid gid with
    | some g => if g.place = .waiting && s.firstOf n but gid && (!n.spec.det || s.coreFree n gid) then some g else none
    | none =>
      let ahead := s.waitersBut n but
      if n.spec.gangs ≤ gid then none
      else if n.spec.det then
        (if (gid < n.spec.mapC ∨ (s.gang? n.spec.nid (gid - n.spec.mapC)).isSome) ∧ s.coreFree n gid ∧
            (ahead.all fun g => n.fixedCore g.gid != n.fixedCore gid)
         then some (n.newGang gid) else none)
      else if gid = n.placed ∧ ahead = [] then some (n.newGang gid) else none

/-- The gang that a placement of GID `gid` would start now, if that GID is due (R190, R191, R376). -/
def State.dueGang (s : State) (n : Node) (gid : Nat) : Option Gang := s.dueGangBut n none gid

/-! ### What a save keeps (R74, R414, R415) -/

/-- What a save learns of the registers that are live where a fibre stopped (R74): the masks of cells and y registers, the
addresses it has read, and whether the walk of the last of them is busy. -/
structure Live where
  cells : BitVec 64
  ys : BitVec 16
  reads : List Nat
  busy : Bool

/-- Every register is live. -/
def Live.all (reads : List Nat) (busy : Bool) : Live := ⟨BitVec.allOnes 64, BitVec.allOnes 16, reads, busy⟩

/-- A read of a save; one whose tries are spent has failed (R240). -/
def State.liveRead (s : State) (n : Node) (va size : Nat) : ReadRes :=
  (s.readOwn n .fetch va size).orSpent (s.spent (.mask n.spec.nid va))

/-- The liveness entry of the packet at which a fibre stopped (R74). A table that cannot be read makes every register
live. -/
def State.liveAt (s : State) (n : Node) (pc : DWord) : Live :=
  let tailAt := (pcPacket pc).toNat + 12
  let headAt := n.spec.image + 12
  match s.liveRead n tailAt 4 with
  | .busy _ => .all [tailAt] true
  | .fail _ _ _ => .all [tailAt] false
  | .ok tail =>
    let lix := num tail 0 4 / 4096
    if lix = 0 then .all [tailAt] false
    else
      match s.liveRead n headAt 8 with
      | .busy _ => .all [headAt] true
      | .fail _ _ _ => .all [tailAt, headAt] false
      | .ok head =>
        let entryAt := n.spec.image + num head 0 4 + 16 * lix
        if num head 4 4 ≤ lix then .all [tailAt, headAt] false
        else
          match s.liveRead n entryAt 16 with
          | .busy _ => .all [entryAt] true
          | .fail _ _ _ => .all [tailAt, headAt, entryAt] false
          | .ok e => ⟨BitVec.ofNat 64 (num e 0 8), BitVec.ofNat 16 (num e 8 2), [tailAt, headAt, entryAt], false⟩

/-- Every liveness entry that a save of some fibres needs has been read. -/
def State.livesRead (s : State) (n : Node) (l : List Fibre) : Bool := l.all fun b => !(s.liveAt n b.regs.pc).busy

/-- The busy walks of a save count (R240). -/
def State.livesAgain (s : State) (n : Node) (l : List Fibre) : State :=
  (distinct (((l.map fun b => s.liveAt n b.regs.pc).filter Live.busy).flatMap Live.reads)).foldl
    (fun t va => t.tryAgain (.mask n.spec.nid va)) s

/-- What a save has read it tries no more. -/
def State.livesDone (s : State) (n : Node) (l : List Fibre) : State :=
  (l.flatMap fun b => (s.liveAt n b.regs.pc).reads).foldl (fun t va => t.triesDone (.mask n.spec.nid va)) s

/-- The registers of a restored fibre: what was not saved reads 0 and is full (R415). Destinations still to be filled by a
replay stay empty (R413). -/
def Fibre.saved (b : Fibre) (x : Live) : Fibre :=
  let r := b.regs
  let kept := b.pending.flatMap Dest.positions
  let cells := (List.range r.cells.length).map fun i =>
    if r.base ≤ i ∧ i < r.base + r.n ∧ x.cells.getLsbD (i - r.base) = false ∧ ¬kept.contains i then Cell.zero
    else r.cells.getD i Cell.zero
  let ys := (List.range r.m).map fun k =>
    let y := r.ys.getD k (YReg.zero r.lw)
    if x.ys.getLsbD k ∨ (b.pending.any fun d => d == .yreg r.frames.length k) then y else YReg.zero r.lw
  { b with regs := { r with cells := cells, ys := ys }, backoff := .none }

/-- The bytes of a fibre's save image (R414). -/
def Fibre.imageSize (b : Fibre) (x : Live) : Nat :=
  let r := b.regs
  let cells := ((List.range r.n).filter fun k => x.cells.getLsbD k).length
  let regs := ((List.range r.m).filter fun k => x.ys.getLsbD k).length
  let outer := ((r.quota : Int) - r.wq - r.n - yCost r.m r.lw).toNat
  1024 + 4 * (cells + yCost regs r.lw + outer)

/-- Nothing that a save waits for is under way in a fibre (R413, R449): what is left are accesses that have faulted, those
that wait behind them, an object instruction that has stopped, and the value of a word issued before the rest of its chain
(log 61). What waits for an `mma` alone is waited for. -/
def State.quiet (s : State) (b : Fibre) : Bool :=
  (b.dlv.all fun v => b.ahead v.ser && (!v.converting || v.yval.isSome)) && (b.obj.all fun r => r.phase == .stopped) && match s.site? b.id with
    | none => true
    | some x => b.acc.all fun a =>
      let behind := !s.mayPerform x a && !(a.op.afterMma && x.gang.mmaBefore a.mseq)
      match a.stage with
      | .reported => true
      | .issued => behind
      | .replay => behind
      | _ => false

/-- The fibres of a bundle list that a test drops. -/
def dropFromBundles (p : FibId → Bool) (l : List Bundle) : List Bundle :=
  (l.map fun b => { b with ids := b.ids.filter fun i => !p i }).filter fun b => !b.ids.isEmpty

/-- A core that holds no gang has no split, and has drained (R186). -/
def State.freeSplit (s : State) (core : Nat) : State :=
  if (s.gangsOn core).isEmpty then s.onCore core fun c => { c with split := none, drainFor := none } else s

/-! ### Saving (R184, R413, R449) -/

/-- The fibres that a test picks are saved with what is live in them. -/
def State.savesFibres (s : State) (n : Node) (p : FibId → Bool) : State :=
  s.mapFibres p fun b => if b.life = .live then b.saved (s.liveAt n b.regs.pc) else b

/-- A gang leaves its core with its image. -/
def State.saveGang (s : State) (n : Node) (g : Gang) (core : Nat) (swap : Bool) : State :=
  let mine := fun (i : FibId) => decide (i.nid = g.nid ∧ i.gid = g.gid)
  let fs := s.gangFibres g.nid g.gid
  let image := total (fs.map fun b => b.imageSize (s.liveAt n b.regs.pc))
  let u := ((s.savesFibres n mine).livesDone n fs).onGang g.nid g.gid fun g =>
    { g with image := image, place := .saved core swap, leaving := .none, crews := g.crews.map fun c => { c with place := .here } }
  State.freeSplit (u.onCore core fun c => { c with bundles := dropFromBundles mine c.bundles }) core

/-- Every fibre of a gang, ended ones with accesses under way included. -/
def State.gangAll (s : State) (nid gid : Nat) : List Fibre :=
  (s.f :: s.fibres.filter fun x => x.id ≠ s.f.id).filter fun x => x.life ≠ .absent ∧ x.id.nid = nid ∧ x.id.gid = gid

/-- A gang has nothing under way that its save must wait for. -/
def State.gangQuiet (s : State) (g : Gang) : Bool :=
  g.cpbs.isEmpty && g.matq.isEmpty && (g.ctxs.all fun c => c.ops.isEmpty) && (s.gangAll g.nid g.gid).all s.quiet

/-- Every crew of a gang stops at a chain boundary (R407). -/
def State.stopGang (s : State) (g : Gang) (swap : Option (Nat × Nat)) : State :=
  (g.crews.foldl (fun t c => t.stopRuns g.nid g.gid c.cid) s).onGang g.nid g.gid fun g => { g with leaving := some swap }

/-! ### Restoring (R251, R274, R415, R416) -/

/-- IDLE is 0 again after a swap (R184, R415). -/
def Fibre.wake (b : Fibre) : Fibre :=
  { b with regs := { b.regs with ydl := ydlOf (ydlLeft b.regs.ydl) (ydlHint b.regs.ydl) 0 } }

/-- The fibres of a gang whose crews run begin their interrupted instructions afresh (R224). -/
def State.resumeFibres (s : State) (g : Gang) : State :=
  s.mapFibres (fun i => decide (i.nid = g.nid ∧ i.gid = g.gid) && g.runs i.cid) Fibre.resumed

/-- A saved gang is put on a core, once the lines it left dirty elsewhere are at their homes. -/
def State.restoreOn (s : State) (n : Node) (g : Gang) (core old : Nat) (swap : Bool) : State :=
  let mine := fun (i : FibId) => decide (i.nid = g.nid ∧ i.gid = g.gid)
  if old ≠ core ∧ (s.core old).l1.any fun l => l.dm != 0#128 && l.ctx == n.ctx then
    s.writeBackAll old fun l => l.ctx = n.ctx
  else if old ≠ core ∧ s.flight.any fun x => x.core = old && match x.op with
      | .writeBack ctx _ _ => ctx == n.ctx
      | _ => false
  then s
  else
    let t := s.admitted n g core
    let u := (if old = core then t else t.dropAllClean core).resumeFibres g
    if swap then u.mapFibres mine Fibre.wake else u

/-- A core without some of its gangs. -/
def State.without (s : State) (core : Nat) (l : List Gang) : State :=
  (l.foldl (fun t x => t.setGang { x with place := .saved core false }) s).freeSplit core

/-- The suspended gangs whose core a waiting gang needs (R413): with them gone that core has room for the waiting one. One that is
enough by itself comes first, then as many as it takes in the order of the table. DESIGN CHOICE (log 35). -/
def State.suspendedInWay (s : State) (n : Node) (g : Gang) : Option (List Gang) :=
  let sets := s.coreNums.flatMap fun core =>
    let l := s.allGangs.filter fun x => x.place == .resident core && x.suspended
    if if n.spec.det then n.fixedCore g.gid == core else s.coolEnough n core then
      (l.map (fun x => [x]) ++ (List.range l.length).map fun k => l.take (k + 1)).filter fun l => (s.without core l).admits n g core
    else []
  (sortOn List.length sets).head?

/-- A gang that no core has room for: suspended gangs in its way are to be saved, or a core is to drain for it (R186,
R413). -/
def State.makeWay (s : State) (n : Node) (g : Gang) : State :=
  match s.suspendedInWay n g with
  | some l => (l.filter fun x => x.leaving == none).foldl (fun t x => t.stopGang x none) s
  | none =>
    match s.drainCore n g with
    | some core => s.onCore core fun c => { c with drainFor := some n.spec.split }
    | none => s

/-- GANG_PLACEMENT: the dispatcher admits the gang, or makes way for it (R186, R190). -/
def placeGang (s : State) (nid gid : Nat) : State :=
  match s.node? nid with
  | none => s
  | some n =>
    match s.dueGang n gid with
    | none => s
    | some g =>
      match s.choose n g with
      | some core => s.start n g core
      | none => s.makeWay n g

/-- GANG_RESTORE (R190, R415, R416): a saved gang takes its turn among those of its node that wait. -/
def restoreGang (s : State) (nid gid : Nat) : State :=
  match s.node? nid, s.gang? nid gid with
  | some n, some g =>
    (match g.place with
     | .saved old swap =>
       if !n.places ∨ !g.waits ∨ !s.firstOf n none gid then s
       else
         match s.choose n g with
         | some core => s.restoreOn n g core old swap
         | none => s.makeWay n g
     | _ => s)
  | _, _ => s

/-- The gangs that wait for a core, other than `not`, in the order in which they would be placed: by launch context, and
within a node those that have run before the next to start (R184, R190). -/
def State.waitingGangs (s : State) (core : Nat) (not : Nat × Nat) : List (Node × Gang) :=
  (sortOn Node.ctx (s.allNodes.filter Node.places)).flatMap fun n =>
    let gs := s.gangsOf n.spec.nid
    let next := if n.spec.det then core + n.spec.mapC * (gs.filter fun g => g.cont == none && n.fixedCore g.gid == core).length
      else n.placed
    let but := if n.spec.nid = not.1 then some not.2 else none
    let due := s.dueGangBut n but next
    -- with room being made for some already, those that start after them wait too
    let made := (s.allGangs.filter fun g => (g.leaving.getD none).isSome).length
    let more := if due.isNone || n.spec.det then [] else (List.range made).filterMap fun i =>
      if next + 1 + i < n.spec.gangs then some (n.newGang (next + 1 + i)) else none
    let l := (gs.filter fun g => g.waits && some g.gid != but && s.firstOf n but g.gid) ++ due.toList ++ more
    (l.filter fun g => (g.nid, g.gid) != not && (!n.spec.det || n.fixedCore g.gid == core)).map fun g => (n, g)

/-- The first waiting gang, other than `not`, that a core could take. -/
def State.firstFor (s : State) (core : Nat) (not : Nat × Nat) : Option (Node × Gang) :=
  (s.waitingGangs core not).find? fun x =>
    s.admits x.1 x.2 core && (x.1.spec.det || s.coolEnough x.1 core)

/-- The gang for which a swap made room is placed, on the core that R190 gives it. -/
def State.fillCore (s : State) (core : Nat) (not : Nat × Nat) : State :=
  match s.firstFor core not with
  | none => s
  | some (n, g) =>
    match s.choose n g with
    | none => s
    | some c =>
      match g.place with
      | .saved old swap => s.restoreOn n g c old swap
      | _ => s.start n g c

/-- PREEMPT_GANG: every fibre of the gang stops, and the gang is saved once it is quiet and the liveness entries have been read
(R74, R413). -/
def preempt (s : State) (nid gid : Nat) : State :=
  match s.node? nid, s.gang? nid gid with
  | some n, some g =>
    (match g.place with
     | .resident core =>
       let swap := (g.leaving.getD none).isSome
       let t := if g.leaving = none then s.stopGang g none else s
       if !t.gangQuiet g then t
       else if !t.livesRead n (t.gangFibres nid gid) then t.livesAgain n (t.gangFibres nid gid)
       else
         let u := t.saveGang n g core swap
         if swap then u.fillCore core (nid, gid) else u
     | _ => s)
  | _, _ => s

/-- Whether a gang already leaves its core for a waiting gang. -/
def State.madeFor (s : State) (w : Nat × Nat) : Bool := s.allGangs.any fun g => g.leaving == some (some w)

/-- GANG_SWAP: an idle gang of a node in throughput mode leaves for a gang that waits, since no core admits it, and that then
fits, one for each (R184). -/
def swapGang (s : State) (nid gid : Nat) : State :=
  match s.node? nid, s.gang? nid gid with
  | some n, some g =>
    (match g.place with
     | .resident core =>
       let idle := (s.gangFibres nid gid).all fun b => ydlIdle b.regs.ydl = 16
       let gone := (s.setGang { g with place := .saved core true }).freeSplit core
       let waiting := (gone.waitingGangs core (nid, gid)).find? fun x => (s.choose x.1 x.2).isNone &&
         gone.admits x.1 x.2 core && (x.1.spec.det || gone.coolEnough x.1 core) && !s.madeFor (x.2.nid, x.2.gid)
       (match waiting with
        | some w =>
          if !n.spec.det && g.leaving == none && n.failing == none && idle then
            preempt (s.stopGang g (some (w.2.nid, w.2.gid))) nid gid
          else s
        | none => s)
     | _ => s)
  | _, _ => s

/-- PREEMPT_CREW: one crew of a resident gang stops, and is saved once it is quiet; it keeps its context and its register
space (R449). -/
def preemptOne (s : State) (nid gid cid : Nat) : State :=
  match s.node? nid, s.gang? nid gid with
  | some n, some g =>
    (match g.place, g.crew? cid with
     | .resident core, some c =>
       if g.leaving.isSome ∨ c.place = .away then s
       else
         let mine := fun (i : FibId) => decide (i.nid = nid ∧ i.gid = gid ∧ i.cid = cid)
         let t := (s.stopRuns nid gid cid).onCrew nid gid cid fun c => { c with place := .leaving }
         let fs := t.crewFibres nid gid cid
         if !(fs.all t.quiet) || (g.cpbs.any fun x => mine x.who) then t
         else if !t.livesRead n fs then t.livesAgain n fs
         else
           (((t.savesFibres n mine).livesDone n fs).onCrew nid gid cid fun c => { c with place := .away }).onCore core fun c =>
             { c with bundles := dropFromBundles mine c.bundles }
     | _, _ => s)
  | _, _ => s

/-- CREW_RESTORE: the crew is back on its core, with its context and its age (R449). -/
def restoreCrew (s : State) (nid gid cid : Nat) : State :=
  match s.gang? nid gid with
  | some g =>
    (match g.place with
     | .resident _ =>
       let t := s.onCrew nid gid cid fun c => if c.place = .away then { c with place := .here } else c
       t.mapFibres (fun i => decide (i.nid = nid ∧ i.gid = gid ∧ i.cid = cid) && g.runs cid) Fibre.resumed
     | _ => s)
  | none => s

/-! ### Ends and starts -/

/-- GANG_RELEASE: the scratchpad region, the slot and the engine contexts of an ended gang are free once everything they
accepted is complete (R174). -/
def releaseGang (s : State) (nid gid : Nat) : State :=
  match s.gang? nid gid with
  | some g =>
    (match g.place with
     | .draining core =>
       let mine := fun (i : FibId) => decide (i.nid = nid ∧ i.gid = gid)
       -- of a node that fails, what has met a fault does not complete (R409)
       let fails := (s.node? nid).any fun n => n.failing.isSome
       let busy := (s.gangAll nid gid).any fun b => b.obj.isSome || b.acc.any fun a => !(fails && a.stage.faulty)
       if (g.cpbs.all fun c => fails && c.stage.faulty) && g.matq.isEmpty && (g.ctxs.all fun c => c.ops.isEmpty) && !busy then
         let t := s.setGang { Gang.fresh nid gid g.roles with place := .ended, held := g.held, cont := g.cont }
         State.freeSplit (t.onCore core fun c => { c with bundles := dropFromBundles mine c.bundles }) core
       else s
     | _ => s)
  | none => s

/-- SPAWNED_CREW_START: the crew runs once what its spawner accessed before it has performed (R214). -/
def startCrew (s : State) (nid gid cid : Nat) : State :=
  match (s.gang? nid gid).bind fun g => g.crew? cid with
  | some c =>
    (match c.state with
     | .starting who ser =>
       let copies := (s.gang? nid gid).any fun g => (g.cpbsOf who).any fun x => decide (x.ser < ser)
       if copies ∨ (s.fibre? who).any fun b => b.acc.any fun a => decide (a.ser < ser) && !a.pastL1 then s
       else s.onCrew nid gid cid fun c => { c with state := .running }
     | _ => s)
  | none => s

/-- PREEMPT_GANG (R413). -/
def execPreemptGang (nid gid : Nat) (s : State) : Host.Outcome State Fault Refusal :=
  event (fun t => preempt t nid gid) s

/-- PREEMPT_CREW (R449). -/
def execPreemptCrew (nid gid cid : Nat) (s : State) : Host.Outcome State Fault Refusal :=
  event (fun t => preemptOne t nid gid cid) s

/-- CREW_RESTORE (R449). -/
def execCrewRestore (nid gid cid : Nat) (s : State) : Host.Outcome State Fault Refusal :=
  event (fun t => restoreCrew t nid gid cid) s

/-- GANG_SWAP (R184). -/
def execGangSwap (nid gid : Nat) (s : State) : Host.Outcome State Fault Refusal :=
  event (fun t => swapGang t nid gid) s

/-- GANG_PLACEMENT (R190). -/
def execGangPlacement (nid gid : Nat) (s : State) : Host.Outcome State Fault Refusal :=
  event (fun t => placeGang t nid gid) s

/-- GANG_RESTORE (R415). -/
def execGangRestore (nid gid : Nat) (s : State) : Host.Outcome State Fault Refusal :=
  event (fun t => restoreGang t nid gid) s

/-- GANG_RELEASE (R174). -/
def execGangRelease (nid gid : Nat) (s : State) : Host.Outcome State Fault Refusal :=
  event (fun t => releaseGang t nid gid) s

/-- SPAWNED_CREW_START (R214). -/
def execSpawnedCrewStart (nid gid cid : Nat) (s : State) : Host.Outcome State Fault Refusal :=
  event (fun t => startCrew t nid gid cid) s

end Sys2Proof.Machine
end

