-- ==== Sys2Proof/Machine/Nodes.lean ====
section
/-!
DEFINITION. The task engine's own steps: launch queues (19 R366, R368, R369), the compare-manifest command (R384), dependence
signals (R371), continuations (R376), RED batches (13 R267), the end of a node (R377), and the birth and death of
arenas (R379, R380).
-/
namespace Sys2Proof.Machine

/-! ### Launch queues (R366 to R369) -/

/-- A launch queue. -/
def State.queue (s : State) (q : Nat) : LaunchQ := s.queues.getD q ⟨0, 0, 0, 0⟩

/-- LAUNCH_QUEUE_TAIL_WRITE: the doorbell (R368). -/
def tailWrite (s : State) (q tail : Nat) : State :=
  { s with queues := s.queues.modify q fun x => { x with tail := tail % 2 ^ 32 } }

/-- The IA of the entry at HEAD (R368). -/
def LaunchQ.headAt (x : LaunchQ) : Nat := x.qbase + 128 * (x.head % max 1 x.qsize)

/-- HEAD passes an entry (R368), whose reads are tried no more. -/
def State.headOn (s : State) (q : Nat) : State :=
  { s with
    queues := s.queues.modify q fun x => { x with head := (x.head + 1) % 2 ^ 32 }
    tries := s.tries.filter fun x => match x.1 with
      | .launch k _ => k != q
      | _ => true }

/-- The number under which the read of an image header counts, apart from the reads at an IA. -/
def headerKey (image : Nat) : Nat := image + 2 ^ 64

/-- The next entry of a queue is accepted or refused, or a busy walk is counted, the ninth of one read failing (R240); nothing
while the queue has no entry or no launch context is free (R366, R369). -/
def State.serveQueue (s : State) (q : Nat) : Option State :=
  let x := s.queue q
  let addr := x.headAt
  if x.head = x.tail then none
  else
    match readLaunch (fun a size => (s.readIa a size).orSpent (s.spent (.launch q a))) true addr with
    | .bad _ _ _ _ _ => none
    | .busy _ a _ => some (s.tryAgain (.launch q a))
    | .ok l =>
      let key := TryKey.launch q (headerKey (num l.sp 0 8))
      if l.failed.contains 0 then some ((s.headOn q).tell (.refused 366))
      else
        match s.judge true (s.spent key) l with
        | .busy => some (s.tryAgain key)
        | .refuse code => some ((s.deviceWrite (addr + 120) (leBytes 4 (5 + 256 * code))).headOn q)
        | .accept entry =>
          s.freeLaunch.map fun ctx => (s.accept (s.specOf l addr (num l.sp 8 4) entry) ctx).headOn q

/-- NODE_SPEC_ACCEPT: a queue is served when no lower one can be (R368). -/
def specAccept (s : State) (q : Nat) : State :=
  if (List.range (min q 8)).any fun k => (s.serveQueue k).isSome then s else (s.serveQueue q).getD s

/-- COMPARE_MANIFEST: the host learns the first field that differs (R384). While the walk of a read is busy the command stays, and
its ninth try fails (R240). -/
noncomputable def manifestCompare (s : State) (mani spec : Nat) : State :=
  let rd := fun (ia size : Nat) => (s.readIa ia size).orSpent (s.spent (.manifest ia))
  let done := (s.triesDone (.manifest mani)).triesDone (.manifest spec)
  let again := fun (ia : Nat) => { s.tryAgain (.manifest ia) with agenda := s.agenda ++ [.compareManifest mani spec] }
  match rd mani 608, rd spec 128 with
  | .busy _, _ => again mani
  | _, .busy _ => again spec
  | .ok m, .ok sp => done.tell (.manifest (s.compareManifest m sp).1 (s.compareManifest m sp).2)
  | _, _ => done.tell (.refused 384)

/-- DEPENDENCE_SIGNAL: a signal under way reaches its node (R371). -/
def signalArrives (s : State) (k : Nat) : State :=
  match s.signals[k]? with
  | none => s
  | some x => State.signal { s with signals := dropAt k s.signals } x.nid

/-! ### Continuations (R376) -/

/-- The condition of a record. -/
def State.contReady (s : State) (c : Cont) : Bool :=
  match s.gang? c.who.nid c.who.gid with
  | none => true
  | some g =>
    if c.kind = 1 then g.place == .ended || decide (c.need ≤ (g.ctxAt c.sel).completed)
    else if c.kind = 2 then !(g.cpbs.any fun x => x.who == c.who && decide (x.ser < c.need) && x.tag == 4 + c.sel)
    else true

/-- The fibre of a resumed record. -/
def resumedFibre (n : Node) (gid fid : Nat) (bs : List Byte) : Fibre :=
  let b := Fibre.fresh ⟨n.spec.nid, gid, 0, fid⟩ 0 n.spec.quota n.spec.ydef (BitVec.ofNat 64 (num bs 0 8))
    (cellsOfBytes 16 (bs.drop 16))
  { b with regs := { b.regs with n := 16 } }

/-- The device writes into a record, at the address that its VA has now: CSTATE, and GIDR from byte 12 (R376). -/
def State.recordPut (s : State) (n : Node) (c : Cont) (bs : List Byte) : State :=
  match s.xlat n c.va.toNat 80 .load with
  | .bad _ _ => s
  | .ok ia _ => s.deviceWrite (ia + 11) bs

/-- The engine takes a record: CSTATE is 1 (R394). -/
def State.contTake (s : State) (n : Node) (k : Nat) (c : Cont) : State :=
  (s.setNode { n with conts := n.conts.modify k fun c => { c with taken := true } }).recordPut n c [1#8]

/-- The gang of a record whose bytes have been read again: CSTATE is 2 (R376). -/
def State.contGoes (s : State) (n : Node) (k : Nat) (c : Cont) (bs : List Byte) : State :=
  let nid := n.spec.nid
  let gid := 0x80000000 + n.resumed
  let crew : Crew := {
    cid := 0, stg := 0, lanes := BitVec.ofNat 32 (2 ^ c.who.fid), ctx := 0, age := 0, state := .running, place := .here }
  let t := (s.recordPut n c ([2#8] ++ leBytes 4 gid)).onNode nid fun n =>
    { n with resumed := n.resumed + 1, conts := dropAt k n.conts }
  (t.setGang { Gang.fresh nid gid [.vector] with crews := [crew], cont := some n.resumed }).bear
    (resumedFibre n gid c.who.fid bs)

/-- CONTINUATION_RESUME: the engine takes a record, and when its condition holds reads it again and makes its gang. A read
that faults, or the ninth that meets a busy walk, fails the node (R240, R376, R394). -/
def contResume (s : State) (nid k : Nat) : State :=
  match s.node? nid with
  | none => s
  | some n =>
    match n.conts[k]? with
    | none => s
    | some c =>
      let key := TryKey.record nid c.va.toNat
      if c.taken && !s.contReady c then s
      else
        match (s.readVa n .load c.va.toNat 80).orSpent (s.spent key) with
        | .busy _ => s.tryAgain key
        | .fail code sub ia =>
          if c.taken then (s.triesDone key).nodeFails c.who 0#64 code sub c.va ia else (s.triesDone key).contTake n k c
        | .ok bs => if c.taken then (s.triesDone key).contGoes n k c bs else (s.triesDone key).contTake n k c

/-! ### RED batches (R267) -/

/-- Everything that a gang's fibres accessed has performed, and no `mma` of it waits, so that its REDs come after those (R258,
R332). -/
def State.redsReady (s : State) (g : Gang) : Bool :=
  g.over && !g.mmaBefore g.mnext && (s.gangAll g.nid g.gid).all fun b => b.acc.isEmpty

/-- The gang whose batch comes next: every lower GID of the node has had its batch. -/
def State.nextBatch (s : State) (n : Node) : Option Gang :=
  let launched := (n.batched.filter fun i => i < 0x80000000).length
  match (s.gangsOf n.spec.nid).find? fun g => !n.batched.contains g.gid with
  | none => none
  | some g =>
    if s.redsReady g && (if g.gid < 0x80000000 then g.gid == launched else launched == n.spec.gangs) then some g else none

/-- A batch in its order (R267). -/
def batchOrder (l : List HeldRed) : List HeldRed := sortOn (fun h => 32 * h.cid + h.fid) (sortOn HeldRed.ser l)

/-- A RED is held no longer. -/
def State.redGone (s : State) (g : Gang) (h : HeldRed) : State :=
  (s.triesDone (.batch g.nid g.gid)).onGang g.nid g.gid fun g => { g with held := g.held.filter fun k => k ≠ h }

/-- A held RED is applied at its home, once the line has left the L1 of the core that issued it (R262, R263, R267). To a peer that
cannot be reached it is lost (R427); a walk that fails, the ninth busy one among them, ends the node (R240, R405). -/
def State.applyRed (s : State) (g : Gang) (h : HeldRed) : State :=
  let z := redSize h.op
  let key := TryKey.batch g.nid g.gid
  let who : FibId := ⟨g.nid, g.gid, h.cid, h.fid⟩
  let fails := fun (t : State) (code sub ia : Nat) => (t.triesDone key).nodeFails who 0#64 code sub 0#64 ia
  let t := (linesOf h.ia z).foldl (fun u ln => u.flushLine h.core ln) s
  if (linesOf h.ia z).any fun ln => t.inFlight h.core ln then t
  else if !t.reaches h.core h.ia then (t.tell (.lostWrite h.ia g.nid g.gid h.cid)).redGone g h
  else if !t.pathUp h.core h.ia then t
  else
    match t.walkRun h.ia z .both with
    | (some (0, _, ia), _) => if s.spent key then fails t 0x48 3 ia else t.tryAgain key
    | (some (code, sub, ia), u) => fails u code sub ia
    | (none, u) =>
      if u.badRun h.ia z then fails u 0x47 0 h.ia
      else
        match u.homeBytes h.ia z with
        | (none, _) => t
        | (some old, v) =>
          State.redGone ((v.homeWrite h.ia (leBytes z (redNew h.op (leNat old) h.data))).2.sentTo h.core h.ia) g h

/-- RED_BATCH_APPLY: the next RED of a deterministic node's next batch is applied; a batch that is empty is over (R267). -/
def batchApply (s : State) (nid : Nat) : State :=
  match s.node? nid with
  | none => s
  | some n =>
    if !n.spec.det ∨ n.failing.isSome then s
    else
      match s.nextBatch n with
      | none => s
      | some g =>
        match batchOrder g.held with
        | [] => s.onNode nid fun n => { n with batched := n.batched ++ [g.gid] }
        | h :: _ => s.applyRed g h

/-! ### Arenas (R379, R380) -/

/-- Whether an IA lies in an arena. -/
def Arena.spans (e : Arena) (ia : Nat) : Bool := decide (e.iabase ≤ ia) && decide (ia < e.iabase + e.size)

/-- A stage whose access has passed its check for good: the others are checked again when they are replayed. -/
def Stage.passed : Stage → Bool
  | .faulted _ _ _ => false
  | .reported => false
  | .replay => false
  | _ => true

/-- The frames that a step of an object instruction is at. -/
def ObjMid.frames : ObjMid → List Nat
  | .idle => []
  | .announcing _ _ _ hp rp mp => [hp, rp, mp]
  | .moving _ hp => [hp]
  | .applying _ hp rp mp _ _ _ _ _ slot => [hp, rp, mp] ++ (slot.map Prod.fst).toList
  | .finishing _ rp mp => [rp, mp]

/-- Something that passed its arena check before the arena began to die is still under way (R380). -/
def State.arenaBusy (s : State) (slot : Nat) : Bool :=
  let e := s.arena slot
  ((s.f :: s.fibres.filter fun x => x.id ≠ s.f.id).any fun b =>
    b.life != .absent && ((b.acc.any fun a => !a.spad && a.stage.passed && e.spans a.ia) ||
      b.obj.any fun o => o.mid.frames.any e.spans)) ||
  (s.flight.any fun x => e.spans x.ia && match x.op with | .access _ _ _ => true | _ => false) ||
  s.allGangs.any fun g =>
    (g.cpbs.any fun c => c.stage.passed && c.len != 0 && e.spans c.ia) ||
    g.ctxs.any fun c => c.ops.any fun o => o.started && !o.stale && o.known.contains slot

/-- Every line of an arena is dropped, with the write-backs under way and the REDs held (R380). -/
def State.arenaDrop (s : State) (slot : Nat) : State :=
  let e := s.arena slot
  let line := fun (ln : Nat) => e.spans (ln * 128)
  let clear := fun (g : Gang) => { g with held := g.held.filter fun h => h.arena ≠ some slot }
  let core := fun (c : Core) => { c with l1 := c.l1.filter fun l => !line l.line }
  State.setArena
    { s with
      c := core s.c, cores := s.cores.map core, g := clear s.g, gangs := s.gangs.map clear
      flight := s.flight.filter fun x => !(e.spans x.ia && match x.op with | .writeBack _ _ _ => true | _ => false) }
    slot { e with dropped := true }

/-- The owner of a dying arena has not yet come to the last steps of its end (R377). -/
def State.ownerEnding (s : State) (nid : Nat) : Bool :=
  (s.node? nid).any fun n => (n.closing || n.failing.isSome) && n.state != .completed && n.state != .failed

/-- ARENA_DRAINED: step 3 of a death once step 2 is over, and then steps 4 and 5 (R380, R377). -/
def arenaDrained (s : State) (slot : Nat) : State :=
  let e := s.arena slot
  if e.state ≠ .dying then s
  else if !e.dropped then (if s.arenaBusy slot then s else s.arenaDrop slot)
  else if s.ownerEnding e.nid then s
  else s.setArena slot { e with state := .dead, dropped := false }

/-- The highest run of `n` free pages of a memory of `cap` pages, with the used runs by falling start (log 23). -/
def highestGap (n : Nat) : Nat → List (Nat × Nat) → Option Nat
  | cap, [] => if n ≤ cap then some (cap - n) else none
  | cap, (start, len) :: rest => if start + len + n ≤ cap then some (cap - n) else highestGap n (min cap start) rest

/-- The lowest run of `n` free pages of a memory of `cap` pages from page `lo`, with the used runs by rising start
(log 23). -/
def lowestGap (cap n : Nat) : Nat → List (Nat × Nat) → Option Nat
  | lo, [] => if lo + n ≤ cap then some lo else none
  | lo, (start, len) :: rest => if lo + n ≤ start then some lo else lowestGap cap n (max lo (start + len)) rest

/-- A place for an arena of `size` bytes in the memory from IA `base` with `cap` pages: the highest in HBM, the lowest in a
Massif column (log 23). -/
def State.roomIn (s : State) (base cap size : Nat) : Option Nat :=
  let used := (s.arenas.filter fun x => (x.2.state = .live || x.2.state = .dying) && decide (base ≤ x.2.iabase) &&
    decide (x.2.iabase < base + cap * 65536)).map fun x => ((x.2.iabase - base) / 65536, x.2.size / 65536)
  let by_start := sortOn Prod.fst used
  (if base < 2 ^ 40 then highestGap (size / 65536) cap by_start.reverse else lowestGap cap (size / 65536) 0 by_start).map
    fun p => base + 65536 * p

/-- The columns, coolest first, those without a reading last (R379). -/
def State.coolColumns (s : State) : List Nat :=
  sortOn (fun c => let x := s.sensors.getD c ⟨0xFFF, false⟩; if x.valid then x.temp else 4096) (List.range 32)

/-- An IA for an arena request, with the column that holds it. -/
def State.roomFor (s : State) (r : AReq) : Option (Nat × Nat) :=
  let size := r.size * 65536
  let inCol := fun (c : Nat) => (s.roomIn (2 ^ 40 + c * 2 ^ 27) (s.massifSize c / 65536) size).map fun ia => (ia, c)
  match r.place with
  | 0 => (List.range 12).findSome? fun k => (s.roomIn (k * 2 ^ 36) (s.stackSize k / 65536) size).map fun ia => (ia, 0)
  | 1 => s.coolColumns.findSome? inCol
  | _ => inCol r.col

/-- One request of a node is allocated (R379). -/
def State.allocate (s : State) (n : Node) (i : Nat) (r : AReq) : Option State :=
  if r.size = 0 then some s
  else
    match (List.range Config.arenaSlots).find? fun k => (s.arena k).state = .free || (s.arena k).state = .dead, s.roomFor r with
    | some slot, some (ia, col) =>
      let e : Arena := {
        gen := (s.arena slot).gen, state := .live, place := r.place, col := col, nid := n.spec.nid, size := r.size * 65536
        iabase := ia, heir := if r.hv then n.spec.succ.getD r.hix 0 else 0xFFFFFFFF, dropped := false }
      let t := s.setArena slot e
      some (State.onNode { t with mem := t.mem.blank ia (ia + r.size * 65536) } n.spec.nid fun n =>
        { n with arenas := n.arenas.set i (some slot) })
    | _, _ => none

/-- The requests of a node, from one on. -/
def State.allocateAll (s : State) (n : Node) : Nat → List AReq → Option State
  | _, [] => some s
  | i, r :: rest => (s.allocate n i r).bind fun t => t.allocateAll n (i + 1) rest

/-- ARENA_BIRTH: a runnable node's requests are allocated, all of them or none (R379). -/
def arenaBirth (s : State) (nid : Nat) : State :=
  match s.node? nid with
  | none => s
  | some n =>
    if n.born ∨ n.state ≠ .runnable ∨ n.failing.isSome then s
    else
      match s.allocateAll n 0 n.spec.areqs with
      | none => s
      | some t => t.onNode nid fun n => { n with born := true }

/-! ### The end of a node (R377) -/

/-- The node to which a live arena of a node that completes goes, if its heir can take it (R379). -/
def State.heirOf (s : State) (nid : Nat) (e : Arena) : Option Node :=
  if e.heir = 0xFFFFFFFF ∨ e.heir = nid then none
  else (s.node? e.heir).bind fun h => if h.open_ then some h else none

/-- Everything a node did is over, so that its end can begin. -/
def State.nodeOver (s : State) (n : Node) : Bool :=
  let gs := s.gangsOf n.spec.nid
  gs.all (fun g => g.place == .ended) &&
    (n.failing.isSome ||
      (n.state == .running && n.placed == n.spec.gangs && n.conts.isEmpty &&
        (!n.spec.det || gs.all fun g => n.batched.contains g.gid)))

/-- Step 1: the arenas that die now begin to (R377, R379). -/
def State.endBegins (s : State) (n : Node) : State :=
  let nid := n.spec.nid
  let dies := (s.arenasOf nid).filter fun k => n.failing.isSome || (s.heirOf nid (s.arena k)).isNone
  let unused := dies.any fun k => n.failing.isNone && (s.arena k).heir != 0xFFFFFFFF && (s.arena k).heir != nid
  let t := dies.foldl State.arenaDie (s.onNode nid fun n => { n with closing := true })
  if unused then t.setFlag nid 20 else t

/-- A line lies in no arena of the node that dies. -/
def State.outlives (s : State) (nid ln : Nat) : Bool :=
  !(s.arenas.any fun x => x.2.state == .dying && x.2.nid == nid && x.2.spans (ln * 128))

/-- The cores whose L1 holds a dirty line of a node that must reach its home (R273, R377). -/
def State.dirtyOf (s : State) (n : Node) (l : L1Line) : Bool :=
  l.dm != 0#128 && l.ctx == n.ctx && s.outlives n.spec.nid l.line

/-- Step 2: every dirty byte under the node's tag leaves for its home. -/
def State.writeBackNode (s : State) (n : Node) : State :=
  (s.allCores.map Core.num).foldl (fun t c => t.writeBackAll c (s.dirtyOf n)) s

/-- Steps 1 and 2 are over. -/
def State.endDrained (s : State) (n : Node) : Bool :=
  !(s.allCores.any fun c => c.l1.any (s.dirtyOf n)) && !(s.flight.any fun x => match x.op with | .writeBack ctx _ _ => ctx == n.ctx | _ => false) &&
    !(s.arenas.any fun x => x.2.nid == n.spec.nid && x.2.state == .dying && !x.2.dropped)

/-- An arena goes to its heir; a thirteenth dies at once (R379). -/
def State.handOver (s : State) (slot : Nat) (h : Node) : State :=
  let nid := h.spec.nid
  match (List.range 12).find? fun i => (h.arenas.getD (4 + i) none).isNone with
  | some i =>
    (s.setArena slot { s.arena slot with nid := nid }).onNode nid fun n => { n with arenas := n.arenas.set (4 + i) (some slot) }
  | none => ((s.setArena slot { s.arena slot with nid := nid }).arenaDie slot).setFlag nid 20

/-- Step 3: the arenas with an heir are handed over. -/
def State.handAll (s : State) (nid : Nat) : State :=
  (s.arenasOf nid).foldl
    (fun t k =>
      match t.heirOf nid (t.arena k) with
      | some h => t.handOver k h
      | none => (t.arenaDie k).setFlag nid 20)
    s

/-- Step 4: the node's task entries are discarded (R377). -/
def State.discardTasks (s : State) (n : Node) : State :=
  let nid := n.spec.nid
  let any := (s.allCores.any fun c => c.queue.any fun e => e.nid = nid) || n.rings.any fun r => r.used != 0
  let core := fun (c : Core) => { c with queue := c.queue.filter fun e => e.nid ≠ nid }
  let t := State.onNode { s with c := core s.c, cores := s.cores.map core } nid fun n => { n with rings := [] }
  if any then t.setFlag nid 19 else t

/-- Step 5: the signals of a node that completes leave, in the order of its list and then of its added edges (R372, R377,
R390). -/
def State.signalAll (s : State) (n : Node) : State :=
  let takes := (n.spec.succ ++ n.added).filter fun i =>
    (s.node? i).any fun x => x.state != .refused && x.state != .failed && x.failing.isNone
  { s with signals := s.signals ++ takes.map Signal.mk }

/-- Step 6: the launch context is free, and nothing of the node's gangs is left. -/
def State.forget (s : State) (nid : Nat) : State :=
  let t := s.onNode nid fun n => { n with closing := false, failing := .none }
  { t with
    f := if t.f.id.nid = nid then Fibre.none else t.f
    g := if t.g.nid = nid then Gang.fresh 0 0 [] else t.g
    fibres := t.fibres.filter fun b => b.id.nid ≠ nid
    gangs := t.gangs.filter fun g => g.nid ≠ nid }

/-- Steps 3 to 5: no successor is signalled while a busy walk keeps STATE 3 from being written (R240, R377). -/
def State.completes (s : State) (n : Node) : State :=
  let nid := n.spec.nid
  let t := ((s.handAll nid).discardTasks n).nodeState nid .completed
  if (t.node? nid).any Node.statusDue then s else t.signalAll n

/-- NODE_COMPLETION: the node's end, by the steps of R377, as far as what it waits for allows. A STATUS that a busy walk has kept
back is written first (R240, R367). -/
def nodeEnds (s : State) (nid : Nat) : State :=
  match s.node? nid with
  | none => s
  | some n =>
    if n.statusDue then s.putStatus nid
    else if !n.closing then (if (n.live && s.nodeOver n) then (s.endBegins n).writeBackNode n else s)
    else if n.live then
      (if !s.endDrained n then s.writeBackNode n
       else
         match n.failing with
         | some code =>
           ((s.discardTasks n).onNode nid fun n => { n with code := code }).nodeState nid .failed
         | none => s.completes n)
    else if s.arenas.any fun x => x.2.nid == nid && x.2.state == .dying then s
    else s.forget nid

/-- LAUNCH_QUEUE_TAIL_WRITE (R368). -/
def execLaunchQueueTailWrite (queue tail : Nat) (s : State) : Host.Outcome State Fault Refusal :=
  event (fun t => tailWrite t queue tail) s

/-- NODE_SPEC_ACCEPT (R366). -/
def execNodeSpecAccept (queue : Nat) (s : State) : Host.Outcome State Fault Refusal :=
  event (fun t => specAccept t queue) s

/-- COMPARE_MANIFEST (R384). -/
noncomputable def execCompareManifest (mani spec : Nat) (s : State) : Host.Outcome State Fault Refusal :=
  event (fun t => manifestCompare t mani spec) s

/-- DEPENDENCE_SIGNAL (R371). -/
def execDependenceSignal (k : Nat) (s : State) : Host.Outcome State Fault Refusal :=
  event (fun t => signalArrives t k) s

/-- CONTINUATION_RESUME (R376). -/
def execContinuationResume (nid k : Nat) (s : State) : Host.Outcome State Fault Refusal :=
  event (fun t => contResume t nid k) s

/-- RED_BATCH_APPLY (R267). -/
def execRedBatchApply (nid : Nat) (s : State) : Host.Outcome State Fault Refusal :=
  event (fun t => batchApply t nid) s

/-- ARENA_BIRTH (R379). -/
def execArenaBirth (nid : Nat) (s : State) : Host.Outcome State Fault Refusal :=
  event (fun t => Sys2Proof.Machine.arenaBirth t nid) s

/-- ARENA_DRAINED (R380). -/
def execArenaDrained (slot : Nat) (s : State) : Host.Outcome State Fault Refusal :=
  event (fun t => Sys2Proof.Machine.arenaDrained t slot) s

/-- NODE_COMPLETION (R377). -/
def execNodeCompletion (nid : Nat) (s : State) : Host.Outcome State Fault Refusal :=
  event (fun t => nodeEnds t nid) s

end Sys2Proof.Machine
end

