-- ==== Sys2Proof/Machine/Fabric.lean ====
section
/-!
DEFINITION. The links and the host's commands (23): sublinks and paths that retrain, fail and return (R424 to R430), peers
(R433, R434), management (R431, R436 to R438, R441, R442), errors (12 R253, 23 R440), heat (R439) and reset (12 R237).
-/
namespace Sys2Proof.Machine

/-! ### Die sublinks (R424 to R428) -/

/-- The link of two dies: 0 to 5 for the pairs in rising order. -/
def linkNo (d e : Nat) : Nat :=
  let lo := min d e
  let hi := max d e
  if lo = 0 then hi - 1 else if lo = 1 then hi + 1 else 5

/-- Changes the fabric. -/
def State.onFabric (s : State) (k : Fabric → Fabric) : State := { s with fabric := k s.fabric }

/-- A sublink, by its place in the list. -/
def State.sublink (s : State) (link sub : Nat) : LinkState := s.fabric.sublinks.getD (4 * link + sub) .up

/-- Sets the state of a sublink that exists. -/
def State.setSublink (s : State) (link sub : Nat) (x : LinkState) : State :=
  if sub < 4 then s.onFabric fun f => { f with sublinks := f.sublinks.set (4 * link + sub) x } else s

/-- Something of a fibre that is under way: its serial number, the home it goes to, and whether it is a flush marker. -/
structure Trip where
  ser : Nat
  home : Nat
  marker : Bool
  deriving DecidableEq, Repr

/-- What a fibre has under way: its accesses, its copies, and the markers of its releases (R430). -/
def State.trips (s : State) (b : Fibre) : List Trip :=
  let reach := fun (a : Access) => !a.spad && a.size != 0 && a.op.walks
  (b.acc.filter reach).map (fun a => ⟨a.ser, s.homeOf a.ia, false⟩) ++
    (((s.gang? b.id.nid b.id.gid).map fun g => (g.cpbs.filter fun c => c.who == b.id && c.len != 0).map fun c =>
      (⟨c.ser, s.homeOf c.ia, false⟩ : Trip)).getD []) ++
    s.flight.flatMap fun x => match x.op with
      | .marker who ser homes => if who = b.id then homes.map fun h => ⟨ser, h, true⟩ else []
      | _ => []

/-- Whether some path from a die to a home uses a link (R424): to the die of the home, or to one where the way leaves the
package. -/
def State.onLink (s : State) (link d home : Nat) : Bool :=
  (s.gateDies home).any fun e => e != d && (linkNo d e == link ||
    (List.range Config.dies).any fun k => k != d && k != e && (linkNo d k == link || linkNo k e == link))

/-- A link is the direct one from a die to a home. -/
def State.straight (s : State) (link d home : Nat) : Bool := (s.gateDies home).any fun e => e != d && linkNo d e == link

/-- A sublink has carried it from a core; markers go down the direct ones always (R263, log 43). -/
def State.rodeSublink (s : State) (link sub core : Nat) (y : Trip) : Bool :=
  let d := s.dieOf core
  s.onLink link d y.home && ((y.marker && s.straight link d y.home) || Config.carried s.turn y.ser (4 * link + sub))

/-- Sets bits of LSTAT in the live fibres that have something under way which a test picks (R430). -/
def State.linkEvent (s : State) (bits : Word) (p : Nat → Trip → Bool) : State :=
  let hit := fun (b : Fibre) => match s.site? b.id with
    | some x => (s.trips b).any (p x.core)
    | none => false
  let ids := (s.allFibres.filter hit).map Fibre.id
  s.mapFibres ids.contains fun b => b.sees 0#32 bits

/-- DIE_SUBLINK_RETRAIN: a sublink is trained again, at most three times (R426); DRT is set in the fibres whose accesses it
carried (R430). -/
def sublinkRetrain (s : State) (link sub : Nat) : State :=
  let t := s.linkEvent 1#32 (s.rodeSublink link sub)
  match s.sublink link sub with
  | .up => t.setSublink link sub (.retraining 1)
  | .retraining n => if n < 3 then t.setSublink link sub (.retraining (n + 1)) else s
  | .failed => s

/-- Every write under way that no path can carry any more is lost (R427). -/
def State.loseCut (s : State) : Nat → State
  | 0 => s
  | n + 1 =>
    let cut := fun (x : Flight) => x.bytes != [] && !s.reaches x.core x.ia
    if s.flight.any cut then State.loseCut (s.lose (s.flight.findIdx cut)) n else s

/-- DIE_SUBLINK_FAIL: a sublink that three trainings have not brought back fails, and writes that no path is left for are
lost (R426, R427). -/
def sublinkFail (s : State) (link sub : Nat) : State :=
  match s.sublink link sub with
  | .retraining 3 => let t := s.setSublink link sub .failed; t.loseCut t.flight.length
  | _ => s

/-- SUBLINK_RETURN_TO_SERVICE (R426). -/
def sublinkReturn (s : State) (link sub : Nat) : State :=
  match s.sublink link sub with
  | .retraining _ => s.setSublink link sub .up
  | _ => s

/-! ### Network paths (R426 to R430, R434): path `p` to a peer goes out of port `p` (log 43) -/

/-- The state of a path. -/
def State.pathState (s : State) (peer path : Nat) : LinkState :=
  ((s.fabric.paths.find? fun p => p.peer = peer ∧ p.path = path).map NetPath.state).getD .up

/-- Sets the state of a path; one in service is not listed. -/
def State.setPath (s : State) (peer path : Nat) (x : LinkState) : State :=
  s.onFabric fun f =>
    let rest := f.paths.filter fun p => ¬(p.peer = peer ∧ p.path = path)
    { f with paths := if x = .up then rest else rest ++ [⟨peer, path, x⟩] }

/-- A path has carried it; markers go down all of them. -/
def State.rodePath (s : State) (peer path : Nat) (y : Trip) : Bool :=
  y.home == 16 + peer && (y.marker || Config.carried s.turn y.ser (24 + path))

/-- NETWORK_PATH_RETRAIN: a path is trained again (R426); NRT is set (R430). -/
def pathRetrain (s : State) (peer path : Nat) : State :=
  let t := s.linkEvent 4#32 fun _ => s.rodePath peer path
  match s.pathState peer path with
  | .up => if path < Config.ports then t.setPath peer path (.retraining 1) else s
  | .retraining n => if n < 3 then t.setPath peer path (.retraining (n + 1)) else s
  | .failed => s

/-- No path to a peer is left. -/
def State.pathless (s : State) (peer : Nat) : Bool :=
  (List.range Config.ports).all fun p => !(s.fabric.portUp.getD p false) || s.pathState peer p == .failed

/-- NETWORK_PATH_FAIL: a path that training has not brought back fails; a peer without a path is declared unreachable, and
what is under way to it is lost (R426, R427); NUNR is set (R430). -/
def pathFail (s : State) (peer path : Nat) : State :=
  match s.pathState peer path with
  | .retraining _ =>
    let t := s.setPath peer path .failed
    if t.pathless peer && !t.fabric.unreachable.contains peer then
      let u := t.onFabric fun f => { f with unreachable := f.unreachable ++ [peer] }
      State.loseCut (u.linkEvent 16#32 fun _ y => y.home == 16 + peer) u.flight.length
    else t
  | _ => s

/-- PATH_RETURN_TO_SERVICE (R426). -/
def pathReturn (s : State) (peer path : Nat) : State :=
  match s.pathState peer path with
  | .retraining _ => s.setPath peer path .up
  | _ => s

/-- The permissions that a peer's request needs. -/
def peerNeed : PeerOp → Need
  | .read _ => .load
  | .store _ => .store
  | .amo _ _ => .both
  | .red _ _ => .both

/-- The bytes of a peer's request. -/
def peerSize : PeerOp → Nat
  | .read len => len
  | .store data => data.length
  | .amo op _ => amoSize op
  | .red op _ => redSize op

/-- The bytes that a peer's request but a store finds at its home, where they are good. -/
def State.peerReads (s : State) (ia size : Nat) (k : List Byte → State → State) : State :=
  if s.badRun ia size then s.tell (.badMemory ia)
  else
    match s.homeBytes ia size with
    | (none, _) => s
    | (some old, t) => k old t

/-- A peer's request is performed at its home; a read and an AMO are answered with the bytes that stood there (R433). -/
def State.peerDoes (s : State) (peer ia : Nat) (op : PeerOp) : State :=
  match op with
  | .store data => s.deviceWrite ia data
  | .read len => s.peerReads ia len fun old t => t.tell (.peerAnswer peer old)
  | .amo op data => s.peerReads ia (amoSize op) fun old t =>
    (match amoNew op (leNat old) data with
      | some v => t.deviceWrite ia (leBytes (amoSize op) v)
      | none => t).tell (.peerAnswer peer old)
  | .red op data => s.peerReads ia (redSize op) fun old t => t.deviceWrite ia (leBytes (redSize op) (redNew op (leNat old) data))

/-- PEER_PACKET_ARRIVAL: a peer's request to the export window is refused, or performed (R433, R434). While the walk of its
page is busy the packet waits, and the ninth try is refused (R240). -/
noncomputable def peerPacket (s : State) (peer offset : Nat) (op : PeerOp) : State :=
  let f := s.fabric
  let need := peerNeed op
  let size := peerSize op
  let ia := f.exportBase + offset
  let key := TryKey.peer peer ia
  let no := (s.triesDone key).tell (.peerRefused peer)
  if (need.r ∧ !f.exportR) ∨ (need.w ∧ !f.exportW) ∨ f.exportSize < offset + size ∨ 4096 < size then no
  else if !s.placed ia size then no
  else
    match s.walkRun ia size need with
    | (some (0, _, _), _) =>
      if s.spent key then no else { s.tryAgain key with agenda := s.agenda ++ [.peerPacketArrival peer offset op] }
    | (some _, _) => no
    | (none, t) => (t.triesDone key).peerDoes peer ia op

/-! ### Host commands -/

/-- The command that a rule describes is refused. -/
def State.deny (s : State) (rule : Nat) : State := s.tell (.refused rule)

/-- The root entry and the leaf entry that an IA of a walk unit uses, by the numbers under which the unit keeps them. -/
def keptHits (u lo hi key : Nat) : Bool :=
  let size := if key % 2 = 0 then 2 ^ 21 else 2 ^ 16
  let first := unitBase u + key / 2 * size
  decide (first ≤ hi) && decide (lo < first + size)

/-- WALK_INVALIDATE: the entries of the IAs `lo` to `hi` are dropped (R241). -/
def walkDrop (s : State) (u lo hi : Nat) : State :=
  { s with walkers := s.walkers.modify u fun w => { w with kept := w.kept.filter fun e => !keptHits u lo hi e.1 } }

/-- SET_MASSIF_CACHE_PART (R247). -/
def cachePartSet (s : State) (die col mib : Nat) : State :=
  if !([0, 16, 32, 48, 64].contains mib) ∨ 4 ≤ die ∨ 8 ≤ col ∨ s.allNodes.any fun n => n.state = .running then s.deny 247
  else { s with cachePart := s.cachePart.set (8 * die + col) mib }

/-- SET_POWER (R438). -/
def powerSet (s : State) (watts : Nat) : State :=
  if watts < 1600 ∨ 2400 < watts ∨ watts % 50 ≠ 0 then s.deny 438 else s.onFabric fun f => { f with power := watts }

/-- FIRMWARE_UPDATE: refused when the signature fails or a deterministic node is live (R437). -/
def firmwareSet (s : State) (engine digest : Nat) (signed : Bool) : State :=
  if !signed ∨ s.fabric.firmware.length ≤ engine ∨ s.allNodes.any fun n => n.alive && n.spec.det then s.deny 437
  else s.onFabric fun f => { f with firmware := f.firmware.set engine (digest % 2 ^ 512) }

/-- The spare takes the core's number, and stands in its column: the core holds no gang, and its L1 leaves its dirty lines first
(R2, R437). -/
def State.takeSpare (s : State) (core spare : Nat) : State :=
  let t := s.writeBackAll core fun _ => true
  let old := s.coreMap.getD core 0
  { (t.onCore core fun c => { c with l1 := [], spare := none, split := none }) with
    coreMap := s.coreMap.set core spare
    fabric := { s.fabric with retired := s.fabric.retired ++ [(0, old)], spareCols := s.fabric.spareCols ++ [(spare, s.colOf core)] } }

/-- SUBSTITUTE_SPARE_CORE: the core's gangs are saved, and then the spare takes its number (R437). -/
def spareCore (s : State) (core spare : Nat) : State :=
  let gangs := s.gangsOn core
  let det := gangs.any fun g => (s.node? g.nid).any fun n => n.spec.det
  -- a die's four spares stand for cores of that die (R2)
  let isSpare := decide (spare < 272) && !s.coreMap.contains spare && !s.isRetired 0 spare && spare / 68 == s.dieOf core
  if s.coreMap.length ≤ core ∨ det ∨ !isSpare then s.deny 437
  else if gangs.isEmpty then s.takeSpare core spare
  else
    (gangs.foldl (fun t g => if g.leaving.isNone && g.place == .resident core then t.stopGang g none else t) s).onCore core
      fun c => { c with spare := some spare }

/-- RETIRE_RECALIBRATE: an HBM channel (kind 0) or a die sublink (kind 1) is calibrated again and returns; refused where no
other unit of its kind is in service (R437). -/
def recalibrate (s : State) (kind index : Nat) : State :=
  if kind = 0 then
    (if !s.isRetired 3 index && decide (index < 192) && (List.range 192).any fun i => i != index && !s.isRetired 3 i then s
     else s.deny 437)
  else if kind = 1 ∧ index < 24 ∧ !s.isRetired 4 index then
    (if (List.range 24).any fun i => i != index && !s.isRetired 4 i && s.fabric.sublinks.getD i .failed == .up then
       s.setSublink (index / 4) (index % 4) .up
     else s.deny 437)
  else s.deny 437

/-- A unit is retired (R436); writes that no path is left for are lost (R427). -/
def State.retireUnit (s : State) (kind index : Nat) (k : Fabric → Fabric) : State :=
  let t := s.onFabric fun f =>
    let g := k f
    { g with retired := if g.retired.contains (kind, index) then g.retired else g.retired ++ [(kind, index)] }
  t.loseCut t.flight.length

/-- A port goes out of service: what it carried is sent on the others (R434, R436). -/
def State.portOut (s : State) (port : Nat) : State :=
  s.retireUnit 5 port fun f => { f with portUp := f.portUp.set port false }

/-- REPLACE_PORT, in its two parts: a port in service is retired, and one that is retired returns with its rate in Gb/s and its
paths in service (R434, R437, log 52). -/
def portReplace (s : State) (port rate : Nat) : State :=
  if Config.ports ≤ port ∨ (rate ≠ 800 ∧ rate ≠ 1600) then s.deny 437
  else if s.fabric.portUp.getD port false then s.portOut port
  else
    let t := s.onFabric fun f =>
      { f with
        portRate := f.portRate.set port rate, portUp := f.portUp.set port true
        retired := f.retired.filter fun x => x ≠ (5, port)
        paths := f.paths.filter fun p => p.path ≠ port }
    t.onFabric fun f => { f with unreachable := f.unreachable.filter t.pathless }

/-- ATTESTATION_REQUEST (R441). -/
def attest (s : State) (nonce : Nat) : State :=
  let f := s.fabric
  let pools := s.coreNums.flatMap fun c => let x := (s.core c).split.getD (0, 0); [x.1, x.2]
  let report := [f.deviceId] ++ f.firmware ++ [firmwareDigest f.firmware] ++ pools ++ [f.power] ++
    f.retired.flatMap (fun x => [x.1, x.2]) ++ [nonce % 2 ^ 512]
  s.tell (.attestation report (Config.attestationSignature report))

/-- SET_DEVICE_ID: before any node runs (R442). -/
def deviceIdSet (s : State) (id : Nat) : State :=
  if 2 ^ 19 ≤ id ∨ s.allNodes.any Node.alive then s.deny 442 else s.onFabric fun f => { f with deviceId := id }

/-- The rules of the management registers, by the numbers of log 44: roots of walk units (0 to 15), QBASE and QSIZE of queue
`q` (16 + 2q, 17 + 2q), FQBASE, FQSIZE and FQHEAD (32 to 34), the base, size and permissions of the export window (35
to 37), and the save areas of the launch contexts (64 to 1087). -/
def mgmtOk (reg v : Nat) : Bool :=
  if reg < 16 then true
  else if reg < 32 then (if reg % 2 = 0 then v % 128 == 0 else isPow2 v && decide (v ≤ 65536))
  else
    match reg with
    | 32 => v % 256 == 0
    | 33 => isPow2 v && decide (16 ≤ v) && decide (v ≤ 65536)
    | 36 => decide (v ≤ 2 ^ 31) && v % 65536 == 0
    | 37 => decide (v < 4)
    | _ => true

/-- MANAGEMENT_REGISTER_WRITE (R431). -/
def mgmtWrite (s : State) (reg v : Nat) : State :=
  if !mgmtOk reg v then s.deny 431
  else if reg < 16 then { s with walkers := s.walkers.modify reg fun w => { w with root := v } }
  else if reg < 32 then
    { s with queues := s.queues.modify ((reg - 16) / 2) fun q => if reg % 2 = 0 then { q with qbase := v } else { q with qsize := v } }
  else
    match reg with
    | 32 => { s with faultq := { s.faultq with base := v } }
    | 33 => { s with faultq := { s.faultq with size := v } }
    | 34 => { s with faultq := { s.faultq with head := v } }
    | 35 => s.onFabric fun f => { f with exportBase := v }
    | 36 => s.onFabric fun f => { f with exportSize := v }
    | 37 => s.onFabric fun f => { f with exportR := v % 2 == 1, exportW := v / 2 == 1 }
    | _ =>
      if 64 ≤ reg ∧ reg < 64 + Config.launchContexts then
        s.onFabric fun f => { f with saveAreas := upsert (fun x => x.1 = reg - 64) (reg - 64, v) f.saveAreas }
      else s.onFabric fun f => { f with mgmt := upsert (fun x => x.1 = reg) (reg, v) f.mgmt }

/-- HOST_MAINBAND_ACCESS: the host reads or writes device memory by frame address (R431, log 44). -/
def hostAccess (s : State) (write : Bool) (ia len : Nat) (data : List Byte) : State :=
  let size := if write then data.length else len
  let inMem := match s.placeOf ia with
    | .hbm _ => true
    | .massif _ => true
    | _ => false
  if size = 0 then s
  else if !inMem ∨ !s.placed ia size then s.deny 431
  else if write then { s with mem := s.mem.writeBytes ia data }
  else s.tell (.readData ia (s.mem.bytes ia size))

/-- A die has a spare core that stands for none and is not retired (R2). -/
def State.spareLeft (s : State) (die : Nat) : Bool :=
  (List.range 68).any fun k => !s.coreMap.contains (68 * die + k) && !s.isRetired 0 (68 * die + k)

/-- UNIT_RETIREMENT: a logical core without a spare (kind 0), a lane of a port (1), a UCIe module (2), an HBM channel (3), a
die sublink (4) or a port (5) is retired (R436). A core goes only while no node is live (log 44), and once its die has no spare left. -/
def retire (s : State) (kind index : Nat) : State :=
  if kind = 0 then
    (if s.coreMap.length ≤ index ∨ s.allNodes.any Node.alive ∨ s.spareLeft (s.dieOf index) then s.deny 436
     else
       let t := (s.allCores.map Core.num).foldl (fun t c => t.writeBackAll c fun _ => true) s
       { t with
         c := Core.blank 0, cores := [], coreMap := dropAt index s.coreMap
         fabric := { t.fabric with retired := t.fabric.retired ++ [(0, s.coreMap.getD index 0)] } })
  else if kind = 1 ∧ index < 8 * Config.ports then
    s.retireUnit 1 index fun f =>
      let rate := f.portRate.getD (index / 8) 0
      { f with portRate := f.portRate.set (index / 8) (if rate = 1600 then 800 else if rate = 800 then 400 else rate) }
  else if kind = 2 ∧ index < Config.modules then
    s.retireUnit 2 index fun f => { f with moduleUp := f.moduleUp.set index false }
  else if kind = 3 ∧ index < 192 then s.retireUnit 3 index id
  else if kind = 4 ∧ index < 24 then s.retireUnit 4 index id
  else if kind = 5 ∧ index < Config.ports then s.portOut index
  else s.deny 436

/-! ### Heat, errors and reset -/

/-- The package powers down, and the host is told (R439). -/
def State.tripsAt (s : State) (die col : Nat) : State := { s.tell (.trip die col) with off := true }

/-- THERMAL_TRIP: the package powers down once a column's sensor reads 920 or more (R439). -/
def tripped (s : State) (die col : Nat) : State :=
  let x := s.sensors.getD (8 * die + col) ⟨0xFFF, false⟩
  if x.valid ∧ 920 ≤ x.temp ∧ die < 4 ∧ col < 8 then s.tripsAt die col else s

/-- SENSOR_READING (R189): TEMP is 0xFFF where the reading is not good. A reading of 920 or more trips at once (R439). -/
def sensorSet (s : State) (die col temp : Nat) (valid : Bool) : State :=
  if die < 4 ∧ col < 8 then
    tripped { s with sensors := s.sensors.set (8 * die + col) ⟨if valid then min temp 0xFFF else 0xFFF, valid⟩ } die col
  else s

/-- SCRUB: a place of an array is read (R253, R440). The arrays are memory below the L1 by line (kind 0), an L1 by 4096 times
the line plus the core (1), the registers (2) and the scratchpad (3) of a gang by 2^32 times NID plus GID, and others. An
error that can be corrected is counted. -/
def scrubbed (s : State) (kind place : Nat) (uncorrectable : Bool) : State :=
  if !uncorrectable then s.onFabric fun f => { f with ecc := f.ecc.modify (min kind 7) (· + 1) }
  else
    match kind with
    | 0 =>
      let t := if s.bad.contains place then s else { s with bad := place :: s.bad }
      (match (s.arenaAt (place * 128)).bind fun k => if (s.arena k).state = .live then some (s.arena k).nid else none with
       | some nid => t.nodeFault ⟨nid, 0, 0, 0⟩ 0#64 0x47 0#64 (place * 128)
       | none => t.tell (.badMemory (place * 128)))
    | 1 =>
      let line := place / 4096
      (s.onCore (place % 4096) fun c => { c with l1 := mapIf (fun l => decide (l.line = line)) (fun l => { l with err := true }) c.l1 }).tell
        (.badMemory (line * 128))
    | 2 => s.nodeFault ⟨place / 2 ^ 32, place % 2 ^ 32, 0, 0⟩ 0#64 0x47 0#64 0
    | 3 => s.nodeFault ⟨place / 2 ^ 32, place % 2 ^ 32, 0, 0⟩ 0#64 0x47 0#64 0
    | _ => s.tell (.badMemory place)

/-- DEVICE_RESET (R237): all running work and every host-written register are gone; memory keeps its bytes unless the
package was powered down, and links, sensors and retired units stay as they are (log 45). -/
def resetDevice (s : State) : State :=
  { State.reset with
    mem := if s.off then [] else s.mem
    bad := s.bad
    coreMap := s.coreMap
    sensors := s.sensors
    notes := s.notes
    agenda := s.agenda
    turn := s.turn
    issueNo := s.issueNo
    fabric := { Fabric.reset with
      sublinks := s.fabric.sublinks, portRate := s.fabric.portRate, portUp := s.fabric.portUp, portRtt := s.fabric.portRtt
      moduleUp := s.fabric.moduleUp, firmware := s.fabric.firmware, retired := s.fabric.retired, spareCols := s.fabric.spareCols, ecc := s.fabric.ecc
      peerExports := s.fabric.peerExports } }

/-- FLIT_CRC_FAIL (R424). -/
def execFlitCrcFail (_link _sub : Nat) (s : State) : Host.Outcome State Fault Refusal :=
  event id s

/-- DIE_SUBLINK_RETRAIN (R426). -/
def execDieSublinkRetrain (link sub : Nat) (s : State) : Host.Outcome State Fault Refusal :=
  event (fun t => sublinkRetrain t link sub) s

/-- DIE_SUBLINK_FAIL (R426). -/
def execDieSublinkFail (link sub : Nat) (s : State) : Host.Outcome State Fault Refusal :=
  event (fun t => sublinkFail t link sub) s

/-- NETWORK_PATH_RETRAIN (R426). -/
def execNetworkPathRetrain (peer path : Nat) (s : State) : Host.Outcome State Fault Refusal :=
  event (fun t => pathRetrain t peer path) s

/-- NETWORK_PATH_FAIL (R426). -/
def execNetworkPathFail (peer path : Nat) (s : State) : Host.Outcome State Fault Refusal :=
  event (fun t => pathFail t peer path) s

/-- TRANSPORT_RESEND (R434). -/
def execTransportResend (_peer _path : Nat) (s : State) : Host.Outcome State Fault Refusal :=
  event id s

/-- PEER_PACKET_ARRIVAL (R434). -/
noncomputable def execPeerPacketArrival (peer offset : Nat) (op : PeerOp) (s : State) : Host.Outcome State Fault Refusal :=
  event (fun t => peerPacket t peer offset op) s

/-- WALK_INVALIDATE (R241). -/
def execWalkInvalidate (unit lo hi : Nat) (s : State) : Host.Outcome State Fault Refusal :=
  event (fun t => walkDrop t unit lo hi) s

/-- SET_MASSIF_CACHE_PART (R247). -/
def execSetMassifCachePart (die col mib : Nat) (s : State) : Host.Outcome State Fault Refusal :=
  event (fun t => cachePartSet t die col mib) s

/-- SET_POWER (R438). -/
def execSetPower (watts : Nat) (s : State) : Host.Outcome State Fault Refusal :=
  event (fun t => powerSet t watts) s

/-- FIRMWARE_UPDATE (R437). -/
def execFirmwareUpdate (engine digest : Nat) (signed : Bool) (s : State) : Host.Outcome State Fault Refusal :=
  event (fun t => firmwareSet t engine digest signed) s

/-- SUBSTITUTE_SPARE_CORE (R437). -/
def execSubstituteSpareCore (logical physical : Nat) (s : State) : Host.Outcome State Fault Refusal :=
  event (fun t => spareCore t logical physical) s

/-- RETIRE_RECALIBRATE (R437). -/
def execRetireRecalibrate (kind index : Nat) (s : State) : Host.Outcome State Fault Refusal :=
  event (fun t => recalibrate t kind index) s

/-- REPLACE_PORT (R437). -/
def execReplacePort (port rate : Nat) (s : State) : Host.Outcome State Fault Refusal :=
  event (fun t => portReplace t port rate) s

/-- ATTESTATION_REQUEST (R441). -/
def execAttestationRequest (nonce : Nat) (s : State) : Host.Outcome State Fault Refusal :=
  event (fun t => attest t nonce) s

/-- SET_DEVICE_ID (R442). -/
def execSetDeviceId (devId : Nat) (s : State) : Host.Outcome State Fault Refusal :=
  event (fun t => deviceIdSet t devId) s

/-- MANAGEMENT_REGISTER_WRITE (R431). -/
def execManagementRegisterWrite (reg value : Nat) (s : State) : Host.Outcome State Fault Refusal :=
  event (fun t => mgmtWrite t reg value) s

/-- THERMAL_TRIP (R439). -/
def execThermalTrip (die col : Nat) (s : State) : Host.Outcome State Fault Refusal :=
  event (fun t => tripped t die col) s

/-- SCRUB (R440). -/
def execScrub (kind place : Nat) (uncorrectable : Bool) (s : State) : Host.Outcome State Fault Refusal :=
  event (fun t => scrubbed t kind place uncorrectable) s

/-- DEVICE_RESET (R237). It brings a package that has powered down back too. -/
def execDeviceReset (s : State) : Host.Outcome State Fault Refusal :=
  .next (resetDevice s)

/-- SENSOR_READING (R189). -/
def execSensorReading (die col temp : Nat) (valid : Bool) (s : State) : Host.Outcome State Fault Refusal :=
  event (fun t => sensorSet t die col temp valid) s

/-- SUBLINK_RETURN_TO_SERVICE (R426). -/
def execSublinkReturnToService (link sub : Nat) (s : State) : Host.Outcome State Fault Refusal :=
  event (fun t => sublinkReturn t link sub) s

/-- PATH_RETURN_TO_SERVICE (R426). -/
def execPathReturnToService (peer path : Nat) (s : State) : Host.Outcome State Fault Refusal :=
  event (fun t => pathReturn t peer path) s

/-- HOST_MAINBAND_ACCESS (R431). -/
def execHostMainbandAccess (write : Bool) (ia len : Nat) (data : List (BitVec 8)) (s : State) : Host.Outcome State Fault Refusal :=
  event (fun t => hostAccess t write ia len data) s

/-- UNIT_RETIREMENT (R436). -/
def execUnitRetirement (kind index : Nat) (s : State) : Host.Outcome State Fault Refusal :=
  event (fun t => retire t kind index) s

end Sys2Proof.Machine
end

