-- ==== Sys2Proof/Machine/Dispatch.lean ====
section
/-!
DEFINITION. What every instruction and event does: one arm for each constructor.
-/
namespace Sys2Proof.Machine

open Host in noncomputable def exec (ins : Instr) (s : State) : Host.Outcome State Fault Refusal :=
  match ins with
  | .add d a b ea eb => Sys2Proof.Machine.execAdd d a b ea eb s
  | .sub d a b ea eb => Sys2Proof.Machine.execSub d a b ea eb s
  | .mul d a b ea eb => Sys2Proof.Machine.execMul d a b ea eb s
  | .mulh d a b ea eb => Sys2Proof.Machine.execMulh d a b ea eb s
  | .mulhu d a b ea eb => Sys2Proof.Machine.execMulhu d a b ea eb s
  | .div d a b ea eb => Sys2Proof.Machine.execDiv d a b ea eb s
  | .divu d a b ea eb => Sys2Proof.Machine.execDivu d a b ea eb s
  | .rem d a b ea eb => Sys2Proof.Machine.execRem d a b ea eb s
  | .remu d a b ea eb => Sys2Proof.Machine.execRemu d a b ea eb s
  | .and d a b ea eb => Sys2Proof.Machine.execAnd d a b ea eb s
  | .or d a b ea eb => Sys2Proof.Machine.execOr d a b ea eb s
  | .xor d a b ea eb => Sys2Proof.Machine.execXor d a b ea eb s
  | .andn d a b ea eb => Sys2Proof.Machine.execAndn d a b ea eb s
  | .orn d a b ea eb => Sys2Proof.Machine.execOrn d a b ea eb s
  | .shl d a b ea eb => Sys2Proof.Machine.execShl d a b ea eb s
  | .shr d a b ea eb => Sys2Proof.Machine.execShr d a b ea eb s
  | .sar d a b ea eb => Sys2Proof.Machine.execSar d a b ea eb s
  | .rotl d a b ea eb => Sys2Proof.Machine.execRotl d a b ea eb s
  | .min d a b ea eb => Sys2Proof.Machine.execMin d a b ea eb s
  | .max d a b ea eb => Sys2Proof.Machine.execMax d a b ea eb s
  | .minu d a b ea eb => Sys2Proof.Machine.execMinu d a b ea eb s
  | .maxu d a b ea eb => Sys2Proof.Machine.execMaxu d a b ea eb s
  | .adds d a b ea eb => Sys2Proof.Machine.execAdds d a b ea eb s
  | .subs d a b ea eb => Sys2Proof.Machine.execSubs d a b ea eb s
  | .addus d a b ea eb => Sys2Proof.Machine.execAddus d a b ea eb s
  | .subus d a b ea eb => Sys2Proof.Machine.execSubus d a b ea eb s
  | .lea1 d a b ea eb => Sys2Proof.Machine.execLea1 d a b ea eb s
  | .lea2 d a b ea eb => Sys2Proof.Machine.execLea2 d a b ea eb s
  | .lea3 d a b ea eb => Sys2Proof.Machine.execLea3 d a b ea eb s
  | .lea4 d a b ea eb => Sys2Proof.Machine.execLea4 d a b ea eb s
  | .addD d a b ea eb => Sys2Proof.Machine.execAddD d a b ea eb s
  | .subD d a b ea eb => Sys2Proof.Machine.execSubD d a b ea eb s
  | .mulD d a b ea eb => Sys2Proof.Machine.execMulD d a b ea eb s
  | .mulhD d a b ea eb => Sys2Proof.Machine.execMulhD d a b ea eb s
  | .mulhuD d a b ea eb => Sys2Proof.Machine.execMulhuD d a b ea eb s
  | .andD d a b ea eb => Sys2Proof.Machine.execAndD d a b ea eb s
  | .orD d a b ea eb => Sys2Proof.Machine.execOrD d a b ea eb s
  | .xorD d a b ea eb => Sys2Proof.Machine.execXorD d a b ea eb s
  | .shlD d a b ea eb => Sys2Proof.Machine.execShlD d a b ea eb s
  | .shrD d a b ea eb => Sys2Proof.Machine.execShrD d a b ea eb s
  | .sarD d a b ea eb => Sys2Proof.Machine.execSarD d a b ea eb s
  | .minD d a b ea eb => Sys2Proof.Machine.execMinD d a b ea eb s
  | .maxD d a b ea eb => Sys2Proof.Machine.execMaxD d a b ea eb s
  | .minuD d a b ea eb => Sys2Proof.Machine.execMinuD d a b ea eb s
  | .maxuD d a b ea eb => Sys2Proof.Machine.execMaxuD d a b ea eb s
  | .addwD d a b ea eb => Sys2Proof.Machine.execAddwD d a b ea eb s
  | .adduwD d a b ea eb => Sys2Proof.Machine.execAdduwD d a b ea eb s
  | .mulwD d a b ea eb => Sys2Proof.Machine.execMulwD d a b ea eb s
  | .muluwD d a b ea eb => Sys2Proof.Machine.execMuluwD d a b ea eb s
  | .mov d a ea => Sys2Proof.Machine.execMov d a ea s
  | .not d a ea => Sys2Proof.Machine.execNot d a ea s
  | .neg d a ea => Sys2Proof.Machine.execNeg d a ea s
  | .abs d a ea => Sys2Proof.Machine.execAbs d a ea s
  | .clz d a ea => Sys2Proof.Machine.execClz d a ea s
  | .ctz d a ea => Sys2Proof.Machine.execCtz d a ea s
  | .popc d a ea => Sys2Proof.Machine.execPopc d a ea s
  | .brev d a ea => Sys2Proof.Machine.execBrev d a ea s
  | .bswap d a ea => Sys2Proof.Machine.execBswap d a ea s
  | .sextb d a ea => Sys2Proof.Machine.execSextb d a ea s
  | .sexth d a ea => Sys2Proof.Machine.execSexth d a ea s
  | .zextb d a ea => Sys2Proof.Machine.execZextb d a ea s
  | .zexth d a ea => Sys2Proof.Machine.execZexth d a ea s
  | .movD d a ea => Sys2Proof.Machine.execMovD d a ea s
  | .clzD d a ea => Sys2Proof.Machine.execClzD d a ea s
  | .popcD d a ea => Sys2Proof.Machine.execPopcD d a ea s
  | .sextD d a ea => Sys2Proof.Machine.execSextD d a ea s
  | .zextD d a ea => Sys2Proof.Machine.execZextD d a ea s
  | .eq d a b ea eb => Sys2Proof.Machine.execEq d a b ea eb s
  | .ne d a b ea eb => Sys2Proof.Machine.execNe d a b ea eb s
  | .lt d a b ea eb => Sys2Proof.Machine.execLt d a b ea eb s
  | .le d a b ea eb => Sys2Proof.Machine.execLe d a b ea eb s
  | .ltu d a b ea eb => Sys2Proof.Machine.execLtu d a b ea eb s
  | .leu d a b ea eb => Sys2Proof.Machine.execLeu d a b ea eb s
  | .eqD d a b ea eb => Sys2Proof.Machine.execEqD d a b ea eb s
  | .neD d a b ea eb => Sys2Proof.Machine.execNeD d a b ea eb s
  | .ltD d a b ea eb => Sys2Proof.Machine.execLtD d a b ea eb s
  | .leD d a b ea eb => Sys2Proof.Machine.execLeD d a b ea eb s
  | .ltuD d a b ea eb => Sys2Proof.Machine.execLtuD d a b ea eb s
  | .leuD d a b ea eb => Sys2Proof.Machine.execLeuD d a b ea eb s
  | .tst d a b ea eb => Sys2Proof.Machine.execTst d a b ea eb s
  | .tstz d a b ea eb => Sys2Proof.Machine.execTstz d a b ea eb s
  | .sel d a b p n => Sys2Proof.Machine.execSel d a b p n s
  | .selD d a b p n => Sys2Proof.Machine.execSelD d a b p n s
  | .selY d a b p n => Sys2Proof.Machine.execSelY d a b p n s
  | .pand d a b => Sys2Proof.Machine.execPand d a b s
  | .por d a b => Sys2Proof.Machine.execPor d a b s
  | .pxor d a b => Sys2Proof.Machine.execPxor d a b s
  | .pandn d a b => Sys2Proof.Machine.execPandn d a b s
  | .pnot d a => Sys2Proof.Machine.execPnot d a s
  | .pmov d a => Sys2Proof.Machine.execPmov d a s
  | .p2w d => Sys2Proof.Machine.execP2w d s
  | .w2p a ea => Sys2Proof.Machine.execW2p a ea s
  | .pset d => Sys2Proof.Machine.execPset d s
  | .pclr d => Sys2Proof.Machine.execPclr d s
  | .addi d a ea i => Sys2Proof.Machine.execAddi d a ea i s
  | .andi d a ea i => Sys2Proof.Machine.execAndi d a ea i s
  | .ori d a ea i => Sys2Proof.Machine.execOri d a ea i s
  | .xori d a ea i => Sys2Proof.Machine.execXori d a ea i s
  | .shli d a ea n => Sys2Proof.Machine.execShli d a ea n s
  | .shri d a ea n => Sys2Proof.Machine.execShri d a ea n s
  | .sari d a ea n => Sys2Proof.Machine.execSari d a ea n s
  | .rotli d a ea n => Sys2Proof.Machine.execRotli d a ea n s
  | .shliD d a ea n => Sys2Proof.Machine.execShliD d a ea n s
  | .shriD d a ea n => Sys2Proof.Machine.execShriD d a ea n s
  | .sariD d a ea n => Sys2Proof.Machine.execSariD d a ea n s
  | .rotliD d a ea n => Sys2Proof.Machine.execRotliD d a ea n s
  | .cmpiEq d a ea i => Sys2Proof.Machine.execCmpiEq d a ea i s
  | .cmpiNe d a ea i => Sys2Proof.Machine.execCmpiNe d a ea i s
  | .cmpiLt d a ea i => Sys2Proof.Machine.execCmpiLt d a ea i s
  | .cmpiLe d a ea i => Sys2Proof.Machine.execCmpiLe d a ea i s
  | .cmpiLtu d a ea i => Sys2Proof.Machine.execCmpiLtu d a ea i s
  | .cmpiLeu d a ea i => Sys2Proof.Machine.execCmpiLeu d a ea i s
  | .cmpiGt d a ea i => Sys2Proof.Machine.execCmpiGt d a ea i s
  | .cmpiGe d a ea i => Sys2Proof.Machine.execCmpiGe d a ea i s
  | .li d i => Sys2Proof.Machine.execLi d i s
  | .lih d i => Sys2Proof.Machine.execLih d i s
  | .ldB t a ea o => Sys2Proof.Machine.execLdB t a ea o s
  | .ldBs t a ea o => Sys2Proof.Machine.execLdBs t a ea o s
  | .ldH t a ea o => Sys2Proof.Machine.execLdH t a ea o s
  | .ldHs t a ea o => Sys2Proof.Machine.execLdHs t a ea o s
  | .ldW t a ea o => Sys2Proof.Machine.execLdW t a ea o s
  | .ldD t a ea o => Sys2Proof.Machine.execLdD t a ea o s
  | .ldQ t a ea o => Sys2Proof.Machine.execLdQ t a ea o s
  | .stB t a ea o => Sys2Proof.Machine.execStB t a ea o s
  | .stH t a ea o => Sys2Proof.Machine.execStH t a ea o s
  | .stW t a ea o => Sys2Proof.Machine.execStW t a ea o s
  | .stD t a ea o => Sys2Proof.Machine.execStD t a ea o s
  | .stQ t a ea o => Sys2Proof.Machine.execStQ t a ea o s
  | .ldsB t a ea o => Sys2Proof.Machine.execLdsB t a ea o s
  | .ldsBs t a ea o => Sys2Proof.Machine.execLdsBs t a ea o s
  | .ldsH t a ea o => Sys2Proof.Machine.execLdsH t a ea o s
  | .ldsHs t a ea o => Sys2Proof.Machine.execLdsHs t a ea o s
  | .ldsW t a ea o => Sys2Proof.Machine.execLdsW t a ea o s
  | .ldsD t a ea o => Sys2Proof.Machine.execLdsD t a ea o s
  | .ldsQ t a ea o => Sys2Proof.Machine.execLdsQ t a ea o s
  | .stsB t a ea o => Sys2Proof.Machine.execStsB t a ea o s
  | .stsH t a ea o => Sys2Proof.Machine.execStsH t a ea o s
  | .stsW t a ea o => Sys2Proof.Machine.execStsW t a ea o s
  | .stsD t a ea o => Sys2Proof.Machine.execStsD t a ea o s
  | .stsQ t a ea o => Sys2Proof.Machine.execStsQ t a ea o s
  | .ldy t a ea k o => Sys2Proof.Machine.execLdy t a ea k o s
  | .sty t a ea k o => Sys2Proof.Machine.execSty t a ea k o s
  | .ldcFp32 t a ea o => Sys2Proof.Machine.execLdcFp32 t a ea o s
  | .ldcBf16 t a ea o => Sys2Proof.Machine.execLdcBf16 t a ea o s
  | .ldcFp16 t a ea o => Sys2Proof.Machine.execLdcFp16 t a ea o s
  | .ldcE4m3 t a ea o => Sys2Proof.Machine.execLdcE4m3 t a ea o s
  | .ldcE5m2 t a ea o => Sys2Proof.Machine.execLdcE5m2 t a ea o s
  | .ldcInt32 t a ea o => Sys2Proof.Machine.execLdcInt32 t a ea o s
  | .ldcUint32 t a ea o => Sys2Proof.Machine.execLdcUint32 t a ea o s
  | .ldcInt8 t a ea o => Sys2Proof.Machine.execLdcInt8 t a ea o s
  | .ldcUint8 t a ea o => Sys2Proof.Machine.execLdcUint8 t a ea o s
  | .stcFp32 t a ea o => Sys2Proof.Machine.execStcFp32 t a ea o s
  | .stcBf16 t a ea o => Sys2Proof.Machine.execStcBf16 t a ea o s
  | .stcFp16 t a ea o => Sys2Proof.Machine.execStcFp16 t a ea o s
  | .stcE4m3 t a ea o => Sys2Proof.Machine.execStcE4m3 t a ea o s
  | .stcE5m2 t a ea o => Sys2Proof.Machine.execStcE5m2 t a ea o s
  | .stcInt32 t a ea o => Sys2Proof.Machine.execStcInt32 t a ea o s
  | .stcUint32 t a ea o => Sys2Proof.Machine.execStcUint32 t a ea o s
  | .stcInt8 t a ea o => Sys2Proof.Machine.execStcInt8 t a ea o s
  | .stcUint8 t a ea o => Sys2Proof.Machine.execStcUint8 t a ea o s
  | .ldf t a ea o => Sys2Proof.Machine.execLdf t a ea o s
  | .ldfCons t a ea o => Sys2Proof.Machine.execLdfCons t a ea o s
  | .stf t a ea o => Sys2Proof.Machine.execStf t a ea o s
  | .yadd d a b ea eb => Sys2Proof.Machine.execYadd d a b ea eb s
  | .ysub d a b ea eb => Sys2Proof.Machine.execYsub d a b ea eb s
  | .ymul d a b ea eb => Sys2Proof.Machine.execYmul d a b ea eb s
  | .ydiv d a b ea eb => Sys2Proof.Machine.execYdiv d a b ea eb s
  | .ymin d a b ea eb => Sys2Proof.Machine.execYmin d a b ea eb s
  | .ymax d a b ea eb => Sys2Proof.Machine.execYmax d a b ea eb s
  | .yminm d a b ea eb => Sys2Proof.Machine.execYminm d a b ea eb s
  | .ymaxm d a b ea eb => Sys2Proof.Machine.execYmaxm d a b ea eb s
  | .ycopysign d a b ea eb => Sys2Proof.Machine.execYcopysign d a b ea eb s
  | .yrem d a b ea eb => Sys2Proof.Machine.execYrem d a b ea eb s
  | .yscale d a b ea eb => Sys2Proof.Machine.execYscale d a b ea eb s
  | .yfma d a b ea eb => Sys2Proof.Machine.execYfma d a b ea eb s
  | .yfms d a b ea eb => Sys2Proof.Machine.execYfms d a b ea eb s
  | .yfnma d a b ea eb => Sys2Proof.Machine.execYfnma d a b ea eb s
  | .ymov d a ea => Sys2Proof.Machine.execYmov d a ea s
  | .yneg d a ea => Sys2Proof.Machine.execYneg d a ea s
  | .yabs d a ea => Sys2Proof.Machine.execYabs d a ea s
  | .ysqrt d a ea => Sys2Proof.Machine.execYsqrt d a ea s
  | .yrint d a ea => Sys2Proof.Machine.execYrint d a ea s
  | .ytrunc d a ea => Sys2Proof.Machine.execYtrunc d a ea s
  | .ylogb d a ea => Sys2Proof.Machine.execYlogb d a ea s
  | .yclass d a ea => Sys2Proof.Machine.execYclass d a ea s
  | .ysig d a ea => Sys2Proof.Machine.execYsig d a ea s
  | .ymant d a ea => Sys2Proof.Machine.execYmant d a ea s
  | .yrecip d a ea => Sys2Proof.Machine.execYrecip d a ea s
  | .yrsqrt d a ea => Sys2Proof.Machine.execYrsqrt d a ea s
  | .ycmpEq d a b ea eb => Sys2Proof.Machine.execYcmpEq d a b ea eb s
  | .ycmpLt d a b ea eb => Sys2Proof.Machine.execYcmpLt d a b ea eb s
  | .ycmpLe d a b ea eb => Sys2Proof.Machine.execYcmpLe d a b ea eb s
  | .ycmpUn d a b ea eb => Sys2Proof.Machine.execYcmpUn d a b ea eb s
  | .ycmpEqs d a b ea eb => Sys2Proof.Machine.execYcmpEqs d a b ea eb s
  | .ycmpLts d a b ea eb => Sys2Proof.Machine.execYcmpLts d a b ea eb s
  | .ycmpLes d a b ea eb => Sys2Proof.Machine.execYcmpLes d a b ea eb s
  | .ycvtYW d a ea => Sys2Proof.Machine.execYcvtYW d a ea s
  | .ycvtYUw d a ea => Sys2Proof.Machine.execYcvtYUw d a ea s
  | .ycvtYD d a ea => Sys2Proof.Machine.execYcvtYD d a ea s
  | .ycvtYUd d a ea => Sys2Proof.Machine.execYcvtYUd d a ea s
  | .ycvtWY d a ea => Sys2Proof.Machine.execYcvtWY d a ea s
  | .ycvtUwY d a ea => Sys2Proof.Machine.execYcvtUwY d a ea s
  | .ycvtDY d a ea => Sys2Proof.Machine.execYcvtDY d a ea s
  | .ycvtUdY d a ea => Sys2Proof.Machine.execYcvtUdY d a ea s
  | .setprc a => Sys2Proof.Machine.execSetprc a s
  | .getprc d => Sys2Proof.Machine.execGetprc d s
  | .setl a => Sys2Proof.Machine.execSetl a s
  | .setrm a => Sys2Proof.Machine.execSetrm a s
  | .getflags d => Sys2Proof.Machine.execGetflags d s
  | .clrflags a => Sys2Proof.Machine.execClrflags a s
  | .rnd d => Sys2Proof.Machine.execRnd d s
  | .br p n o => Sys2Proof.Machine.execBr p n o s
  | .bra o => Sys2Proof.Machine.execBra o s
  | .call p n o => Sys2Proof.Machine.execCall p n o s
  | .ret => Sys2Proof.Machine.execRet s
  | .callr a => Sys2Proof.Machine.execCallr a s
  | .jmpr a => Sys2Proof.Machine.execJmpr a s
  | .eret => Sys2Proof.Machine.execEret s
  | .enter d a i => Sys2Proof.Machine.execEnter d a i s
  | .loop d i => Sys2Proof.Machine.execLoop d i s
  | .mbr np p1 p2 p3 p4 n1 n2 n3 n4 off1 off2 off3 off4 => Sys2Proof.Machine.execMbr np p1 p2 p3 p4 n1 n2 n3 n4 off1 off2 off3 off4 s
  | .endFibre => Sys2Proof.Machine.execEndFibre s
  | .spawn d a b => Sys2Proof.Machine.execSpawn d a b s
  | .fid d => Sys2Proof.Machine.execFid d s
  | .cid d => Sys2Proof.Machine.execCid d s
  | .gid d => Sys2Proof.Machine.execGid d s
  | .stg d => Sys2Proof.Machine.execStg d s
  | .nid d => Sys2Proof.Machine.execNid d s
  | .yield h i => Sys2Proof.Machine.execYield h i s
  | .shfl d a b => Sys2Proof.Machine.execShfl d a b s
  | .shflXor d a b => Sys2Proof.Machine.execShflXor d a b s
  | .shflUp d a b => Sys2Proof.Machine.execShflUp d a b s
  | .shflDown d a b => Sys2Proof.Machine.execShflDown d a b s
  | .voteAny d a b => Sys2Proof.Machine.execVoteAny d a b s
  | .voteAll d a b => Sys2Proof.Machine.execVoteAll d a b s
  | .ballot d a b => Sys2Proof.Machine.execBallot d a b s
  | .reduxAdd d a b => Sys2Proof.Machine.execReduxAdd d a b s
  | .reduxMin d a b => Sys2Proof.Machine.execReduxMin d a b s
  | .reduxMax d a b => Sys2Proof.Machine.execReduxMax d a b s
  | .reduxYadd d a b => Sys2Proof.Machine.execReduxYadd d a b s
  | .matchLanes d a b => Sys2Proof.Machine.execMatchLanes d a b s
  | .present d b => Sys2Proof.Machine.execPresent d b s
  | .objInit d a b => Sys2Proof.Machine.execObjInit d a b s
  | .objPush d a b => Sys2Proof.Machine.execObjPush d a b s
  | .objPop d a b => Sys2Proof.Machine.execObjPop d a b s
  | .objEnq d a b => Sys2Proof.Machine.execObjEnq d a b s
  | .objDeq d a b => Sys2Proof.Machine.execObjDeq d a b s
  | .objAdd d a b => Sys2Proof.Machine.execObjAdd d a b s
  | .objArrive d a b => Sys2Proof.Machine.execObjArrive d a b s
  | .objPeek d a b => Sys2Proof.Machine.execObjPeek d a b s
  | .objHelp d a b => Sys2Proof.Machine.execObjHelp d a b s
  | .amoAdd d a b sc => Sys2Proof.Machine.execAmoAdd d a b sc s
  | .amoAnd d a b sc => Sys2Proof.Machine.execAmoAnd d a b sc s
  | .amoOr d a b sc => Sys2Proof.Machine.execAmoOr d a b sc s
  | .amoXor d a b sc => Sys2Proof.Machine.execAmoXor d a b sc s
  | .amoMin d a b sc => Sys2Proof.Machine.execAmoMin d a b sc s
  | .amoMax d a b sc => Sys2Proof.Machine.execAmoMax d a b sc s
  | .amoMinu d a b sc => Sys2Proof.Machine.execAmoMinu d a b sc s
  | .amoMaxu d a b sc => Sys2Proof.Machine.execAmoMaxu d a b sc s
  | .amoSwap d a b sc => Sys2Proof.Machine.execAmoSwap d a b sc s
  | .amoCas d a b sc => Sys2Proof.Machine.execAmoCas d a b sc s
  | .amoAddD d a b sc => Sys2Proof.Machine.execAmoAddD d a b sc s
  | .amoSwapD d a b sc => Sys2Proof.Machine.execAmoSwapD d a b sc s
  | .amoCasD d a b sc => Sys2Proof.Machine.execAmoCasD d a b sc s
  | .amoCasQ d a b sc => Sys2Proof.Machine.execAmoCasQ d a b sc s
  | .amoAddAr d a b sc => Sys2Proof.Machine.execAmoAddAr d a b sc s
  | .amoAndAr d a b sc => Sys2Proof.Machine.execAmoAndAr d a b sc s
  | .amoOrAr d a b sc => Sys2Proof.Machine.execAmoOrAr d a b sc s
  | .amoXorAr d a b sc => Sys2Proof.Machine.execAmoXorAr d a b sc s
  | .amoMinAr d a b sc => Sys2Proof.Machine.execAmoMinAr d a b sc s
  | .amoMaxAr d a b sc => Sys2Proof.Machine.execAmoMaxAr d a b sc s
  | .amoMinuAr d a b sc => Sys2Proof.Machine.execAmoMinuAr d a b sc s
  | .amoMaxuAr d a b sc => Sys2Proof.Machine.execAmoMaxuAr d a b sc s
  | .amoSwapAr d a b sc => Sys2Proof.Machine.execAmoSwapAr d a b sc s
  | .amoCasAr d a b sc => Sys2Proof.Machine.execAmoCasAr d a b sc s
  | .amoAddDAr d a b sc => Sys2Proof.Machine.execAmoAddDAr d a b sc s
  | .amoSwapDAr d a b sc => Sys2Proof.Machine.execAmoSwapDAr d a b sc s
  | .amoCasDAr d a b sc => Sys2Proof.Machine.execAmoCasDAr d a b sc s
  | .amoCasQAr d a b sc => Sys2Proof.Machine.execAmoCasQAr d a b sc s
  | .redAdd a b sc => Sys2Proof.Machine.execRedAdd a b sc s
  | .redAnd a b sc => Sys2Proof.Machine.execRedAnd a b sc s
  | .redOr a b sc => Sys2Proof.Machine.execRedOr a b sc s
  | .redXor a b sc => Sys2Proof.Machine.execRedXor a b sc s
  | .redMin a b sc => Sys2Proof.Machine.execRedMin a b sc s
  | .redMax a b sc => Sys2Proof.Machine.execRedMax a b sc s
  | .redFaddF32 a b sc => Sys2Proof.Machine.execRedFaddF32 a b sc s
  | .redFaddBf16 a b sc => Sys2Proof.Machine.execRedFaddBf16 a b sc s
  | .redAddD a b sc => Sys2Proof.Machine.execRedAddD a b sc s
  | .ldaW d a sc => Sys2Proof.Machine.execLdaW d a sc s
  | .ldaD d a sc => Sys2Proof.Machine.execLdaD d a sc s
  | .ldaB d a sc => Sys2Proof.Machine.execLdaB d a sc s
  | .strW a b sc => Sys2Proof.Machine.execStrW a b sc s
  | .strD a b sc => Sys2Proof.Machine.execStrD a b sc s
  | .strB a b sc => Sys2Proof.Machine.execStrB a b sc s
  | .fence sc k => Sys2Proof.Machine.execFence sc k s
  | .fenceAcq sc k => Sys2Proof.Machine.execFenceAcq sc k s
  | .fenceRel sc k => Sys2Proof.Machine.execFenceRel sc k s
  | .wbr a b sc => Sys2Proof.Machine.execWbr a b sc s
  | .invr a b sc => Sys2Proof.Machine.execInvr a b sc s
  | .pref a b sc => Sys2Proof.Machine.execPref a b sc s
  | .cpb d a b g => Sys2Proof.Machine.execCpb d a b g s
  | .cpw g => Sys2Proof.Machine.execCpw g s
  | .cpwLe a g => Sys2Proof.Machine.execCpwLe a g s
  | .cptG2s d a x => Sys2Proof.Machine.execCptG2s d a x s
  | .cptS2g d a x => Sys2Proof.Machine.execCptS2g d a x s
  | .cptS2gAtom d a x => Sys2Proof.Machine.execCptS2gAtom d a x s
  | .cptG2sCons d a x => Sys2Proof.Machine.execCptG2sCons d a x s
  | .cptG2g d a x => Sys2Proof.Machine.execCptG2g d a x s
  | .cptGather d a x => Sys2Proof.Machine.execCptGather d a x s
  | .cptCbk d a x => Sys2Proof.Machine.execCptCbk d a x s
  | .twait a x => Sys2Proof.Machine.execTwait a x s
  | .tread d x => Sys2Proof.Machine.execTread d x s
  | .tissued d x => Sys2Proof.Machine.execTissued d x s
  | .tstat d x => Sys2Proof.Machine.execTstat d x s
  | .shape d a => Sys2Proof.Machine.execShape d a s
  | .mmaBf16 d a b p k => Sys2Proof.Machine.execMmaBf16 d a b p k s
  | .mmaE4m3 d a b p k => Sys2Proof.Machine.execMmaE4m3 d a b p k s
  | .mmaE5m2 d a b p k => Sys2Proof.Machine.execMmaE5m2 d a b p k s
  | .mmaE4m3e5m2 d a b p k => Sys2Proof.Machine.execMmaE4m3e5m2 d a b p k s
  | .accZero d => Sys2Proof.Machine.execAccZero d s
  | .accChainB d a => Sys2Proof.Machine.execAccChainB d a s
  | .accChainE d => Sys2Proof.Machine.execAccChainE d s
  | .accSetprom a b => Sys2Proof.Machine.execAccSetprom a b s
  | .accStF32 d a => Sys2Proof.Machine.execAccStF32 d a s
  | .accStBf16 d a => Sys2Proof.Machine.execAccStBf16 d a s
  | .accLdF32 d a => Sys2Proof.Machine.execAccLdF32 d a s
  | .accFlush d => Sys2Proof.Machine.execAccFlush d s
  | .taskTnode d a => Sys2Proof.Machine.execTaskTnode d a s
  | .taskTdep a b => Sys2Proof.Machine.execTaskTdep a b s
  | .taskTsig a => Sys2Proof.Machine.execTaskTsig a s
  | .taskEnq a => Sys2Proof.Machine.execTaskEnq a s
  | .taskDeq d => Sys2Proof.Machine.execTaskDeq d s
  | .taskCont a b => Sys2Proof.Machine.execTaskCont a b s
  | .taskNself d => Sys2Proof.Machine.execTaskNself d s
  | .arenaAptr d a => Sys2Proof.Machine.execArenaAptr d a s
  | .arenaAinfo d a => Sys2Proof.Machine.execArenaAinfo d a s
  | .arenaCheck a b => Sys2Proof.Machine.execArenaCheck a b s
  | .gets d b => Sys2Proof.Machine.execGets d b s
  | .sets a b => Sys2Proof.Machine.execSets a b s
  | .trap b => Sys2Proof.Machine.execTrap b s
  | .brk => Sys2Proof.Machine.execBrk s
  | .nop => Sys2Proof.Machine.execNop s
  | .regroup core part => Sys2Proof.Machine.execRegroup core part s
  | .seniorForcedIssue core part => Sys2Proof.Machine.execSeniorForcedIssue core part s
  | .backoffExpiry who => Sys2Proof.Machine.execBackoffExpiry who s
  | .watchdog who => Sys2Proof.Machine.execWatchdog who s
  | .yResultDelivery who k => Sys2Proof.Machine.execYResultDelivery who k s
  | .reduxYaddResult who k => Sys2Proof.Machine.execReduxYaddResult who k s
  | .loadDataArrival who k => Sys2Proof.Machine.execLoadDataArrival who k s
  | .convertingLoadResolve who k => Sys2Proof.Machine.execConvertingLoadResolve who k s
  | .l1Eviction core line => Sys2Proof.Machine.execL1Eviction core line s
  | .homeArrival k => Sys2Proof.Machine.execHomeArrival k s
  | .flushMarkerAck k => Sys2Proof.Machine.execFlushMarkerAck k s
  | .walk who k => Sys2Proof.Machine.execWalk who k s
  | .walkRetry who k => Sys2Proof.Machine.execWalkRetry who k s
  | .memorySideFault who k => Sys2Proof.Machine.execMemorySideFault who k s
  | .pageFaultReport nid gid cid => Sys2Proof.Machine.execPageFaultReport nid gid cid s
  | .faultRecordWrite => Sys2Proof.Machine.execFaultRecordWrite s
  | .resume nid gid cid => Sys2Proof.Machine.execResume nid gid cid s
  | .fail nid gid cid => Sys2Proof.Machine.execFail nid gid cid s
  | .endCommand nid => Sys2Proof.Machine.execEndCommand nid s
  | .launchQueueTailWrite queue tail => Sys2Proof.Machine.execLaunchQueueTailWrite queue tail s
  | .nodeSpecAccept queue => Sys2Proof.Machine.execNodeSpecAccept queue s
  | .compareManifest mani spec => Sys2Proof.Machine.execCompareManifest mani spec s
  | .preemptGang nid gid => Sys2Proof.Machine.execPreemptGang nid gid s
  | .preemptCrew nid gid cid => Sys2Proof.Machine.execPreemptCrew nid gid cid s
  | .crewRestore nid gid cid => Sys2Proof.Machine.execCrewRestore nid gid cid s
  | .gangSwap nid gid => Sys2Proof.Machine.execGangSwap nid gid s
  | .gangPlacement nid gid => Sys2Proof.Machine.execGangPlacement nid gid s
  | .gangRestore nid gid => Sys2Proof.Machine.execGangRestore nid gid s
  | .gangRelease nid gid => Sys2Proof.Machine.execGangRelease nid gid s
  | .spawnedCrewStart nid gid cid => Sys2Proof.Machine.execSpawnedCrewStart nid gid cid s
  | .nodeCompletion nid => Sys2Proof.Machine.execNodeCompletion nid s
  | .arenaDrained slot => Sys2Proof.Machine.execArenaDrained slot s
  | .arenaBirth nid => Sys2Proof.Machine.execArenaBirth nid s
  | .dependenceSignal k => Sys2Proof.Machine.execDependenceSignal k s
  | .taskQueueRefill core => Sys2Proof.Machine.execTaskQueueRefill core s
  | .continuationResume nid k => Sys2Proof.Machine.execContinuationResume nid k s
  | .copyOpStart nid gid ctx => Sys2Proof.Machine.execCopyOpStart nid gid ctx s
  | .copyOpComplete nid gid ctx seq => Sys2Proof.Machine.execCopyOpComplete nid gid ctx seq s
  | .copyPageResume nid gid ctx seq => Sys2Proof.Machine.execCopyPageResume nid gid ctx seq s
  | .cpbLanding nid gid k => Sys2Proof.Machine.execCpbLanding nid gid k s
  | .matrixWordTake nid gid pick => Sys2Proof.Machine.execMatrixWordTake nid gid pick s
  | .objAnnounceStep who => Sys2Proof.Machine.execObjAnnounceStep who s
  | .objApplyStep who => Sys2Proof.Machine.execObjApplyStep who s
  | .objFinishStep who => Sys2Proof.Machine.execObjFinishStep who s
  | .objCollect who => Sys2Proof.Machine.execObjCollect who s
  | .redBatchApply nid => Sys2Proof.Machine.execRedBatchApply nid s
  | .flitCrcFail link sub => Sys2Proof.Machine.execFlitCrcFail link sub s
  | .dieSublinkRetrain link sub => Sys2Proof.Machine.execDieSublinkRetrain link sub s
  | .dieSublinkFail link sub => Sys2Proof.Machine.execDieSublinkFail link sub s
  | .networkPathRetrain peer path => Sys2Proof.Machine.execNetworkPathRetrain peer path s
  | .networkPathFail peer path => Sys2Proof.Machine.execNetworkPathFail peer path s
  | .transportResend peer path => Sys2Proof.Machine.execTransportResend peer path s
  | .peerPacketArrival peer offset op => Sys2Proof.Machine.execPeerPacketArrival peer offset op s
  | .walkInvalidate unit lo hi => Sys2Proof.Machine.execWalkInvalidate unit lo hi s
  | .setMassifCachePart die col mib => Sys2Proof.Machine.execSetMassifCachePart die col mib s
  | .setPower watts => Sys2Proof.Machine.execSetPower watts s
  | .firmwareUpdate engine digest signed => Sys2Proof.Machine.execFirmwareUpdate engine digest signed s
  | .substituteSpareCore logical physical => Sys2Proof.Machine.execSubstituteSpareCore logical physical s
  | .retireRecalibrate kind index => Sys2Proof.Machine.execRetireRecalibrate kind index s
  | .replacePort port rate => Sys2Proof.Machine.execReplacePort port rate s
  | .attestationRequest nonce => Sys2Proof.Machine.execAttestationRequest nonce s
  | .setDeviceId devId => Sys2Proof.Machine.execSetDeviceId devId s
  | .managementRegisterWrite reg value => Sys2Proof.Machine.execManagementRegisterWrite reg value s
  | .thermalTrip die col => Sys2Proof.Machine.execThermalTrip die col s
  | .scrub kind place uncorrectable => Sys2Proof.Machine.execScrub kind place uncorrectable s
  | .deviceReset => Sys2Proof.Machine.execDeviceReset s
  | .illegalInstruction level word => Sys2Proof.Machine.execIllegalInstruction level word s
  | .sensorReading die col temp valid => Sys2Proof.Machine.execSensorReading die col temp valid s
  | .sublinkReturnToService link sub => Sys2Proof.Machine.execSublinkReturnToService link sub s
  | .pathReturnToService peer path => Sys2Proof.Machine.execPathReturnToService peer path s
  | .hostMainbandAccess write ia len data => Sys2Proof.Machine.execHostMainbandAccess write ia len data s
  | .unitRetirement kind index => Sys2Proof.Machine.execUnitRetirement kind index s

end Sys2Proof.Machine
end

