-- ==== Sys2Proof/Machine/Agenda.lean ====
section
/-!
DEFINITION. The events that the device makes happen by itself, read off the state (95), one of which a step between two
clocks takes.
-/
namespace Sys2Proof.Machine

/-- What can come about for an access of a fibre. -/
noncomputable def Access.events (a : Access) (id : FibId) : List Instr :=
  match a.stage with
  | .issued => [.walk id a.ser]
  | .replay => [.walk id a.ser]
  | .busy _ _ => [.walkRetry id a.ser]
  | .faulted code _ _ => [if code = 0x40 then .pageFaultReport id.nid id.gid id.cid else .memorySideFault id a.ser]
  | _ => []

/-- What can come about for a value on its way. -/
noncomputable def Deliv.events (v : Deliv) (id : FibId) : List Instr :=
  match v.kind with
  | .load => [.loadDataArrival id v.ser]
  | .yop => [.yResultDelivery id v.ser]
  | .redux => [.reduxYaddResult id v.ser]
  | .conv _ => [.convertingLoadResolve id v.ser]

/-- What can come about for a running object instruction. -/
noncomputable def ObjRun.events (o : ObjRun) (id : FibId) : List Instr :=
  match o.mid, o.phase with
  | .idle, .announce => [.objAnnounceStep id]
  | .idle, .apply => [.objApplyStep id, .objFinishStep id, .objCollect id]
  | .idle, _ => []
  | .announcing _ _ _ _ _ _, _ => [.objAnnounceStep id]
  | .moving _ _, _ => [.objAnnounceStep id]
  | .applying _ _ _ _ _ _ _ _ _ _, _ => [.objApplyStep id]
  | .finishing _ _ _, _ => [.objFinishStep id]

/-- What can come about for a fibre. -/
noncomputable def Fibre.events (b : Fibre) : List Instr :=
  if b.life = .absent then []
  else
    (b.acc.flatMap fun a => a.events b.id) ++ (b.dlv.flatMap fun v => v.events b.id) ++
      (if b.backoff.isSome then [.backoffExpiry b.id] else []) ++
      (if b.met.isSome then [.pageFaultReport b.id.nid b.id.gid b.id.cid] else []) ++
      ((b.obj.map fun o => o.events b.id).getD [])

/-- What can come about for a copy in flight. -/
noncomputable def CpbOp.events (c : CpbOp) (g : Gang) (k : Nat) : List Instr :=
  match c.stage with
  | .faulted code _ _ =>
    [if code = 0x40 then .pageFaultReport c.who.nid c.who.gid c.who.cid else .memorySideFault c.who c.ser]
  | _ => [.cpbLanding g.nid g.gid k]

/-- What can come about for a gang, but for a swap. -/
noncomputable def State.gangEvents (s : State) (g : Gang) : List Instr :=
  let place : List Instr := match g.place with
    | .waiting => [.gangPlacement g.nid g.gid]
    | .saved _ _ => [.gangRestore g.nid g.gid]
    | .draining _ => [.gangRelease g.nid g.gid]
    | .resident _ => if g.leaving.isSome then [.preemptGang g.nid g.gid] else []
    | .ended => []
  place ++
    (g.crews.flatMap fun c =>
      (match c.state with
       | .starting _ _ => [Instr.spawnedCrewStart g.nid g.gid c.cid]
       | _ => []) ++ if c.place = .leaving then [.preemptCrew g.nid g.gid c.cid] else []) ++
    ((List.range g.cpbs.length).flatMap fun k => (g.cpbs[k]?.map fun c => c.events g k).getD []) ++
    ((List.range 8).flatMap fun x => (g.ctxAt x).ops.flatMap fun o =>
      [if o.started then .copyOpComplete g.nid g.gid x o.seq else .copyOpStart g.nid g.gid x]) ++
    (if g.matq.isEmpty then [] else [.matrixWordTake g.nid g.gid (Config.matrixPick s.turn)])

/-- What can come about for a node. -/
noncomputable def State.nodeEvents (s : State) (n : Node) : List Instr :=
  let nid := n.spec.nid
  let next : List Nat :=
    if n.spec.det then
      (List.range n.spec.mapC).map fun c => c + n.spec.mapC *
        ((s.gangsOf nid).filter fun g => g.cont == none && n.fixedCore g.gid == c).length
    else [n.placed]
  [.nodeCompletion nid] ++ (if n.state = .runnable ∧ !n.born then [.arenaBirth nid] else []) ++
    ((if n.placed < n.spec.gangs then next else []).map fun gid => .gangPlacement nid gid) ++
    (if n.spec.det then [.redBatchApply nid] else []) ++
    ((List.range n.conts.length).map fun k => .continuationResume nid k)

/-- What can come about for a core. -/
noncomputable def Core.events (c : Core) : List Instr :=
  [.taskQueueRefill c.num] ++ match c.spare with
    | some p => [.substituteSpareCore c.num p]
    | none => []

/-- Everything that the device may do by itself now, and what has no effect among it. -/
noncomputable def State.internal (s : State) : List Instr :=
  ((s.f :: s.fibres.filter fun x => x.id ≠ s.f.id).flatMap Fibre.events) ++
    ((List.range s.flight.length).flatMap fun k => [.homeArrival k, .flushMarkerAck k]) ++
    (s.allGangs.flatMap s.gangEvents) ++ (s.allNodes.flatMap s.nodeEvents) ++ (s.allCores.flatMap Core.events) ++
    ((s.arenas.filter fun x => x.2.state = .dying).map fun x => .arenaDrained x.1) ++
    ((List.range 8).map fun q => .nodeSpecAccept q) ++ (if s.signals.isEmpty then [] else [.dependenceSignal 0]) ++
    (if s.faultq.waiting.isEmpty then [] else [.faultRecordWrite]) ++
    (s.allGangs.map fun g => .gangSwap g.nid g.gid) ++
    ((List.range 32).map fun c => .thermalTrip (c / 8) (c % 8))

/-- The first of some events that changes the machine happens. -/
noncomputable def firstChange (s : State) : List Instr → State
  | [] => s
  | e :: rest =>
    match exec e s with
    | .next t => if t = s then firstChange s rest else t
    | _ => firstChange s rest

/-- One of the device's own events happens, if any can. -/
noncomputable def State.ownEvent (s : State) : State :=
  let l := s.internal
  let k := Config.choice s.turn % max 1 l.length
  firstChange s (l.drop k ++ l.take k)

end Sys2Proof.Machine
end

