-- ==== Sys2Proof/Machine/Place.lean ====
section
/-!
DEFINITION. A machine whose next step runs one given instruction: what a host's launch of a one-fibre node whose first packet
holds it leaves (log 46). The page of the image is mapped by the root table of stack 0.
-/
namespace Sys2Proof.Machine

/-- The VA, IA and frame of the packet. -/
def placedPacket : Nat := 0x1040

/-- The role whose engine words the word may be among (R170). -/
def placedRole (w : Nat) : Role :=
  let maj := w / 2 ^ 25 % 64
  if maj = 0x31 ∨ maj = 0x32 then .copy else if maj = 0x33 ∨ maj = 0x34 ∨ maj = 0x35 then .matrix else .vector

/-- The range register of the node: the first 2 MiB, mapped onto stack 0. -/
def placedRange : Range := ⟨true, true, true, true, 0, 0x1FFFFF, 0⟩

/-- The spec of the node. -/
def placedSpec (role : Role) : Spec :=
  { Node.none.spec with
    image := 0x1000, nid := 1, gangs := 1, stages := 1, roles := [role], crews := [1], lmask := 1#32, l1Units := 10
    regUnits := 8, ssh := 4, quota := 64, ydef := 65535, ranges := placedRange :: List.replicate 7 Range.off
    entry := BitVec.ofNat 64 placedPacket, mapC := 256 }

/-- The 16 bytes of the packet: the instruction's words first, then `nop`, and a tail of 0. -/
def placedBytes (nbits w : Nat) : List Byte :=
  leBytes 4 w ++ leBytes 4 (if nbits ≤ 32 then 0x70000004 else w / 2 ^ 32) ++
    leBytes 4 (if nbits ≤ 64 then 0x70000004 else w / 2 ^ 64) ++ leBytes 4 0

/-- The one fibre of the node. -/
def placedId : FibId := ⟨1, 0, 0, 0⟩

/-- A machine on which that node alone runs, about to fetch the packet. -/
def State.placeWord (s : State) (nbits w : Nat) : State :=
  let role := placedRole w
  let crew : Crew := { cid := 0, stg := 0, lanes := 1#32, ctx := 0, age := 0, state := .running, place := .here }
  { s with
    f := Fibre.fresh placedId 0 64 65535 (BitVec.ofNat 64 placedPacket) (List.replicate 8 0#32)
    g := { Gang.fresh 1 0 [role] with place := .resident 0, crews := [crew] }
    c := { Core.blank 0 with split := some (10, 8), nextAge := 1 }
    n := { Node.none with spec := placedSpec role, state := .running, born := true, placed := 1 }
    fibres := [], gangs := [], cores := [], nodes := [], flight := [], signals := []
    mem := (s.mem.writeBytes placedPacket (placedBytes nbits w)).writeBytes 0x200000 (leBytes 8 0x19)
    walkers := s.walkers.set 0 ⟨0x200000, []⟩
    off := false, agenda := [], turn := 0, issue := [placedId] }

end Sys2Proof.Machine
end

