-- ==== Sys2Proof/Machine/Step.lean ====
section
/-!
DEFINITION. One step of the device: an event that the outside makes happen, a clock of a partition, or an event of the
device's own.
-/
namespace Sys2Proof.Machine

/-- The machine after what a step did, at the next turn. -/
def nextTurn (turn : Nat) : Host.Outcome State Fault Refusal → Host.Outcome State Fault Refusal
  | .next t => .next { t with turn := turn + 1 }
  | x => x

/-- The core whose clock comes at a turn. -/
def turnCore (turn : Nat) : Nat := turn / 2 / 16 % 256
/-- The partition whose clock comes at a turn. -/
def turnPart (turn : Nat) : Nat := turn / 2 % 16

/-- One step: the head of the agenda; without one, on even turns the clock of the next partition, on odd turns an event of
the device's own (log 4). -/
noncomputable def step (s : State) : Host.Outcome State Fault Refusal :=
  match s.agenda with
  | e :: rest => nextTurn s.turn (exec e { s with agenda := rest })
  | [] =>
    if s.off then .fault .poweredDown
    else if s.turn % 2 = 0 then .next { s.partClock (turnCore s.turn) (turnPart s.turn) with turn := s.turn + 1 }
    else .next { s.ownEvent with turn := s.turn + 1 }

/-- The machine about to run the instruction whose bits are `w`, numbered as spec/opcode_table.json numbers them. -/
def State.withFetchWord (s : State) (nbits w : Nat) : State := s.placeWord nbits w

end Sys2Proof.Machine
end

