-- ==== Sys2Proof/Laws/Encode.lean ====
section
/-!
SUPPORT. The fields of an encoded word, format by format (03 R61), and what the decoder reads from a word of each major
opcode.
-/
namespace Sys2Proof

theorem b1_false : b1 false = 0#1 := rfl

theorem bit_of_index {w : Nat} (x : BitVec w) (i j : Nat) (hj : j < w) (h : i = j) : x.getLsbD i = x[j] := by
  subst h; exact BitVec.getLsbD_eq_getElem hj

theorem f3_0_5 (c : Bool) (maj d a b : Fld) (ea eb : Bool) (fn : BitVec 5) :
    (b1 c ++ f3 maj d a b ea eb fn : Word).extractLsb' 0 5 = fn := by
  ext j hj
  rw [BitVec.getElem_extractLsb']
  simp only [f3, BitVec.getLsbD_append]
  repeat (first | rw [if_neg (by omega)] | rw [if_pos (by omega)])
  exact bit_of_index _ _ _ _ (by omega)

theorem f3_5_0 (c : Bool) (maj d a b : Fld) (ea eb : Bool) (fn : BitVec 5) :
    (b1 c ++ f3 maj d a b ea eb fn : Word).getLsbD 5 = eb := by
  simp only [f3, BitVec.getLsbD_append]
  repeat (first | rw [if_neg (by omega)] | rw [if_pos (by omega)])
  cases eb <;> rfl

theorem f3_5_1 (c : Bool) (maj d a b : Fld) (ea eb : Bool) (fn : BitVec 5) :
    (b1 c ++ f3 maj d a b ea eb fn : Word).extractLsb' 5 1 = b1 eb := by
  ext j hj
  rw [BitVec.getElem_extractLsb']
  simp only [f3, BitVec.getLsbD_append]
  repeat (first | rw [if_neg (by omega)] | rw [if_pos (by omega)])
  exact bit_of_index _ _ _ _ (by omega)

theorem f3_5_2 (c : Bool) (maj : Fld) (d : Fld) (a : Fld) (b : Fld) (fn : BitVec 5) :
    (b1 c ++ f3 maj d a b false false fn : Word).extractLsb' 5 2 = 0#2 := by
  ext j hj
  rw [BitVec.getElem_extractLsb']
  simp only [f3, BitVec.getLsbD_append]
  repeat' split
  all_goals first | omega | (simp; done) | simp [b1]

theorem f3_5_8 (c : Bool) (maj : Fld) (d : Fld) (a : Fld) (fn : BitVec 5) :
    (b1 c ++ f3 maj d a 0#6 false false fn : Word).extractLsb' 5 8 = 0#8 := by
  ext j hj
  rw [BitVec.getElem_extractLsb']
  simp only [f3, BitVec.getLsbD_append]
  repeat' split
  all_goals first | omega | (simp; done) | simp [b1]

theorem f3_5_14 (c : Bool) (maj : Fld) (d : Fld) (fn : BitVec 5) :
    (b1 c ++ f3 maj d 0#6 0#6 false false fn : Word).extractLsb' 5 14 = 0#14 := by
  ext j hj
  rw [BitVec.getElem_extractLsb']
  simp only [f3, BitVec.getLsbD_append]
  repeat' split
  all_goals first | omega | (simp; done) | simp [b1]

theorem f3_6_0 (c : Bool) (maj d a b : Fld) (ea eb : Bool) (fn : BitVec 5) :
    (b1 c ++ f3 maj d a b ea eb fn : Word).getLsbD 6 = ea := by
  simp only [f3, BitVec.getLsbD_append]
  repeat (first | rw [if_neg (by omega)] | rw [if_pos (by omega)])
  cases ea <;> rfl

theorem f3_7_6 (c : Bool) (maj d a b : Fld) (ea eb : Bool) (fn : BitVec 5) :
    (b1 c ++ f3 maj d a b ea eb fn : Word).extractLsb' 7 6 = b := by
  ext j hj
  rw [BitVec.getElem_extractLsb']
  simp only [f3, BitVec.getLsbD_append]
  repeat (first | rw [if_neg (by omega)] | rw [if_pos (by omega)])
  exact bit_of_index _ _ _ _ (by omega)

theorem f3_13_6 (c : Bool) (maj d a b : Fld) (ea eb : Bool) (fn : BitVec 5) :
    (b1 c ++ f3 maj d a b ea eb fn : Word).extractLsb' 13 6 = a := by
  ext j hj
  rw [BitVec.getElem_extractLsb']
  simp only [f3, BitVec.getLsbD_append]
  repeat (first | rw [if_neg (by omega)] | rw [if_pos (by omega)])
  exact bit_of_index _ _ _ _ (by omega)

theorem f3_19_6 (c : Bool) (maj d a b : Fld) (ea eb : Bool) (fn : BitVec 5) :
    (b1 c ++ f3 maj d a b ea eb fn : Word).extractLsb' 19 6 = d := by
  ext j hj
  rw [BitVec.getElem_extractLsb']
  simp only [f3, BitVec.getLsbD_append]
  repeat (first | rw [if_neg (by omega)] | rw [if_pos (by omega)])
  exact bit_of_index _ _ _ _ (by omega)

theorem f3_25_6 (c : Bool) (maj d a b : Fld) (ea eb : Bool) (fn : BitVec 5) :
    (b1 c ++ f3 maj d a b ea eb fn : Word).extractLsb' 25 6 = maj := by
  ext j hj
  rw [BitVec.getElem_extractLsb']
  simp only [f3, BitVec.getLsbD_append]
  repeat (first | rw [if_neg (by omega)] | rw [if_pos (by omega)])
  exact bit_of_index _ _ _ _ (by omega)

theorem fi_0_6 (c : Bool) (maj d a : Fld) (ea : Bool) (imm : BitVec 12) :
    (b1 c ++ fi maj d a ea imm : Word).extractLsb' 0 6 = imm.extractLsb' 0 6 := by
  ext j hj
  simp only [BitVec.getElem_extractLsb', fi, BitVec.getLsbD_append]
  repeat (first | rw [if_neg (by omega)] | rw [if_pos (by omega)])

theorem fi_0_9 (c : Bool) (maj d a : Fld) (ea : Bool) (imm : BitVec 12) :
    (b1 c ++ fi maj d a ea imm : Word).extractLsb' 0 9 = imm.extractLsb' 0 9 := by
  ext j hj
  simp only [BitVec.getElem_extractLsb', fi, BitVec.getLsbD_append]
  repeat (first | rw [if_neg (by omega)] | rw [if_pos (by omega)])

theorem fi_0_12 (c : Bool) (maj d a : Fld) (ea : Bool) (imm : BitVec 12) :
    (b1 c ++ fi maj d a ea imm : Word).extractLsb' 0 12 = imm := by
  ext j hj
  rw [BitVec.getElem_extractLsb']
  simp only [fi, BitVec.getLsbD_append]
  repeat (first | rw [if_neg (by omega)] | rw [if_pos (by omega)])
  exact bit_of_index _ _ _ _ (by omega)

theorem fi_6_3 (c : Bool) (maj d a : Fld) (ea : Bool) (imm : BitVec 12) :
    (b1 c ++ fi maj d a ea imm : Word).extractLsb' 6 3 = imm.extractLsb' 6 3 := by
  ext j hj
  simp only [BitVec.getElem_extractLsb', fi, BitVec.getLsbD_append]
  repeat (first | rw [if_neg (by omega)] | rw [if_pos (by omega)])

theorem fi_9_3 (c : Bool) (maj d a : Fld) (ea : Bool) (imm : BitVec 12) :
    (b1 c ++ fi maj d a ea imm : Word).extractLsb' 9 3 = imm.extractLsb' 9 3 := by
  ext j hj
  simp only [BitVec.getElem_extractLsb', fi, BitVec.getLsbD_append]
  repeat (first | rw [if_neg (by omega)] | rw [if_pos (by omega)])

theorem fi_12_0 (c : Bool) (maj d a : Fld) (ea : Bool) (imm : BitVec 12) :
    (b1 c ++ fi maj d a ea imm : Word).getLsbD 12 = ea := by
  simp only [fi, BitVec.getLsbD_append]
  repeat (first | rw [if_neg (by omega)] | rw [if_pos (by omega)])
  cases ea <;> rfl

theorem fi_12_1 (c : Bool) (maj d a : Fld) (ea : Bool) (imm : BitVec 12) :
    (b1 c ++ fi maj d a ea imm : Word).extractLsb' 12 1 = b1 ea := by
  ext j hj
  rw [BitVec.getElem_extractLsb']
  simp only [fi, BitVec.getLsbD_append]
  repeat (first | rw [if_neg (by omega)] | rw [if_pos (by omega)])
  exact bit_of_index _ _ _ _ (by omega)

theorem fi_13_6 (c : Bool) (maj d a : Fld) (ea : Bool) (imm : BitVec 12) :
    (b1 c ++ fi maj d a ea imm : Word).extractLsb' 13 6 = a := by
  ext j hj
  rw [BitVec.getElem_extractLsb']
  simp only [fi, BitVec.getLsbD_append]
  repeat (first | rw [if_neg (by omega)] | rw [if_pos (by omega)])
  exact bit_of_index _ _ _ _ (by omega)

theorem fi_19_6 (c : Bool) (maj d a : Fld) (ea : Bool) (imm : BitVec 12) :
    (b1 c ++ fi maj d a ea imm : Word).extractLsb' 19 6 = d := by
  ext j hj
  rw [BitVec.getElem_extractLsb']
  simp only [fi, BitVec.getLsbD_append]
  repeat (first | rw [if_neg (by omega)] | rw [if_pos (by omega)])
  exact bit_of_index _ _ _ _ (by omega)

theorem fi_25_6 (c : Bool) (maj d a : Fld) (ea : Bool) (imm : BitVec 12) :
    (b1 c ++ fi maj d a ea imm : Word).extractLsb' 25 6 = maj := by
  ext j hj
  rw [BitVec.getElem_extractLsb']
  simp only [fi, BitVec.getLsbD_append]
  repeat (first | rw [if_neg (by omega)] | rw [if_pos (by omega)])
  exact bit_of_index _ _ _ _ (by omega)

theorem fl_0_16 (c : Bool) (maj d : Fld) (imm : BitVec 19) :
    (b1 c ++ fl maj d imm : Word).extractLsb' 0 16 = imm.extractLsb' 0 16 := by
  ext j hj
  simp only [BitVec.getElem_extractLsb', fl, BitVec.getLsbD_append]
  repeat (first | rw [if_neg (by omega)] | rw [if_pos (by omega)])

theorem fl_0_19 (c : Bool) (maj d : Fld) (imm : BitVec 19) :
    (b1 c ++ fl maj d imm : Word).extractLsb' 0 19 = imm := by
  ext j hj
  rw [BitVec.getElem_extractLsb']
  simp only [fl, BitVec.getLsbD_append]
  repeat (first | rw [if_neg (by omega)] | rw [if_pos (by omega)])
  exact bit_of_index _ _ _ _ (by omega)

theorem fl_16_3 (c : Bool) (maj d : Fld) (imm : BitVec 19) :
    (b1 c ++ fl maj d imm : Word).extractLsb' 16 3 = imm.extractLsb' 16 3 := by
  ext j hj
  simp only [BitVec.getElem_extractLsb', fl, BitVec.getLsbD_append]
  repeat (first | rw [if_neg (by omega)] | rw [if_pos (by omega)])

theorem fl_19_6 (c : Bool) (maj d : Fld) (imm : BitVec 19) :
    (b1 c ++ fl maj d imm : Word).extractLsb' 19 6 = d := by
  ext j hj
  rw [BitVec.getElem_extractLsb']
  simp only [fl, BitVec.getLsbD_append]
  repeat (first | rw [if_neg (by omega)] | rw [if_pos (by omega)])
  exact bit_of_index _ _ _ _ (by omega)

theorem fl_25_6 (c : Bool) (maj d : Fld) (imm : BitVec 19) :
    (b1 c ++ fl maj d imm : Word).extractLsb' 25 6 = maj := by
  ext j hj
  rw [BitVec.getElem_extractLsb']
  simp only [fl, BitVec.getLsbD_append]
  repeat (first | rw [if_neg (by omega)] | rw [if_pos (by omega)])
  exact bit_of_index _ _ _ _ (by omega)

theorem fm_0_8 (c : Bool) (maj t a : Fld) (ea : Bool) (sz : BitVec 4) (off : BitVec 8) :
    (b1 c ++ fm maj t a ea sz off : Word).extractLsb' 0 8 = off := by
  ext j hj
  rw [BitVec.getElem_extractLsb']
  simp only [fm, BitVec.getLsbD_append]
  repeat (first | rw [if_neg (by omega)] | rw [if_pos (by omega)])
  exact bit_of_index _ _ _ _ (by omega)

theorem fm_8_4 (c : Bool) (maj t a : Fld) (ea : Bool) (sz : BitVec 4) (off : BitVec 8) :
    (b1 c ++ fm maj t a ea sz off : Word).extractLsb' 8 4 = sz := by
  ext j hj
  rw [BitVec.getElem_extractLsb']
  simp only [fm, BitVec.getLsbD_append]
  repeat (first | rw [if_neg (by omega)] | rw [if_pos (by omega)])
  exact bit_of_index _ _ _ _ (by omega)

theorem fm_12_0 (c : Bool) (maj t a : Fld) (ea : Bool) (sz : BitVec 4) (off : BitVec 8) :
    (b1 c ++ fm maj t a ea sz off : Word).getLsbD 12 = ea := by
  simp only [fm, BitVec.getLsbD_append]
  repeat (first | rw [if_neg (by omega)] | rw [if_pos (by omega)])
  cases ea <;> rfl

theorem fm_13_6 (c : Bool) (maj t a : Fld) (ea : Bool) (sz : BitVec 4) (off : BitVec 8) :
    (b1 c ++ fm maj t a ea sz off : Word).extractLsb' 13 6 = a := by
  ext j hj
  rw [BitVec.getElem_extractLsb']
  simp only [fm, BitVec.getLsbD_append]
  repeat (first | rw [if_neg (by omega)] | rw [if_pos (by omega)])
  exact bit_of_index _ _ _ _ (by omega)

theorem fm_19_6 (c : Bool) (maj t a : Fld) (ea : Bool) (sz : BitVec 4) (off : BitVec 8) :
    (b1 c ++ fm maj t a ea sz off : Word).extractLsb' 19 6 = t := by
  ext j hj
  rw [BitVec.getElem_extractLsb']
  simp only [fm, BitVec.getLsbD_append]
  repeat (first | rw [if_neg (by omega)] | rw [if_pos (by omega)])
  exact bit_of_index _ _ _ _ (by omega)

theorem fm_25_6 (c : Bool) (maj t a : Fld) (ea : Bool) (sz : BitVec 4) (off : BitVec 8) :
    (b1 c ++ fm maj t a ea sz off : Word).extractLsb' 25 6 = maj := by
  ext j hj
  rw [BitVec.getElem_extractLsb']
  simp only [fm, BitVec.getLsbD_append]
  repeat (first | rw [if_neg (by omega)] | rw [if_pos (by omega)])
  exact bit_of_index _ _ _ _ (by omega)

theorem fb_0_20 (c : Bool) (maj : Fld) (p : BitVec 4) (n : Bool) (off : BitVec 20) :
    (b1 c ++ fb maj p n off : Word).extractLsb' 0 20 = off := by
  ext j hj
  rw [BitVec.getElem_extractLsb']
  simp only [fb, BitVec.getLsbD_append]
  repeat (first | rw [if_neg (by omega)] | rw [if_pos (by omega)])
  exact bit_of_index _ _ _ _ (by omega)

theorem fb_20_0 (c : Bool) (maj : Fld) (p : BitVec 4) (n : Bool) (off : BitVec 20) :
    (b1 c ++ fb maj p n off : Word).getLsbD 20 = n := by
  simp only [fb, BitVec.getLsbD_append]
  repeat (first | rw [if_neg (by omega)] | rw [if_pos (by omega)])
  cases n <;> rfl

theorem fb_21_4 (c : Bool) (maj : Fld) (p : BitVec 4) (n : Bool) (off : BitVec 20) :
    (b1 c ++ fb maj p n off : Word).extractLsb' 21 4 = p := by
  ext j hj
  rw [BitVec.getElem_extractLsb']
  simp only [fb, BitVec.getLsbD_append]
  repeat (first | rw [if_neg (by omega)] | rw [if_pos (by omega)])
  exact bit_of_index _ _ _ _ (by omega)

theorem fb_25_6 (c : Bool) (maj : Fld) (p : BitVec 4) (n : Bool) (off : BitVec 20) :
    (b1 c ++ fb maj p n off : Word).extractLsb' 25 6 = maj := by
  ext j hj
  rw [BitVec.getElem_extractLsb']
  simp only [fb, BitVec.getLsbD_append]
  repeat (first | rw [if_neg (by omega)] | rw [if_pos (by omega)])
  exact bit_of_index _ _ _ _ (by omega)

theorem fs_0_2 (c : Bool) (maj d a b : Fld) (p : BitVec 4) (n : Bool) (fn : BitVec 2) :
    (b1 c ++ fs maj d a b p n fn : Word).extractLsb' 0 2 = fn := by
  ext j hj
  rw [BitVec.getElem_extractLsb']
  simp only [fs, BitVec.getLsbD_append]
  repeat (first | rw [if_neg (by omega)] | rw [if_pos (by omega)])
  exact bit_of_index _ _ _ _ (by omega)

theorem fs_2_0 (c : Bool) (maj d a b : Fld) (p : BitVec 4) (n : Bool) (fn : BitVec 2) :
    (b1 c ++ fs maj d a b p n fn : Word).getLsbD 2 = n := by
  simp only [fs, BitVec.getLsbD_append]
  repeat (first | rw [if_neg (by omega)] | rw [if_pos (by omega)])
  cases n <;> rfl

theorem fs_3_4 (c : Bool) (maj d a b : Fld) (p : BitVec 4) (n : Bool) (fn : BitVec 2) :
    (b1 c ++ fs maj d a b p n fn : Word).extractLsb' 3 4 = p := by
  ext j hj
  rw [BitVec.getElem_extractLsb']
  simp only [fs, BitVec.getLsbD_append]
  repeat (first | rw [if_neg (by omega)] | rw [if_pos (by omega)])
  exact bit_of_index _ _ _ _ (by omega)

theorem fs_7_6 (c : Bool) (maj d a b : Fld) (p : BitVec 4) (n : Bool) (fn : BitVec 2) :
    (b1 c ++ fs maj d a b p n fn : Word).extractLsb' 7 6 = b := by
  ext j hj
  rw [BitVec.getElem_extractLsb']
  simp only [fs, BitVec.getLsbD_append]
  repeat (first | rw [if_neg (by omega)] | rw [if_pos (by omega)])
  exact bit_of_index _ _ _ _ (by omega)

theorem fs_13_6 (c : Bool) (maj d a b : Fld) (p : BitVec 4) (n : Bool) (fn : BitVec 2) :
    (b1 c ++ fs maj d a b p n fn : Word).extractLsb' 13 6 = a := by
  ext j hj
  rw [BitVec.getElem_extractLsb']
  simp only [fs, BitVec.getLsbD_append]
  repeat (first | rw [if_neg (by omega)] | rw [if_pos (by omega)])
  exact bit_of_index _ _ _ _ (by omega)

theorem fs_19_6 (c : Bool) (maj d a b : Fld) (p : BitVec 4) (n : Bool) (fn : BitVec 2) :
    (b1 c ++ fs maj d a b p n fn : Word).extractLsb' 19 6 = d := by
  ext j hj
  rw [BitVec.getElem_extractLsb']
  simp only [fs, BitVec.getLsbD_append]
  repeat (first | rw [if_neg (by omega)] | rw [if_pos (by omega)])
  exact bit_of_index _ _ _ _ (by omega)

theorem fs_25_6 (c : Bool) (maj d a b : Fld) (p : BitVec 4) (n : Bool) (fn : BitVec 2) :
    (b1 c ++ fs maj d a b p n fn : Word).extractLsb' 25 6 = maj := by
  ext j hj
  rw [BitVec.getElem_extractLsb']
  simp only [fs, BitVec.getLsbD_append]
  repeat (first | rw [if_neg (by omega)] | rw [if_pos (by omega)])
  exact bit_of_index _ _ _ _ (by omega)

theorem fx_0_1 (c : Bool) (maj d a b : Fld) (xfn : BitVec 7) :
    (b1 c ++ fx maj d a b xfn : Word).extractLsb' 0 1 = xfn.extractLsb' 0 1 := by
  ext j hj
  simp only [BitVec.getElem_extractLsb', fx, BitVec.getLsbD_append]
  repeat (first | rw [if_neg (by omega)] | rw [if_pos (by omega)])

theorem fx_0_2 (c : Bool) (maj d a b : Fld) (xfn : BitVec 7) :
    (b1 c ++ fx maj d a b xfn : Word).extractLsb' 0 2 = xfn.extractLsb' 0 2 := by
  ext j hj
  simp only [BitVec.getElem_extractLsb', fx, BitVec.getLsbD_append]
  repeat (first | rw [if_neg (by omega)] | rw [if_pos (by omega)])

theorem fx_0_4 (c : Bool) (maj d a b : Fld) (xfn : BitVec 7) :
    (b1 c ++ fx maj d a b xfn : Word).extractLsb' 0 4 = xfn.extractLsb' 0 4 := by
  ext j hj
  simp only [BitVec.getElem_extractLsb', fx, BitVec.getLsbD_append]
  repeat (first | rw [if_neg (by omega)] | rw [if_pos (by omega)])

theorem fx_0_7 (c : Bool) (maj d a b : Fld) (xfn : BitVec 7) :
    (b1 c ++ fx maj d a b xfn : Word).extractLsb' 0 7 = xfn := by
  ext j hj
  rw [BitVec.getElem_extractLsb']
  simp only [fx, BitVec.getLsbD_append]
  repeat (first | rw [if_neg (by omega)] | rw [if_pos (by omega)])
  exact bit_of_index _ _ _ _ (by omega)

theorem fx_1_0 (c : Bool) (maj d a b : Fld) (xfn : BitVec 7) :
    (b1 c ++ fx maj d a b xfn : Word).getLsbD 1 = xfn.getLsbD 1 := by
  simp only [fx, BitVec.getLsbD_append]
  repeat (first | rw [if_neg (by omega)] | rw [if_pos (by omega)])

theorem fx_2_1 (c : Bool) (maj d a b : Fld) (xfn : BitVec 7) :
    (b1 c ++ fx maj d a b xfn : Word).extractLsb' 2 1 = xfn.extractLsb' 2 1 := by
  ext j hj
  simp only [BitVec.getElem_extractLsb', fx, BitVec.getLsbD_append]
  repeat (first | rw [if_neg (by omega)] | rw [if_pos (by omega)])

theorem fx_2_2 (c : Bool) (maj d a b : Fld) (xfn : BitVec 7) :
    (b1 c ++ fx maj d a b xfn : Word).extractLsb' 2 2 = xfn.extractLsb' 2 2 := by
  ext j hj
  simp only [BitVec.getElem_extractLsb', fx, BitVec.getLsbD_append]
  repeat (first | rw [if_neg (by omega)] | rw [if_pos (by omega)])

theorem fx_2_5 (c : Bool) (maj d a b : Fld) (xfn : BitVec 7) :
    (b1 c ++ fx maj d a b xfn : Word).extractLsb' 2 5 = xfn.extractLsb' 2 5 := by
  ext j hj
  simp only [BitVec.getElem_extractLsb', fx, BitVec.getLsbD_append]
  repeat (first | rw [if_neg (by omega)] | rw [if_pos (by omega)])

theorem fx_3_10 (c : Bool) (maj d a : Fld) (xfn : BitVec 7) (h : xfn.extractLsb' 3 4 = 0#4) :
    (b1 c ++ fx maj d a 0#6 xfn : Word).extractLsb' 3 10 = 0#10 := by
  have hx : ∀ i, 3 ≤ i → i < 7 → xfn.getLsbD i = false := by
    intro i h3 h7
    have := congrArg (fun v : BitVec 4 => v.getLsbD (i - 3)) h
    simpa [show 3 + (i - 3) = i by omega, show i - 3 < 4 by omega] using this
  ext j hj
  rw [BitVec.getElem_extractLsb']
  simp only [fx, BitVec.getLsbD_append]
  repeat' split
  all_goals first | omega | (simp; done) | (simp; exact hx _ (by omega) (by omega))

theorem fx_3_22 (c : Bool) (maj : Fld) (xfn : BitVec 7) (h : xfn.extractLsb' 3 4 = 0#4) :
    (b1 c ++ fx maj 0#6 0#6 0#6 xfn : Word).extractLsb' 3 22 = 0#22 := by
  have hx : ∀ i, 3 ≤ i → i < 7 → xfn.getLsbD i = false := by
    intro i h3 h7
    have := congrArg (fun v : BitVec 4 => v.getLsbD (i - 3)) h
    simpa [show 3 + (i - 3) = i by omega, show i - 3 < 4 by omega] using this
  ext j hj
  rw [BitVec.getElem_extractLsb']
  simp only [fx, BitVec.getLsbD_append]
  repeat' split
  all_goals first | omega | (simp; done) | (simp; exact hx _ (by omega) (by omega))

theorem fx_4_2 (c : Bool) (maj d a b : Fld) (xfn : BitVec 7) :
    (b1 c ++ fx maj d a b xfn : Word).extractLsb' 4 2 = xfn.extractLsb' 4 2 := by
  ext j hj
  simp only [BitVec.getElem_extractLsb', fx, BitVec.getLsbD_append]
  repeat (first | rw [if_neg (by omega)] | rw [if_pos (by omega)])

theorem fx_4_3 (c : Bool) (maj d a b : Fld) (xfn : BitVec 7) :
    (b1 c ++ fx maj d a b xfn : Word).extractLsb' 4 3 = xfn.extractLsb' 4 3 := by
  ext j hj
  simp only [BitVec.getElem_extractLsb', fx, BitVec.getLsbD_append]
  repeat (first | rw [if_neg (by omega)] | rw [if_pos (by omega)])

theorem fx_6_0 (c : Bool) (maj d a b : Fld) (xfn : BitVec 7) :
    (b1 c ++ fx maj d a b xfn : Word).getLsbD 6 = xfn.getLsbD 6 := by
  simp only [fx, BitVec.getLsbD_append]
  repeat (first | rw [if_neg (by omega)] | rw [if_pos (by omega)])

theorem fx_7_6 (c : Bool) (maj d a b : Fld) (xfn : BitVec 7) :
    (b1 c ++ fx maj d a b xfn : Word).extractLsb' 7 6 = b := by
  ext j hj
  rw [BitVec.getElem_extractLsb']
  simp only [fx, BitVec.getLsbD_append]
  repeat (first | rw [if_neg (by omega)] | rw [if_pos (by omega)])
  exact bit_of_index _ _ _ _ (by omega)

theorem fx_7_12 (c : Bool) (maj : Fld) (d : Fld) (xfn : BitVec 7) :
    (b1 c ++ fx maj d 0#6 0#6 xfn : Word).extractLsb' 7 12 = 0#12 := by
  ext j hj
  rw [BitVec.getElem_extractLsb']
  simp only [fx, BitVec.getLsbD_append]
  repeat' split
  all_goals first | omega | (simp; done) | simp [b1]

theorem fx_7_18 (c : Bool) (maj : Fld) (xfn : BitVec 7) :
    (b1 c ++ fx maj 0#6 0#6 0#6 xfn : Word).extractLsb' 7 18 = 0#18 := by
  ext j hj
  rw [BitVec.getElem_extractLsb']
  simp only [fx, BitVec.getLsbD_append]
  repeat' split
  all_goals first | omega | (simp; done) | simp [b1]

theorem fx_13_6 (c : Bool) (maj d a b : Fld) (xfn : BitVec 7) :
    (b1 c ++ fx maj d a b xfn : Word).extractLsb' 13 6 = a := by
  ext j hj
  rw [BitVec.getElem_extractLsb']
  simp only [fx, BitVec.getLsbD_append]
  repeat (first | rw [if_neg (by omega)] | rw [if_pos (by omega)])
  exact bit_of_index _ _ _ _ (by omega)

theorem fx_13_12 (c : Bool) (maj : Fld) (b : Fld) (xfn : BitVec 7) :
    (b1 c ++ fx maj 0#6 0#6 b xfn : Word).extractLsb' 13 12 = 0#12 := by
  ext j hj
  rw [BitVec.getElem_extractLsb']
  simp only [fx, BitVec.getLsbD_append]
  repeat' split
  all_goals first | omega | (simp; done) | simp [b1]

theorem fx_19_6 (c : Bool) (maj d a b : Fld) (xfn : BitVec 7) :
    (b1 c ++ fx maj d a b xfn : Word).extractLsb' 19 6 = d := by
  ext j hj
  rw [BitVec.getElem_extractLsb']
  simp only [fx, BitVec.getLsbD_append]
  repeat (first | rw [if_neg (by omega)] | rw [if_pos (by omega)])
  exact bit_of_index _ _ _ _ (by omega)

theorem fx_25_6 (c : Bool) (maj d a b : Fld) (xfn : BitVec 7) :
    (b1 c ++ fx maj d a b xfn : Word).extractLsb' 25 6 = maj := by
  ext j hj
  rw [BitVec.getElem_extractLsb']
  simp only [fx, BitVec.getLsbD_append]
  repeat (first | rw [if_neg (by omega)] | rw [if_pos (by omega)])
  exact bit_of_index _ _ _ _ (by omega)

theorem sh34_4_3 (x : BitVec 3) (y : BitVec 4) : BitVec.extractLsb' (n := 7) 4 3 (x ++ y) = x := by
  ext j hj
  simp only [BitVec.getElem_extractLsb', BitVec.getLsbD_append]
  repeat (first | rw [if_neg (by omega)] | rw [if_pos (by omega)])
  exact bit_of_index _ _ _ _ (by omega)

theorem sh34_0_4 (x : BitVec 3) (y : BitVec 4) : BitVec.extractLsb' (n := 7) 0 4 (x ++ y) = y := by
  ext j hj
  simp only [BitVec.getElem_extractLsb', BitVec.getLsbD_append]
  repeat (first | rw [if_neg (by omega)] | rw [if_pos (by omega)])
  exact bit_of_index _ _ _ _ (by omega)

theorem sh52_2_5 (x : BitVec 5) (y : BitVec 2) : BitVec.extractLsb' (n := 7) 2 5 (x ++ y) = x := by
  ext j hj
  simp only [BitVec.getElem_extractLsb', BitVec.getLsbD_append]
  repeat (first | rw [if_neg (by omega)] | rw [if_pos (by omega)])
  exact bit_of_index _ _ _ _ (by omega)

theorem sh52_0_2 (x : BitVec 5) (y : BitVec 2) : BitVec.extractLsb' (n := 7) 0 2 (x ++ y) = y := by
  ext j hj
  simp only [BitVec.getElem_extractLsb', BitVec.getLsbD_append]
  repeat (first | rw [if_neg (by omega)] | rw [if_pos (by omega)])
  exact bit_of_index _ _ _ _ (by omega)

theorem sh52_2_1 (x : BitVec 5) (y : BitVec 2) : BitVec.extractLsb' (n := 7) 2 1 (x ++ y) = x.extractLsb' 0 1 := by
  ext j hj
  simp only [BitVec.getElem_extractLsb', BitVec.getLsbD_append]
  repeat (first | rw [if_neg (by omega)] | rw [if_pos (by omega)])
  all_goals (congr 1; omega)

theorem sh52_3_4 (x : BitVec 5) (y : BitVec 2) : BitVec.extractLsb' (n := 7) 3 4 (x ++ y) = x.extractLsb' 1 4 := by
  ext j hj
  simp only [BitVec.getElem_extractLsb', BitVec.getLsbD_append]
  repeat (first | rw [if_neg (by omega)] | rw [if_pos (by omega)])
  all_goals (congr 1; omega)

theorem sh66_9_3 (x : BitVec 6) (y : BitVec 6) : BitVec.extractLsb' (n := 12) 9 3 (x ++ y) = x.extractLsb' 3 3 := by
  ext j hj
  simp only [BitVec.getElem_extractLsb', BitVec.getLsbD_append]
  repeat (first | rw [if_neg (by omega)] | rw [if_pos (by omega)])
  all_goals (congr 1; omega)

theorem sh66_6_3 (x : BitVec 6) (y : BitVec 6) : BitVec.extractLsb' (n := 12) 6 3 (x ++ y) = x.extractLsb' 0 3 := by
  ext j hj
  simp only [BitVec.getElem_extractLsb', BitVec.getLsbD_append]
  repeat (first | rw [if_neg (by omega)] | rw [if_pos (by omega)])
  all_goals (congr 1; omega)

theorem sh66_0_6 (x : BitVec 6) (y : BitVec 6) : BitVec.extractLsb' (n := 12) 0 6 (x ++ y) = y := by
  ext j hj
  simp only [BitVec.getElem_extractLsb', BitVec.getLsbD_append]
  repeat (first | rw [if_neg (by omega)] | rw [if_pos (by omega)])
  exact bit_of_index _ _ _ _ (by omega)

theorem sh39_9_3 (x : BitVec 3) (y : BitVec 9) : BitVec.extractLsb' (n := 12) 9 3 (x ++ y) = x := by
  ext j hj
  simp only [BitVec.getElem_extractLsb', BitVec.getLsbD_append]
  repeat (first | rw [if_neg (by omega)] | rw [if_pos (by omega)])
  exact bit_of_index _ _ _ _ (by omega)

theorem sh39_0_9 (x : BitVec 3) (y : BitVec 9) : BitVec.extractLsb' (n := 12) 0 9 (x ++ y) = y := by
  ext j hj
  simp only [BitVec.getElem_extractLsb', BitVec.getLsbD_append]
  repeat (first | rw [if_neg (by omega)] | rw [if_pos (by omega)])
  exact bit_of_index _ _ _ _ (by omega)

theorem sh316_16_3 (x : BitVec 3) (y : BitVec 16) : BitVec.extractLsb' (n := 19) 16 3 (x ++ y) = x := by
  ext j hj
  simp only [BitVec.getElem_extractLsb', BitVec.getLsbD_append]
  repeat (first | rw [if_neg (by omega)] | rw [if_pos (by omega)])
  exact bit_of_index _ _ _ _ (by omega)

theorem sh316_0_16 (x : BitVec 3) (y : BitVec 16) : BitVec.extractLsb' (n := 19) 0 16 (x ++ y) = y := by
  ext j hj
  simp only [BitVec.getElem_extractLsb', BitVec.getLsbD_append]
  repeat (first | rw [if_neg (by omega)] | rw [if_pos (by omega)])
  exact bit_of_index _ _ _ _ (by omega)

theorem shFence (s : BitVec 3) (v : BitVec 2) (k : Bool) :
    BitVec.extractLsb' (n := 7) 4 3 (s ++ v ++ b1 k ++ 0#1) = s ∧ BitVec.extractLsb' (n := 7) 2 2 (s ++ v ++ b1 k ++ 0#1) = v ∧
      BitVec.getLsbD (w := 7) (s ++ v ++ b1 k ++ 0#1) 1 = k ∧ BitVec.extractLsb' (n := 7) 0 1 (s ++ v ++ b1 k ++ 0#1) = 0#1 := by
  revert s v k; decide
theorem shMma (p : Bool) (v : BitVec 2) (k : BitVec 4) :
    BitVec.getLsbD (w := 7) (b1 p ++ v ++ k) 6 = p ∧ BitVec.extractLsb' (n := 7) 4 2 (b1 p ++ v ++ k) = v ∧
      BitVec.extractLsb' (n := 7) 0 4 (b1 p ++ v ++ k) = k := by
  revert p v k; decide

theorem decode_1 {w : Word} (h : w.extractLsb' 25 6 = 1#6) : decode w = decInt3 w := by
  unfold decode; rw [h]; rfl

theorem decode_2 {w : Word} (h : w.extractLsb' 25 6 = 2#6) : decode w = decInt64 w := by
  unfold decode; rw [h]; rfl

theorem decode_3 {w : Word} (h : w.extractLsb' 25 6 = 3#6) : decode w = decInt1 w := by
  unfold decode; rw [h]; rfl

theorem decode_4 {w : Word} (h : w.extractLsb' 25 6 = 4#6) : decode w = decCmp w := by
  unfold decode; rw [h]; rfl

theorem decode_5 {w : Word} (h : w.extractLsb' 25 6 = 5#6) : decode w = decSel w := by
  unfold decode; rw [h]; rfl

theorem decode_6 {w : Word} (h : w.extractLsb' 25 6 = 6#6) : decode w = decPlog w := by
  unfold decode; rw [h]; rfl

theorem decode_7 {w : Word} (h : w.extractLsb' 25 6 = 7#6) : decode w = decAddi w := by
  unfold decode; rw [h]; rfl

theorem decode_8 {w : Word} (h : w.extractLsb' 25 6 = 8#6) : decode w = decAndi w := by
  unfold decode; rw [h]; rfl

theorem decode_9 {w : Word} (h : w.extractLsb' 25 6 = 9#6) : decode w = decOri w := by
  unfold decode; rw [h]; rfl

theorem decode_10 {w : Word} (h : w.extractLsb' 25 6 = 10#6) : decode w = decXori w := by
  unfold decode; rw [h]; rfl

theorem decode_11 {w : Word} (h : w.extractLsb' 25 6 = 11#6) : decode w = decShifti w := by
  unfold decode; rw [h]; rfl

theorem decode_12 {w : Word} (h : w.extractLsb' 25 6 = 12#6) : decode w = decCmpi w := by
  unfold decode; rw [h]; rfl

theorem decode_13 {w : Word} (h : w.extractLsb' 25 6 = 13#6) : decode w = decLi w := by
  unfold decode; rw [h]; rfl

theorem decode_14 {w : Word} (h : w.extractLsb' 25 6 = 14#6) : decode w = decLih w := by
  unfold decode; rw [h]; rfl

theorem decode_15 {w : Word} (h : w.extractLsb' 25 6 = 15#6) : decode w = decLd w := by
  unfold decode; rw [h]; rfl

theorem decode_16 {w : Word} (h : w.extractLsb' 25 6 = 16#6) : decode w = decSt w := by
  unfold decode; rw [h]; rfl

theorem decode_17 {w : Word} (h : w.extractLsb' 25 6 = 17#6) : decode w = decLds w := by
  unfold decode; rw [h]; rfl

theorem decode_18 {w : Word} (h : w.extractLsb' 25 6 = 18#6) : decode w = decSts w := by
  unfold decode; rw [h]; rfl

theorem decode_19 {w : Word} (h : w.extractLsb' 25 6 = 19#6) : decode w = decLdy w := by
  unfold decode; rw [h]; rfl

theorem decode_20 {w : Word} (h : w.extractLsb' 25 6 = 20#6) : decode w = decSty w := by
  unfold decode; rw [h]; rfl

theorem decode_21 {w : Word} (h : w.extractLsb' 25 6 = 21#6) : decode w = decLdc w := by
  unfold decode; rw [h]; rfl

theorem decode_22 {w : Word} (h : w.extractLsb' 25 6 = 22#6) : decode w = decStc w := by
  unfold decode; rw [h]; rfl

theorem decode_23 {w : Word} (h : w.extractLsb' 25 6 = 23#6) : decode w = decYop3 w := by
  unfold decode; rw [h]; rfl

theorem decode_24 {w : Word} (h : w.extractLsb' 25 6 = 24#6) : decode w = decYop1 w := by
  unfold decode; rw [h]; rfl

theorem decode_25 {w : Word} (h : w.extractLsb' 25 6 = 25#6) : decode w = decYcmp w := by
  unfold decode; rw [h]; rfl

theorem decode_26 {w : Word} (h : w.extractLsb' 25 6 = 26#6) : decode w = decYcvt w := by
  unfold decode; rw [h]; rfl

theorem decode_27 {w : Word} (h : w.extractLsb' 25 6 = 27#6) : decode w = decPrc w := by
  unfold decode; rw [h]; rfl

theorem decode_28 {w : Word} (h : w.extractLsb' 25 6 = 28#6) : decode w = decBr w := by
  unfold decode; rw [h]; rfl

theorem decode_29 {w : Word} (h : w.extractLsb' 25 6 = 29#6) : decode w = decCall w := by
  unfold decode; rw [h]; rfl

theorem decode_30 {w : Word} (h : w.extractLsb' 25 6 = 30#6) : decode w = decJmpx w := by
  unfold decode; rw [h]; rfl

theorem decode_31 {w : Word} (h : w.extractLsb' 25 6 = 31#6) : decode w = decEnter w := by
  unfold decode; rw [h]; rfl

theorem decode_32 {w : Word} (h : w.extractLsb' 25 6 = 32#6) : decode w = decLoop w := by
  unfold decode; rw [h]; rfl

theorem decode_35 {w : Word} (h : w.extractLsb' 25 6 = 35#6) : decode w = decFibr w := by
  unfold decode; rw [h]; rfl

theorem decode_36 {w : Word} (h : w.extractLsb' 25 6 = 36#6) : decode w = decYield w := by
  unfold decode; rw [h]; rfl

theorem decode_37 {w : Word} (h : w.extractLsb' 25 6 = 37#6) : decode w = decColl w := by
  unfold decode; rw [h]; rfl

theorem decode_38 {w : Word} (h : w.extractLsb' 25 6 = 38#6) : decode w = decObj w := by
  unfold decode; rw [h]; rfl

theorem decode_39 {w : Word} (h : w.extractLsb' 25 6 = 39#6) : decode w = decAmo w := by
  unfold decode; rw [h]; rfl

theorem decode_40 {w : Word} (h : w.extractLsb' 25 6 = 40#6) : decode w = decAmoAr w := by
  unfold decode; rw [h]; rfl

theorem decode_41 {w : Word} (h : w.extractLsb' 25 6 = 41#6) : decode w = decRed w := by
  unfold decode; rw [h]; rfl

theorem decode_42 {w : Word} (h : w.extractLsb' 25 6 = 42#6) : decode w = decLdaStr w := by
  unfold decode; rw [h]; rfl

theorem decode_43 {w : Word} (h : w.extractLsb' 25 6 = 43#6) : decode w = decFence w := by
  unfold decode; rw [h]; rfl

theorem decode_44 {w : Word} (h : w.extractLsb' 25 6 = 44#6) : decode w = decCache w := by
  unfold decode; rw [h]; rfl

theorem decode_45 {w : Word} (h : w.extractLsb' 25 6 = 45#6) : decode w = decLdf w := by
  unfold decode; rw [h]; rfl

theorem decode_46 {w : Word} (h : w.extractLsb' 25 6 = 46#6) : decode w = decStf w := by
  unfold decode; rw [h]; rfl

theorem decode_47 {w : Word} (h : w.extractLsb' 25 6 = 47#6) : decode w = decCpb w := by
  unfold decode; rw [h]; rfl

theorem decode_48 {w : Word} (h : w.extractLsb' 25 6 = 48#6) : decode w = decCpw w := by
  unfold decode; rw [h]; rfl

theorem decode_49 {w : Word} (h : w.extractLsb' 25 6 = 49#6) : decode w = decCpt w := by
  unfold decode; rw [h]; rfl

theorem decode_50 {w : Word} (h : w.extractLsb' 25 6 = 50#6) : decode w = decTctr w := by
  unfold decode; rw [h]; rfl

theorem decode_51 {w : Word} (h : w.extractLsb' 25 6 = 51#6) : decode w = decShape w := by
  unfold decode; rw [h]; rfl

theorem decode_52 {w : Word} (h : w.extractLsb' 25 6 = 52#6) : decode w = decMma w := by
  unfold decode; rw [h]; rfl

theorem decode_53 {w : Word} (h : w.extractLsb' 25 6 = 53#6) : decode w = decAcc w := by
  unfold decode; rw [h]; rfl

theorem decode_54 {w : Word} (h : w.extractLsb' 25 6 = 54#6) : decode w = decTask w := by
  unfold decode; rw [h]; rfl

theorem decode_55 {w : Word} (h : w.extractLsb' 25 6 = 55#6) : decode w = decArena w := by
  unfold decode; rw [h]; rfl

theorem decode_56 {w : Word} (h : w.extractLsb' 25 6 = 56#6) : decode w = decSys w := by
  unfold decode; rw [h]; rfl

theorem m0_23 (np : BitVec 2) (p1 p2 p3 p4 : BitVec 4) (n1 n2 n3 n4 : Bool) :
    (1#1 ++ 0x21#6 ++ np ++ p1 ++ p2 ++ p3 ++ p4 ++ b1 n1 ++ b1 n2 ++ b1 n3 ++ b1 n4 ++ 0#3 : Word).extractLsb' 23 2 = np := by
  ext j hj
  rw [BitVec.getElem_extractLsb']
  simp only [BitVec.getLsbD_append]
  repeat (first | rw [if_neg (by omega)] | rw [if_pos (by omega)])
  exact bit_of_index _ _ _ _ (by omega)

theorem m0_19 (np : BitVec 2) (p1 p2 p3 p4 : BitVec 4) (n1 n2 n3 n4 : Bool) :
    (1#1 ++ 0x21#6 ++ np ++ p1 ++ p2 ++ p3 ++ p4 ++ b1 n1 ++ b1 n2 ++ b1 n3 ++ b1 n4 ++ 0#3 : Word).extractLsb' 19 4 = p1 := by
  ext j hj
  rw [BitVec.getElem_extractLsb']
  simp only [BitVec.getLsbD_append]
  repeat (first | rw [if_neg (by omega)] | rw [if_pos (by omega)])
  exact bit_of_index _ _ _ _ (by omega)

theorem m0_15 (np : BitVec 2) (p1 p2 p3 p4 : BitVec 4) (n1 n2 n3 n4 : Bool) :
    (1#1 ++ 0x21#6 ++ np ++ p1 ++ p2 ++ p3 ++ p4 ++ b1 n1 ++ b1 n2 ++ b1 n3 ++ b1 n4 ++ 0#3 : Word).extractLsb' 15 4 = p2 := by
  ext j hj
  rw [BitVec.getElem_extractLsb']
  simp only [BitVec.getLsbD_append]
  repeat (first | rw [if_neg (by omega)] | rw [if_pos (by omega)])
  exact bit_of_index _ _ _ _ (by omega)

theorem m0_11 (np : BitVec 2) (p1 p2 p3 p4 : BitVec 4) (n1 n2 n3 n4 : Bool) :
    (1#1 ++ 0x21#6 ++ np ++ p1 ++ p2 ++ p3 ++ p4 ++ b1 n1 ++ b1 n2 ++ b1 n3 ++ b1 n4 ++ 0#3 : Word).extractLsb' 11 4 = p3 := by
  ext j hj
  rw [BitVec.getElem_extractLsb']
  simp only [BitVec.getLsbD_append]
  repeat (first | rw [if_neg (by omega)] | rw [if_pos (by omega)])
  exact bit_of_index _ _ _ _ (by omega)

theorem m0_7 (np : BitVec 2) (p1 p2 p3 p4 : BitVec 4) (n1 n2 n3 n4 : Bool) :
    (1#1 ++ 0x21#6 ++ np ++ p1 ++ p2 ++ p3 ++ p4 ++ b1 n1 ++ b1 n2 ++ b1 n3 ++ b1 n4 ++ 0#3 : Word).extractLsb' 7 4 = p4 := by
  ext j hj
  rw [BitVec.getElem_extractLsb']
  simp only [BitVec.getLsbD_append]
  repeat (first | rw [if_neg (by omega)] | rw [if_pos (by omega)])
  exact bit_of_index _ _ _ _ (by omega)

theorem m0_25 (np : BitVec 2) (p1 p2 p3 p4 : BitVec 4) (n1 n2 n3 n4 : Bool) :
    (1#1 ++ 0x21#6 ++ np ++ p1 ++ p2 ++ p3 ++ p4 ++ b1 n1 ++ b1 n2 ++ b1 n3 ++ b1 n4 ++ 0#3 : Word).extractLsb' 25 6 = 0x21#6 := by
  ext j hj
  rw [BitVec.getElem_extractLsb']
  simp only [BitVec.getLsbD_append]
  repeat (first | rw [if_neg (by omega)] | rw [if_pos (by omega)])
  exact bit_of_index _ _ _ _ (by omega)

theorem m0_0 (np : BitVec 2) (p1 p2 p3 p4 : BitVec 4) (n1 n2 n3 n4 : Bool) :
    (1#1 ++ 0x21#6 ++ np ++ p1 ++ p2 ++ p3 ++ p4 ++ b1 n1 ++ b1 n2 ++ b1 n3 ++ b1 n4 ++ 0#3 : Word).extractLsb' 0 3 = 0#3 := by
  ext j hj
  rw [BitVec.getElem_extractLsb']
  simp only [BitVec.getLsbD_append]
  repeat (first | rw [if_neg (by omega)] | rw [if_pos (by omega)])
  exact bit_of_index _ _ _ _ (by omega)

theorem m0_6 (np : BitVec 2) (p1 p2 p3 p4 : BitVec 4) (n1 n2 n3 n4 : Bool) :
    (1#1 ++ 0x21#6 ++ np ++ p1 ++ p2 ++ p3 ++ p4 ++ b1 n1 ++ b1 n2 ++ b1 n3 ++ b1 n4 ++ 0#3 : Word).getLsbD 6 = n1 := by
  simp only [BitVec.getLsbD_append]
  repeat (first | rw [if_neg (by omega)] | rw [if_pos (by omega)])
  cases n1 <;> rfl

theorem m0_5 (np : BitVec 2) (p1 p2 p3 p4 : BitVec 4) (n1 n2 n3 n4 : Bool) :
    (1#1 ++ 0x21#6 ++ np ++ p1 ++ p2 ++ p3 ++ p4 ++ b1 n1 ++ b1 n2 ++ b1 n3 ++ b1 n4 ++ 0#3 : Word).getLsbD 5 = n2 := by
  simp only [BitVec.getLsbD_append]
  repeat (first | rw [if_neg (by omega)] | rw [if_pos (by omega)])
  cases n2 <;> rfl

theorem m0_4 (np : BitVec 2) (p1 p2 p3 p4 : BitVec 4) (n1 n2 n3 n4 : Bool) :
    (1#1 ++ 0x21#6 ++ np ++ p1 ++ p2 ++ p3 ++ p4 ++ b1 n1 ++ b1 n2 ++ b1 n3 ++ b1 n4 ++ 0#3 : Word).getLsbD 4 = n3 := by
  simp only [BitVec.getLsbD_append]
  repeat (first | rw [if_neg (by omega)] | rw [if_pos (by omega)])
  cases n3 <;> rfl

theorem m0_3 (np : BitVec 2) (p1 p2 p3 p4 : BitVec 4) (n1 n2 n3 n4 : Bool) :
    (1#1 ++ 0x21#6 ++ np ++ p1 ++ p2 ++ p3 ++ p4 ++ b1 n1 ++ b1 n2 ++ b1 n3 ++ b1 n4 ++ 0#3 : Word).getLsbD 3 = n4 := by
  simp only [BitVec.getLsbD_append]
  repeat (first | rw [if_neg (by omega)] | rw [if_pos (by omega)])
  cases n4 <;> rfl

theorem m0_31 (np : BitVec 2) (p1 p2 p3 p4 : BitVec 4) (n1 n2 n3 n4 : Bool) :
    (1#1 ++ 0x21#6 ++ np ++ p1 ++ p2 ++ p3 ++ p4 ++ b1 n1 ++ b1 n2 ++ b1 n3 ++ b1 n4 ++ 0#3 : Word).getLsbD 31 = true := by
  simp only [BitVec.getLsbD_append]
  repeat (first | rw [if_neg (by omega)] | rw [if_pos (by omega)])
  rfl

theorem m1_12 (c : BitVec 1) (oa ob : BitVec 12) :
    (c ++ 0x22#6 ++ 0#1 ++ oa ++ ob : Word).extractLsb' 12 12 = oa := by
  ext j hj
  rw [BitVec.getElem_extractLsb']
  simp only [BitVec.getLsbD_append]
  repeat (first | rw [if_neg (by omega)] | rw [if_pos (by omega)])
  exact bit_of_index _ _ _ _ (by omega)

theorem m1_0 (c : BitVec 1) (oa ob : BitVec 12) :
    (c ++ 0x22#6 ++ 0#1 ++ oa ++ ob : Word).extractLsb' 0 12 = ob := by
  ext j hj
  rw [BitVec.getElem_extractLsb']
  simp only [BitVec.getLsbD_append]
  repeat (first | rw [if_neg (by omega)] | rw [if_pos (by omega)])
  exact bit_of_index _ _ _ _ (by omega)

theorem m1_25 (c : BitVec 1) (oa ob : BitVec 12) :
    (c ++ 0x22#6 ++ 0#1 ++ oa ++ ob : Word).extractLsb' 25 6 = 0x22#6 := by
  ext j hj
  rw [BitVec.getElem_extractLsb']
  simp only [BitVec.getLsbD_append]
  repeat (first | rw [if_neg (by omega)] | rw [if_pos (by omega)])
  exact bit_of_index _ _ _ _ (by omega)

theorem m1_24 (c : BitVec 1) (oa ob : BitVec 12) :
    (c ++ 0x22#6 ++ 0#1 ++ oa ++ ob : Word).getLsbD 24 = false := by
  simp only [BitVec.getLsbD_append]
  repeat (first | rw [if_neg (by omega)] | rw [if_pos (by omega)])
  rfl

theorem m1_31 (c : BitVec 1) (oa ob : BitVec 12) :
    (c ++ 0x22#6 ++ 0#1 ++ oa ++ ob : Word).getLsbD 31 = c.getLsbD 0 := by
  simp only [BitVec.getLsbD_append]
  repeat (first | rw [if_neg (by omega)] | rw [if_pos (by omega)])
  

theorem decode_mbr (np : BitVec 2) (p1 p2 p3 p4 : BitVec 4) (n1 n2 n3 n4 : Bool) (o1 o2 o3 o4 : BitVec 12) :
    decodeWords (encodeMbr np p1 p2 p3 p4 n1 n2 n3 n4 o1 o2 o3 o4) =
      .ok (.mbr np p1 p2 p3 p4 n1 n2 n3 n4 o1 o2 o3 o4) := by
  show decodeMbr _ _ _ = _
  unfold decodeMbr
  rw [if_pos ⟨m0_25 .., m1_25 .., m1_25 .., m0_31 .., m1_31 .., m1_31 ..⟩, if_pos ⟨m0_0 .., m1_24 .., m1_24 ..⟩]
  rw [m0_23, m0_19, m0_15, m0_11, m0_7, m0_6, m0_5, m0_4, m0_3, m1_12, m1_0, m1_12, m1_0]

end Sys2Proof
end

