-- ==== Sys2Proof/Laws/PerInstr.lean ====
section
/-!
SUPPORT. Statements about every instruction, one lemma per constructor of `Instr`.
-/
namespace Sys2Proof.Laws.RoundTrip

/-- Decoding the words of a well-formed instruction gives that instruction, whatever its chain bit (03 R55, R60 to R70).
An event has no words. -/
def Statement (i : Instr) : Prop :=
  ∀ c : Bool, WellFormed i → codes c i ≠ [] → decodeWords (codes c i) = .ok i

/-- A constructor with one word: it is enough to decode the word. -/
theorem of_word {i : Instr} {w : Bool → Word} (h : ∀ c, codes c i = [w c])
    (d : ∀ c, WellFormed i → decode (w c) = .ok i) : Statement i := by
  intro c hw _
  rw [h c]
  exact d c hw

/-- An event. -/
theorem of_event {i : Instr} (h : ∀ c, codes c i = []) : Statement i := fun c _ hn => absurd (h c) hn

theorem add d a b ea eb : Statement (.add d a b ea eb) := by
  refine of_word (w := fun c => b1 c ++ f3 1#6 d a b ea eb 0#5) (fun _ => rfl) fun c hw => ?_
  rw [decode_1 (f3_25_6 ..)]
  simp [decInt3, f3_0_5, f3_5_0, f3_6_0, f3_7_6, f3_13_6, f3_19_6, -BitVec.getLsbD_eq_getElem]

theorem sub d a b ea eb : Statement (.sub d a b ea eb) := by
  refine of_word (w := fun c => b1 c ++ f3 1#6 d a b ea eb 1#5) (fun _ => rfl) fun c hw => ?_
  rw [decode_1 (f3_25_6 ..)]
  simp [decInt3, f3_0_5, f3_5_0, f3_6_0, f3_7_6, f3_13_6, f3_19_6, -BitVec.getLsbD_eq_getElem]

theorem mul d a b ea eb : Statement (.mul d a b ea eb) := by
  refine of_word (w := fun c => b1 c ++ f3 1#6 d a b ea eb 2#5) (fun _ => rfl) fun c hw => ?_
  rw [decode_1 (f3_25_6 ..)]
  simp [decInt3, f3_0_5, f3_5_0, f3_6_0, f3_7_6, f3_13_6, f3_19_6, -BitVec.getLsbD_eq_getElem]

theorem mulh d a b ea eb : Statement (.mulh d a b ea eb) := by
  refine of_word (w := fun c => b1 c ++ f3 1#6 d a b ea eb 3#5) (fun _ => rfl) fun c hw => ?_
  rw [decode_1 (f3_25_6 ..)]
  simp [decInt3, f3_0_5, f3_5_0, f3_6_0, f3_7_6, f3_13_6, f3_19_6, -BitVec.getLsbD_eq_getElem]

theorem mulhu d a b ea eb : Statement (.mulhu d a b ea eb) := by
  refine of_word (w := fun c => b1 c ++ f3 1#6 d a b ea eb 4#5) (fun _ => rfl) fun c hw => ?_
  rw [decode_1 (f3_25_6 ..)]
  simp [decInt3, f3_0_5, f3_5_0, f3_6_0, f3_7_6, f3_13_6, f3_19_6, -BitVec.getLsbD_eq_getElem]

theorem div d a b ea eb : Statement (.div d a b ea eb) := by
  refine of_word (w := fun c => b1 c ++ f3 1#6 d a b ea eb 5#5) (fun _ => rfl) fun c hw => ?_
  rw [decode_1 (f3_25_6 ..)]
  simp [decInt3, f3_0_5, f3_5_0, f3_6_0, f3_7_6, f3_13_6, f3_19_6, -BitVec.getLsbD_eq_getElem]

theorem divu d a b ea eb : Statement (.divu d a b ea eb) := by
  refine of_word (w := fun c => b1 c ++ f3 1#6 d a b ea eb 6#5) (fun _ => rfl) fun c hw => ?_
  rw [decode_1 (f3_25_6 ..)]
  simp [decInt3, f3_0_5, f3_5_0, f3_6_0, f3_7_6, f3_13_6, f3_19_6, -BitVec.getLsbD_eq_getElem]

theorem rem d a b ea eb : Statement (.rem d a b ea eb) := by
  refine of_word (w := fun c => b1 c ++ f3 1#6 d a b ea eb 7#5) (fun _ => rfl) fun c hw => ?_
  rw [decode_1 (f3_25_6 ..)]
  simp [decInt3, f3_0_5, f3_5_0, f3_6_0, f3_7_6, f3_13_6, f3_19_6, -BitVec.getLsbD_eq_getElem]

theorem remu d a b ea eb : Statement (.remu d a b ea eb) := by
  refine of_word (w := fun c => b1 c ++ f3 1#6 d a b ea eb 8#5) (fun _ => rfl) fun c hw => ?_
  rw [decode_1 (f3_25_6 ..)]
  simp [decInt3, f3_0_5, f3_5_0, f3_6_0, f3_7_6, f3_13_6, f3_19_6, -BitVec.getLsbD_eq_getElem]

theorem and d a b ea eb : Statement (.and d a b ea eb) := by
  refine of_word (w := fun c => b1 c ++ f3 1#6 d a b ea eb 9#5) (fun _ => rfl) fun c hw => ?_
  rw [decode_1 (f3_25_6 ..)]
  simp [decInt3, f3_0_5, f3_5_0, f3_6_0, f3_7_6, f3_13_6, f3_19_6, -BitVec.getLsbD_eq_getElem]

theorem or d a b ea eb : Statement (.or d a b ea eb) := by
  refine of_word (w := fun c => b1 c ++ f3 1#6 d a b ea eb 10#5) (fun _ => rfl) fun c hw => ?_
  rw [decode_1 (f3_25_6 ..)]
  simp [decInt3, f3_0_5, f3_5_0, f3_6_0, f3_7_6, f3_13_6, f3_19_6, -BitVec.getLsbD_eq_getElem]

theorem xor d a b ea eb : Statement (.xor d a b ea eb) := by
  refine of_word (w := fun c => b1 c ++ f3 1#6 d a b ea eb 11#5) (fun _ => rfl) fun c hw => ?_
  rw [decode_1 (f3_25_6 ..)]
  simp [decInt3, f3_0_5, f3_5_0, f3_6_0, f3_7_6, f3_13_6, f3_19_6, -BitVec.getLsbD_eq_getElem]

theorem andn d a b ea eb : Statement (.andn d a b ea eb) := by
  refine of_word (w := fun c => b1 c ++ f3 1#6 d a b ea eb 12#5) (fun _ => rfl) fun c hw => ?_
  rw [decode_1 (f3_25_6 ..)]
  simp [decInt3, f3_0_5, f3_5_0, f3_6_0, f3_7_6, f3_13_6, f3_19_6, -BitVec.getLsbD_eq_getElem]

theorem orn d a b ea eb : Statement (.orn d a b ea eb) := by
  refine of_word (w := fun c => b1 c ++ f3 1#6 d a b ea eb 13#5) (fun _ => rfl) fun c hw => ?_
  rw [decode_1 (f3_25_6 ..)]
  simp [decInt3, f3_0_5, f3_5_0, f3_6_0, f3_7_6, f3_13_6, f3_19_6, -BitVec.getLsbD_eq_getElem]

theorem shl d a b ea eb : Statement (.shl d a b ea eb) := by
  refine of_word (w := fun c => b1 c ++ f3 1#6 d a b ea eb 14#5) (fun _ => rfl) fun c hw => ?_
  rw [decode_1 (f3_25_6 ..)]
  simp [decInt3, f3_0_5, f3_5_0, f3_6_0, f3_7_6, f3_13_6, f3_19_6, -BitVec.getLsbD_eq_getElem]

theorem shr d a b ea eb : Statement (.shr d a b ea eb) := by
  refine of_word (w := fun c => b1 c ++ f3 1#6 d a b ea eb 15#5) (fun _ => rfl) fun c hw => ?_
  rw [decode_1 (f3_25_6 ..)]
  simp [decInt3, f3_0_5, f3_5_0, f3_6_0, f3_7_6, f3_13_6, f3_19_6, -BitVec.getLsbD_eq_getElem]

theorem sar d a b ea eb : Statement (.sar d a b ea eb) := by
  refine of_word (w := fun c => b1 c ++ f3 1#6 d a b ea eb 16#5) (fun _ => rfl) fun c hw => ?_
  rw [decode_1 (f3_25_6 ..)]
  simp [decInt3, f3_0_5, f3_5_0, f3_6_0, f3_7_6, f3_13_6, f3_19_6, -BitVec.getLsbD_eq_getElem]

theorem rotl d a b ea eb : Statement (.rotl d a b ea eb) := by
  refine of_word (w := fun c => b1 c ++ f3 1#6 d a b ea eb 17#5) (fun _ => rfl) fun c hw => ?_
  rw [decode_1 (f3_25_6 ..)]
  simp [decInt3, f3_0_5, f3_5_0, f3_6_0, f3_7_6, f3_13_6, f3_19_6, -BitVec.getLsbD_eq_getElem]

theorem min d a b ea eb : Statement (.min d a b ea eb) := by
  refine of_word (w := fun c => b1 c ++ f3 1#6 d a b ea eb 18#5) (fun _ => rfl) fun c hw => ?_
  rw [decode_1 (f3_25_6 ..)]
  simp [decInt3, f3_0_5, f3_5_0, f3_6_0, f3_7_6, f3_13_6, f3_19_6, -BitVec.getLsbD_eq_getElem]

theorem max d a b ea eb : Statement (.max d a b ea eb) := by
  refine of_word (w := fun c => b1 c ++ f3 1#6 d a b ea eb 19#5) (fun _ => rfl) fun c hw => ?_
  rw [decode_1 (f3_25_6 ..)]
  simp [decInt3, f3_0_5, f3_5_0, f3_6_0, f3_7_6, f3_13_6, f3_19_6, -BitVec.getLsbD_eq_getElem]

theorem minu d a b ea eb : Statement (.minu d a b ea eb) := by
  refine of_word (w := fun c => b1 c ++ f3 1#6 d a b ea eb 20#5) (fun _ => rfl) fun c hw => ?_
  rw [decode_1 (f3_25_6 ..)]
  simp [decInt3, f3_0_5, f3_5_0, f3_6_0, f3_7_6, f3_13_6, f3_19_6, -BitVec.getLsbD_eq_getElem]

theorem maxu d a b ea eb : Statement (.maxu d a b ea eb) := by
  refine of_word (w := fun c => b1 c ++ f3 1#6 d a b ea eb 21#5) (fun _ => rfl) fun c hw => ?_
  rw [decode_1 (f3_25_6 ..)]
  simp [decInt3, f3_0_5, f3_5_0, f3_6_0, f3_7_6, f3_13_6, f3_19_6, -BitVec.getLsbD_eq_getElem]

theorem adds d a b ea eb : Statement (.adds d a b ea eb) := by
  refine of_word (w := fun c => b1 c ++ f3 1#6 d a b ea eb 22#5) (fun _ => rfl) fun c hw => ?_
  rw [decode_1 (f3_25_6 ..)]
  simp [decInt3, f3_0_5, f3_5_0, f3_6_0, f3_7_6, f3_13_6, f3_19_6, -BitVec.getLsbD_eq_getElem]

theorem subs d a b ea eb : Statement (.subs d a b ea eb) := by
  refine of_word (w := fun c => b1 c ++ f3 1#6 d a b ea eb 23#5) (fun _ => rfl) fun c hw => ?_
  rw [decode_1 (f3_25_6 ..)]
  simp [decInt3, f3_0_5, f3_5_0, f3_6_0, f3_7_6, f3_13_6, f3_19_6, -BitVec.getLsbD_eq_getElem]

theorem addus d a b ea eb : Statement (.addus d a b ea eb) := by
  refine of_word (w := fun c => b1 c ++ f3 1#6 d a b ea eb 24#5) (fun _ => rfl) fun c hw => ?_
  rw [decode_1 (f3_25_6 ..)]
  simp [decInt3, f3_0_5, f3_5_0, f3_6_0, f3_7_6, f3_13_6, f3_19_6, -BitVec.getLsbD_eq_getElem]

theorem subus d a b ea eb : Statement (.subus d a b ea eb) := by
  refine of_word (w := fun c => b1 c ++ f3 1#6 d a b ea eb 25#5) (fun _ => rfl) fun c hw => ?_
  rw [decode_1 (f3_25_6 ..)]
  simp [decInt3, f3_0_5, f3_5_0, f3_6_0, f3_7_6, f3_13_6, f3_19_6, -BitVec.getLsbD_eq_getElem]

theorem lea1 d a b ea eb : Statement (.lea1 d a b ea eb) := by
  refine of_word (w := fun c => b1 c ++ f3 1#6 d a b ea eb 26#5) (fun _ => rfl) fun c hw => ?_
  rw [decode_1 (f3_25_6 ..)]
  simp [decInt3, f3_0_5, f3_5_0, f3_6_0, f3_7_6, f3_13_6, f3_19_6, -BitVec.getLsbD_eq_getElem]

theorem lea2 d a b ea eb : Statement (.lea2 d a b ea eb) := by
  refine of_word (w := fun c => b1 c ++ f3 1#6 d a b ea eb 27#5) (fun _ => rfl) fun c hw => ?_
  rw [decode_1 (f3_25_6 ..)]
  simp [decInt3, f3_0_5, f3_5_0, f3_6_0, f3_7_6, f3_13_6, f3_19_6, -BitVec.getLsbD_eq_getElem]

theorem lea3 d a b ea eb : Statement (.lea3 d a b ea eb) := by
  refine of_word (w := fun c => b1 c ++ f3 1#6 d a b ea eb 28#5) (fun _ => rfl) fun c hw => ?_
  rw [decode_1 (f3_25_6 ..)]
  simp [decInt3, f3_0_5, f3_5_0, f3_6_0, f3_7_6, f3_13_6, f3_19_6, -BitVec.getLsbD_eq_getElem]

theorem lea4 d a b ea eb : Statement (.lea4 d a b ea eb) := by
  refine of_word (w := fun c => b1 c ++ f3 1#6 d a b ea eb 29#5) (fun _ => rfl) fun c hw => ?_
  rw [decode_1 (f3_25_6 ..)]
  simp [decInt3, f3_0_5, f3_5_0, f3_6_0, f3_7_6, f3_13_6, f3_19_6, -BitVec.getLsbD_eq_getElem]

theorem addD d a b ea eb : Statement (.addD d a b ea eb) := by
  refine of_word (w := fun c => b1 c ++ f3 2#6 d a b ea eb 0#5) (fun _ => rfl) fun c hw => ?_
  rw [decode_2 (f3_25_6 ..)]
  simp [decInt64, f3_0_5, f3_5_0, f3_6_0, f3_7_6, f3_13_6, f3_19_6, -BitVec.getLsbD_eq_getElem]

theorem subD d a b ea eb : Statement (.subD d a b ea eb) := by
  refine of_word (w := fun c => b1 c ++ f3 2#6 d a b ea eb 1#5) (fun _ => rfl) fun c hw => ?_
  rw [decode_2 (f3_25_6 ..)]
  simp [decInt64, f3_0_5, f3_5_0, f3_6_0, f3_7_6, f3_13_6, f3_19_6, -BitVec.getLsbD_eq_getElem]

theorem mulD d a b ea eb : Statement (.mulD d a b ea eb) := by
  refine of_word (w := fun c => b1 c ++ f3 2#6 d a b ea eb 2#5) (fun _ => rfl) fun c hw => ?_
  rw [decode_2 (f3_25_6 ..)]
  simp [decInt64, f3_0_5, f3_5_0, f3_6_0, f3_7_6, f3_13_6, f3_19_6, -BitVec.getLsbD_eq_getElem]

theorem mulhD d a b ea eb : Statement (.mulhD d a b ea eb) := by
  refine of_word (w := fun c => b1 c ++ f3 2#6 d a b ea eb 3#5) (fun _ => rfl) fun c hw => ?_
  rw [decode_2 (f3_25_6 ..)]
  simp [decInt64, f3_0_5, f3_5_0, f3_6_0, f3_7_6, f3_13_6, f3_19_6, -BitVec.getLsbD_eq_getElem]

theorem mulhuD d a b ea eb : Statement (.mulhuD d a b ea eb) := by
  refine of_word (w := fun c => b1 c ++ f3 2#6 d a b ea eb 4#5) (fun _ => rfl) fun c hw => ?_
  rw [decode_2 (f3_25_6 ..)]
  simp [decInt64, f3_0_5, f3_5_0, f3_6_0, f3_7_6, f3_13_6, f3_19_6, -BitVec.getLsbD_eq_getElem]

theorem andD d a b ea eb : Statement (.andD d a b ea eb) := by
  refine of_word (w := fun c => b1 c ++ f3 2#6 d a b ea eb 5#5) (fun _ => rfl) fun c hw => ?_
  rw [decode_2 (f3_25_6 ..)]
  simp [decInt64, f3_0_5, f3_5_0, f3_6_0, f3_7_6, f3_13_6, f3_19_6, -BitVec.getLsbD_eq_getElem]

theorem orD d a b ea eb : Statement (.orD d a b ea eb) := by
  refine of_word (w := fun c => b1 c ++ f3 2#6 d a b ea eb 6#5) (fun _ => rfl) fun c hw => ?_
  rw [decode_2 (f3_25_6 ..)]
  simp [decInt64, f3_0_5, f3_5_0, f3_6_0, f3_7_6, f3_13_6, f3_19_6, -BitVec.getLsbD_eq_getElem]

theorem xorD d a b ea eb : Statement (.xorD d a b ea eb) := by
  refine of_word (w := fun c => b1 c ++ f3 2#6 d a b ea eb 7#5) (fun _ => rfl) fun c hw => ?_
  rw [decode_2 (f3_25_6 ..)]
  simp [decInt64, f3_0_5, f3_5_0, f3_6_0, f3_7_6, f3_13_6, f3_19_6, -BitVec.getLsbD_eq_getElem]

theorem shlD d a b ea eb : Statement (.shlD d a b ea eb) := by
  refine of_word (w := fun c => b1 c ++ f3 2#6 d a b ea eb 8#5) (fun _ => rfl) fun c hw => ?_
  rw [decode_2 (f3_25_6 ..)]
  simp [decInt64, f3_0_5, f3_5_0, f3_6_0, f3_7_6, f3_13_6, f3_19_6, -BitVec.getLsbD_eq_getElem]

theorem shrD d a b ea eb : Statement (.shrD d a b ea eb) := by
  refine of_word (w := fun c => b1 c ++ f3 2#6 d a b ea eb 9#5) (fun _ => rfl) fun c hw => ?_
  rw [decode_2 (f3_25_6 ..)]
  simp [decInt64, f3_0_5, f3_5_0, f3_6_0, f3_7_6, f3_13_6, f3_19_6, -BitVec.getLsbD_eq_getElem]

theorem sarD d a b ea eb : Statement (.sarD d a b ea eb) := by
  refine of_word (w := fun c => b1 c ++ f3 2#6 d a b ea eb 10#5) (fun _ => rfl) fun c hw => ?_
  rw [decode_2 (f3_25_6 ..)]
  simp [decInt64, f3_0_5, f3_5_0, f3_6_0, f3_7_6, f3_13_6, f3_19_6, -BitVec.getLsbD_eq_getElem]

theorem minD d a b ea eb : Statement (.minD d a b ea eb) := by
  refine of_word (w := fun c => b1 c ++ f3 2#6 d a b ea eb 11#5) (fun _ => rfl) fun c hw => ?_
  rw [decode_2 (f3_25_6 ..)]
  simp [decInt64, f3_0_5, f3_5_0, f3_6_0, f3_7_6, f3_13_6, f3_19_6, -BitVec.getLsbD_eq_getElem]

theorem maxD d a b ea eb : Statement (.maxD d a b ea eb) := by
  refine of_word (w := fun c => b1 c ++ f3 2#6 d a b ea eb 12#5) (fun _ => rfl) fun c hw => ?_
  rw [decode_2 (f3_25_6 ..)]
  simp [decInt64, f3_0_5, f3_5_0, f3_6_0, f3_7_6, f3_13_6, f3_19_6, -BitVec.getLsbD_eq_getElem]

theorem minuD d a b ea eb : Statement (.minuD d a b ea eb) := by
  refine of_word (w := fun c => b1 c ++ f3 2#6 d a b ea eb 13#5) (fun _ => rfl) fun c hw => ?_
  rw [decode_2 (f3_25_6 ..)]
  simp [decInt64, f3_0_5, f3_5_0, f3_6_0, f3_7_6, f3_13_6, f3_19_6, -BitVec.getLsbD_eq_getElem]

theorem maxuD d a b ea eb : Statement (.maxuD d a b ea eb) := by
  refine of_word (w := fun c => b1 c ++ f3 2#6 d a b ea eb 14#5) (fun _ => rfl) fun c hw => ?_
  rw [decode_2 (f3_25_6 ..)]
  simp [decInt64, f3_0_5, f3_5_0, f3_6_0, f3_7_6, f3_13_6, f3_19_6, -BitVec.getLsbD_eq_getElem]

theorem addwD d a b ea eb : Statement (.addwD d a b ea eb) := by
  refine of_word (w := fun c => b1 c ++ f3 2#6 d a b ea eb 15#5) (fun _ => rfl) fun c hw => ?_
  rw [decode_2 (f3_25_6 ..)]
  simp [decInt64, f3_0_5, f3_5_0, f3_6_0, f3_7_6, f3_13_6, f3_19_6, -BitVec.getLsbD_eq_getElem]

theorem adduwD d a b ea eb : Statement (.adduwD d a b ea eb) := by
  refine of_word (w := fun c => b1 c ++ f3 2#6 d a b ea eb 16#5) (fun _ => rfl) fun c hw => ?_
  rw [decode_2 (f3_25_6 ..)]
  simp [decInt64, f3_0_5, f3_5_0, f3_6_0, f3_7_6, f3_13_6, f3_19_6, -BitVec.getLsbD_eq_getElem]

theorem mulwD d a b ea eb : Statement (.mulwD d a b ea eb) := by
  refine of_word (w := fun c => b1 c ++ f3 2#6 d a b ea eb 17#5) (fun _ => rfl) fun c hw => ?_
  rw [decode_2 (f3_25_6 ..)]
  simp [decInt64, f3_0_5, f3_5_0, f3_6_0, f3_7_6, f3_13_6, f3_19_6, -BitVec.getLsbD_eq_getElem]

theorem muluwD d a b ea eb : Statement (.muluwD d a b ea eb) := by
  refine of_word (w := fun c => b1 c ++ f3 2#6 d a b ea eb 18#5) (fun _ => rfl) fun c hw => ?_
  rw [decode_2 (f3_25_6 ..)]
  simp [decInt64, f3_0_5, f3_5_0, f3_6_0, f3_7_6, f3_13_6, f3_19_6, -BitVec.getLsbD_eq_getElem]

theorem mov d a ea : Statement (.mov d a ea) := by
  refine of_word (w := fun c => b1 c ++ f3 3#6 d a 0#6 ea false 0#5) (fun _ => rfl) fun c hw => ?_
  rw [decode_3 (f3_25_6 ..)]
  simp [decInt1, f3_0_5, f3_5_1, f3_6_0, f3_7_6, f3_13_6, f3_19_6, b1_false, -BitVec.getLsbD_eq_getElem]

theorem not d a ea : Statement (.not d a ea) := by
  refine of_word (w := fun c => b1 c ++ f3 3#6 d a 0#6 ea false 1#5) (fun _ => rfl) fun c hw => ?_
  rw [decode_3 (f3_25_6 ..)]
  simp [decInt1, f3_0_5, f3_5_1, f3_6_0, f3_7_6, f3_13_6, f3_19_6, b1_false, -BitVec.getLsbD_eq_getElem]

theorem neg d a ea : Statement (.neg d a ea) := by
  refine of_word (w := fun c => b1 c ++ f3 3#6 d a 0#6 ea false 2#5) (fun _ => rfl) fun c hw => ?_
  rw [decode_3 (f3_25_6 ..)]
  simp [decInt1, f3_0_5, f3_5_1, f3_6_0, f3_7_6, f3_13_6, f3_19_6, b1_false, -BitVec.getLsbD_eq_getElem]

theorem abs d a ea : Statement (.abs d a ea) := by
  refine of_word (w := fun c => b1 c ++ f3 3#6 d a 0#6 ea false 3#5) (fun _ => rfl) fun c hw => ?_
  rw [decode_3 (f3_25_6 ..)]
  simp [decInt1, f3_0_5, f3_5_1, f3_6_0, f3_7_6, f3_13_6, f3_19_6, b1_false, -BitVec.getLsbD_eq_getElem]

theorem clz d a ea : Statement (.clz d a ea) := by
  refine of_word (w := fun c => b1 c ++ f3 3#6 d a 0#6 ea false 4#5) (fun _ => rfl) fun c hw => ?_
  rw [decode_3 (f3_25_6 ..)]
  simp [decInt1, f3_0_5, f3_5_1, f3_6_0, f3_7_6, f3_13_6, f3_19_6, b1_false, -BitVec.getLsbD_eq_getElem]

theorem ctz d a ea : Statement (.ctz d a ea) := by
  refine of_word (w := fun c => b1 c ++ f3 3#6 d a 0#6 ea false 5#5) (fun _ => rfl) fun c hw => ?_
  rw [decode_3 (f3_25_6 ..)]
  simp [decInt1, f3_0_5, f3_5_1, f3_6_0, f3_7_6, f3_13_6, f3_19_6, b1_false, -BitVec.getLsbD_eq_getElem]

theorem popc d a ea : Statement (.popc d a ea) := by
  refine of_word (w := fun c => b1 c ++ f3 3#6 d a 0#6 ea false 6#5) (fun _ => rfl) fun c hw => ?_
  rw [decode_3 (f3_25_6 ..)]
  simp [decInt1, f3_0_5, f3_5_1, f3_6_0, f3_7_6, f3_13_6, f3_19_6, b1_false, -BitVec.getLsbD_eq_getElem]

theorem brev d a ea : Statement (.brev d a ea) := by
  refine of_word (w := fun c => b1 c ++ f3 3#6 d a 0#6 ea false 7#5) (fun _ => rfl) fun c hw => ?_
  rw [decode_3 (f3_25_6 ..)]
  simp [decInt1, f3_0_5, f3_5_1, f3_6_0, f3_7_6, f3_13_6, f3_19_6, b1_false, -BitVec.getLsbD_eq_getElem]

theorem bswap d a ea : Statement (.bswap d a ea) := by
  refine of_word (w := fun c => b1 c ++ f3 3#6 d a 0#6 ea false 8#5) (fun _ => rfl) fun c hw => ?_
  rw [decode_3 (f3_25_6 ..)]
  simp [decInt1, f3_0_5, f3_5_1, f3_6_0, f3_7_6, f3_13_6, f3_19_6, b1_false, -BitVec.getLsbD_eq_getElem]

theorem sextb d a ea : Statement (.sextb d a ea) := by
  refine of_word (w := fun c => b1 c ++ f3 3#6 d a 0#6 ea false 9#5) (fun _ => rfl) fun c hw => ?_
  rw [decode_3 (f3_25_6 ..)]
  simp [decInt1, f3_0_5, f3_5_1, f3_6_0, f3_7_6, f3_13_6, f3_19_6, b1_false, -BitVec.getLsbD_eq_getElem]

theorem sexth d a ea : Statement (.sexth d a ea) := by
  refine of_word (w := fun c => b1 c ++ f3 3#6 d a 0#6 ea false 10#5) (fun _ => rfl) fun c hw => ?_
  rw [decode_3 (f3_25_6 ..)]
  simp [decInt1, f3_0_5, f3_5_1, f3_6_0, f3_7_6, f3_13_6, f3_19_6, b1_false, -BitVec.getLsbD_eq_getElem]

theorem zextb d a ea : Statement (.zextb d a ea) := by
  refine of_word (w := fun c => b1 c ++ f3 3#6 d a 0#6 ea false 11#5) (fun _ => rfl) fun c hw => ?_
  rw [decode_3 (f3_25_6 ..)]
  simp [decInt1, f3_0_5, f3_5_1, f3_6_0, f3_7_6, f3_13_6, f3_19_6, b1_false, -BitVec.getLsbD_eq_getElem]

theorem zexth d a ea : Statement (.zexth d a ea) := by
  refine of_word (w := fun c => b1 c ++ f3 3#6 d a 0#6 ea false 12#5) (fun _ => rfl) fun c hw => ?_
  rw [decode_3 (f3_25_6 ..)]
  simp [decInt1, f3_0_5, f3_5_1, f3_6_0, f3_7_6, f3_13_6, f3_19_6, b1_false, -BitVec.getLsbD_eq_getElem]

theorem movD d a ea : Statement (.movD d a ea) := by
  refine of_word (w := fun c => b1 c ++ f3 3#6 d a 0#6 ea false 13#5) (fun _ => rfl) fun c hw => ?_
  rw [decode_3 (f3_25_6 ..)]
  simp [decInt1, f3_0_5, f3_5_1, f3_6_0, f3_7_6, f3_13_6, f3_19_6, b1_false, -BitVec.getLsbD_eq_getElem]

theorem clzD d a ea : Statement (.clzD d a ea) := by
  refine of_word (w := fun c => b1 c ++ f3 3#6 d a 0#6 ea false 14#5) (fun _ => rfl) fun c hw => ?_
  rw [decode_3 (f3_25_6 ..)]
  simp [decInt1, f3_0_5, f3_5_1, f3_6_0, f3_7_6, f3_13_6, f3_19_6, b1_false, -BitVec.getLsbD_eq_getElem]

theorem popcD d a ea : Statement (.popcD d a ea) := by
  refine of_word (w := fun c => b1 c ++ f3 3#6 d a 0#6 ea false 15#5) (fun _ => rfl) fun c hw => ?_
  rw [decode_3 (f3_25_6 ..)]
  simp [decInt1, f3_0_5, f3_5_1, f3_6_0, f3_7_6, f3_13_6, f3_19_6, b1_false, -BitVec.getLsbD_eq_getElem]

theorem sextD d a ea : Statement (.sextD d a ea) := by
  refine of_word (w := fun c => b1 c ++ f3 3#6 d a 0#6 ea false 16#5) (fun _ => rfl) fun c hw => ?_
  rw [decode_3 (f3_25_6 ..)]
  simp [decInt1, f3_0_5, f3_5_1, f3_6_0, f3_7_6, f3_13_6, f3_19_6, b1_false, -BitVec.getLsbD_eq_getElem]

theorem zextD d a ea : Statement (.zextD d a ea) := by
  refine of_word (w := fun c => b1 c ++ f3 3#6 d a 0#6 ea false 17#5) (fun _ => rfl) fun c hw => ?_
  rw [decode_3 (f3_25_6 ..)]
  simp [decInt1, f3_0_5, f3_5_1, f3_6_0, f3_7_6, f3_13_6, f3_19_6, b1_false, -BitVec.getLsbD_eq_getElem]

theorem eq d a b ea eb : Statement (.eq d a b ea eb) := by
  refine of_word (w := fun c => b1 c ++ f3 4#6 d a b ea eb 0#5) (fun _ => rfl) fun c hw => ?_
  rw [decode_4 (f3_25_6 ..)]
  simp [decCmp, f3_0_5, f3_5_0, f3_6_0, f3_7_6, f3_13_6, f3_19_6, -BitVec.getLsbD_eq_getElem]

theorem ne d a b ea eb : Statement (.ne d a b ea eb) := by
  refine of_word (w := fun c => b1 c ++ f3 4#6 d a b ea eb 1#5) (fun _ => rfl) fun c hw => ?_
  rw [decode_4 (f3_25_6 ..)]
  simp [decCmp, f3_0_5, f3_5_0, f3_6_0, f3_7_6, f3_13_6, f3_19_6, -BitVec.getLsbD_eq_getElem]

theorem lt d a b ea eb : Statement (.lt d a b ea eb) := by
  refine of_word (w := fun c => b1 c ++ f3 4#6 d a b ea eb 2#5) (fun _ => rfl) fun c hw => ?_
  rw [decode_4 (f3_25_6 ..)]
  simp [decCmp, f3_0_5, f3_5_0, f3_6_0, f3_7_6, f3_13_6, f3_19_6, -BitVec.getLsbD_eq_getElem]

theorem le d a b ea eb : Statement (.le d a b ea eb) := by
  refine of_word (w := fun c => b1 c ++ f3 4#6 d a b ea eb 3#5) (fun _ => rfl) fun c hw => ?_
  rw [decode_4 (f3_25_6 ..)]
  simp [decCmp, f3_0_5, f3_5_0, f3_6_0, f3_7_6, f3_13_6, f3_19_6, -BitVec.getLsbD_eq_getElem]

theorem ltu d a b ea eb : Statement (.ltu d a b ea eb) := by
  refine of_word (w := fun c => b1 c ++ f3 4#6 d a b ea eb 4#5) (fun _ => rfl) fun c hw => ?_
  rw [decode_4 (f3_25_6 ..)]
  simp [decCmp, f3_0_5, f3_5_0, f3_6_0, f3_7_6, f3_13_6, f3_19_6, -BitVec.getLsbD_eq_getElem]

theorem leu d a b ea eb : Statement (.leu d a b ea eb) := by
  refine of_word (w := fun c => b1 c ++ f3 4#6 d a b ea eb 5#5) (fun _ => rfl) fun c hw => ?_
  rw [decode_4 (f3_25_6 ..)]
  simp [decCmp, f3_0_5, f3_5_0, f3_6_0, f3_7_6, f3_13_6, f3_19_6, -BitVec.getLsbD_eq_getElem]

theorem eqD d a b ea eb : Statement (.eqD d a b ea eb) := by
  refine of_word (w := fun c => b1 c ++ f3 4#6 d a b ea eb 6#5) (fun _ => rfl) fun c hw => ?_
  rw [decode_4 (f3_25_6 ..)]
  simp [decCmp, f3_0_5, f3_5_0, f3_6_0, f3_7_6, f3_13_6, f3_19_6, -BitVec.getLsbD_eq_getElem]

theorem neD d a b ea eb : Statement (.neD d a b ea eb) := by
  refine of_word (w := fun c => b1 c ++ f3 4#6 d a b ea eb 7#5) (fun _ => rfl) fun c hw => ?_
  rw [decode_4 (f3_25_6 ..)]
  simp [decCmp, f3_0_5, f3_5_0, f3_6_0, f3_7_6, f3_13_6, f3_19_6, -BitVec.getLsbD_eq_getElem]

theorem ltD d a b ea eb : Statement (.ltD d a b ea eb) := by
  refine of_word (w := fun c => b1 c ++ f3 4#6 d a b ea eb 8#5) (fun _ => rfl) fun c hw => ?_
  rw [decode_4 (f3_25_6 ..)]
  simp [decCmp, f3_0_5, f3_5_0, f3_6_0, f3_7_6, f3_13_6, f3_19_6, -BitVec.getLsbD_eq_getElem]

theorem leD d a b ea eb : Statement (.leD d a b ea eb) := by
  refine of_word (w := fun c => b1 c ++ f3 4#6 d a b ea eb 9#5) (fun _ => rfl) fun c hw => ?_
  rw [decode_4 (f3_25_6 ..)]
  simp [decCmp, f3_0_5, f3_5_0, f3_6_0, f3_7_6, f3_13_6, f3_19_6, -BitVec.getLsbD_eq_getElem]

theorem ltuD d a b ea eb : Statement (.ltuD d a b ea eb) := by
  refine of_word (w := fun c => b1 c ++ f3 4#6 d a b ea eb 10#5) (fun _ => rfl) fun c hw => ?_
  rw [decode_4 (f3_25_6 ..)]
  simp [decCmp, f3_0_5, f3_5_0, f3_6_0, f3_7_6, f3_13_6, f3_19_6, -BitVec.getLsbD_eq_getElem]

theorem leuD d a b ea eb : Statement (.leuD d a b ea eb) := by
  refine of_word (w := fun c => b1 c ++ f3 4#6 d a b ea eb 11#5) (fun _ => rfl) fun c hw => ?_
  rw [decode_4 (f3_25_6 ..)]
  simp [decCmp, f3_0_5, f3_5_0, f3_6_0, f3_7_6, f3_13_6, f3_19_6, -BitVec.getLsbD_eq_getElem]

theorem tst d a b ea eb : Statement (.tst d a b ea eb) := by
  refine of_word (w := fun c => b1 c ++ f3 4#6 d a b ea eb 12#5) (fun _ => rfl) fun c hw => ?_
  rw [decode_4 (f3_25_6 ..)]
  simp [decCmp, f3_0_5, f3_5_0, f3_6_0, f3_7_6, f3_13_6, f3_19_6, -BitVec.getLsbD_eq_getElem]

theorem tstz d a b ea eb : Statement (.tstz d a b ea eb) := by
  refine of_word (w := fun c => b1 c ++ f3 4#6 d a b ea eb 13#5) (fun _ => rfl) fun c hw => ?_
  rw [decode_4 (f3_25_6 ..)]
  simp [decCmp, f3_0_5, f3_5_0, f3_6_0, f3_7_6, f3_13_6, f3_19_6, -BitVec.getLsbD_eq_getElem]

theorem sel d a b p n : Statement (.sel d a b p n) := by
  refine of_word (w := fun c => b1 c ++ fs 5#6 d a b p n 0#2) (fun _ => rfl) fun c hw => ?_
  rw [decode_5 (fs_25_6 ..)]
  simp [decSel, fs_0_2, fs_2_0, fs_3_4, fs_7_6, fs_13_6, fs_19_6, -BitVec.getLsbD_eq_getElem]

theorem selD d a b p n : Statement (.selD d a b p n) := by
  refine of_word (w := fun c => b1 c ++ fs 5#6 d a b p n 1#2) (fun _ => rfl) fun c hw => ?_
  rw [decode_5 (fs_25_6 ..)]
  simp [decSel, fs_0_2, fs_2_0, fs_3_4, fs_7_6, fs_13_6, fs_19_6, -BitVec.getLsbD_eq_getElem]

theorem selY d a b p n : Statement (.selY d a b p n) := by
  refine of_word (w := fun c => b1 c ++ fs 5#6 d a b p n 2#2) (fun _ => rfl) fun c hw => ?_
  rw [decode_5 (fs_25_6 ..)]
  simp [decSel, fs_0_2, fs_2_0, fs_3_4, fs_7_6, fs_13_6, fs_19_6, -BitVec.getLsbD_eq_getElem]

theorem pand d a b : Statement (.pand d a b) := by
  refine of_word (w := fun c => b1 c ++ f3 6#6 d a b false false 0#5) (fun _ => rfl) fun c hw => ?_
  rw [decode_6 (f3_25_6 ..)]
  simp [decPlog, f3_0_5, f3_5_2, f3_7_6, f3_13_6, f3_19_6, -BitVec.getLsbD_eq_getElem]

theorem por d a b : Statement (.por d a b) := by
  refine of_word (w := fun c => b1 c ++ f3 6#6 d a b false false 1#5) (fun _ => rfl) fun c hw => ?_
  rw [decode_6 (f3_25_6 ..)]
  simp [decPlog, f3_0_5, f3_5_2, f3_7_6, f3_13_6, f3_19_6, -BitVec.getLsbD_eq_getElem]

theorem pxor d a b : Statement (.pxor d a b) := by
  refine of_word (w := fun c => b1 c ++ f3 6#6 d a b false false 2#5) (fun _ => rfl) fun c hw => ?_
  rw [decode_6 (f3_25_6 ..)]
  simp [decPlog, f3_0_5, f3_5_2, f3_7_6, f3_13_6, f3_19_6, -BitVec.getLsbD_eq_getElem]

theorem pandn d a b : Statement (.pandn d a b) := by
  refine of_word (w := fun c => b1 c ++ f3 6#6 d a b false false 3#5) (fun _ => rfl) fun c hw => ?_
  rw [decode_6 (f3_25_6 ..)]
  simp [decPlog, f3_0_5, f3_5_2, f3_7_6, f3_13_6, f3_19_6, -BitVec.getLsbD_eq_getElem]

theorem pnot d a : Statement (.pnot d a) := by
  refine of_word (w := fun c => b1 c ++ f3 6#6 d a 0#6 false false 4#5) (fun _ => rfl) fun c hw => ?_
  rw [decode_6 (f3_25_6 ..)]
  simp [decPlog, f3_0_5, f3_5_8, f3_13_6, f3_19_6, -BitVec.getLsbD_eq_getElem]

theorem pmov d a : Statement (.pmov d a) := by
  refine of_word (w := fun c => b1 c ++ f3 6#6 d a 0#6 false false 5#5) (fun _ => rfl) fun c hw => ?_
  rw [decode_6 (f3_25_6 ..)]
  simp [decPlog, f3_0_5, f3_5_8, f3_13_6, f3_19_6, -BitVec.getLsbD_eq_getElem]

theorem p2w d : Statement (.p2w d) := by
  refine of_word (w := fun c => b1 c ++ f3 6#6 d 0#6 0#6 false false 6#5) (fun _ => rfl) fun c hw => ?_
  rw [decode_6 (f3_25_6 ..)]
  simp [decPlog, f3_0_5, f3_5_14, f3_19_6, -BitVec.getLsbD_eq_getElem]

theorem w2p a ea : Statement (.w2p a ea) := by
  refine of_word (w := fun c => b1 c ++ f3 6#6 0#6 a 0#6 ea false 7#5) (fun _ => rfl) fun c hw => ?_
  rw [decode_6 (f3_25_6 ..)]
  simp [decPlog, f3_0_5, f3_5_1, f3_6_0, f3_7_6, f3_13_6, f3_19_6, b1_false, -BitVec.getLsbD_eq_getElem]

theorem pset d : Statement (.pset d) := by
  refine of_word (w := fun c => b1 c ++ f3 6#6 d 0#6 0#6 false false 8#5) (fun _ => rfl) fun c hw => ?_
  rw [decode_6 (f3_25_6 ..)]
  simp [decPlog, f3_0_5, f3_5_14, f3_19_6, -BitVec.getLsbD_eq_getElem]

theorem pclr d : Statement (.pclr d) := by
  refine of_word (w := fun c => b1 c ++ f3 6#6 d 0#6 0#6 false false 9#5) (fun _ => rfl) fun c hw => ?_
  rw [decode_6 (f3_25_6 ..)]
  simp [decPlog, f3_0_5, f3_5_14, f3_19_6, -BitVec.getLsbD_eq_getElem]

theorem addi d a ea i : Statement (.addi d a ea i) := by
  refine of_word (w := fun c => b1 c ++ fi 7#6 d a ea i) (fun _ => rfl) fun c hw => ?_
  rw [decode_7 (fi_25_6 ..)]
  simp [decAddi, fi_0_12, fi_12_0, fi_13_6, fi_19_6, -BitVec.getLsbD_eq_getElem]

theorem andi d a ea i : Statement (.andi d a ea i) := by
  refine of_word (w := fun c => b1 c ++ fi 8#6 d a ea i) (fun _ => rfl) fun c hw => ?_
  rw [decode_8 (fi_25_6 ..)]
  simp [decAndi, fi_0_12, fi_12_0, fi_13_6, fi_19_6, -BitVec.getLsbD_eq_getElem]

theorem ori d a ea i : Statement (.ori d a ea i) := by
  refine of_word (w := fun c => b1 c ++ fi 9#6 d a ea i) (fun _ => rfl) fun c hw => ?_
  rw [decode_9 (fi_25_6 ..)]
  simp [decOri, fi_0_12, fi_12_0, fi_13_6, fi_19_6, -BitVec.getLsbD_eq_getElem]

theorem xori d a ea i : Statement (.xori d a ea i) := by
  refine of_word (w := fun c => b1 c ++ fi 10#6 d a ea i) (fun _ => rfl) fun c hw => ?_
  rw [decode_10 (fi_25_6 ..)]
  simp [decXori, fi_0_12, fi_12_0, fi_13_6, fi_19_6, -BitVec.getLsbD_eq_getElem]

theorem shli d a ea n : Statement (.shli d a ea n) := by
  refine of_word (w := fun c => b1 c ++ fi 11#6 d a ea (0#6 ++ n)) (fun _ => rfl) fun c hw => ?_
  rw [decode_11 (fi_25_6 ..)]
  simp [decShifti, fi_0_6, fi_6_3, fi_9_3, fi_12_0, fi_13_6, fi_19_6, sh66_9_3, sh66_6_3, sh66_0_6, -BitVec.getLsbD_eq_getElem]

theorem shri d a ea n : Statement (.shri d a ea n) := by
  refine of_word (w := fun c => b1 c ++ fi 11#6 d a ea (16#6 ++ n)) (fun _ => rfl) fun c hw => ?_
  rw [decode_11 (fi_25_6 ..)]
  simp [decShifti, fi_0_6, fi_6_3, fi_9_3, fi_12_0, fi_13_6, fi_19_6, sh66_9_3, sh66_6_3, sh66_0_6, -BitVec.getLsbD_eq_getElem]

theorem sari d a ea n : Statement (.sari d a ea n) := by
  refine of_word (w := fun c => b1 c ++ fi 11#6 d a ea (32#6 ++ n)) (fun _ => rfl) fun c hw => ?_
  rw [decode_11 (fi_25_6 ..)]
  simp [decShifti, fi_0_6, fi_6_3, fi_9_3, fi_12_0, fi_13_6, fi_19_6, sh66_9_3, sh66_6_3, sh66_0_6, -BitVec.getLsbD_eq_getElem]

theorem rotli d a ea n : Statement (.rotli d a ea n) := by
  refine of_word (w := fun c => b1 c ++ fi 11#6 d a ea (48#6 ++ n)) (fun _ => rfl) fun c hw => ?_
  rw [decode_11 (fi_25_6 ..)]
  simp [decShifti, fi_0_6, fi_6_3, fi_9_3, fi_12_0, fi_13_6, fi_19_6, sh66_9_3, sh66_6_3, sh66_0_6, -BitVec.getLsbD_eq_getElem]

theorem shliD d a ea n : Statement (.shliD d a ea n) := by
  refine of_word (w := fun c => b1 c ++ fi 11#6 d a ea (8#6 ++ n)) (fun _ => rfl) fun c hw => ?_
  rw [decode_11 (fi_25_6 ..)]
  simp [decShifti, fi_0_6, fi_6_3, fi_9_3, fi_12_0, fi_13_6, fi_19_6, sh66_9_3, sh66_6_3, sh66_0_6, -BitVec.getLsbD_eq_getElem]

theorem shriD d a ea n : Statement (.shriD d a ea n) := by
  refine of_word (w := fun c => b1 c ++ fi 11#6 d a ea (24#6 ++ n)) (fun _ => rfl) fun c hw => ?_
  rw [decode_11 (fi_25_6 ..)]
  simp [decShifti, fi_0_6, fi_6_3, fi_9_3, fi_12_0, fi_13_6, fi_19_6, sh66_9_3, sh66_6_3, sh66_0_6, -BitVec.getLsbD_eq_getElem]

theorem sariD d a ea n : Statement (.sariD d a ea n) := by
  refine of_word (w := fun c => b1 c ++ fi 11#6 d a ea (40#6 ++ n)) (fun _ => rfl) fun c hw => ?_
  rw [decode_11 (fi_25_6 ..)]
  simp [decShifti, fi_0_6, fi_6_3, fi_9_3, fi_12_0, fi_13_6, fi_19_6, sh66_9_3, sh66_6_3, sh66_0_6, -BitVec.getLsbD_eq_getElem]

theorem rotliD d a ea n : Statement (.rotliD d a ea n) := by
  refine of_word (w := fun c => b1 c ++ fi 11#6 d a ea (56#6 ++ n)) (fun _ => rfl) fun c hw => ?_
  rw [decode_11 (fi_25_6 ..)]
  simp [decShifti, fi_0_6, fi_6_3, fi_9_3, fi_12_0, fi_13_6, fi_19_6, sh66_9_3, sh66_6_3, sh66_0_6, -BitVec.getLsbD_eq_getElem]

theorem cmpiEq d a ea i : Statement (.cmpiEq d a ea i) := by
  refine of_word (w := fun c => b1 c ++ fi 12#6 d a ea (0#3 ++ i)) (fun _ => rfl) fun c hw => ?_
  rw [decode_12 (fi_25_6 ..)]
  simp [decCmpi, fi_0_9, fi_9_3, fi_12_0, fi_13_6, fi_19_6, sh39_9_3, sh39_0_9, -BitVec.getLsbD_eq_getElem]

theorem cmpiNe d a ea i : Statement (.cmpiNe d a ea i) := by
  refine of_word (w := fun c => b1 c ++ fi 12#6 d a ea (1#3 ++ i)) (fun _ => rfl) fun c hw => ?_
  rw [decode_12 (fi_25_6 ..)]
  simp [decCmpi, fi_0_9, fi_9_3, fi_12_0, fi_13_6, fi_19_6, sh39_9_3, sh39_0_9, -BitVec.getLsbD_eq_getElem]

theorem cmpiLt d a ea i : Statement (.cmpiLt d a ea i) := by
  refine of_word (w := fun c => b1 c ++ fi 12#6 d a ea (2#3 ++ i)) (fun _ => rfl) fun c hw => ?_
  rw [decode_12 (fi_25_6 ..)]
  simp [decCmpi, fi_0_9, fi_9_3, fi_12_0, fi_13_6, fi_19_6, sh39_9_3, sh39_0_9, -BitVec.getLsbD_eq_getElem]

theorem cmpiLe d a ea i : Statement (.cmpiLe d a ea i) := by
  refine of_word (w := fun c => b1 c ++ fi 12#6 d a ea (3#3 ++ i)) (fun _ => rfl) fun c hw => ?_
  rw [decode_12 (fi_25_6 ..)]
  simp [decCmpi, fi_0_9, fi_9_3, fi_12_0, fi_13_6, fi_19_6, sh39_9_3, sh39_0_9, -BitVec.getLsbD_eq_getElem]

theorem cmpiLtu d a ea i : Statement (.cmpiLtu d a ea i) := by
  refine of_word (w := fun c => b1 c ++ fi 12#6 d a ea (4#3 ++ i)) (fun _ => rfl) fun c hw => ?_
  rw [decode_12 (fi_25_6 ..)]
  simp [decCmpi, fi_0_9, fi_9_3, fi_12_0, fi_13_6, fi_19_6, sh39_9_3, sh39_0_9, -BitVec.getLsbD_eq_getElem]

theorem cmpiLeu d a ea i : Statement (.cmpiLeu d a ea i) := by
  refine of_word (w := fun c => b1 c ++ fi 12#6 d a ea (5#3 ++ i)) (fun _ => rfl) fun c hw => ?_
  rw [decode_12 (fi_25_6 ..)]
  simp [decCmpi, fi_0_9, fi_9_3, fi_12_0, fi_13_6, fi_19_6, sh39_9_3, sh39_0_9, -BitVec.getLsbD_eq_getElem]

theorem cmpiGt d a ea i : Statement (.cmpiGt d a ea i) := by
  refine of_word (w := fun c => b1 c ++ fi 12#6 d a ea (6#3 ++ i)) (fun _ => rfl) fun c hw => ?_
  rw [decode_12 (fi_25_6 ..)]
  simp [decCmpi, fi_0_9, fi_9_3, fi_12_0, fi_13_6, fi_19_6, sh39_9_3, sh39_0_9, -BitVec.getLsbD_eq_getElem]

theorem cmpiGe d a ea i : Statement (.cmpiGe d a ea i) := by
  refine of_word (w := fun c => b1 c ++ fi 12#6 d a ea (7#3 ++ i)) (fun _ => rfl) fun c hw => ?_
  rw [decode_12 (fi_25_6 ..)]
  simp [decCmpi, fi_0_9, fi_9_3, fi_12_0, fi_13_6, fi_19_6, sh39_9_3, sh39_0_9, -BitVec.getLsbD_eq_getElem]

theorem li d i : Statement (.li d i) := by
  refine of_word (w := fun c => b1 c ++ fl 13#6 d i) (fun _ => rfl) fun c hw => ?_
  rw [decode_13 (fl_25_6 ..)]
  simp [decLi, fl_0_19, fl_19_6, -BitVec.getLsbD_eq_getElem]

theorem lih d i : Statement (.lih d i) := by
  refine of_word (w := fun c => b1 c ++ fl 14#6 d i) (fun _ => rfl) fun c hw => ?_
  rw [decode_14 (fl_25_6 ..)]
  simp [decLih, fl_0_19, fl_19_6, -BitVec.getLsbD_eq_getElem]

theorem ldB t a ea o : Statement (.ldB t a ea o) := by
  refine of_word (w := fun c => b1 c ++ fm 15#6 t a ea 0#4 o) (fun _ => rfl) fun c hw => ?_
  rw [decode_15 (fm_25_6 ..)]
  simp [decLd, fm_0_8, fm_8_4, fm_12_0, fm_13_6, fm_19_6, -BitVec.getLsbD_eq_getElem]

theorem ldBs t a ea o : Statement (.ldBs t a ea o) := by
  refine of_word (w := fun c => b1 c ++ fm 15#6 t a ea 1#4 o) (fun _ => rfl) fun c hw => ?_
  rw [decode_15 (fm_25_6 ..)]
  simp [decLd, fm_0_8, fm_8_4, fm_12_0, fm_13_6, fm_19_6, -BitVec.getLsbD_eq_getElem]

theorem ldH t a ea o : Statement (.ldH t a ea o) := by
  refine of_word (w := fun c => b1 c ++ fm 15#6 t a ea 2#4 o) (fun _ => rfl) fun c hw => ?_
  rw [decode_15 (fm_25_6 ..)]
  simp [decLd, fm_0_8, fm_8_4, fm_12_0, fm_13_6, fm_19_6, -BitVec.getLsbD_eq_getElem]

theorem ldHs t a ea o : Statement (.ldHs t a ea o) := by
  refine of_word (w := fun c => b1 c ++ fm 15#6 t a ea 3#4 o) (fun _ => rfl) fun c hw => ?_
  rw [decode_15 (fm_25_6 ..)]
  simp [decLd, fm_0_8, fm_8_4, fm_12_0, fm_13_6, fm_19_6, -BitVec.getLsbD_eq_getElem]

theorem ldW t a ea o : Statement (.ldW t a ea o) := by
  refine of_word (w := fun c => b1 c ++ fm 15#6 t a ea 4#4 o) (fun _ => rfl) fun c hw => ?_
  rw [decode_15 (fm_25_6 ..)]
  simp [decLd, fm_0_8, fm_8_4, fm_12_0, fm_13_6, fm_19_6, -BitVec.getLsbD_eq_getElem]

theorem ldD t a ea o : Statement (.ldD t a ea o) := by
  refine of_word (w := fun c => b1 c ++ fm 15#6 t a ea 5#4 o) (fun _ => rfl) fun c hw => ?_
  rw [decode_15 (fm_25_6 ..)]
  simp [decLd, fm_0_8, fm_8_4, fm_12_0, fm_13_6, fm_19_6, -BitVec.getLsbD_eq_getElem]

theorem ldQ t a ea o : Statement (.ldQ t a ea o) := by
  refine of_word (w := fun c => b1 c ++ fm 15#6 t a ea 6#4 o) (fun _ => rfl) fun c hw => ?_
  rw [decode_15 (fm_25_6 ..)]
  simp [decLd, fm_0_8, fm_8_4, fm_12_0, fm_13_6, fm_19_6, -BitVec.getLsbD_eq_getElem]

theorem stB t a ea o : Statement (.stB t a ea o) := by
  refine of_word (w := fun c => b1 c ++ fm 16#6 t a ea 0#4 o) (fun _ => rfl) fun c hw => ?_
  rw [decode_16 (fm_25_6 ..)]
  simp [decSt, fm_0_8, fm_8_4, fm_12_0, fm_13_6, fm_19_6, -BitVec.getLsbD_eq_getElem]

theorem stH t a ea o : Statement (.stH t a ea o) := by
  refine of_word (w := fun c => b1 c ++ fm 16#6 t a ea 2#4 o) (fun _ => rfl) fun c hw => ?_
  rw [decode_16 (fm_25_6 ..)]
  simp [decSt, fm_0_8, fm_8_4, fm_12_0, fm_13_6, fm_19_6, -BitVec.getLsbD_eq_getElem]

theorem stW t a ea o : Statement (.stW t a ea o) := by
  refine of_word (w := fun c => b1 c ++ fm 16#6 t a ea 4#4 o) (fun _ => rfl) fun c hw => ?_
  rw [decode_16 (fm_25_6 ..)]
  simp [decSt, fm_0_8, fm_8_4, fm_12_0, fm_13_6, fm_19_6, -BitVec.getLsbD_eq_getElem]

theorem stD t a ea o : Statement (.stD t a ea o) := by
  refine of_word (w := fun c => b1 c ++ fm 16#6 t a ea 5#4 o) (fun _ => rfl) fun c hw => ?_
  rw [decode_16 (fm_25_6 ..)]
  simp [decSt, fm_0_8, fm_8_4, fm_12_0, fm_13_6, fm_19_6, -BitVec.getLsbD_eq_getElem]

theorem stQ t a ea o : Statement (.stQ t a ea o) := by
  refine of_word (w := fun c => b1 c ++ fm 16#6 t a ea 6#4 o) (fun _ => rfl) fun c hw => ?_
  rw [decode_16 (fm_25_6 ..)]
  simp [decSt, fm_0_8, fm_8_4, fm_12_0, fm_13_6, fm_19_6, -BitVec.getLsbD_eq_getElem]

theorem ldsB t a ea o : Statement (.ldsB t a ea o) := by
  refine of_word (w := fun c => b1 c ++ fm 17#6 t a ea 0#4 o) (fun _ => rfl) fun c hw => ?_
  rw [decode_17 (fm_25_6 ..)]
  simp [decLds, fm_0_8, fm_8_4, fm_12_0, fm_13_6, fm_19_6, -BitVec.getLsbD_eq_getElem]

theorem ldsBs t a ea o : Statement (.ldsBs t a ea o) := by
  refine of_word (w := fun c => b1 c ++ fm 17#6 t a ea 1#4 o) (fun _ => rfl) fun c hw => ?_
  rw [decode_17 (fm_25_6 ..)]
  simp [decLds, fm_0_8, fm_8_4, fm_12_0, fm_13_6, fm_19_6, -BitVec.getLsbD_eq_getElem]

theorem ldsH t a ea o : Statement (.ldsH t a ea o) := by
  refine of_word (w := fun c => b1 c ++ fm 17#6 t a ea 2#4 o) (fun _ => rfl) fun c hw => ?_
  rw [decode_17 (fm_25_6 ..)]
  simp [decLds, fm_0_8, fm_8_4, fm_12_0, fm_13_6, fm_19_6, -BitVec.getLsbD_eq_getElem]

theorem ldsHs t a ea o : Statement (.ldsHs t a ea o) := by
  refine of_word (w := fun c => b1 c ++ fm 17#6 t a ea 3#4 o) (fun _ => rfl) fun c hw => ?_
  rw [decode_17 (fm_25_6 ..)]
  simp [decLds, fm_0_8, fm_8_4, fm_12_0, fm_13_6, fm_19_6, -BitVec.getLsbD_eq_getElem]

theorem ldsW t a ea o : Statement (.ldsW t a ea o) := by
  refine of_word (w := fun c => b1 c ++ fm 17#6 t a ea 4#4 o) (fun _ => rfl) fun c hw => ?_
  rw [decode_17 (fm_25_6 ..)]
  simp [decLds, fm_0_8, fm_8_4, fm_12_0, fm_13_6, fm_19_6, -BitVec.getLsbD_eq_getElem]

theorem ldsD t a ea o : Statement (.ldsD t a ea o) := by
  refine of_word (w := fun c => b1 c ++ fm 17#6 t a ea 5#4 o) (fun _ => rfl) fun c hw => ?_
  rw [decode_17 (fm_25_6 ..)]
  simp [decLds, fm_0_8, fm_8_4, fm_12_0, fm_13_6, fm_19_6, -BitVec.getLsbD_eq_getElem]

theorem ldsQ t a ea o : Statement (.ldsQ t a ea o) := by
  refine of_word (w := fun c => b1 c ++ fm 17#6 t a ea 6#4 o) (fun _ => rfl) fun c hw => ?_
  rw [decode_17 (fm_25_6 ..)]
  simp [decLds, fm_0_8, fm_8_4, fm_12_0, fm_13_6, fm_19_6, -BitVec.getLsbD_eq_getElem]

theorem stsB t a ea o : Statement (.stsB t a ea o) := by
  refine of_word (w := fun c => b1 c ++ fm 18#6 t a ea 0#4 o) (fun _ => rfl) fun c hw => ?_
  rw [decode_18 (fm_25_6 ..)]
  simp [decSts, fm_0_8, fm_8_4, fm_12_0, fm_13_6, fm_19_6, -BitVec.getLsbD_eq_getElem]

theorem stsH t a ea o : Statement (.stsH t a ea o) := by
  refine of_word (w := fun c => b1 c ++ fm 18#6 t a ea 2#4 o) (fun _ => rfl) fun c hw => ?_
  rw [decode_18 (fm_25_6 ..)]
  simp [decSts, fm_0_8, fm_8_4, fm_12_0, fm_13_6, fm_19_6, -BitVec.getLsbD_eq_getElem]

theorem stsW t a ea o : Statement (.stsW t a ea o) := by
  refine of_word (w := fun c => b1 c ++ fm 18#6 t a ea 4#4 o) (fun _ => rfl) fun c hw => ?_
  rw [decode_18 (fm_25_6 ..)]
  simp [decSts, fm_0_8, fm_8_4, fm_12_0, fm_13_6, fm_19_6, -BitVec.getLsbD_eq_getElem]

theorem stsD t a ea o : Statement (.stsD t a ea o) := by
  refine of_word (w := fun c => b1 c ++ fm 18#6 t a ea 5#4 o) (fun _ => rfl) fun c hw => ?_
  rw [decode_18 (fm_25_6 ..)]
  simp [decSts, fm_0_8, fm_8_4, fm_12_0, fm_13_6, fm_19_6, -BitVec.getLsbD_eq_getElem]

theorem stsQ t a ea o : Statement (.stsQ t a ea o) := by
  refine of_word (w := fun c => b1 c ++ fm 18#6 t a ea 6#4 o) (fun _ => rfl) fun c hw => ?_
  rw [decode_18 (fm_25_6 ..)]
  simp [decSts, fm_0_8, fm_8_4, fm_12_0, fm_13_6, fm_19_6, -BitVec.getLsbD_eq_getElem]

theorem ldy t a ea k o : Statement (.ldy t a ea k o) := by
  refine of_word (w := fun c => b1 c ++ fm 19#6 t a ea k o) (fun _ => rfl) fun c hw => ?_
  rw [decode_19 (fm_25_6 ..)]
  simp [decLdy, fm_0_8, fm_8_4, fm_12_0, fm_13_6, fm_19_6, -BitVec.getLsbD_eq_getElem]

theorem sty t a ea k o : Statement (.sty t a ea k o) := by
  refine of_word (w := fun c => b1 c ++ fm 20#6 t a ea k o) (fun _ => rfl) fun c hw => ?_
  rw [decode_20 (fm_25_6 ..)]
  simp [decSty, fm_0_8, fm_8_4, fm_12_0, fm_13_6, fm_19_6, -BitVec.getLsbD_eq_getElem]

theorem ldcFp32 t a ea o : Statement (.ldcFp32 t a ea o) := by
  refine of_word (w := fun c => b1 c ++ fm 21#6 t a ea 0#4 o) (fun _ => rfl) fun c hw => ?_
  rw [decode_21 (fm_25_6 ..)]
  simp [decLdc, fm_0_8, fm_8_4, fm_12_0, fm_13_6, fm_19_6, -BitVec.getLsbD_eq_getElem]

theorem ldcBf16 t a ea o : Statement (.ldcBf16 t a ea o) := by
  refine of_word (w := fun c => b1 c ++ fm 21#6 t a ea 1#4 o) (fun _ => rfl) fun c hw => ?_
  rw [decode_21 (fm_25_6 ..)]
  simp [decLdc, fm_0_8, fm_8_4, fm_12_0, fm_13_6, fm_19_6, -BitVec.getLsbD_eq_getElem]

theorem ldcFp16 t a ea o : Statement (.ldcFp16 t a ea o) := by
  refine of_word (w := fun c => b1 c ++ fm 21#6 t a ea 2#4 o) (fun _ => rfl) fun c hw => ?_
  rw [decode_21 (fm_25_6 ..)]
  simp [decLdc, fm_0_8, fm_8_4, fm_12_0, fm_13_6, fm_19_6, -BitVec.getLsbD_eq_getElem]

theorem ldcE4m3 t a ea o : Statement (.ldcE4m3 t a ea o) := by
  refine of_word (w := fun c => b1 c ++ fm 21#6 t a ea 3#4 o) (fun _ => rfl) fun c hw => ?_
  rw [decode_21 (fm_25_6 ..)]
  simp [decLdc, fm_0_8, fm_8_4, fm_12_0, fm_13_6, fm_19_6, -BitVec.getLsbD_eq_getElem]

theorem ldcE5m2 t a ea o : Statement (.ldcE5m2 t a ea o) := by
  refine of_word (w := fun c => b1 c ++ fm 21#6 t a ea 4#4 o) (fun _ => rfl) fun c hw => ?_
  rw [decode_21 (fm_25_6 ..)]
  simp [decLdc, fm_0_8, fm_8_4, fm_12_0, fm_13_6, fm_19_6, -BitVec.getLsbD_eq_getElem]

theorem ldcInt32 t a ea o : Statement (.ldcInt32 t a ea o) := by
  refine of_word (w := fun c => b1 c ++ fm 21#6 t a ea 5#4 o) (fun _ => rfl) fun c hw => ?_
  rw [decode_21 (fm_25_6 ..)]
  simp [decLdc, fm_0_8, fm_8_4, fm_12_0, fm_13_6, fm_19_6, -BitVec.getLsbD_eq_getElem]

theorem ldcUint32 t a ea o : Statement (.ldcUint32 t a ea o) := by
  refine of_word (w := fun c => b1 c ++ fm 21#6 t a ea 6#4 o) (fun _ => rfl) fun c hw => ?_
  rw [decode_21 (fm_25_6 ..)]
  simp [decLdc, fm_0_8, fm_8_4, fm_12_0, fm_13_6, fm_19_6, -BitVec.getLsbD_eq_getElem]

theorem ldcInt8 t a ea o : Statement (.ldcInt8 t a ea o) := by
  refine of_word (w := fun c => b1 c ++ fm 21#6 t a ea 7#4 o) (fun _ => rfl) fun c hw => ?_
  rw [decode_21 (fm_25_6 ..)]
  simp [decLdc, fm_0_8, fm_8_4, fm_12_0, fm_13_6, fm_19_6, -BitVec.getLsbD_eq_getElem]

theorem ldcUint8 t a ea o : Statement (.ldcUint8 t a ea o) := by
  refine of_word (w := fun c => b1 c ++ fm 21#6 t a ea 8#4 o) (fun _ => rfl) fun c hw => ?_
  rw [decode_21 (fm_25_6 ..)]
  simp [decLdc, fm_0_8, fm_8_4, fm_12_0, fm_13_6, fm_19_6, -BitVec.getLsbD_eq_getElem]

theorem stcFp32 t a ea o : Statement (.stcFp32 t a ea o) := by
  refine of_word (w := fun c => b1 c ++ fm 22#6 t a ea 0#4 o) (fun _ => rfl) fun c hw => ?_
  rw [decode_22 (fm_25_6 ..)]
  simp [decStc, fm_0_8, fm_8_4, fm_12_0, fm_13_6, fm_19_6, -BitVec.getLsbD_eq_getElem]

theorem stcBf16 t a ea o : Statement (.stcBf16 t a ea o) := by
  refine of_word (w := fun c => b1 c ++ fm 22#6 t a ea 1#4 o) (fun _ => rfl) fun c hw => ?_
  rw [decode_22 (fm_25_6 ..)]
  simp [decStc, fm_0_8, fm_8_4, fm_12_0, fm_13_6, fm_19_6, -BitVec.getLsbD_eq_getElem]

theorem stcFp16 t a ea o : Statement (.stcFp16 t a ea o) := by
  refine of_word (w := fun c => b1 c ++ fm 22#6 t a ea 2#4 o) (fun _ => rfl) fun c hw => ?_
  rw [decode_22 (fm_25_6 ..)]
  simp [decStc, fm_0_8, fm_8_4, fm_12_0, fm_13_6, fm_19_6, -BitVec.getLsbD_eq_getElem]

theorem stcE4m3 t a ea o : Statement (.stcE4m3 t a ea o) := by
  refine of_word (w := fun c => b1 c ++ fm 22#6 t a ea 3#4 o) (fun _ => rfl) fun c hw => ?_
  rw [decode_22 (fm_25_6 ..)]
  simp [decStc, fm_0_8, fm_8_4, fm_12_0, fm_13_6, fm_19_6, -BitVec.getLsbD_eq_getElem]

theorem stcE5m2 t a ea o : Statement (.stcE5m2 t a ea o) := by
  refine of_word (w := fun c => b1 c ++ fm 22#6 t a ea 4#4 o) (fun _ => rfl) fun c hw => ?_
  rw [decode_22 (fm_25_6 ..)]
  simp [decStc, fm_0_8, fm_8_4, fm_12_0, fm_13_6, fm_19_6, -BitVec.getLsbD_eq_getElem]

theorem stcInt32 t a ea o : Statement (.stcInt32 t a ea o) := by
  refine of_word (w := fun c => b1 c ++ fm 22#6 t a ea 5#4 o) (fun _ => rfl) fun c hw => ?_
  rw [decode_22 (fm_25_6 ..)]
  simp [decStc, fm_0_8, fm_8_4, fm_12_0, fm_13_6, fm_19_6, -BitVec.getLsbD_eq_getElem]

theorem stcUint32 t a ea o : Statement (.stcUint32 t a ea o) := by
  refine of_word (w := fun c => b1 c ++ fm 22#6 t a ea 6#4 o) (fun _ => rfl) fun c hw => ?_
  rw [decode_22 (fm_25_6 ..)]
  simp [decStc, fm_0_8, fm_8_4, fm_12_0, fm_13_6, fm_19_6, -BitVec.getLsbD_eq_getElem]

theorem stcInt8 t a ea o : Statement (.stcInt8 t a ea o) := by
  refine of_word (w := fun c => b1 c ++ fm 22#6 t a ea 7#4 o) (fun _ => rfl) fun c hw => ?_
  rw [decode_22 (fm_25_6 ..)]
  simp [decStc, fm_0_8, fm_8_4, fm_12_0, fm_13_6, fm_19_6, -BitVec.getLsbD_eq_getElem]

theorem stcUint8 t a ea o : Statement (.stcUint8 t a ea o) := by
  refine of_word (w := fun c => b1 c ++ fm 22#6 t a ea 8#4 o) (fun _ => rfl) fun c hw => ?_
  rw [decode_22 (fm_25_6 ..)]
  simp [decStc, fm_0_8, fm_8_4, fm_12_0, fm_13_6, fm_19_6, -BitVec.getLsbD_eq_getElem]

theorem ldf t a ea o : Statement (.ldf t a ea o) := by
  refine of_word (w := fun c => b1 c ++ fm 45#6 t a ea 0#4 o) (fun _ => rfl) fun c hw => ?_
  rw [decode_45 (fm_25_6 ..)]
  simp [decLdf, fm_0_8, fm_8_4, fm_12_0, fm_13_6, fm_19_6, -BitVec.getLsbD_eq_getElem]

theorem ldfCons t a ea o : Statement (.ldfCons t a ea o) := by
  refine of_word (w := fun c => b1 c ++ fm 45#6 t a ea 1#4 o) (fun _ => rfl) fun c hw => ?_
  rw [decode_45 (fm_25_6 ..)]
  simp [decLdf, fm_0_8, fm_8_4, fm_12_0, fm_13_6, fm_19_6, -BitVec.getLsbD_eq_getElem]

theorem stf t a ea o : Statement (.stf t a ea o) := by
  refine of_word (w := fun c => b1 c ++ fm 46#6 t a ea 0#4 o) (fun _ => rfl) fun c hw => ?_
  rw [decode_46 (fm_25_6 ..)]
  simp [decStf, fm_0_8, fm_8_4, fm_12_0, fm_13_6, fm_19_6, -BitVec.getLsbD_eq_getElem]

theorem yadd d a b ea eb : Statement (.yadd d a b ea eb) := by
  refine of_word (w := fun c => b1 c ++ f3 23#6 d a b ea eb 0#5) (fun _ => rfl) fun c hw => ?_
  rw [decode_23 (f3_25_6 ..)]
  simp [decYop3, f3_0_5, f3_5_0, f3_6_0, f3_7_6, f3_13_6, f3_19_6, -BitVec.getLsbD_eq_getElem]

theorem ysub d a b ea eb : Statement (.ysub d a b ea eb) := by
  refine of_word (w := fun c => b1 c ++ f3 23#6 d a b ea eb 1#5) (fun _ => rfl) fun c hw => ?_
  rw [decode_23 (f3_25_6 ..)]
  simp [decYop3, f3_0_5, f3_5_0, f3_6_0, f3_7_6, f3_13_6, f3_19_6, -BitVec.getLsbD_eq_getElem]

theorem ymul d a b ea eb : Statement (.ymul d a b ea eb) := by
  refine of_word (w := fun c => b1 c ++ f3 23#6 d a b ea eb 2#5) (fun _ => rfl) fun c hw => ?_
  rw [decode_23 (f3_25_6 ..)]
  simp [decYop3, f3_0_5, f3_5_0, f3_6_0, f3_7_6, f3_13_6, f3_19_6, -BitVec.getLsbD_eq_getElem]

theorem ydiv d a b ea eb : Statement (.ydiv d a b ea eb) := by
  refine of_word (w := fun c => b1 c ++ f3 23#6 d a b ea eb 3#5) (fun _ => rfl) fun c hw => ?_
  rw [decode_23 (f3_25_6 ..)]
  simp [decYop3, f3_0_5, f3_5_0, f3_6_0, f3_7_6, f3_13_6, f3_19_6, -BitVec.getLsbD_eq_getElem]

theorem ymin d a b ea eb : Statement (.ymin d a b ea eb) := by
  refine of_word (w := fun c => b1 c ++ f3 23#6 d a b ea eb 4#5) (fun _ => rfl) fun c hw => ?_
  rw [decode_23 (f3_25_6 ..)]
  simp [decYop3, f3_0_5, f3_5_0, f3_6_0, f3_7_6, f3_13_6, f3_19_6, -BitVec.getLsbD_eq_getElem]

theorem ymax d a b ea eb : Statement (.ymax d a b ea eb) := by
  refine of_word (w := fun c => b1 c ++ f3 23#6 d a b ea eb 5#5) (fun _ => rfl) fun c hw => ?_
  rw [decode_23 (f3_25_6 ..)]
  simp [decYop3, f3_0_5, f3_5_0, f3_6_0, f3_7_6, f3_13_6, f3_19_6, -BitVec.getLsbD_eq_getElem]

theorem yminm d a b ea eb : Statement (.yminm d a b ea eb) := by
  refine of_word (w := fun c => b1 c ++ f3 23#6 d a b ea eb 6#5) (fun _ => rfl) fun c hw => ?_
  rw [decode_23 (f3_25_6 ..)]
  simp [decYop3, f3_0_5, f3_5_0, f3_6_0, f3_7_6, f3_13_6, f3_19_6, -BitVec.getLsbD_eq_getElem]

theorem ymaxm d a b ea eb : Statement (.ymaxm d a b ea eb) := by
  refine of_word (w := fun c => b1 c ++ f3 23#6 d a b ea eb 7#5) (fun _ => rfl) fun c hw => ?_
  rw [decode_23 (f3_25_6 ..)]
  simp [decYop3, f3_0_5, f3_5_0, f3_6_0, f3_7_6, f3_13_6, f3_19_6, -BitVec.getLsbD_eq_getElem]

theorem ycopysign d a b ea eb : Statement (.ycopysign d a b ea eb) := by
  refine of_word (w := fun c => b1 c ++ f3 23#6 d a b ea eb 8#5) (fun _ => rfl) fun c hw => ?_
  rw [decode_23 (f3_25_6 ..)]
  simp [decYop3, f3_0_5, f3_5_0, f3_6_0, f3_7_6, f3_13_6, f3_19_6, -BitVec.getLsbD_eq_getElem]

theorem yrem d a b ea eb : Statement (.yrem d a b ea eb) := by
  refine of_word (w := fun c => b1 c ++ f3 23#6 d a b ea eb 9#5) (fun _ => rfl) fun c hw => ?_
  rw [decode_23 (f3_25_6 ..)]
  simp [decYop3, f3_0_5, f3_5_0, f3_6_0, f3_7_6, f3_13_6, f3_19_6, -BitVec.getLsbD_eq_getElem]

theorem yscale d a b ea eb : Statement (.yscale d a b ea eb) := by
  refine of_word (w := fun c => b1 c ++ f3 23#6 d a b ea eb 10#5) (fun _ => rfl) fun c hw => ?_
  rw [decode_23 (f3_25_6 ..)]
  simp [decYop3, f3_0_5, f3_5_0, f3_6_0, f3_7_6, f3_13_6, f3_19_6, -BitVec.getLsbD_eq_getElem]

theorem yfma d a b ea eb : Statement (.yfma d a b ea eb) := by
  refine of_word (w := fun c => b1 c ++ f3 23#6 d a b ea eb 11#5) (fun _ => rfl) fun c hw => ?_
  rw [decode_23 (f3_25_6 ..)]
  simp [decYop3, f3_0_5, f3_5_0, f3_6_0, f3_7_6, f3_13_6, f3_19_6, -BitVec.getLsbD_eq_getElem]

theorem yfms d a b ea eb : Statement (.yfms d a b ea eb) := by
  refine of_word (w := fun c => b1 c ++ f3 23#6 d a b ea eb 12#5) (fun _ => rfl) fun c hw => ?_
  rw [decode_23 (f3_25_6 ..)]
  simp [decYop3, f3_0_5, f3_5_0, f3_6_0, f3_7_6, f3_13_6, f3_19_6, -BitVec.getLsbD_eq_getElem]

theorem yfnma d a b ea eb : Statement (.yfnma d a b ea eb) := by
  refine of_word (w := fun c => b1 c ++ f3 23#6 d a b ea eb 13#5) (fun _ => rfl) fun c hw => ?_
  rw [decode_23 (f3_25_6 ..)]
  simp [decYop3, f3_0_5, f3_5_0, f3_6_0, f3_7_6, f3_13_6, f3_19_6, -BitVec.getLsbD_eq_getElem]

theorem ymov d a ea : Statement (.ymov d a ea) := by
  refine of_word (w := fun c => b1 c ++ f3 24#6 d a 0#6 ea false 0#5) (fun _ => rfl) fun c hw => ?_
  rw [decode_24 (f3_25_6 ..)]
  simp [decYop1, f3_0_5, f3_5_1, f3_6_0, f3_7_6, f3_13_6, f3_19_6, b1_false, -BitVec.getLsbD_eq_getElem]

theorem yneg d a ea : Statement (.yneg d a ea) := by
  refine of_word (w := fun c => b1 c ++ f3 24#6 d a 0#6 ea false 1#5) (fun _ => rfl) fun c hw => ?_
  rw [decode_24 (f3_25_6 ..)]
  simp [decYop1, f3_0_5, f3_5_1, f3_6_0, f3_7_6, f3_13_6, f3_19_6, b1_false, -BitVec.getLsbD_eq_getElem]

theorem yabs d a ea : Statement (.yabs d a ea) := by
  refine of_word (w := fun c => b1 c ++ f3 24#6 d a 0#6 ea false 2#5) (fun _ => rfl) fun c hw => ?_
  rw [decode_24 (f3_25_6 ..)]
  simp [decYop1, f3_0_5, f3_5_1, f3_6_0, f3_7_6, f3_13_6, f3_19_6, b1_false, -BitVec.getLsbD_eq_getElem]

theorem ysqrt d a ea : Statement (.ysqrt d a ea) := by
  refine of_word (w := fun c => b1 c ++ f3 24#6 d a 0#6 ea false 3#5) (fun _ => rfl) fun c hw => ?_
  rw [decode_24 (f3_25_6 ..)]
  simp [decYop1, f3_0_5, f3_5_1, f3_6_0, f3_7_6, f3_13_6, f3_19_6, b1_false, -BitVec.getLsbD_eq_getElem]

theorem yrint d a ea : Statement (.yrint d a ea) := by
  refine of_word (w := fun c => b1 c ++ f3 24#6 d a 0#6 ea false 4#5) (fun _ => rfl) fun c hw => ?_
  rw [decode_24 (f3_25_6 ..)]
  simp [decYop1, f3_0_5, f3_5_1, f3_6_0, f3_7_6, f3_13_6, f3_19_6, b1_false, -BitVec.getLsbD_eq_getElem]

theorem ytrunc d a ea : Statement (.ytrunc d a ea) := by
  refine of_word (w := fun c => b1 c ++ f3 24#6 d a 0#6 ea false 5#5) (fun _ => rfl) fun c hw => ?_
  rw [decode_24 (f3_25_6 ..)]
  simp [decYop1, f3_0_5, f3_5_1, f3_6_0, f3_7_6, f3_13_6, f3_19_6, b1_false, -BitVec.getLsbD_eq_getElem]

theorem ylogb d a ea : Statement (.ylogb d a ea) := by
  refine of_word (w := fun c => b1 c ++ f3 24#6 d a 0#6 ea false 6#5) (fun _ => rfl) fun c hw => ?_
  rw [decode_24 (f3_25_6 ..)]
  simp [decYop1, f3_0_5, f3_5_1, f3_6_0, f3_7_6, f3_13_6, f3_19_6, b1_false, -BitVec.getLsbD_eq_getElem]

theorem yclass d a ea : Statement (.yclass d a ea) := by
  refine of_word (w := fun c => b1 c ++ f3 24#6 d a 0#6 ea false 7#5) (fun _ => rfl) fun c hw => ?_
  rw [decode_24 (f3_25_6 ..)]
  simp [decYop1, f3_0_5, f3_5_1, f3_6_0, f3_7_6, f3_13_6, f3_19_6, b1_false, -BitVec.getLsbD_eq_getElem]

theorem ysig d a ea : Statement (.ysig d a ea) := by
  refine of_word (w := fun c => b1 c ++ f3 24#6 d a 0#6 ea false 8#5) (fun _ => rfl) fun c hw => ?_
  rw [decode_24 (f3_25_6 ..)]
  simp [decYop1, f3_0_5, f3_5_1, f3_6_0, f3_7_6, f3_13_6, f3_19_6, b1_false, -BitVec.getLsbD_eq_getElem]

theorem ymant d a ea : Statement (.ymant d a ea) := by
  refine of_word (w := fun c => b1 c ++ f3 24#6 d a 0#6 ea false 9#5) (fun _ => rfl) fun c hw => ?_
  rw [decode_24 (f3_25_6 ..)]
  simp [decYop1, f3_0_5, f3_5_1, f3_6_0, f3_7_6, f3_13_6, f3_19_6, b1_false, -BitVec.getLsbD_eq_getElem]

theorem yrecip d a ea : Statement (.yrecip d a ea) := by
  refine of_word (w := fun c => b1 c ++ f3 24#6 d a 0#6 ea false 10#5) (fun _ => rfl) fun c hw => ?_
  rw [decode_24 (f3_25_6 ..)]
  simp [decYop1, f3_0_5, f3_5_1, f3_6_0, f3_7_6, f3_13_6, f3_19_6, b1_false, -BitVec.getLsbD_eq_getElem]

theorem yrsqrt d a ea : Statement (.yrsqrt d a ea) := by
  refine of_word (w := fun c => b1 c ++ f3 24#6 d a 0#6 ea false 11#5) (fun _ => rfl) fun c hw => ?_
  rw [decode_24 (f3_25_6 ..)]
  simp [decYop1, f3_0_5, f3_5_1, f3_6_0, f3_7_6, f3_13_6, f3_19_6, b1_false, -BitVec.getLsbD_eq_getElem]

theorem ycmpEq d a b ea eb : Statement (.ycmpEq d a b ea eb) := by
  refine of_word (w := fun c => b1 c ++ f3 25#6 d a b ea eb 0#5) (fun _ => rfl) fun c hw => ?_
  rw [decode_25 (f3_25_6 ..)]
  simp [decYcmp, f3_0_5, f3_5_0, f3_6_0, f3_7_6, f3_13_6, f3_19_6, -BitVec.getLsbD_eq_getElem]

theorem ycmpLt d a b ea eb : Statement (.ycmpLt d a b ea eb) := by
  refine of_word (w := fun c => b1 c ++ f3 25#6 d a b ea eb 1#5) (fun _ => rfl) fun c hw => ?_
  rw [decode_25 (f3_25_6 ..)]
  simp [decYcmp, f3_0_5, f3_5_0, f3_6_0, f3_7_6, f3_13_6, f3_19_6, -BitVec.getLsbD_eq_getElem]

theorem ycmpLe d a b ea eb : Statement (.ycmpLe d a b ea eb) := by
  refine of_word (w := fun c => b1 c ++ f3 25#6 d a b ea eb 2#5) (fun _ => rfl) fun c hw => ?_
  rw [decode_25 (f3_25_6 ..)]
  simp [decYcmp, f3_0_5, f3_5_0, f3_6_0, f3_7_6, f3_13_6, f3_19_6, -BitVec.getLsbD_eq_getElem]

theorem ycmpUn d a b ea eb : Statement (.ycmpUn d a b ea eb) := by
  refine of_word (w := fun c => b1 c ++ f3 25#6 d a b ea eb 3#5) (fun _ => rfl) fun c hw => ?_
  rw [decode_25 (f3_25_6 ..)]
  simp [decYcmp, f3_0_5, f3_5_0, f3_6_0, f3_7_6, f3_13_6, f3_19_6, -BitVec.getLsbD_eq_getElem]

theorem ycmpEqs d a b ea eb : Statement (.ycmpEqs d a b ea eb) := by
  refine of_word (w := fun c => b1 c ++ f3 25#6 d a b ea eb 4#5) (fun _ => rfl) fun c hw => ?_
  rw [decode_25 (f3_25_6 ..)]
  simp [decYcmp, f3_0_5, f3_5_0, f3_6_0, f3_7_6, f3_13_6, f3_19_6, -BitVec.getLsbD_eq_getElem]

theorem ycmpLts d a b ea eb : Statement (.ycmpLts d a b ea eb) := by
  refine of_word (w := fun c => b1 c ++ f3 25#6 d a b ea eb 5#5) (fun _ => rfl) fun c hw => ?_
  rw [decode_25 (f3_25_6 ..)]
  simp [decYcmp, f3_0_5, f3_5_0, f3_6_0, f3_7_6, f3_13_6, f3_19_6, -BitVec.getLsbD_eq_getElem]

theorem ycmpLes d a b ea eb : Statement (.ycmpLes d a b ea eb) := by
  refine of_word (w := fun c => b1 c ++ f3 25#6 d a b ea eb 6#5) (fun _ => rfl) fun c hw => ?_
  rw [decode_25 (f3_25_6 ..)]
  simp [decYcmp, f3_0_5, f3_5_0, f3_6_0, f3_7_6, f3_13_6, f3_19_6, -BitVec.getLsbD_eq_getElem]

theorem ycvtYW d a ea : Statement (.ycvtYW d a ea) := by
  refine of_word (w := fun c => b1 c ++ f3 26#6 d a 0#6 ea false 0#5) (fun _ => rfl) fun c hw => ?_
  rw [decode_26 (f3_25_6 ..)]
  simp [decYcvt, f3_0_5, f3_5_1, f3_6_0, f3_7_6, f3_13_6, f3_19_6, b1_false, -BitVec.getLsbD_eq_getElem]

theorem ycvtYUw d a ea : Statement (.ycvtYUw d a ea) := by
  refine of_word (w := fun c => b1 c ++ f3 26#6 d a 0#6 ea false 1#5) (fun _ => rfl) fun c hw => ?_
  rw [decode_26 (f3_25_6 ..)]
  simp [decYcvt, f3_0_5, f3_5_1, f3_6_0, f3_7_6, f3_13_6, f3_19_6, b1_false, -BitVec.getLsbD_eq_getElem]

theorem ycvtYD d a ea : Statement (.ycvtYD d a ea) := by
  refine of_word (w := fun c => b1 c ++ f3 26#6 d a 0#6 ea false 2#5) (fun _ => rfl) fun c hw => ?_
  rw [decode_26 (f3_25_6 ..)]
  simp [decYcvt, f3_0_5, f3_5_1, f3_6_0, f3_7_6, f3_13_6, f3_19_6, b1_false, -BitVec.getLsbD_eq_getElem]

theorem ycvtYUd d a ea : Statement (.ycvtYUd d a ea) := by
  refine of_word (w := fun c => b1 c ++ f3 26#6 d a 0#6 ea false 3#5) (fun _ => rfl) fun c hw => ?_
  rw [decode_26 (f3_25_6 ..)]
  simp [decYcvt, f3_0_5, f3_5_1, f3_6_0, f3_7_6, f3_13_6, f3_19_6, b1_false, -BitVec.getLsbD_eq_getElem]

theorem ycvtWY d a ea : Statement (.ycvtWY d a ea) := by
  refine of_word (w := fun c => b1 c ++ f3 26#6 d a 0#6 ea false 4#5) (fun _ => rfl) fun c hw => ?_
  rw [decode_26 (f3_25_6 ..)]
  simp [decYcvt, f3_0_5, f3_5_1, f3_6_0, f3_7_6, f3_13_6, f3_19_6, b1_false, -BitVec.getLsbD_eq_getElem]

theorem ycvtUwY d a ea : Statement (.ycvtUwY d a ea) := by
  refine of_word (w := fun c => b1 c ++ f3 26#6 d a 0#6 ea false 5#5) (fun _ => rfl) fun c hw => ?_
  rw [decode_26 (f3_25_6 ..)]
  simp [decYcvt, f3_0_5, f3_5_1, f3_6_0, f3_7_6, f3_13_6, f3_19_6, b1_false, -BitVec.getLsbD_eq_getElem]

theorem ycvtDY d a ea : Statement (.ycvtDY d a ea) := by
  refine of_word (w := fun c => b1 c ++ f3 26#6 d a 0#6 ea false 6#5) (fun _ => rfl) fun c hw => ?_
  rw [decode_26 (f3_25_6 ..)]
  simp [decYcvt, f3_0_5, f3_5_1, f3_6_0, f3_7_6, f3_13_6, f3_19_6, b1_false, -BitVec.getLsbD_eq_getElem]

theorem ycvtUdY d a ea : Statement (.ycvtUdY d a ea) := by
  refine of_word (w := fun c => b1 c ++ f3 26#6 d a 0#6 ea false 7#5) (fun _ => rfl) fun c hw => ?_
  rw [decode_26 (f3_25_6 ..)]
  simp [decYcvt, f3_0_5, f3_5_1, f3_6_0, f3_7_6, f3_13_6, f3_19_6, b1_false, -BitVec.getLsbD_eq_getElem]

theorem setprc a : Statement (.setprc a) := by
  refine of_word (w := fun c => b1 c ++ fx 27#6 0#6 a 0#6 0#7) (fun _ => rfl) fun c hw => ?_
  rw [decode_27 (fx_25_6 ..)]
  simp [decPrc, fx_0_7, fx_7_6, fx_13_6, fx_19_6, -BitVec.getLsbD_eq_getElem]

theorem getprc d : Statement (.getprc d) := by
  refine of_word (w := fun c => b1 c ++ fx 27#6 d 0#6 0#6 1#7) (fun _ => rfl) fun c hw => ?_
  rw [decode_27 (fx_25_6 ..)]
  simp [decPrc, fx_0_7, fx_7_12, fx_19_6, -BitVec.getLsbD_eq_getElem]

theorem setl a : Statement (.setl a) := by
  refine of_word (w := fun c => b1 c ++ fx 27#6 0#6 a 0#6 2#7) (fun _ => rfl) fun c hw => ?_
  rw [decode_27 (fx_25_6 ..)]
  simp [decPrc, fx_0_7, fx_7_6, fx_13_6, fx_19_6, -BitVec.getLsbD_eq_getElem]

theorem setrm a : Statement (.setrm a) := by
  refine of_word (w := fun c => b1 c ++ fx 27#6 0#6 a 0#6 3#7) (fun _ => rfl) fun c hw => ?_
  rw [decode_27 (fx_25_6 ..)]
  simp [decPrc, fx_0_7, fx_7_6, fx_13_6, fx_19_6, -BitVec.getLsbD_eq_getElem]

theorem getflags d : Statement (.getflags d) := by
  refine of_word (w := fun c => b1 c ++ fx 27#6 d 0#6 0#6 4#7) (fun _ => rfl) fun c hw => ?_
  rw [decode_27 (fx_25_6 ..)]
  simp [decPrc, fx_0_7, fx_7_12, fx_19_6, -BitVec.getLsbD_eq_getElem]

theorem clrflags a : Statement (.clrflags a) := by
  refine of_word (w := fun c => b1 c ++ fx 27#6 0#6 a 0#6 5#7) (fun _ => rfl) fun c hw => ?_
  rw [decode_27 (fx_25_6 ..)]
  simp [decPrc, fx_0_7, fx_7_6, fx_13_6, fx_19_6, -BitVec.getLsbD_eq_getElem]

theorem rnd d : Statement (.rnd d) := by
  refine of_word (w := fun c => b1 c ++ fx 27#6 d 0#6 0#6 6#7) (fun _ => rfl) fun c hw => ?_
  rw [decode_27 (fx_25_6 ..)]
  simp [decPrc, fx_0_7, fx_7_12, fx_19_6, -BitVec.getLsbD_eq_getElem]

theorem br p n o : Statement (.br p n o) := by
  refine of_word (w := fun c => b1 c ++ fb 28#6 p n o) (fun _ => rfl) fun c hw => ?_
  rw [decode_28 (fb_25_6 ..)]
  simp [decBr, fb_0_20, fb_20_0, fb_21_4, -BitVec.getLsbD_eq_getElem]
  intro hp
  simp [WellFormed, wf, faultLevel, hp] at hw

theorem bra o : Statement (.bra o) := by
  refine of_word (w := fun c => b1 c ++ fb 28#6 0#4 false o) (fun _ => rfl) fun c hw => ?_
  rw [decode_28 (fb_25_6 ..)]
  simp [decBr, fb_0_20, fb_20_0, fb_21_4, -BitVec.getLsbD_eq_getElem]

theorem call p n o : Statement (.call p n o) := by
  refine of_word (w := fun c => b1 c ++ fb 29#6 p n o) (fun _ => rfl) fun c hw => ?_
  rw [decode_29 (fb_25_6 ..)]
  simp [decCall, fb_0_20, fb_20_0, fb_21_4, -BitVec.getLsbD_eq_getElem]
  intro hp
  simpa [WellFormed, wf, faultLevel, hp] using hw

theorem ret : Statement (.ret) := by
  refine of_word (w := fun c => b1 c ++ fx 30#6 0#6 0#6 0#6 0#7) (fun _ => rfl) fun c hw => ?_
  rw [decode_30 (fx_25_6 ..)]
  simp [decJmpx, fx_0_7, fx_7_18, -BitVec.getLsbD_eq_getElem]

theorem callr a : Statement (.callr a) := by
  refine of_word (w := fun c => b1 c ++ fx 30#6 0#6 a 0#6 1#7) (fun _ => rfl) fun c hw => ?_
  rw [decode_30 (fx_25_6 ..)]
  simp [decJmpx, fx_0_7, fx_7_6, fx_13_6, fx_19_6, -BitVec.getLsbD_eq_getElem]

theorem jmpr a : Statement (.jmpr a) := by
  refine of_word (w := fun c => b1 c ++ fx 30#6 0#6 a 0#6 2#7) (fun _ => rfl) fun c hw => ?_
  rw [decode_30 (fx_25_6 ..)]
  simp [decJmpx, fx_0_7, fx_7_6, fx_13_6, fx_19_6, -BitVec.getLsbD_eq_getElem]

theorem eret : Statement (.eret) := by
  refine of_word (w := fun c => b1 c ++ fx 30#6 0#6 0#6 0#6 3#7) (fun _ => rfl) fun c hw => ?_
  rw [decode_30 (fx_25_6 ..)]
  simp [decJmpx, fx_0_7, fx_7_18, -BitVec.getLsbD_eq_getElem]

theorem enter d a i : Statement (.enter d a i) := by
  refine of_word (w := fun c => b1 c ++ fi 31#6 d a false i) (fun _ => rfl) fun c hw => ?_
  rw [decode_31 (fi_25_6 ..)]
  simp [decEnter, fi_0_12, fi_12_1, fi_13_6, fi_19_6, b1_false, -BitVec.getLsbD_eq_getElem]

theorem loop d i : Statement (.loop d i) := by
  refine of_word (w := fun c => b1 c ++ fl 32#6 d i) (fun _ => rfl) fun c hw => ?_
  rw [decode_32 (fl_25_6 ..)]
  simp [decLoop, fl_0_19, fl_19_6, -BitVec.getLsbD_eq_getElem]

theorem mbr np p1 p2 p3 p4 n1 n2 n3 n4 off1 off2 off3 off4 : Statement (.mbr np p1 p2 p3 p4 n1 n2 n3 n4 off1 off2 off3 off4) := by
  intro c _ _
  exact decode_mbr np p1 p2 p3 p4 n1 n2 n3 n4 off1 off2 off3 off4

theorem endFibre : Statement (.endFibre) := by
  refine of_word (w := fun c => b1 c ++ fx 35#6 0#6 0#6 0#6 0#7) (fun _ => rfl) fun c hw => ?_
  rw [decode_35 (fx_25_6 ..)]
  simp [decFibr, fx_0_7, fx_7_18, -BitVec.getLsbD_eq_getElem]

theorem spawn d a b : Statement (.spawn d a b) := by
  refine of_word (w := fun c => b1 c ++ fx 35#6 d a b 2#7) (fun _ => rfl) fun c hw => ?_
  rw [decode_35 (fx_25_6 ..)]
  simp [decFibr, fx_0_7, fx_7_6, fx_13_6, fx_19_6, -BitVec.getLsbD_eq_getElem]

theorem fid d : Statement (.fid d) := by
  refine of_word (w := fun c => b1 c ++ fx 35#6 d 0#6 0#6 3#7) (fun _ => rfl) fun c hw => ?_
  rw [decode_35 (fx_25_6 ..)]
  simp [decFibr, fx_0_7, fx_7_12, fx_19_6, -BitVec.getLsbD_eq_getElem]

theorem cid d : Statement (.cid d) := by
  refine of_word (w := fun c => b1 c ++ fx 35#6 d 0#6 0#6 4#7) (fun _ => rfl) fun c hw => ?_
  rw [decode_35 (fx_25_6 ..)]
  simp [decFibr, fx_0_7, fx_7_12, fx_19_6, -BitVec.getLsbD_eq_getElem]

theorem gid d : Statement (.gid d) := by
  refine of_word (w := fun c => b1 c ++ fx 35#6 d 0#6 0#6 5#7) (fun _ => rfl) fun c hw => ?_
  rw [decode_35 (fx_25_6 ..)]
  simp [decFibr, fx_0_7, fx_7_12, fx_19_6, -BitVec.getLsbD_eq_getElem]

theorem stg d : Statement (.stg d) := by
  refine of_word (w := fun c => b1 c ++ fx 35#6 d 0#6 0#6 6#7) (fun _ => rfl) fun c hw => ?_
  rw [decode_35 (fx_25_6 ..)]
  simp [decFibr, fx_0_7, fx_7_12, fx_19_6, -BitVec.getLsbD_eq_getElem]

theorem nid d : Statement (.nid d) := by
  refine of_word (w := fun c => b1 c ++ fx 35#6 d 0#6 0#6 7#7) (fun _ => rfl) fun c hw => ?_
  rw [decode_35 (fx_25_6 ..)]
  simp [decFibr, fx_0_7, fx_7_12, fx_19_6, -BitVec.getLsbD_eq_getElem]

theorem yield h i : Statement (.yield h i) := by
  refine of_word (w := fun c => b1 c ++ fl 36#6 0#6 (h ++ i)) (fun _ => rfl) fun c hw => ?_
  rw [decode_36 (fl_25_6 ..)]
  simp [decYield, fl_0_16, fl_16_3, fl_19_6, sh316_16_3, sh316_0_16, -BitVec.getLsbD_eq_getElem]

theorem shfl d a b : Statement (.shfl d a b) := by
  refine of_word (w := fun c => b1 c ++ fx 37#6 d a b 0#7) (fun _ => rfl) fun c hw => ?_
  rw [decode_37 (fx_25_6 ..)]
  simp [decColl, fx_0_7, fx_7_6, fx_13_6, fx_19_6, -BitVec.getLsbD_eq_getElem]

theorem shflXor d a b : Statement (.shflXor d a b) := by
  refine of_word (w := fun c => b1 c ++ fx 37#6 d a b 1#7) (fun _ => rfl) fun c hw => ?_
  rw [decode_37 (fx_25_6 ..)]
  simp [decColl, fx_0_7, fx_7_6, fx_13_6, fx_19_6, -BitVec.getLsbD_eq_getElem]

theorem shflUp d a b : Statement (.shflUp d a b) := by
  refine of_word (w := fun c => b1 c ++ fx 37#6 d a b 2#7) (fun _ => rfl) fun c hw => ?_
  rw [decode_37 (fx_25_6 ..)]
  simp [decColl, fx_0_7, fx_7_6, fx_13_6, fx_19_6, -BitVec.getLsbD_eq_getElem]

theorem shflDown d a b : Statement (.shflDown d a b) := by
  refine of_word (w := fun c => b1 c ++ fx 37#6 d a b 3#7) (fun _ => rfl) fun c hw => ?_
  rw [decode_37 (fx_25_6 ..)]
  simp [decColl, fx_0_7, fx_7_6, fx_13_6, fx_19_6, -BitVec.getLsbD_eq_getElem]

theorem voteAny d a b : Statement (.voteAny d a b) := by
  refine of_word (w := fun c => b1 c ++ fx 37#6 d a b 4#7) (fun _ => rfl) fun c hw => ?_
  rw [decode_37 (fx_25_6 ..)]
  simp [decColl, fx_0_7, fx_7_6, fx_13_6, fx_19_6, -BitVec.getLsbD_eq_getElem]

theorem voteAll d a b : Statement (.voteAll d a b) := by
  refine of_word (w := fun c => b1 c ++ fx 37#6 d a b 5#7) (fun _ => rfl) fun c hw => ?_
  rw [decode_37 (fx_25_6 ..)]
  simp [decColl, fx_0_7, fx_7_6, fx_13_6, fx_19_6, -BitVec.getLsbD_eq_getElem]

theorem ballot d a b : Statement (.ballot d a b) := by
  refine of_word (w := fun c => b1 c ++ fx 37#6 d a b 6#7) (fun _ => rfl) fun c hw => ?_
  rw [decode_37 (fx_25_6 ..)]
  simp [decColl, fx_0_7, fx_7_6, fx_13_6, fx_19_6, -BitVec.getLsbD_eq_getElem]

theorem reduxAdd d a b : Statement (.reduxAdd d a b) := by
  refine of_word (w := fun c => b1 c ++ fx 37#6 d a b 7#7) (fun _ => rfl) fun c hw => ?_
  rw [decode_37 (fx_25_6 ..)]
  simp [decColl, fx_0_7, fx_7_6, fx_13_6, fx_19_6, -BitVec.getLsbD_eq_getElem]

theorem reduxMin d a b : Statement (.reduxMin d a b) := by
  refine of_word (w := fun c => b1 c ++ fx 37#6 d a b 8#7) (fun _ => rfl) fun c hw => ?_
  rw [decode_37 (fx_25_6 ..)]
  simp [decColl, fx_0_7, fx_7_6, fx_13_6, fx_19_6, -BitVec.getLsbD_eq_getElem]

theorem reduxMax d a b : Statement (.reduxMax d a b) := by
  refine of_word (w := fun c => b1 c ++ fx 37#6 d a b 9#7) (fun _ => rfl) fun c hw => ?_
  rw [decode_37 (fx_25_6 ..)]
  simp [decColl, fx_0_7, fx_7_6, fx_13_6, fx_19_6, -BitVec.getLsbD_eq_getElem]

theorem reduxYadd d a b : Statement (.reduxYadd d a b) := by
  refine of_word (w := fun c => b1 c ++ fx 37#6 d a b 10#7) (fun _ => rfl) fun c hw => ?_
  rw [decode_37 (fx_25_6 ..)]
  simp [decColl, fx_0_7, fx_7_6, fx_13_6, fx_19_6, -BitVec.getLsbD_eq_getElem]

theorem matchLanes d a b : Statement (.matchLanes d a b) := by
  refine of_word (w := fun c => b1 c ++ fx 37#6 d a b 11#7) (fun _ => rfl) fun c hw => ?_
  rw [decode_37 (fx_25_6 ..)]
  simp [decColl, fx_0_7, fx_7_6, fx_13_6, fx_19_6, -BitVec.getLsbD_eq_getElem]

theorem present d b : Statement (.present d b) := by
  refine of_word (w := fun c => b1 c ++ fx 37#6 d 0#6 b 12#7) (fun _ => rfl) fun c hw => ?_
  rw [decode_37 (fx_25_6 ..)]
  simp [decColl, fx_0_7, fx_7_6, fx_13_6, fx_19_6, -BitVec.getLsbD_eq_getElem]

theorem objInit d a b : Statement (.objInit d a b) := by
  refine of_word (w := fun c => b1 c ++ fx 38#6 d a b 0#7) (fun _ => rfl) fun c hw => ?_
  rw [decode_38 (fx_25_6 ..)]
  simp [decObj, fx_0_7, fx_7_6, fx_13_6, fx_19_6, -BitVec.getLsbD_eq_getElem]

theorem objPush d a b : Statement (.objPush d a b) := by
  refine of_word (w := fun c => b1 c ++ fx 38#6 d a b 1#7) (fun _ => rfl) fun c hw => ?_
  rw [decode_38 (fx_25_6 ..)]
  simp [decObj, fx_0_7, fx_7_6, fx_13_6, fx_19_6, -BitVec.getLsbD_eq_getElem]

theorem objPop d a b : Statement (.objPop d a b) := by
  refine of_word (w := fun c => b1 c ++ fx 38#6 d a b 2#7) (fun _ => rfl) fun c hw => ?_
  rw [decode_38 (fx_25_6 ..)]
  simp [decObj, fx_0_7, fx_7_6, fx_13_6, fx_19_6, -BitVec.getLsbD_eq_getElem]

theorem objEnq d a b : Statement (.objEnq d a b) := by
  refine of_word (w := fun c => b1 c ++ fx 38#6 d a b 3#7) (fun _ => rfl) fun c hw => ?_
  rw [decode_38 (fx_25_6 ..)]
  simp [decObj, fx_0_7, fx_7_6, fx_13_6, fx_19_6, -BitVec.getLsbD_eq_getElem]

theorem objDeq d a b : Statement (.objDeq d a b) := by
  refine of_word (w := fun c => b1 c ++ fx 38#6 d a b 4#7) (fun _ => rfl) fun c hw => ?_
  rw [decode_38 (fx_25_6 ..)]
  simp [decObj, fx_0_7, fx_7_6, fx_13_6, fx_19_6, -BitVec.getLsbD_eq_getElem]

theorem objAdd d a b : Statement (.objAdd d a b) := by
  refine of_word (w := fun c => b1 c ++ fx 38#6 d a b 5#7) (fun _ => rfl) fun c hw => ?_
  rw [decode_38 (fx_25_6 ..)]
  simp [decObj, fx_0_7, fx_7_6, fx_13_6, fx_19_6, -BitVec.getLsbD_eq_getElem]

theorem objArrive d a b : Statement (.objArrive d a b) := by
  refine of_word (w := fun c => b1 c ++ fx 38#6 d a b 6#7) (fun _ => rfl) fun c hw => ?_
  rw [decode_38 (fx_25_6 ..)]
  simp [decObj, fx_0_7, fx_7_6, fx_13_6, fx_19_6, -BitVec.getLsbD_eq_getElem]

theorem objPeek d a b : Statement (.objPeek d a b) := by
  refine of_word (w := fun c => b1 c ++ fx 38#6 d a b 7#7) (fun _ => rfl) fun c hw => ?_
  rw [decode_38 (fx_25_6 ..)]
  simp [decObj, fx_0_7, fx_7_6, fx_13_6, fx_19_6, -BitVec.getLsbD_eq_getElem]

theorem objHelp d a b : Statement (.objHelp d a b) := by
  refine of_word (w := fun c => b1 c ++ fx 38#6 d a b 8#7) (fun _ => rfl) fun c hw => ?_
  rw [decode_38 (fx_25_6 ..)]
  simp [decObj, fx_0_7, fx_7_6, fx_13_6, fx_19_6, -BitVec.getLsbD_eq_getElem]

theorem amoAdd d a b s : Statement (.amoAdd d a b s) := by
  refine of_word (w := fun c => b1 c ++ fx 39#6 d a b (s ++ 0#4)) (fun _ => rfl) fun c hw => ?_
  rw [decode_39 (fx_25_6 ..)]
  simp [decAmo, fx_0_4, fx_4_3, fx_7_6, fx_13_6, fx_19_6, sh34_4_3, sh34_0_4, -BitVec.getLsbD_eq_getElem]

theorem amoAnd d a b s : Statement (.amoAnd d a b s) := by
  refine of_word (w := fun c => b1 c ++ fx 39#6 d a b (s ++ 1#4)) (fun _ => rfl) fun c hw => ?_
  rw [decode_39 (fx_25_6 ..)]
  simp [decAmo, fx_0_4, fx_4_3, fx_7_6, fx_13_6, fx_19_6, sh34_4_3, sh34_0_4, -BitVec.getLsbD_eq_getElem]

theorem amoOr d a b s : Statement (.amoOr d a b s) := by
  refine of_word (w := fun c => b1 c ++ fx 39#6 d a b (s ++ 2#4)) (fun _ => rfl) fun c hw => ?_
  rw [decode_39 (fx_25_6 ..)]
  simp [decAmo, fx_0_4, fx_4_3, fx_7_6, fx_13_6, fx_19_6, sh34_4_3, sh34_0_4, -BitVec.getLsbD_eq_getElem]

theorem amoXor d a b s : Statement (.amoXor d a b s) := by
  refine of_word (w := fun c => b1 c ++ fx 39#6 d a b (s ++ 3#4)) (fun _ => rfl) fun c hw => ?_
  rw [decode_39 (fx_25_6 ..)]
  simp [decAmo, fx_0_4, fx_4_3, fx_7_6, fx_13_6, fx_19_6, sh34_4_3, sh34_0_4, -BitVec.getLsbD_eq_getElem]

theorem amoMin d a b s : Statement (.amoMin d a b s) := by
  refine of_word (w := fun c => b1 c ++ fx 39#6 d a b (s ++ 4#4)) (fun _ => rfl) fun c hw => ?_
  rw [decode_39 (fx_25_6 ..)]
  simp [decAmo, fx_0_4, fx_4_3, fx_7_6, fx_13_6, fx_19_6, sh34_4_3, sh34_0_4, -BitVec.getLsbD_eq_getElem]

theorem amoMax d a b s : Statement (.amoMax d a b s) := by
  refine of_word (w := fun c => b1 c ++ fx 39#6 d a b (s ++ 5#4)) (fun _ => rfl) fun c hw => ?_
  rw [decode_39 (fx_25_6 ..)]
  simp [decAmo, fx_0_4, fx_4_3, fx_7_6, fx_13_6, fx_19_6, sh34_4_3, sh34_0_4, -BitVec.getLsbD_eq_getElem]

theorem amoMinu d a b s : Statement (.amoMinu d a b s) := by
  refine of_word (w := fun c => b1 c ++ fx 39#6 d a b (s ++ 6#4)) (fun _ => rfl) fun c hw => ?_
  rw [decode_39 (fx_25_6 ..)]
  simp [decAmo, fx_0_4, fx_4_3, fx_7_6, fx_13_6, fx_19_6, sh34_4_3, sh34_0_4, -BitVec.getLsbD_eq_getElem]

theorem amoMaxu d a b s : Statement (.amoMaxu d a b s) := by
  refine of_word (w := fun c => b1 c ++ fx 39#6 d a b (s ++ 7#4)) (fun _ => rfl) fun c hw => ?_
  rw [decode_39 (fx_25_6 ..)]
  simp [decAmo, fx_0_4, fx_4_3, fx_7_6, fx_13_6, fx_19_6, sh34_4_3, sh34_0_4, -BitVec.getLsbD_eq_getElem]

theorem amoSwap d a b s : Statement (.amoSwap d a b s) := by
  refine of_word (w := fun c => b1 c ++ fx 39#6 d a b (s ++ 8#4)) (fun _ => rfl) fun c hw => ?_
  rw [decode_39 (fx_25_6 ..)]
  simp [decAmo, fx_0_4, fx_4_3, fx_7_6, fx_13_6, fx_19_6, sh34_4_3, sh34_0_4, -BitVec.getLsbD_eq_getElem]

theorem amoCas d a b s : Statement (.amoCas d a b s) := by
  refine of_word (w := fun c => b1 c ++ fx 39#6 d a b (s ++ 9#4)) (fun _ => rfl) fun c hw => ?_
  rw [decode_39 (fx_25_6 ..)]
  simp [decAmo, fx_0_4, fx_4_3, fx_7_6, fx_13_6, fx_19_6, sh34_4_3, sh34_0_4, -BitVec.getLsbD_eq_getElem]

theorem amoAddD d a b s : Statement (.amoAddD d a b s) := by
  refine of_word (w := fun c => b1 c ++ fx 39#6 d a b (s ++ 10#4)) (fun _ => rfl) fun c hw => ?_
  rw [decode_39 (fx_25_6 ..)]
  simp [decAmo, fx_0_4, fx_4_3, fx_7_6, fx_13_6, fx_19_6, sh34_4_3, sh34_0_4, -BitVec.getLsbD_eq_getElem]

theorem amoSwapD d a b s : Statement (.amoSwapD d a b s) := by
  refine of_word (w := fun c => b1 c ++ fx 39#6 d a b (s ++ 11#4)) (fun _ => rfl) fun c hw => ?_
  rw [decode_39 (fx_25_6 ..)]
  simp [decAmo, fx_0_4, fx_4_3, fx_7_6, fx_13_6, fx_19_6, sh34_4_3, sh34_0_4, -BitVec.getLsbD_eq_getElem]

theorem amoCasD d a b s : Statement (.amoCasD d a b s) := by
  refine of_word (w := fun c => b1 c ++ fx 39#6 d a b (s ++ 12#4)) (fun _ => rfl) fun c hw => ?_
  rw [decode_39 (fx_25_6 ..)]
  simp [decAmo, fx_0_4, fx_4_3, fx_7_6, fx_13_6, fx_19_6, sh34_4_3, sh34_0_4, -BitVec.getLsbD_eq_getElem]

theorem amoCasQ d a b s : Statement (.amoCasQ d a b s) := by
  refine of_word (w := fun c => b1 c ++ fx 39#6 d a b (s ++ 13#4)) (fun _ => rfl) fun c hw => ?_
  rw [decode_39 (fx_25_6 ..)]
  simp [decAmo, fx_0_4, fx_4_3, fx_7_6, fx_13_6, fx_19_6, sh34_4_3, sh34_0_4, -BitVec.getLsbD_eq_getElem]

theorem amoAddAr d a b s : Statement (.amoAddAr d a b s) := by
  refine of_word (w := fun c => b1 c ++ fx 40#6 d a b (s ++ 0#4)) (fun _ => rfl) fun c hw => ?_
  rw [decode_40 (fx_25_6 ..)]
  simp [decAmoAr, fx_0_4, fx_4_3, fx_7_6, fx_13_6, fx_19_6, sh34_4_3, sh34_0_4, -BitVec.getLsbD_eq_getElem]

theorem amoAndAr d a b s : Statement (.amoAndAr d a b s) := by
  refine of_word (w := fun c => b1 c ++ fx 40#6 d a b (s ++ 1#4)) (fun _ => rfl) fun c hw => ?_
  rw [decode_40 (fx_25_6 ..)]
  simp [decAmoAr, fx_0_4, fx_4_3, fx_7_6, fx_13_6, fx_19_6, sh34_4_3, sh34_0_4, -BitVec.getLsbD_eq_getElem]

theorem amoOrAr d a b s : Statement (.amoOrAr d a b s) := by
  refine of_word (w := fun c => b1 c ++ fx 40#6 d a b (s ++ 2#4)) (fun _ => rfl) fun c hw => ?_
  rw [decode_40 (fx_25_6 ..)]
  simp [decAmoAr, fx_0_4, fx_4_3, fx_7_6, fx_13_6, fx_19_6, sh34_4_3, sh34_0_4, -BitVec.getLsbD_eq_getElem]

theorem amoXorAr d a b s : Statement (.amoXorAr d a b s) := by
  refine of_word (w := fun c => b1 c ++ fx 40#6 d a b (s ++ 3#4)) (fun _ => rfl) fun c hw => ?_
  rw [decode_40 (fx_25_6 ..)]
  simp [decAmoAr, fx_0_4, fx_4_3, fx_7_6, fx_13_6, fx_19_6, sh34_4_3, sh34_0_4, -BitVec.getLsbD_eq_getElem]

theorem amoMinAr d a b s : Statement (.amoMinAr d a b s) := by
  refine of_word (w := fun c => b1 c ++ fx 40#6 d a b (s ++ 4#4)) (fun _ => rfl) fun c hw => ?_
  rw [decode_40 (fx_25_6 ..)]
  simp [decAmoAr, fx_0_4, fx_4_3, fx_7_6, fx_13_6, fx_19_6, sh34_4_3, sh34_0_4, -BitVec.getLsbD_eq_getElem]

theorem amoMaxAr d a b s : Statement (.amoMaxAr d a b s) := by
  refine of_word (w := fun c => b1 c ++ fx 40#6 d a b (s ++ 5#4)) (fun _ => rfl) fun c hw => ?_
  rw [decode_40 (fx_25_6 ..)]
  simp [decAmoAr, fx_0_4, fx_4_3, fx_7_6, fx_13_6, fx_19_6, sh34_4_3, sh34_0_4, -BitVec.getLsbD_eq_getElem]

theorem amoMinuAr d a b s : Statement (.amoMinuAr d a b s) := by
  refine of_word (w := fun c => b1 c ++ fx 40#6 d a b (s ++ 6#4)) (fun _ => rfl) fun c hw => ?_
  rw [decode_40 (fx_25_6 ..)]
  simp [decAmoAr, fx_0_4, fx_4_3, fx_7_6, fx_13_6, fx_19_6, sh34_4_3, sh34_0_4, -BitVec.getLsbD_eq_getElem]

theorem amoMaxuAr d a b s : Statement (.amoMaxuAr d a b s) := by
  refine of_word (w := fun c => b1 c ++ fx 40#6 d a b (s ++ 7#4)) (fun _ => rfl) fun c hw => ?_
  rw [decode_40 (fx_25_6 ..)]
  simp [decAmoAr, fx_0_4, fx_4_3, fx_7_6, fx_13_6, fx_19_6, sh34_4_3, sh34_0_4, -BitVec.getLsbD_eq_getElem]

theorem amoSwapAr d a b s : Statement (.amoSwapAr d a b s) := by
  refine of_word (w := fun c => b1 c ++ fx 40#6 d a b (s ++ 8#4)) (fun _ => rfl) fun c hw => ?_
  rw [decode_40 (fx_25_6 ..)]
  simp [decAmoAr, fx_0_4, fx_4_3, fx_7_6, fx_13_6, fx_19_6, sh34_4_3, sh34_0_4, -BitVec.getLsbD_eq_getElem]

theorem amoCasAr d a b s : Statement (.amoCasAr d a b s) := by
  refine of_word (w := fun c => b1 c ++ fx 40#6 d a b (s ++ 9#4)) (fun _ => rfl) fun c hw => ?_
  rw [decode_40 (fx_25_6 ..)]
  simp [decAmoAr, fx_0_4, fx_4_3, fx_7_6, fx_13_6, fx_19_6, sh34_4_3, sh34_0_4, -BitVec.getLsbD_eq_getElem]

theorem amoAddDAr d a b s : Statement (.amoAddDAr d a b s) := by
  refine of_word (w := fun c => b1 c ++ fx 40#6 d a b (s ++ 10#4)) (fun _ => rfl) fun c hw => ?_
  rw [decode_40 (fx_25_6 ..)]
  simp [decAmoAr, fx_0_4, fx_4_3, fx_7_6, fx_13_6, fx_19_6, sh34_4_3, sh34_0_4, -BitVec.getLsbD_eq_getElem]

theorem amoSwapDAr d a b s : Statement (.amoSwapDAr d a b s) := by
  refine of_word (w := fun c => b1 c ++ fx 40#6 d a b (s ++ 11#4)) (fun _ => rfl) fun c hw => ?_
  rw [decode_40 (fx_25_6 ..)]
  simp [decAmoAr, fx_0_4, fx_4_3, fx_7_6, fx_13_6, fx_19_6, sh34_4_3, sh34_0_4, -BitVec.getLsbD_eq_getElem]

theorem amoCasDAr d a b s : Statement (.amoCasDAr d a b s) := by
  refine of_word (w := fun c => b1 c ++ fx 40#6 d a b (s ++ 12#4)) (fun _ => rfl) fun c hw => ?_
  rw [decode_40 (fx_25_6 ..)]
  simp [decAmoAr, fx_0_4, fx_4_3, fx_7_6, fx_13_6, fx_19_6, sh34_4_3, sh34_0_4, -BitVec.getLsbD_eq_getElem]

theorem amoCasQAr d a b s : Statement (.amoCasQAr d a b s) := by
  refine of_word (w := fun c => b1 c ++ fx 40#6 d a b (s ++ 13#4)) (fun _ => rfl) fun c hw => ?_
  rw [decode_40 (fx_25_6 ..)]
  simp [decAmoAr, fx_0_4, fx_4_3, fx_7_6, fx_13_6, fx_19_6, sh34_4_3, sh34_0_4, -BitVec.getLsbD_eq_getElem]

theorem redAdd a b s : Statement (.redAdd a b s) := by
  refine of_word (w := fun c => b1 c ++ fx 41#6 0#6 a b (s ++ 0#4)) (fun _ => rfl) fun c hw => ?_
  rw [decode_41 (fx_25_6 ..)]
  simp [decRed, fx_0_4, fx_4_3, fx_7_6, fx_13_6, fx_19_6, sh34_4_3, sh34_0_4, -BitVec.getLsbD_eq_getElem]

theorem redAnd a b s : Statement (.redAnd a b s) := by
  refine of_word (w := fun c => b1 c ++ fx 41#6 0#6 a b (s ++ 1#4)) (fun _ => rfl) fun c hw => ?_
  rw [decode_41 (fx_25_6 ..)]
  simp [decRed, fx_0_4, fx_4_3, fx_7_6, fx_13_6, fx_19_6, sh34_4_3, sh34_0_4, -BitVec.getLsbD_eq_getElem]

theorem redOr a b s : Statement (.redOr a b s) := by
  refine of_word (w := fun c => b1 c ++ fx 41#6 0#6 a b (s ++ 2#4)) (fun _ => rfl) fun c hw => ?_
  rw [decode_41 (fx_25_6 ..)]
  simp [decRed, fx_0_4, fx_4_3, fx_7_6, fx_13_6, fx_19_6, sh34_4_3, sh34_0_4, -BitVec.getLsbD_eq_getElem]

theorem redXor a b s : Statement (.redXor a b s) := by
  refine of_word (w := fun c => b1 c ++ fx 41#6 0#6 a b (s ++ 3#4)) (fun _ => rfl) fun c hw => ?_
  rw [decode_41 (fx_25_6 ..)]
  simp [decRed, fx_0_4, fx_4_3, fx_7_6, fx_13_6, fx_19_6, sh34_4_3, sh34_0_4, -BitVec.getLsbD_eq_getElem]

theorem redMin a b s : Statement (.redMin a b s) := by
  refine of_word (w := fun c => b1 c ++ fx 41#6 0#6 a b (s ++ 4#4)) (fun _ => rfl) fun c hw => ?_
  rw [decode_41 (fx_25_6 ..)]
  simp [decRed, fx_0_4, fx_4_3, fx_7_6, fx_13_6, fx_19_6, sh34_4_3, sh34_0_4, -BitVec.getLsbD_eq_getElem]

theorem redMax a b s : Statement (.redMax a b s) := by
  refine of_word (w := fun c => b1 c ++ fx 41#6 0#6 a b (s ++ 5#4)) (fun _ => rfl) fun c hw => ?_
  rw [decode_41 (fx_25_6 ..)]
  simp [decRed, fx_0_4, fx_4_3, fx_7_6, fx_13_6, fx_19_6, sh34_4_3, sh34_0_4, -BitVec.getLsbD_eq_getElem]

theorem redFaddF32 a b s : Statement (.redFaddF32 a b s) := by
  refine of_word (w := fun c => b1 c ++ fx 41#6 0#6 a b (s ++ 6#4)) (fun _ => rfl) fun c hw => ?_
  rw [decode_41 (fx_25_6 ..)]
  simp [decRed, fx_0_4, fx_4_3, fx_7_6, fx_13_6, fx_19_6, sh34_4_3, sh34_0_4, -BitVec.getLsbD_eq_getElem]

theorem redFaddBf16 a b s : Statement (.redFaddBf16 a b s) := by
  refine of_word (w := fun c => b1 c ++ fx 41#6 0#6 a b (s ++ 7#4)) (fun _ => rfl) fun c hw => ?_
  rw [decode_41 (fx_25_6 ..)]
  simp [decRed, fx_0_4, fx_4_3, fx_7_6, fx_13_6, fx_19_6, sh34_4_3, sh34_0_4, -BitVec.getLsbD_eq_getElem]

theorem redAddD a b s : Statement (.redAddD a b s) := by
  refine of_word (w := fun c => b1 c ++ fx 41#6 0#6 a b (s ++ 8#4)) (fun _ => rfl) fun c hw => ?_
  rw [decode_41 (fx_25_6 ..)]
  simp [decRed, fx_0_4, fx_4_3, fx_7_6, fx_13_6, fx_19_6, sh34_4_3, sh34_0_4, -BitVec.getLsbD_eq_getElem]

theorem ldaW d a s : Statement (.ldaW d a s) := by
  refine of_word (w := fun c => b1 c ++ fx 42#6 d a 0#6 (s ++ 0#4)) (fun _ => rfl) fun c hw => ?_
  rw [decode_42 (fx_25_6 ..)]
  simp [decLdaStr, fx_0_4, fx_4_3, fx_7_6, fx_13_6, fx_19_6, sh34_4_3, sh34_0_4, -BitVec.getLsbD_eq_getElem]

theorem ldaD d a s : Statement (.ldaD d a s) := by
  refine of_word (w := fun c => b1 c ++ fx 42#6 d a 0#6 (s ++ 1#4)) (fun _ => rfl) fun c hw => ?_
  rw [decode_42 (fx_25_6 ..)]
  simp [decLdaStr, fx_0_4, fx_4_3, fx_7_6, fx_13_6, fx_19_6, sh34_4_3, sh34_0_4, -BitVec.getLsbD_eq_getElem]

theorem ldaB d a s : Statement (.ldaB d a s) := by
  refine of_word (w := fun c => b1 c ++ fx 42#6 d a 0#6 (s ++ 2#4)) (fun _ => rfl) fun c hw => ?_
  rw [decode_42 (fx_25_6 ..)]
  simp [decLdaStr, fx_0_4, fx_4_3, fx_7_6, fx_13_6, fx_19_6, sh34_4_3, sh34_0_4, -BitVec.getLsbD_eq_getElem]

theorem strW a b s : Statement (.strW a b s) := by
  refine of_word (w := fun c => b1 c ++ fx 42#6 0#6 a b (s ++ 8#4)) (fun _ => rfl) fun c hw => ?_
  rw [decode_42 (fx_25_6 ..)]
  simp [decLdaStr, fx_0_4, fx_4_3, fx_7_6, fx_13_6, fx_19_6, sh34_4_3, sh34_0_4, -BitVec.getLsbD_eq_getElem]

theorem strD a b s : Statement (.strD a b s) := by
  refine of_word (w := fun c => b1 c ++ fx 42#6 0#6 a b (s ++ 9#4)) (fun _ => rfl) fun c hw => ?_
  rw [decode_42 (fx_25_6 ..)]
  simp [decLdaStr, fx_0_4, fx_4_3, fx_7_6, fx_13_6, fx_19_6, sh34_4_3, sh34_0_4, -BitVec.getLsbD_eq_getElem]

theorem strB a b s : Statement (.strB a b s) := by
  refine of_word (w := fun c => b1 c ++ fx 42#6 0#6 a b (s ++ 10#4)) (fun _ => rfl) fun c hw => ?_
  rw [decode_42 (fx_25_6 ..)]
  simp [decLdaStr, fx_0_4, fx_4_3, fx_7_6, fx_13_6, fx_19_6, sh34_4_3, sh34_0_4, -BitVec.getLsbD_eq_getElem]

theorem fence s k : Statement (.fence s k) := by
  refine of_word (w := fun c => b1 c ++ fx 43#6 0#6 0#6 0#6 (s ++ 0#2 ++ b1 k ++ 0#1)) (fun _ => rfl) fun c hw => ?_
  rw [decode_43 (fx_25_6 ..)]
  simp [decFence, fx_0_1, fx_1_0, fx_2_2, fx_4_3, fx_7_18, shFence, -BitVec.getLsbD_eq_getElem]

theorem fenceAcq s k : Statement (.fenceAcq s k) := by
  refine of_word (w := fun c => b1 c ++ fx 43#6 0#6 0#6 0#6 (s ++ 1#2 ++ b1 k ++ 0#1)) (fun _ => rfl) fun c hw => ?_
  rw [decode_43 (fx_25_6 ..)]
  simp [decFence, fx_0_1, fx_1_0, fx_2_2, fx_4_3, fx_7_18, shFence, -BitVec.getLsbD_eq_getElem]

theorem fenceRel s k : Statement (.fenceRel s k) := by
  refine of_word (w := fun c => b1 c ++ fx 43#6 0#6 0#6 0#6 (s ++ 2#2 ++ b1 k ++ 0#1)) (fun _ => rfl) fun c hw => ?_
  rw [decode_43 (fx_25_6 ..)]
  simp [decFence, fx_0_1, fx_1_0, fx_2_2, fx_4_3, fx_7_18, shFence, -BitVec.getLsbD_eq_getElem]

theorem wbr a b s : Statement (.wbr a b s) := by
  refine of_word (w := fun c => b1 c ++ fx 44#6 0#6 a b (s ++ 0#4)) (fun _ => rfl) fun c hw => ?_
  rw [decode_44 (fx_25_6 ..)]
  simp [decCache, fx_0_4, fx_4_3, fx_7_6, fx_13_6, fx_19_6, sh34_4_3, sh34_0_4, -BitVec.getLsbD_eq_getElem]

theorem invr a b s : Statement (.invr a b s) := by
  refine of_word (w := fun c => b1 c ++ fx 44#6 0#6 a b (s ++ 1#4)) (fun _ => rfl) fun c hw => ?_
  rw [decode_44 (fx_25_6 ..)]
  simp [decCache, fx_0_4, fx_4_3, fx_7_6, fx_13_6, fx_19_6, sh34_4_3, sh34_0_4, -BitVec.getLsbD_eq_getElem]

theorem pref a b s : Statement (.pref a b s) := by
  refine of_word (w := fun c => b1 c ++ fx 44#6 0#6 a b (s ++ 2#4)) (fun _ => rfl) fun c hw => ?_
  rw [decode_44 (fx_25_6 ..)]
  simp [decCache, fx_0_4, fx_4_3, fx_7_6, fx_13_6, fx_19_6, sh34_4_3, sh34_0_4, -BitVec.getLsbD_eq_getElem]

theorem cpb d a b g : Statement (.cpb d a b g) := by
  refine of_word (w := fun c => b1 c ++ fx 47#6 d a b (0#5 ++ g)) (fun _ => rfl) fun c hw => ?_
  rw [decode_47 (fx_25_6 ..)]
  simp [decCpb, fx_0_2, fx_2_5, fx_7_6, fx_13_6, fx_19_6, sh52_2_5, sh52_0_2, -BitVec.getLsbD_eq_getElem]

theorem cpw g : Statement (.cpw g) := by
  refine of_word (w := fun c => b1 c ++ fx 48#6 0#6 0#6 0#6 (0#5 ++ g)) (fun _ => rfl) fun c hw => ?_
  rw [decode_48 (fx_25_6 ..)]
  simp [decCpw, fx_0_2, fx_2_1, fx_3_22, sh52_0_2, sh52_2_1, sh52_3_4, -BitVec.getLsbD_eq_getElem]

theorem cpwLe a g : Statement (.cpwLe a g) := by
  refine of_word (w := fun c => b1 c ++ fx 48#6 0#6 a 0#6 (1#5 ++ g)) (fun _ => rfl) fun c hw => ?_
  rw [decode_48 (fx_25_6 ..)]
  simp [decCpw, fx_0_2, fx_2_1, fx_3_10, fx_13_6, fx_19_6, sh52_0_2, sh52_2_1, sh52_3_4, -BitVec.getLsbD_eq_getElem]

theorem cptG2s d a x : Statement (.cptG2s d a x) := by
  refine of_word (w := fun c => b1 c ++ fx 49#6 d a 0#6 (x ++ 0#4)) (fun _ => rfl) fun c hw => ?_
  rw [decode_49 (fx_25_6 ..)]
  simp [decCpt, fx_0_4, fx_4_3, fx_7_6, fx_13_6, fx_19_6, sh34_4_3, sh34_0_4, -BitVec.getLsbD_eq_getElem]

theorem cptS2g d a x : Statement (.cptS2g d a x) := by
  refine of_word (w := fun c => b1 c ++ fx 49#6 d a 0#6 (x ++ 1#4)) (fun _ => rfl) fun c hw => ?_
  rw [decode_49 (fx_25_6 ..)]
  simp [decCpt, fx_0_4, fx_4_3, fx_7_6, fx_13_6, fx_19_6, sh34_4_3, sh34_0_4, -BitVec.getLsbD_eq_getElem]

theorem cptS2gAtom d a x : Statement (.cptS2gAtom d a x) := by
  refine of_word (w := fun c => b1 c ++ fx 49#6 d a 0#6 (x ++ 2#4)) (fun _ => rfl) fun c hw => ?_
  rw [decode_49 (fx_25_6 ..)]
  simp [decCpt, fx_0_4, fx_4_3, fx_7_6, fx_13_6, fx_19_6, sh34_4_3, sh34_0_4, -BitVec.getLsbD_eq_getElem]

theorem cptG2sCons d a x : Statement (.cptG2sCons d a x) := by
  refine of_word (w := fun c => b1 c ++ fx 49#6 d a 0#6 (x ++ 3#4)) (fun _ => rfl) fun c hw => ?_
  rw [decode_49 (fx_25_6 ..)]
  simp [decCpt, fx_0_4, fx_4_3, fx_7_6, fx_13_6, fx_19_6, sh34_4_3, sh34_0_4, -BitVec.getLsbD_eq_getElem]

theorem cptG2g d a x : Statement (.cptG2g d a x) := by
  refine of_word (w := fun c => b1 c ++ fx 49#6 d a 0#6 (x ++ 4#4)) (fun _ => rfl) fun c hw => ?_
  rw [decode_49 (fx_25_6 ..)]
  simp [decCpt, fx_0_4, fx_4_3, fx_7_6, fx_13_6, fx_19_6, sh34_4_3, sh34_0_4, -BitVec.getLsbD_eq_getElem]

theorem cptGather d a x : Statement (.cptGather d a x) := by
  refine of_word (w := fun c => b1 c ++ fx 49#6 d a 0#6 (x ++ 5#4)) (fun _ => rfl) fun c hw => ?_
  rw [decode_49 (fx_25_6 ..)]
  simp [decCpt, fx_0_4, fx_4_3, fx_7_6, fx_13_6, fx_19_6, sh34_4_3, sh34_0_4, -BitVec.getLsbD_eq_getElem]

theorem cptCbk d a x : Statement (.cptCbk d a x) := by
  refine of_word (w := fun c => b1 c ++ fx 49#6 d a 0#6 (x ++ 6#4)) (fun _ => rfl) fun c hw => ?_
  rw [decode_49 (fx_25_6 ..)]
  simp [decCpt, fx_0_4, fx_4_3, fx_7_6, fx_13_6, fx_19_6, sh34_4_3, sh34_0_4, -BitVec.getLsbD_eq_getElem]

theorem twait a x : Statement (.twait a x) := by
  refine of_word (w := fun c => b1 c ++ fx 50#6 0#6 a 0#6 (x ++ 0#4)) (fun _ => rfl) fun c hw => ?_
  rw [decode_50 (fx_25_6 ..)]
  simp [decTctr, fx_0_4, fx_4_3, fx_7_6, fx_13_6, fx_19_6, sh34_4_3, sh34_0_4, -BitVec.getLsbD_eq_getElem]

theorem tread d x : Statement (.tread d x) := by
  refine of_word (w := fun c => b1 c ++ fx 50#6 d 0#6 0#6 (x ++ 1#4)) (fun _ => rfl) fun c hw => ?_
  rw [decode_50 (fx_25_6 ..)]
  simp [decTctr, fx_0_4, fx_4_3, fx_7_12, fx_19_6, sh34_4_3, sh34_0_4, -BitVec.getLsbD_eq_getElem]

theorem tissued d x : Statement (.tissued d x) := by
  refine of_word (w := fun c => b1 c ++ fx 50#6 d 0#6 0#6 (x ++ 2#4)) (fun _ => rfl) fun c hw => ?_
  rw [decode_50 (fx_25_6 ..)]
  simp [decTctr, fx_0_4, fx_4_3, fx_7_12, fx_19_6, sh34_4_3, sh34_0_4, -BitVec.getLsbD_eq_getElem]

theorem tstat d x : Statement (.tstat d x) := by
  refine of_word (w := fun c => b1 c ++ fx 50#6 d 0#6 0#6 (x ++ 3#4)) (fun _ => rfl) fun c hw => ?_
  rw [decode_50 (fx_25_6 ..)]
  simp [decTctr, fx_0_4, fx_4_3, fx_7_12, fx_19_6, sh34_4_3, sh34_0_4, -BitVec.getLsbD_eq_getElem]

theorem shape d a : Statement (.shape d a) := by
  refine of_word (w := fun c => b1 c ++ fx 51#6 d a 0#6 0#7) (fun _ => rfl) fun c hw => ?_
  rw [decode_51 (fx_25_6 ..)]
  simp [decShape, fx_0_7, fx_7_6, fx_13_6, fx_19_6, -BitVec.getLsbD_eq_getElem]

theorem mmaBf16 d a b p k : Statement (.mmaBf16 d a b p k) := by
  refine of_word (w := fun c => b1 c ++ fx 52#6 d a b (b1 p ++ 0#2 ++ k)) (fun _ => rfl) fun c hw => ?_
  rw [decode_52 (fx_25_6 ..)]
  simp [decMma, fx_0_4, fx_4_2, fx_6_0, fx_7_6, fx_13_6, fx_19_6, shMma, -BitVec.getLsbD_eq_getElem]

theorem mmaE4m3 d a b p k : Statement (.mmaE4m3 d a b p k) := by
  refine of_word (w := fun c => b1 c ++ fx 52#6 d a b (b1 p ++ 1#2 ++ k)) (fun _ => rfl) fun c hw => ?_
  rw [decode_52 (fx_25_6 ..)]
  simp [decMma, fx_0_4, fx_4_2, fx_6_0, fx_7_6, fx_13_6, fx_19_6, shMma, -BitVec.getLsbD_eq_getElem]

theorem mmaE5m2 d a b p k : Statement (.mmaE5m2 d a b p k) := by
  refine of_word (w := fun c => b1 c ++ fx 52#6 d a b (b1 p ++ 2#2 ++ k)) (fun _ => rfl) fun c hw => ?_
  rw [decode_52 (fx_25_6 ..)]
  simp [decMma, fx_0_4, fx_4_2, fx_6_0, fx_7_6, fx_13_6, fx_19_6, shMma, -BitVec.getLsbD_eq_getElem]

theorem mmaE4m3e5m2 d a b p k : Statement (.mmaE4m3e5m2 d a b p k) := by
  refine of_word (w := fun c => b1 c ++ fx 52#6 d a b (b1 p ++ 3#2 ++ k)) (fun _ => rfl) fun c hw => ?_
  rw [decode_52 (fx_25_6 ..)]
  simp [decMma, fx_0_4, fx_4_2, fx_6_0, fx_7_6, fx_13_6, fx_19_6, shMma, -BitVec.getLsbD_eq_getElem]

theorem accZero d : Statement (.accZero d) := by
  refine of_word (w := fun c => b1 c ++ fx 53#6 d 0#6 0#6 0#7) (fun _ => rfl) fun c hw => ?_
  rw [decode_53 (fx_25_6 ..)]
  simp [decAcc, fx_0_7, fx_7_12, fx_19_6, -BitVec.getLsbD_eq_getElem]

theorem accChainB d a : Statement (.accChainB d a) := by
  refine of_word (w := fun c => b1 c ++ fx 53#6 d a 0#6 1#7) (fun _ => rfl) fun c hw => ?_
  rw [decode_53 (fx_25_6 ..)]
  simp [decAcc, fx_0_7, fx_7_6, fx_13_6, fx_19_6, -BitVec.getLsbD_eq_getElem]

theorem accChainE d : Statement (.accChainE d) := by
  refine of_word (w := fun c => b1 c ++ fx 53#6 d 0#6 0#6 2#7) (fun _ => rfl) fun c hw => ?_
  rw [decode_53 (fx_25_6 ..)]
  simp [decAcc, fx_0_7, fx_7_12, fx_19_6, -BitVec.getLsbD_eq_getElem]

theorem accSetprom a b : Statement (.accSetprom a b) := by
  refine of_word (w := fun c => b1 c ++ fx 53#6 0#6 a b 3#7) (fun _ => rfl) fun c hw => ?_
  rw [decode_53 (fx_25_6 ..)]
  simp [decAcc, fx_0_7, fx_7_6, fx_13_6, fx_19_6, -BitVec.getLsbD_eq_getElem]

theorem accStF32 d a : Statement (.accStF32 d a) := by
  refine of_word (w := fun c => b1 c ++ fx 53#6 d a 0#6 4#7) (fun _ => rfl) fun c hw => ?_
  rw [decode_53 (fx_25_6 ..)]
  simp [decAcc, fx_0_7, fx_7_6, fx_13_6, fx_19_6, -BitVec.getLsbD_eq_getElem]

theorem accStBf16 d a : Statement (.accStBf16 d a) := by
  refine of_word (w := fun c => b1 c ++ fx 53#6 d a 0#6 5#7) (fun _ => rfl) fun c hw => ?_
  rw [decode_53 (fx_25_6 ..)]
  simp [decAcc, fx_0_7, fx_7_6, fx_13_6, fx_19_6, -BitVec.getLsbD_eq_getElem]

theorem accLdF32 d a : Statement (.accLdF32 d a) := by
  refine of_word (w := fun c => b1 c ++ fx 53#6 d a 0#6 6#7) (fun _ => rfl) fun c hw => ?_
  rw [decode_53 (fx_25_6 ..)]
  simp [decAcc, fx_0_7, fx_7_6, fx_13_6, fx_19_6, -BitVec.getLsbD_eq_getElem]

theorem accFlush d : Statement (.accFlush d) := by
  refine of_word (w := fun c => b1 c ++ fx 53#6 d 0#6 0#6 7#7) (fun _ => rfl) fun c hw => ?_
  rw [decode_53 (fx_25_6 ..)]
  simp [decAcc, fx_0_7, fx_7_12, fx_19_6, -BitVec.getLsbD_eq_getElem]

theorem taskTnode d a : Statement (.taskTnode d a) := by
  refine of_word (w := fun c => b1 c ++ fx 54#6 d a 0#6 0#7) (fun _ => rfl) fun c hw => ?_
  rw [decode_54 (fx_25_6 ..)]
  simp [decTask, fx_0_7, fx_7_6, fx_13_6, fx_19_6, -BitVec.getLsbD_eq_getElem]

theorem taskTdep a b : Statement (.taskTdep a b) := by
  refine of_word (w := fun c => b1 c ++ fx 54#6 0#6 a b 1#7) (fun _ => rfl) fun c hw => ?_
  rw [decode_54 (fx_25_6 ..)]
  simp [decTask, fx_0_7, fx_7_6, fx_13_6, fx_19_6, -BitVec.getLsbD_eq_getElem]

theorem taskTsig a : Statement (.taskTsig a) := by
  refine of_word (w := fun c => b1 c ++ fx 54#6 0#6 a 0#6 2#7) (fun _ => rfl) fun c hw => ?_
  rw [decode_54 (fx_25_6 ..)]
  simp [decTask, fx_0_7, fx_7_6, fx_13_6, fx_19_6, -BitVec.getLsbD_eq_getElem]

theorem taskEnq a : Statement (.taskEnq a) := by
  refine of_word (w := fun c => b1 c ++ fx 54#6 0#6 a 0#6 3#7) (fun _ => rfl) fun c hw => ?_
  rw [decode_54 (fx_25_6 ..)]
  simp [decTask, fx_0_7, fx_7_6, fx_13_6, fx_19_6, -BitVec.getLsbD_eq_getElem]

theorem taskDeq d : Statement (.taskDeq d) := by
  refine of_word (w := fun c => b1 c ++ fx 54#6 d 0#6 0#6 4#7) (fun _ => rfl) fun c hw => ?_
  rw [decode_54 (fx_25_6 ..)]
  simp [decTask, fx_0_7, fx_7_12, fx_19_6, -BitVec.getLsbD_eq_getElem]

theorem taskCont a b : Statement (.taskCont a b) := by
  refine of_word (w := fun c => b1 c ++ fx 54#6 0#6 a b 5#7) (fun _ => rfl) fun c hw => ?_
  rw [decode_54 (fx_25_6 ..)]
  simp [decTask, fx_0_7, fx_7_6, fx_13_6, fx_19_6, -BitVec.getLsbD_eq_getElem]

theorem taskNself d : Statement (.taskNself d) := by
  refine of_word (w := fun c => b1 c ++ fx 54#6 d 0#6 0#6 6#7) (fun _ => rfl) fun c hw => ?_
  rw [decode_54 (fx_25_6 ..)]
  simp [decTask, fx_0_7, fx_7_12, fx_19_6, -BitVec.getLsbD_eq_getElem]

theorem arenaAptr d a : Statement (.arenaAptr d a) := by
  refine of_word (w := fun c => b1 c ++ fx 55#6 d a 0#6 0#7) (fun _ => rfl) fun c hw => ?_
  rw [decode_55 (fx_25_6 ..)]
  simp [decArena, fx_0_7, fx_7_6, fx_13_6, fx_19_6, -BitVec.getLsbD_eq_getElem]

theorem arenaAinfo d a : Statement (.arenaAinfo d a) := by
  refine of_word (w := fun c => b1 c ++ fx 55#6 d a 0#6 1#7) (fun _ => rfl) fun c hw => ?_
  rw [decode_55 (fx_25_6 ..)]
  simp [decArena, fx_0_7, fx_7_6, fx_13_6, fx_19_6, -BitVec.getLsbD_eq_getElem]

theorem arenaCheck a b : Statement (.arenaCheck a b) := by
  refine of_word (w := fun c => b1 c ++ fx 55#6 0#6 a b 2#7) (fun _ => rfl) fun c hw => ?_
  rw [decode_55 (fx_25_6 ..)]
  simp [decArena, fx_0_7, fx_7_6, fx_13_6, fx_19_6, -BitVec.getLsbD_eq_getElem]

theorem gets d b : Statement (.gets d b) := by
  refine of_word (w := fun c => b1 c ++ fx 56#6 d 0#6 b 0#7) (fun _ => rfl) fun c hw => ?_
  rw [decode_56 (fx_25_6 ..)]
  simp [decSys, fx_0_7, fx_7_6, fx_13_6, fx_19_6, -BitVec.getLsbD_eq_getElem]

theorem sets a b : Statement (.sets a b) := by
  refine of_word (w := fun c => b1 c ++ fx 56#6 0#6 a b 1#7) (fun _ => rfl) fun c hw => ?_
  rw [decode_56 (fx_25_6 ..)]
  simp [decSys, fx_0_7, fx_7_6, fx_13_6, fx_19_6, -BitVec.getLsbD_eq_getElem]

theorem trap b : Statement (.trap b) := by
  refine of_word (w := fun c => b1 c ++ fx 56#6 0#6 0#6 b 2#7) (fun _ => rfl) fun c hw => ?_
  rw [decode_56 (fx_25_6 ..)]
  simp [decSys, fx_0_7, fx_7_6, fx_13_12, -BitVec.getLsbD_eq_getElem]

theorem brk : Statement (.brk) := by
  refine of_word (w := fun c => b1 c ++ fx 56#6 0#6 0#6 0#6 3#7) (fun _ => rfl) fun c hw => ?_
  rw [decode_56 (fx_25_6 ..)]
  simp [decSys, fx_0_7, fx_7_18, -BitVec.getLsbD_eq_getElem]

theorem nop : Statement (.nop) := by
  refine of_word (w := fun c => b1 c ++ fx 56#6 0#6 0#6 0#6 4#7) (fun _ => rfl) fun c hw => ?_
  rw [decode_56 (fx_25_6 ..)]
  simp [decSys, fx_0_7, fx_7_18, -BitVec.getLsbD_eq_getElem]

theorem regroup core part : Statement (.regroup core part) := of_event fun _ => rfl

theorem seniorForcedIssue core part : Statement (.seniorForcedIssue core part) := of_event fun _ => rfl

theorem backoffExpiry who : Statement (.backoffExpiry who) := of_event fun _ => rfl

theorem watchdog who : Statement (.watchdog who) := of_event fun _ => rfl

theorem yResultDelivery who k : Statement (.yResultDelivery who k) := of_event fun _ => rfl

theorem reduxYaddResult who k : Statement (.reduxYaddResult who k) := of_event fun _ => rfl

theorem loadDataArrival who k : Statement (.loadDataArrival who k) := of_event fun _ => rfl

theorem convertingLoadResolve who k : Statement (.convertingLoadResolve who k) := of_event fun _ => rfl

theorem l1Eviction core line : Statement (.l1Eviction core line) := of_event fun _ => rfl

theorem homeArrival k : Statement (.homeArrival k) := of_event fun _ => rfl

theorem flushMarkerAck k : Statement (.flushMarkerAck k) := of_event fun _ => rfl

theorem walk who k : Statement (.walk who k) := of_event fun _ => rfl

theorem walkRetry who k : Statement (.walkRetry who k) := of_event fun _ => rfl

theorem memorySideFault who k : Statement (.memorySideFault who k) := of_event fun _ => rfl

theorem pageFaultReport nid gid cid : Statement (.pageFaultReport nid gid cid) := of_event fun _ => rfl

theorem faultRecordWrite : Statement (.faultRecordWrite) := of_event fun _ => rfl

theorem resume nid gid cid : Statement (.resume nid gid cid) := of_event fun _ => rfl

theorem fail nid gid cid : Statement (.fail nid gid cid) := of_event fun _ => rfl

theorem endCommand nid : Statement (.endCommand nid) := of_event fun _ => rfl

theorem launchQueueTailWrite queue tail : Statement (.launchQueueTailWrite queue tail) := of_event fun _ => rfl

theorem nodeSpecAccept queue : Statement (.nodeSpecAccept queue) := of_event fun _ => rfl

theorem compareManifest mani spec : Statement (.compareManifest mani spec) := of_event fun _ => rfl

theorem preemptGang nid gid : Statement (.preemptGang nid gid) := of_event fun _ => rfl

theorem preemptCrew nid gid cid : Statement (.preemptCrew nid gid cid) := of_event fun _ => rfl

theorem crewRestore nid gid cid : Statement (.crewRestore nid gid cid) := of_event fun _ => rfl

theorem gangSwap nid gid : Statement (.gangSwap nid gid) := of_event fun _ => rfl

theorem gangPlacement nid gid : Statement (.gangPlacement nid gid) := of_event fun _ => rfl

theorem gangRestore nid gid : Statement (.gangRestore nid gid) := of_event fun _ => rfl

theorem gangRelease nid gid : Statement (.gangRelease nid gid) := of_event fun _ => rfl

theorem spawnedCrewStart nid gid cid : Statement (.spawnedCrewStart nid gid cid) := of_event fun _ => rfl

theorem nodeCompletion nid : Statement (.nodeCompletion nid) := of_event fun _ => rfl

theorem arenaDrained slot : Statement (.arenaDrained slot) := of_event fun _ => rfl

theorem arenaBirth nid : Statement (.arenaBirth nid) := of_event fun _ => rfl

theorem dependenceSignal k : Statement (.dependenceSignal k) := of_event fun _ => rfl

theorem taskQueueRefill core : Statement (.taskQueueRefill core) := of_event fun _ => rfl

theorem continuationResume nid k : Statement (.continuationResume nid k) := of_event fun _ => rfl

theorem copyOpStart nid gid ctx : Statement (.copyOpStart nid gid ctx) := of_event fun _ => rfl

theorem copyOpComplete nid gid ctx seq : Statement (.copyOpComplete nid gid ctx seq) := of_event fun _ => rfl

theorem copyPageResume nid gid ctx seq : Statement (.copyPageResume nid gid ctx seq) := of_event fun _ => rfl

theorem cpbLanding nid gid k : Statement (.cpbLanding nid gid k) := of_event fun _ => rfl

theorem matrixWordTake nid gid pick : Statement (.matrixWordTake nid gid pick) := of_event fun _ => rfl

theorem objAnnounceStep who : Statement (.objAnnounceStep who) := of_event fun _ => rfl

theorem objApplyStep who : Statement (.objApplyStep who) := of_event fun _ => rfl

theorem objFinishStep who : Statement (.objFinishStep who) := of_event fun _ => rfl

theorem objCollect who : Statement (.objCollect who) := of_event fun _ => rfl

theorem redBatchApply nid : Statement (.redBatchApply nid) := of_event fun _ => rfl

theorem flitCrcFail link sub : Statement (.flitCrcFail link sub) := of_event fun _ => rfl

theorem dieSublinkRetrain link sub : Statement (.dieSublinkRetrain link sub) := of_event fun _ => rfl

theorem dieSublinkFail link sub : Statement (.dieSublinkFail link sub) := of_event fun _ => rfl

theorem networkPathRetrain peer path : Statement (.networkPathRetrain peer path) := of_event fun _ => rfl

theorem networkPathFail peer path : Statement (.networkPathFail peer path) := of_event fun _ => rfl

theorem transportResend peer path : Statement (.transportResend peer path) := of_event fun _ => rfl

theorem peerPacketArrival peer offset op : Statement (.peerPacketArrival peer offset op) := of_event fun _ => rfl

theorem walkInvalidate unit lo hi : Statement (.walkInvalidate unit lo hi) := of_event fun _ => rfl

theorem setMassifCachePart die col mib : Statement (.setMassifCachePart die col mib) := of_event fun _ => rfl

theorem setPower watts : Statement (.setPower watts) := of_event fun _ => rfl

theorem firmwareUpdate engine digest signed : Statement (.firmwareUpdate engine digest signed) := of_event fun _ => rfl

theorem substituteSpareCore logical physical : Statement (.substituteSpareCore logical physical) := of_event fun _ => rfl

theorem retireRecalibrate kind index : Statement (.retireRecalibrate kind index) := of_event fun _ => rfl

theorem replacePort port rate : Statement (.replacePort port rate) := of_event fun _ => rfl

theorem attestationRequest nonce : Statement (.attestationRequest nonce) := of_event fun _ => rfl

theorem setDeviceId devId : Statement (.setDeviceId devId) := of_event fun _ => rfl

theorem managementRegisterWrite reg value : Statement (.managementRegisterWrite reg value) := of_event fun _ => rfl

theorem thermalTrip die col : Statement (.thermalTrip die col) := of_event fun _ => rfl

theorem scrub kind place uncorrectable : Statement (.scrub kind place uncorrectable) := of_event fun _ => rfl

theorem deviceReset : Statement (.deviceReset) := of_event fun _ => rfl

theorem illegalInstruction level word : Statement (.illegalInstruction level word) := of_event fun _ => rfl

theorem sensorReading die col temp valid : Statement (.sensorReading die col temp valid) := of_event fun _ => rfl

theorem sublinkReturnToService link sub : Statement (.sublinkReturnToService link sub) := of_event fun _ => rfl

theorem pathReturnToService peer path : Statement (.pathReturnToService peer path) := of_event fun _ => rfl

theorem hostMainbandAccess write ia len data : Statement (.hostMainbandAccess write ia len data) := of_event fun _ => rfl

theorem unitRetirement kind index : Statement (.unitRetirement kind index) := of_event fun _ => rfl

end Sys2Proof.Laws.RoundTrip
end

