-- ==== Sys2Proof/Safety.lean ====
section
/-!
DEFINITION. The terms in which the claims speak: when a word may issue (03 R71), and the state that its commit leaves.
-/
namespace Sys2Proof.Machine

/-- Nothing keeps the current fibre from issuing `i` as a chain of its own: the package is powered, no trap is due (R146),
no object instruction is at work that holds a ticket (R222), no word of the chain has been issued before the others (R158, R387),
no fault of the fibre's waits for a report (R410), levels 1 to 5 of R71 pass, the operands lie in the window (level 6, R18), no register it reads is
empty (R63), it waits for nothing of the fibre's own (R105, R145, R158, R193, R294, R410, R412), its crew stands in the
bundle where that is asked (R170, R171), and the watchdog does not fire (R182). -/
structure CanIssue (i : Instr) (s : State) : Prop where
  powered : s.off = false
  noTrapDue : s.f.due = none
  noObject : (s.f.obj.all fun r => r.xfn == 0) = true
  whole : s.f.early = none
  noFaultMet : s.f.met = none
  fields : (infoOf i).level = none
  window : (infoOf i).inWindow s.r = true
  full : ((infoOf i).ops.any fun o => o.reads && isEmpty s.r o) = false
  free : (infoOf i).mustWait s.g s.f = false
  crew : s.crewCheck [infoOf i] = none
  live : ydlLeft s.r.ydl ≠ 0

/-- YDL.LEFT once `i` has committed alone (R182). -/
def leftOf (i : Instr) (s : State) : Nat :=
  match (infoOf i).deadline with
  | none => ydlLeft s.r.ydl - 1
  | some d => if d = 0 then s.n.spec.ydef else d

/-- What a chain that began at serial number `start` leaves of the fibre's accesses: what it issued carries the number of the
chain (R158), and the words that a stop may find incomplete keep the registers `r0` from before it (R312). -/
def State.asChain (t : State) (start : Nat) (r0 : Option Regs) : State := { t with f := { t.f.based start r0 with early := none } }

/-- The registers that a word issued alone may be taken back to: those before it, where it is one of R312. -/
def State.backTo (s : State) (i : Instr) : Option Regs := if (infoOf i).restarts then some s.r else none

/-- The current fibre takes a trap at its word; one that is refused is system fault 0x46, which waits while a converting
load is unresolved (R31, R158, R419). -/
def State.traps (s : State) (code sub : Nat) (val : DWord) : State :=
  if s.r.trapRefused = true ∧ 0 < s.f.convPending then s else s.trap s.r.pc s.r.pc code sub val

/-- The current fibre's word raises a system fault, which waits while a converting load is unresolved (R158, R406). -/
def State.faults (s : State) (code sub : Nat) (va : DWord) (ia : Nat) : State :=
  if 0 < s.f.convPending then s else s.raise [⟨s.f.id, s.r.pc, code, sub, va, ia⟩]

/-- What the commit of `i` alone leaves: its effect `k` made with PC at the next word, what it issued carrying the number of
its chain (R158), then YDL.LEFT, then control goes where `ctl` says (R57, R134, R135, R182). -/
def State.committed (i : Instr) (ctl : Ctl) (k : State → State) (s : State) : State :=
  let next := nextAfter (infoOf i) s.r.pc
  let t := k (s.onRegs fun r => { r with pc := next })
  State.tick (((t.asChain s.f.nextSer (s.backTo i)).onRegs fun r => { r with ydl := ydlOf (leftOf i s) (ydlHint r.ydl) (ydlIdle r.ydl) }).onRegs fun r =>
    r.goes next ctl)

/-- The commit of a word that changes registers only. -/
def State.wrote (i : Instr) (k : Regs → Regs) (s : State) : State := s.committed i .seq fun t => t.onRegs k

/-! ### Results of integer, predicate and identity words (05) -/

/-- A signed number kept within 32 bits (R76). -/
def sat32 (x : Int) : Word := BitVec.ofInt 32 (max (-2147483648) (min 2147483647 x))
/-- An unsigned number kept within 32 bits (R76). -/
def satU32 (x : Nat) : Word := BitVec.ofNat 32 (min 4294967295 x)
/-- Zero bits from the top down. -/
def zerosAbove {w : Nat} (x : BitVec w) : Nat := ((List.range w).takeWhile fun i => !x.getLsbD (w - 1 - i)).length
/-- Zero bits from the bottom up. -/
def zerosBelow {w : Nat} (x : BitVec w) : Nat := ((List.range w).takeWhile fun i => !x.getLsbD i).length
/-- Bits that are one. -/
def onesIn {w : Nat} (x : BitVec w) : Nat := ((List.range w).filter fun i => x.getLsbD i).length

/-- The cell that a word with a cell result writes, and its value (R107, R108, R110 to R113, R117, R118, R215). -/
def cellResult (i : Instr) (s : State) : Option (Fld × Word) :=
  let w := s.r.w
  match i with
  | .add d a b _ _ => some (d, w a + w b)
  | .sub d a b _ _ => some (d, w a - w b)
  | .mul d a b _ _ => some (d, w a * w b)
  | .mulh d a b _ _ => some (d, ((w a).signExtend 64 * (w b).signExtend 64).extractLsb' 32 32)
  | .mulhu d a b _ _ => some (d, ((w a).setWidth 64 * (w b).setWidth 64).extractLsb' 32 32)
  | .div d a b _ _ => some (d, if (w b) = 0#32 then BitVec.allOnes 32 else (w a).sdiv (w b))
  | .divu d a b _ _ => some (d, if (w b) = 0#32 then BitVec.allOnes 32 else (w a) / (w b))
  | .rem d a b _ _ => some (d, if (w b) = 0#32 then (w a) else (w a).srem (w b))
  | .remu d a b _ _ => some (d, if w b = 0#32 then w a else w a % w b)
  | .and d a b _ _ => some (d, w a &&& w b)
  | .or d a b _ _ => some (d, w a ||| w b)
  | .xor d a b _ _ => some (d, w a ^^^ w b)
  | .andn d a b _ _ => some (d, w a &&& ~~~w b)
  | .orn d a b _ _ => some (d, w a ||| ~~~w b)
  | .shl d a b _ _ => some (d, (w a) <<< (w b).toNat)
  | .shr d a b _ _ => some (d, (w a) >>> (w b).toNat)
  | .sar d a b _ _ => some (d, (w a).sshiftRight (w b).toNat)
  | .rotl d a b _ _ => some (d, (w a).rotateLeft (w b).toNat)
  | .min d a b _ _ => some (d, if (w a).slt (w b) then (w a) else (w b))
  | .max d a b _ _ => some (d, if (w b).slt (w a) then (w a) else (w b))
  | .minu d a b _ _ => some (d, if w a < w b then w a else w b)
  | .maxu d a b _ _ => some (d, if w b < w a then w a else w b)
  | .adds d a b _ _ => some (d, sat32 ((w a).toInt + (w b).toInt))
  | .subs d a b _ _ => some (d, sat32 ((w a).toInt - (w b).toInt))
  | .addus d a b _ _ => some (d, satU32 ((w a).toNat + (w b).toNat))
  | .subus d a b _ _ => some (d, satU32 ((w a).toNat - (w b).toNat))
  | .lea1 d a b _ _ => some (d, (w a) + ((w b) <<< 1))
  | .lea2 d a b _ _ => some (d, (w a) + ((w b) <<< 2))
  | .lea3 d a b _ _ => some (d, (w a) + ((w b) <<< 3))
  | .lea4 d a b _ _ => some (d, (w a) + ((w b) <<< 4))
  | .mov d a _ => some (d, (w a))
  | .not d a _ => some (d, ~~~(w a))
  | .neg d a _ => some (d, -(w a))
  | .abs d a _ => some (d, if (w a).toInt < 0 then -(w a) else (w a))
  | .clz d a _ => some (d, BitVec.ofNat 32 (zerosAbove (w a)))
  | .ctz d a _ => some (d, BitVec.ofNat 32 (zerosBelow (w a)))
  | .popc d a _ => some (d, BitVec.ofNat 32 (onesIn (w a)))
  | .brev d a _ => some (d, (w a).reverse)
  | .bswap d a _ => some (d, (w a).extractLsb' 0 8 ++ (w a).extractLsb' 8 8 ++ (w a).extractLsb' 16 8 ++ (w a).extractLsb' 24 8)
  | .sextb d a _ => some (d, ((w a).extractLsb' 0 8).signExtend 32)
  | .sexth d a _ => some (d, ((w a).extractLsb' 0 16).signExtend 32)
  | .zextb d a _ => some (d, (w a) &&& 0xFF#32)
  | .zexth d a _ => some (d, (w a) &&& 0xFFFF#32)
  | .clzD d a _ => some (d, BitVec.ofNat 32 (zerosAbove (s.r.d a)))
  | .popcD d a _ => some (d, BitVec.ofNat 32 (onesIn (s.r.d a)))
  | .addi d a _ v => some (d, w a + v.signExtend 32)
  | .andi d a _ v => some (d, w a &&& v.signExtend 32)
  | .ori d a _ v => some (d, w a ||| v.setWidth 32)
  | .xori d a _ v => some (d, w a ^^^ v.signExtend 32)
  | .shli d a _ n => some (d, w a <<< n.toNat)
  | .shri d a _ n => some (d, w a >>> n.toNat)
  | .sari d a _ n => some (d, (w a).sshiftRight n.toNat)
  | .rotli d a _ n => some (d, (w a).rotateLeft n.toNat)
  | .li d v => some (d, v.signExtend 32)
  | .lih d v => some (d, v ++ (w d).extractLsb' 0 13)
  | .sel d a b p n => some (d, if xor (s.r.p p.toNat) n then w a else w b)
  | .p2w d => some (d, s.r.pw.setWidth 32)
  | .fid d => some (d, BitVec.ofNat 32 s.f.id.fid)
  | .cid d => some (d, BitVec.ofNat 32 s.f.id.cid)
  | .gid d => some (d, BitVec.ofNat 32 s.f.id.gid)
  | .stg d => some (d, BitVec.ofNat 32 s.f.stg)
  | .nid d => some (d, BitVec.ofNat 32 s.f.id.nid)
  | _ => none

/-- The pair that a word with a pair result writes, and its value (R109, R110, R112, R117). -/
def pairResult (i : Instr) (r : Regs) : Option (Fld × DWord) :=
  match i with
  | .addD d a b _ _ => some (d, r.d a + r.d b)
  | .subD d a b _ _ => some (d, r.d a - r.d b)
  | .mulD d a b _ _ => some (d, r.d a * r.d b)
  | .mulhD d a b _ _ => some (d, ((r.d a).signExtend 128 * (r.d b).signExtend 128).extractLsb' 64 64)
  | .mulhuD d a b _ _ => some (d, ((r.d a).setWidth 128 * (r.d b).setWidth 128).extractLsb' 64 64)
  | .andD d a b _ _ => some (d, r.d a &&& r.d b)
  | .orD d a b _ _ => some (d, r.d a ||| r.d b)
  | .xorD d a b _ _ => some (d, r.d a ^^^ r.d b)
  | .shlD d a b _ _ => some (d, (r.d a) <<< (r.w b).toNat)
  | .shrD d a b _ _ => some (d, (r.d a) >>> (r.w b).toNat)
  | .sarD d a b _ _ => some (d, (r.d a).sshiftRight (r.w b).toNat)
  | .minD d a b _ _ => some (d, if (r.d a).slt (r.d b) then (r.d a) else (r.d b))
  | .maxD d a b _ _ => some (d, if (r.d b).slt (r.d a) then (r.d a) else (r.d b))
  | .minuD d a b _ _ => some (d, if r.d a < r.d b then r.d a else r.d b)
  | .maxuD d a b _ _ => some (d, if r.d b < r.d a then r.d a else r.d b)
  | .addwD d a b _ _ => some (d, (r.d a) + (r.w b).signExtend 64)
  | .adduwD d a b _ _ => some (d, (r.d a) + (r.w b).setWidth 64)
  | .mulwD d a b _ _ => some (d, (r.w a).signExtend 64 * (r.w b).signExtend 64)
  | .muluwD d a b _ _ => some (d, (r.w a).setWidth 64 * (r.w b).setWidth 64)
  | .movD d a _ => some (d, r.d a)
  | .sextD d a _ => some (d, (r.w a).signExtend 64)
  | .zextD d a _ => some (d, (r.w a).setWidth 64)
  | .shliD d a _ n => some (d, r.d a <<< n.toNat)
  | .shriD d a _ n => some (d, r.d a >>> n.toNat)
  | .sariD d a _ n => some (d, (r.d a).sshiftRight n.toNat)
  | .rotliD d a _ n => some (d, (r.d a).rotateLeft n.toNat)
  | .selD d a b p n => some (d, if xor (r.p p.toNat) n then r.d a else r.d b)
  | _ => none

/-- The predicate that a compare or a predicate word writes, and its value (R114, R116, R118). -/
def predResult (i : Instr) (r : Regs) : Option (Fld × Bool) :=
  match i with
  | .eq d a b _ _ => some (d, (r.w a) == (r.w b))
  | .ne d a b _ _ => some (d, (r.w a) != (r.w b))
  | .lt d a b _ _ => some (d, (r.w a).slt (r.w b))
  | .le d a b _ _ => some (d, (r.w a).sle (r.w b))
  | .ltu d a b _ _ => some (d, (r.w a).ult (r.w b))
  | .leu d a b _ _ => some (d, (r.w a).ule (r.w b))
  | .tst d a b _ _ => some (d, (r.w a) &&& (r.w b) != 0#32)
  | .tstz d a b _ _ => some (d, (r.w a) &&& (r.w b) == 0#32)
  | .eqD d a b _ _ => some (d, (r.d a) == (r.d b))
  | .neD d a b _ _ => some (d, (r.d a) != (r.d b))
  | .ltD d a b _ _ => some (d, (r.d a).slt (r.d b))
  | .leD d a b _ _ => some (d, (r.d a).sle (r.d b))
  | .ltuD d a b _ _ => some (d, (r.d a).ult (r.d b))
  | .leuD d a b _ _ => some (d, (r.d a).ule (r.d b))
  | .cmpiEq d a _ v => some (d, (r.w a) == (v.signExtend 32))
  | .cmpiNe d a _ v => some (d, (r.w a) != (v.signExtend 32))
  | .cmpiLt d a _ v => some (d, (r.w a).slt (v.signExtend 32))
  | .cmpiLe d a _ v => some (d, (r.w a).sle (v.signExtend 32))
  | .cmpiLtu d a _ v => some (d, (r.w a).ult (v.signExtend 32))
  | .cmpiLeu d a _ v => some (d, (r.w a).ule (v.signExtend 32))
  | .cmpiGt d a _ v => some (d, (v.signExtend 32).slt (r.w a))
  | .cmpiGe d a _ v => some (d, (v.signExtend 32).sle (r.w a))
  | .pand d a b => some (d, r.p a.toNat && r.p b.toNat)
  | .por d a b => some (d, r.p a.toNat || r.p b.toNat)
  | .pxor d a b => some (d, xor (r.p a.toNat) (r.p b.toNat))
  | .pandn d a b => some (d, r.p a.toNat && !r.p b.toNat)
  | .pnot d a => some (d, !r.p a.toNat)
  | .pmov d a => some (d, r.p a.toNat)
  | .pset d => some (d, true)
  | .pclr d => some (d, false)
  | _ => none

/-! ### Results of the Y pipe (06) -/

/-- What a Y-pipe word comes to: the y registers it checks, its passes, where its result goes, the result, the flags, and
whether it drew u. -/
structure YDone where
  srcs : List Fld
  passes : Nat
  dest : Dest
  vals : List Word
  yval : Option YReg
  flags : Flags
  drew : Bool
  deriving DecidableEq, Repr

/-- `round_L` in the fibre's precision and mode (R84, R142): a settled value stays as it is. -/
def State.rounded (s : State) (x : Exact) : V × Flags :=
  match x.2.2 with
  | none => (x.1, x.2.1)
  | some m =>
    let y := roundMag x.1.s m (prcL s.r.prc) (-16382) 16383 (prcRM s.r.prc) s.roundBits
    (y.1, x.2.1 ||| y.2)

/-- The bits that a sum keeps below `e`, the leading exponent of its greatest nonzero addend (R91). -/
def State.keptBits (s : State) (x : Exact) (e : Int) : Int :=
  (prcL s.r.prc : Int) - (e - leadExp (s.rounded x).1.n (s.rounded x).1.k)

/-- Sub-cause 2 of R91 and R25: the result is finite and nonzero, PRC.MIN is not 0, and fewer than MIN bits are kept where
both addends are finite and nonzero; with MIN above L it fires whenever there is a nonzero addend (log 63). -/
def State.shortOf (s : State) (x : Exact) (e : Option (Int × Bool)) : Bool :=
  match e with
  | none => false
  | some (m, both) =>
    (s.rounded x).1.cls == .fin && prcMin s.r.prc != 0 &&
      (decide (prcL s.r.prc < prcMin s.r.prc) || (both && decide (s.keptBits x m < prcMin s.r.prc)))

/-- The exact result of a word that rounds into y[D], with its sources, its passes, and for sums the leading exponent of
the greatest nonzero addend with whether both are finite and nonzero (R91, R144, R147 to R150, R153). -/
def yExact (i : Instr) (s : State) : Option (Fld × List Fld × Nat × Exact × Option (Int × Bool)) :=
  let y := fun f => (s.r.y f).value
  let c := (s.r.lw + 31) / 32
  let rdn := prcRM s.r.prc == .rdn
  let pr := fun (a b d : Fld) => addendExp (product (y a) (y b)) (y d)
  match i with
  | .yadd d a b _ _ => some (d, [a, b], c, exactAdd rdn (y a) (y b), addendExp (y a) (y b))
  | .ysub d a b _ _ =>
    some (d, [a, b], c, exactAdd rdn (y a) (if (y b).isNan then y b else (y b).negate), addendExp (y a) (y b))
  | .ymul d a b _ _ => some (d, [a, b], c * c, exactMul (y a) (y b), none)
  | .ydiv d a b _ _ => some (d, [a, b], 6 + 2 * c * c, exactDiv (y a) (y b), none)
  | .yrem d a b _ _ => some (d, [a, b], passesRem s (y a) (y b), exactRem (y a) (y b), none)
  | .ymin d a b _ _ => some (d, [a, b], c, exactSelect false true (y a) (y b), none)
  | .ymax d a b _ _ => some (d, [a, b], c, exactSelect false false (y a) (y b), none)
  | .yminm d a b _ _ => some (d, [a, b], c, exactSelect true true (y a) (y b), none)
  | .ymaxm d a b _ _ => some (d, [a, b], c, exactSelect true false (y a) (y b), none)
  | .ycopysign d a b _ _ => some (d, [a, b], c, unrounded { y a with s := (y b).s }, none)
  | .yscale d a b _ _ => some (d, [a], c, exactScale (y a) (s.r.w b).toInt, none)
  | .yfma d a b _ _ => some (d, [a, b, d], c * c, exactFma rdn false false (y a) (y b) (y d), pr a b d)
  | .yfms d a b _ _ => some (d, [a, b, d], c * c, exactFma rdn false true (y a) (y b) (y d), pr a b d)
  | .yfnma d a b _ _ => some (d, [a, b, d], c * c, exactFma rdn true false (y a) (y b) (y d), pr a b d)
  | .ymov d a _ => some (d, [a], c, unrounded (y a), none)
  | .yneg d a _ => some (d, [a], c, unrounded (y a).negate, none)
  | .yabs d a _ => some (d, [a], c, unrounded { y a with s := false }, none)
  | .ysqrt d a _ => some (d, [a], 6 + 2 * c * c, exactSqrt (y a), none)
  | .yrint d a _ => some (d, [a], c, exactInt (prcRM s.r.prc) s.roundBits (y a), none)
  | .ytrunc d a _ => some (d, [a], c, exactInt .rtz 0 (y a), none)
  | .ymant d a _ => some (d, [a], c, exactMant (y a), none)
  | .yrecip d a _ => some (d, [a], 6 + 2 * c * c, exactRecip (y a), none)
  | .yrsqrt d a _ => some (d, [a], 8 + 3 * c * c, exactRsqrt (y a), none)
  | .ycvtYW d a _ => some (d, [], c, unrounded (V.ofNK (s.r.w a).msb (s.r.w a).toInt.natAbs 0), none)
  | .ycvtYUw d a _ => some (d, [], c, unrounded (V.ofNK false (s.r.w a).toNat 0), none)
  | .ycvtYD d a _ => some (d, [], c, unrounded (V.ofNK (s.r.d a).msb (s.r.d a).toInt.natAbs 0), none)
  | .ycvtYUd d a _ => some (d, [], c, unrounded (V.ofNK false (s.r.d a).toNat 0), none)
  | _ => none

/-- What a word of `yExact` delivers: the rounded value in y[D], with its flags and PX (R91, R142). -/
def State.yDone (s : State) (d : Fld) (srcs : List Fld) (passes : Nat) (x : Exact) (e : Option (Int × Bool)) : YDone where
  srcs := srcs
  passes := passes
  dest := .yreg s.r.frames.length d.toNat
  vals := []
  yval := some (YReg.ofV s.r.lw (s.rounded x).1)
  flags := if s.shortOf x e then (s.rounded x).2 ||| flPX else (s.rounded x).2
  drew := prcRM s.r.prc = .rsr

/-- The order of two values that are no NaNs, the two zeros being equal (R152). -/
def cmpOf (a b : V) : Ordering := if a.cls = .zero ∧ b.cls = .zero then .eq else valCmp a b

/-- A result in one cell, which nothing rounds (R151). -/
def yCellDone (s : State) (d a : Fld) (op : V → Word × Flags) : YDone where
  srcs := [a]
  passes := (s.r.lw + 31) / 32
  dest := .cells (s.r.base + d.toNat) 1 []
  vals := [(op (s.r.y a).value).1]
  yval := none
  flags := (op (s.r.y a).value).2
  drew := false

/-- A compare's result (R152): `un` is the answer for NaNs, `sig` raises NV for any NaN, `rel` decides on the order. -/
def yCmpDone (s : State) (d a b : Fld) (un sig : Bool) (rel : Ordering → Bool) : YDone where
  srcs := [a, b]
  passes := (s.r.lw + 31) / 32
  dest := .pred d.toNat
  vals :=
    let nan := (s.r.y a).value.isNan || (s.r.y b).value.isNan
    [if (if nan then un else rel (cmpOf (s.r.y a).value (s.r.y b).value)) then 1#32 else 0#32]
  yval := none
  flags :=
    let nan := (s.r.y a).value.isNan || (s.r.y b).value.isNan
    if (s.r.y a).value.cls == .snan || (s.r.y b).value.cls == .snan || (sig && nan) then flNV else 0#6
  drew := false

/-- An integer of `len` cells in the range lo to hi (R154). -/
def yIntDone (s : State) (d a : Fld) (len : Nat) (lo hi : Int) : YDone where
  srcs := [a]
  passes := (s.r.lw + 31) / 32
  dest := .cells (s.r.base + d.toNat) len []
  vals := wordsOf len (BitVec.ofInt 64 (toInt (s.r.y a).value lo hi (prcRM s.r.prc) s.roundBits).1).toNat
  yval := none
  flags := (toInt (s.r.y a).value lo hi (prcRM s.r.prc) s.roundBits).2
  drew := prcRM s.r.prc = .rsr

/-- A Y-pipe word that writes a cell, a pair or a predicate (R151, R152, R154). -/
def yScalar (i : Instr) (s : State) : Option YDone :=
  match i with
  | .ylogb d a _ => some (yCellDone s d a fun v =>
    match v.cls with
    | .fin => (BitVec.ofInt 32 (leadExp v.n v.k), 0#6)
    | .inf => (0x7FFFFFFF#32, flNV)
    | _ => (0x80000000#32, flNV))
  | .yclass d a _ => some (yCellDone s d a fun v => (BitVec.ofNat 32 (classCode v), 0#6))
  | .ysig d a _ => some (yCellDone s d a fun v =>
    (if v.cls = .fin then BitVec.ofNat 32 (Nat.log2 v.n + 1 - trailZeros (Nat.log2 v.n + 1) v.n) else 0#32, 0#6))
  | .ycmpEq d a b _ _ => some (yCmpDone s d a b false false (· == .eq))
  | .ycmpLt d a b _ _ => some (yCmpDone s d a b false false (· == .lt))
  | .ycmpLe d a b _ _ => some (yCmpDone s d a b false false (· != .gt))
  | .ycmpUn d a b _ _ => some (yCmpDone s d a b true false fun _ => false)
  | .ycmpEqs d a b _ _ => some (yCmpDone s d a b false true (· == .eq))
  | .ycmpLts d a b _ _ => some (yCmpDone s d a b false true (· == .lt))
  | .ycmpLes d a b _ _ => some (yCmpDone s d a b false true (· != .gt))
  | .ycvtWY d a _ => some (yIntDone s d a 1 (-2147483648) 2147483647)
  | .ycvtUwY d a _ => some (yIntDone s d a 1 0 4294967295)
  | .ycvtDY d a _ => some (yIntDone s d a 2 (-9223372036854775808) 9223372036854775807)
  | .ycvtUdY d a _ => some (yIntDone s d a 2 0 18446744073709551615)
  | _ => none

/-- The commit of a Y-pipe word: at once when it has one pass or PRC.EN is not 0; else its destination is marked empty and
the result is on its way (R145, R146). -/
def YDone.effect (y : YDone) (s t : State) : State :=
  if y.passes ≤ 1 ∨ prcEn s.r.prc ≠ 0#6 then
    t.onRegs fun r => ((r.deliver y.dest y.vals y.yval).orFlags y.flags).drew y.drew
  else
    (t.sendLate { Deliv.blank with dest := y.dest, vals := y.vals, yval := y.yval, flags := y.flags }).onRegs fun r =>
      r.drew y.drew

/-- A Y-pipe word meets no trap of R142 and no wait of its own: its sources have the form of R19, no enabled flag is
raised (R90), and where it draws u no earlier `ldy` may still draw (log 15). -/
structure YDone.Clear (y : YDone) (s : State) : Prop where
  sources : ∀ f ∈ y.srcs, (s.r.y f).valid s.r.lw = true
  flags : enabled s.r.prc y.flags = false
  draws : y.drew = true → s.f.drawWaits = false

/-! ### PRC, PW and the system registers (05 R117, R118, R137, 06 R155) -/

/-- What a word changes in the registers once the flags that it must see have landed: the words of the PRC group, `gets`,
`sets`, `w2p` and `sel.y` (R27, R117, R118, R137, R155). -/
def regEffect (i : Instr) (s : State) : Option (Regs → Regs) :=
  match i with
  | .getprc d => some fun r => r.setW d s.r.prc
  | .getflags d => some fun r => r.setW d ((s.r.prc.extractLsb' 20 6).setWidth 32)
  | .rnd d => some fun r => let t := r.setW d s.drawn; { t with rndc := t.rndc + 1#64 }
  | .setprc a => some fun r => { r with prc := s.r.w a }
  | .setl a => some fun r => { r with prc := r.prc.extractLsb' 8 24 ++ (s.r.w a).extractLsb' 0 8 }
  | .setrm a => some fun r => { r with prc := r.prc.extractLsb' 11 21 ++ (s.r.w a).extractLsb' 0 3 ++ r.prc.extractLsb' 0 8 }
  | .clrflags a => some fun r => { r with prc := r.prc &&& ~~~(((s.r.w a).extractLsb' 0 6).setWidth 32 <<< 20) }
  | .gets d b => (s.sysReg b.toNat).map fun v r => r.setW d v
  | .sets a b => setSys b.toNat (s.r.w a)
  | .w2p a _ => some fun r => { r with pw := (s.r.w a).extractLsb' 0 16 ||| 1#16 }
  | .selY d a b p n => some fun r =>
    { r with ys := r.ys.set d.toNat { (if xor (s.r.p p.toNat) n then s.r.y a else s.r.y b) with full := true } }
  | _ => none

/-- A value that a word of the PRC group refuses with trap 0x02: L outside 2 to 237, RM above 5, bit 11 of PRC, or a bit
above the flags (R25, R155). -/
def prcRefuses (i : Instr) (s : State) : Bool :=
  match i with
  | .setprc a =>
    let v := s.r.w a
    v.extractLsb' 0 8 < 2#8 || 237#8 < v.extractLsb' 0 8 || 5#3 < v.extractLsb' 8 3 || v.getLsbD 11
  | .setl a => s.r.w a < 2#32 || 237#32 < s.r.w a
  | .setrm a => 5#32 < s.r.w a
  | .clrflags a => (s.r.w a).extractLsb' 6 26 != 0#26
  | _ => false

/-- A word that waits until every pending flag has landed: the PRC group but for `rnd`, and `gets` and `sets` of PRC
(R146); `rnd` waits where an earlier `ldy` may still draw (log 15). -/
def waitsForFlags (i : Instr) (s : State) : Bool :=
  match i with
  | .getprc _ => s.f.flagsPending
  | .getflags _ => s.f.flagsPending
  | .setprc _ => s.f.flagsPending
  | .setl _ => s.f.flagsPending
  | .setrm _ => s.f.flagsPending
  | .clrflags _ => s.f.flagsPending
  | .gets _ b => b == 1#6 && s.f.flagsPending
  | .sets _ b => b == 1#6 && s.f.flagsPending
  | .rnd _ => s.f.drawWaits
  | _ => false

/-! ### Control flow (05 R125 to R136) -/

/-- The packet that lies `o` packets from the fibre's own (R125). -/
def packetAt (s : State) (o : Int) : DWord := (s.r.pc &&& ~~~15#64) + BitVec.ofInt 64 (16 * o)

/-- Where a branch that takes no slide sends control: the target of the first condition that holds, else the next word
(R125, R127, R136); nothing for a register target that names no word. -/
def branchTo (i : Instr) (s : State) : Option Ctl :=
  match i with
  | .br p n o => some (if xor (s.r.p p.toNat) n then .taken (packetAt s o.toInt) else .seq)
  | .bra o => some (.taken (packetAt s o.toInt))
  | .jmpr a => if pcInvalid (s.r.d a) then none else some (.taken (s.r.d a))
  | .mbr np p1 p2 p3 p4 n1 n2 n3 n4 o1 o2 o3 o4 =>
    some ((([(p1, n1, o1), (p2, n2, o2), (p3, n3, o3), (p4, n4, o4)].take (np.toNat + 1)).find? fun x =>
      xor (s.r.p x.1.toNat) x.2.1).elim .seq fun x => .taken (packetAt s x.2.2.toInt))
  | .call p n _ => if xor (s.r.p p.toNat) n then none else some .seq
  | .nop => some .seq
  | _ => none

/-- Where a call that slides the window sends control (R126, R127). -/
def callTarget (i : Instr) (s : State) : Option DWord :=
  match i with
  | .call p n o => if xor (s.r.p p.toNat) n then some (packetAt s o.toInt) else none
  | .callr a => if pcInvalid (s.r.d a) then none else some (s.r.d a)
  | _ => none

/-- Free cells after the push of a record and the slide of a call (R17, R22). -/
def cellsAfterCall (r : Regs) : Int := r.wq - 4 - (8 - min r.n 8 : Nat)

/-- Free cells in the window that `enter n, m, Lw` would make (R17, R130). -/
def cellsAfterEnter (r : Regs) (n m lw : Nat) : Int :=
  (r.cells.length : Int) - (r.base + n) - (m * (1 + (lw + 31) / 32) + total (r.frames.map Frame.cost))

/-! ### Accesses of memory (05 R119 to R123, 06 R157 to R161, 15 R289 to R311) -/

/-- d[A] + sext(OFF8) × scale, formed without wrapping (R119). -/
def vaOf (s : State) (a : Fld) (o : BitVec 8) (scale : Nat) : Int := ((s.r.d a).toNat : Int) + o.toInt * scale

/-- An access before it takes its place among the fibre's: what it does, its bytes, where its value goes, what it writes,
and its scope. -/
def accessOf (op : AccOp) (size : Nat) (dest : Dest) (data : List Byte) (scope : Nat) : Access :=
  { newAccess op 0#64 0 size dest data with scope := scope }

/-- The global access of a word that issues one and does nothing else: the access, its VA, the bytes that its checks cover,
and the bytes it must be aligned to (R119, R122, R123, R157, R291, R297, R300). One of 16 bytes performs as two halves
(R124). A RED is one in throughput mode only, and `lda` and `str` are for a pair that names global memory (R290). -/
def globalAccess (i : Instr) (s : State) : Option (Access × Int × Nat × Nat) :=
  let cells := fun (f : Fld) (n : Nat) => Dest.cells (s.r.base + f.toNat) n []
  let bytes := fun (f : Fld) (n z : Nat) => (bytesOfCells (s.r.run f n)).take z
  let halves := fun (a : Access) => { a with half := if a.size = 16 then some none else none }
  let ld := fun (t a : Fld) (o : BitVec 8) (z : Nat) (sg : Bool) =>
    some (halves (accessOf (.load sg) z (cells t ((z + 3) / 4)) [] 0), vaOf s a o z, z, z)
  let st := fun (t a : Fld) (o : BitVec 8) (z : Nat) =>
    some (halves (accessOf .store z .none (bytes t ((z + 3) / 4) z) 0), vaOf s a o z, z, z)
  let amo := fun (d a b : Fld) (op z n : Nat) (ar : Bool) (sc : BitVec 3) =>
    some (accessOf (.amo op ar) z (cells d (z / 4)) (bytesOfCells (s.r.run b n)) sc.toNat, ((s.r.d a).toNat : Int), z, z)
  let red := fun (a b : Fld) (op z n : Nat) (sc : BitVec 3) =>
    if s.n.spec.det then none
    else some (accessOf (.red op) z .none (bytes b n z) sc.toNat, ((s.r.d a).toNat : Int), z, z)
  let ord := fun (a : Fld) (acc : Access) (z : Nat) =>
    if (s.r.d a).extractLsb' 32 32 = 0xFFFFFFFF#32 then none else some (acc, ((s.r.d a).toNat : Int), z, z)
  match i with
  | .ldB t a _ o => ld t a o 1 false
  | .ldBs t a _ o => ld t a o 1 true
  | .ldH t a _ o => ld t a o 2 false
  | .ldHs t a _ o => ld t a o 2 true
  | .ldW t a _ o => ld t a o 4 false
  | .ldD t a _ o => ld t a o 8 false
  | .ldQ t a _ o => ld t a o 16 false
  | .stB t a _ o => st t a o 1
  | .stH t a _ o => st t a o 2
  | .stW t a _ o => st t a o 4
  | .stD t a _ o => st t a o 8
  | .stQ t a _ o => st t a o 16
  | .ldy t a _ k o =>
    some ({ accessOf (.ldy k.toNat) (2 * k.toNat + 2) (.yreg s.r.frames.length t.toNat) [] 0 with ckpt := some s.r },
      vaOf s a o 1, 2, 1)
  | .amoAdd d a b sc => amo d a b 0 4 1 false sc
  | .amoAddAr d a b sc => amo d a b 0 4 1 true sc
  | .amoAnd d a b sc => amo d a b 1 4 1 false sc
  | .amoAndAr d a b sc => amo d a b 1 4 1 true sc
  | .amoOr d a b sc => amo d a b 2 4 1 false sc
  | .amoOrAr d a b sc => amo d a b 2 4 1 true sc
  | .amoXor d a b sc => amo d a b 3 4 1 false sc
  | .amoXorAr d a b sc => amo d a b 3 4 1 true sc
  | .amoMin d a b sc => amo d a b 4 4 1 false sc
  | .amoMinAr d a b sc => amo d a b 4 4 1 true sc
  | .amoMax d a b sc => amo d a b 5 4 1 false sc
  | .amoMaxAr d a b sc => amo d a b 5 4 1 true sc
  | .amoMinu d a b sc => amo d a b 6 4 1 false sc
  | .amoMinuAr d a b sc => amo d a b 6 4 1 true sc
  | .amoMaxu d a b sc => amo d a b 7 4 1 false sc
  | .amoMaxuAr d a b sc => amo d a b 7 4 1 true sc
  | .amoSwap d a b sc => amo d a b 8 4 1 false sc
  | .amoSwapAr d a b sc => amo d a b 8 4 1 true sc
  | .amoCas d a b sc => amo d a b 9 4 2 false sc
  | .amoCasAr d a b sc => amo d a b 9 4 2 true sc
  | .amoAddD d a b sc => amo d a b 10 8 2 false sc
  | .amoAddDAr d a b sc => amo d a b 10 8 2 true sc
  | .amoSwapD d a b sc => amo d a b 11 8 2 false sc
  | .amoSwapDAr d a b sc => amo d a b 11 8 2 true sc
  | .amoCasD d a b sc => amo d a b 12 8 4 false sc
  | .amoCasDAr d a b sc => amo d a b 12 8 4 true sc
  | .amoCasQ d a b sc => amo d a b 13 16 8 false sc
  | .amoCasQAr d a b sc => amo d a b 13 16 8 true sc
  | .redAdd a b sc => red a b 0 4 1 sc
  | .redAnd a b sc => red a b 1 4 1 sc
  | .redOr a b sc => red a b 2 4 1 sc
  | .redXor a b sc => red a b 3 4 1 sc
  | .redMin a b sc => red a b 4 4 1 sc
  | .redMax a b sc => red a b 5 4 1 sc
  | .redFaddF32 a b sc => red a b 6 4 1 sc
  | .redFaddBf16 a b sc => red a b 7 2 1 sc
  | .redAddD a b sc => red a b 8 8 2 sc
  | .ldaB d a sc => ord a (accessOf .lda 1 (cells d 1) [] sc.toNat) 1
  | .ldaW d a sc => ord a (accessOf .lda 4 (cells d 1) [] sc.toNat) 4
  | .ldaD d a sc => ord a (accessOf .lda 8 (cells d 2) [] sc.toNat) 8
  | .strB a b sc => ord a (accessOf .str 1 .none (bytes b 1 1) sc.toNat) 1
  | .strW a b sc => ord a (accessOf .str 4 .none (bytes b 1 4) sc.toNat) 4
  | .strD a b sc => ord a (accessOf .str 8 .none (bytes b 2 8) sc.toNat) 8
  | _ => none

/-- A RED: its operation, its VA, its size and its bytes (R297). -/
def redOf (i : Instr) (s : State) : Option (Nat × DWord × Nat × List Byte) :=
  let red := fun (a b : Fld) (op z n : Nat) => some (op, s.r.d a, z, (bytesOfCells (s.r.run b n)).take z)
  match i with
  | .redAdd a b _ => red a b 0 4 1
  | .redAnd a b _ => red a b 1 4 1
  | .redOr a b _ => red a b 2 4 1
  | .redXor a b _ => red a b 3 4 1
  | .redMin a b _ => red a b 4 4 1
  | .redMax a b _ => red a b 5 4 1
  | .redFaddF32 a b _ => red a b 6 4 1
  | .redFaddBf16 a b _ => red a b 7 2 1
  | .redAddD a b _ => red a b 8 8 2
  | _ => none

/-- A store of a y register: its source, its VA, its bytes and flags, and the bytes it must be aligned to (R159, R161). -/
def roundedStore (i : Instr) (s : State) : Option (Fld × Int × (List Byte × Flags) × Nat) :=
  let stc := fun (t a : Fld) (o : BitVec 8) (fmt z : Nat) =>
    some (t, vaOf s a o z, convEncode fmt (s.r.y t).value (prcRM s.r.prc) s.roundBits, z)
  match i with
  | .sty t a _ k o => some (t, vaOf s a o 1, styBytes (s.r.y t).value k.toNat (prcL s.r.prc) (prcRM s.r.prc) s.roundBits, 1)
  | .stcFp32 t a _ o => stc t a o 0 4
  | .stcBf16 t a _ o => stc t a o 1 2
  | .stcFp16 t a _ o => stc t a o 2 2
  | .stcE4m3 t a _ o => stc t a o 3 1
  | .stcE5m2 t a _ o => stc t a o 4 1
  | .stcInt32 t a _ o => stc t a o 5 4
  | .stcUint32 t a _ o => stc t a o 6 4
  | .stcInt8 t a _ o => stc t a o 7 1
  | .stcUint8 t a _ o => stc t a o 8 1
  | _ => none

/-- A converting load of a fixed format: its access, its VA and its size (R161). -/
def formatLoad (i : Instr) (s : State) : Option (Access × Int × Nat) :=
  let ldc := fun (t a : Fld) (o : BitVec 8) (fmt z : Nat) =>
    some ({ accessOf (.ldc fmt) z (.yreg s.r.frames.length t.toNat) [] 0 with ckpt := some s.r }, vaOf s a o z, z)
  match i with
  | .ldcFp32 t a _ o => ldc t a o 0 4
  | .ldcBf16 t a _ o => ldc t a o 1 2
  | .ldcFp16 t a _ o => ldc t a o 2 2
  | .ldcE4m3 t a _ o => ldc t a o 3 1
  | .ldcE5m2 t a _ o => ldc t a o 4 1
  | .ldcInt32 t a _ o => ldc t a o 5 4
  | .ldcUint32 t a _ o => ldc t a o 6 4
  | .ldcInt8 t a _ o => ldc t a o 7 1
  | .ldcUint8 t a _ o => ldc t a o 8 1
  | _ => none

/-- An access takes its place in the fibre's program order, with its translation (R122, R410): its destination is empty
until it performs. -/
def State.issues (a : Access) (va : Int) (ia : Nat) (tracked : Bool) (t : State) : State :=
  { t with f := { t.f with
    regs := t.f.regs.markEmpty a.dest
    acc := t.f.acc ++ [{ a with
      va := BitVec.ofInt 64 va, ia := ia, tracked := tracked, ser := t.f.nextSer, grp := t.issueNo
      mseq := if t.g.role t.f.stg = .matrix then t.g.mnext else 0 }]
    nextSer := t.f.nextSer + 1 } }

/-- The scratchpad offset (w[A] + sext(OFF8) × scale) mod 2^32 (R120, R309). -/
def spadOffset (s : State) (a : Fld) (o : BitVec 8) (scale : Nat) : Word := s.r.w a + BitVec.ofInt 32 (o.toInt * scale)

/-- A plain load of at most 8 bytes of the scratchpad: destination cells, offset, size, sign extension (R120, R122). -/
def spadLoad (i : Instr) (s : State) : Option (Dest × Word × Nat × Bool) :=
  let ld := fun (t a : Fld) (o : BitVec 8) (z n : Nat) (sg : Bool) =>
    some (Dest.cells (s.r.base + t.toNat) n [], spadOffset s a o z, z, sg)
  match i with
  | .ldsB t a _ o => ld t a o 1 1 false
  | .ldsBs t a _ o => ld t a o 1 1 true
  | .ldsH t a _ o => ld t a o 2 1 false
  | .ldsHs t a _ o => ld t a o 2 1 true
  | .ldsW t a _ o => ld t a o 4 1 false
  | .ldsD t a _ o => ld t a o 8 2 false
  | _ => none

/-- A plain store of at most 8 bytes of the scratchpad: its bytes, offset and size (R120, R123). -/
def spadStoreOf (i : Instr) (s : State) : Option (List Byte × Word × Nat) :=
  let st := fun (t a : Fld) (o : BitVec 8) (z n : Nat) =>
    some ((bytesOfCells (s.r.run t n)).take z, spadOffset s a o z, z)
  match i with
  | .stsB t a _ o => st t a o 1 1
  | .stsH t a _ o => st t a o 2 1
  | .stsW t a _ o => st t a o 4 1
  | .stsD t a _ o => st t a o 8 2
  | _ => none

/-- A plain access of 16 bytes of the scratchpad, which performs as two halves: the access and its offset (R120, R124). -/
def spadHalves (i : Instr) (s : State) : Option (Access × Word) :=
  match i with
  | .ldsQ t a _ o => some (accessOf (.load false) 16 (.cells (s.r.base + t.toNat) 4 []) [] 0, spadOffset s a o 16)
  | .stsQ t a _ o => some (accessOf .store 16 .none (bytesOfCells (s.r.run t 4)) 0, spadOffset s a o 16)
  | _ => none

/-- An ordered or a granule access of the scratchpad, which the memory system attempts at once: the access, its offset, its
size, and whether bit 31 of the offset is refused (R290, R309). -/
def spadAccess (i : Instr) (s : State) : Option (Access × Word × Nat × Bool) :=
  let cells := fun (f : Fld) (n : Nat) => Dest.cells (s.r.base + f.toNat) n []
  let bytes := fun (f : Fld) (n z : Nat) => (bytesOfCells (s.r.run f n)).take z
  let ord := fun (a : Fld) (acc : Access) (z : Nat) =>
    if (s.r.d a).extractLsb' 32 32 = 0xFFFFFFFF#32 then
      some ({ acc with ia := (((s.r.d a).extractLsb' 0 32).extractLsb' 0 21).toNat }, (s.r.d a).extractLsb' 0 32, z, false)
    else none
  let gran := fun (a : Fld) (o : BitVec 8) (acc : Access) =>
    some ({ acc with ia := (spadOffset s a o 16).toNat }, spadOffset s a o 16, 16, true)
  match i with
  | .ldaB d a sc => ord a (accessOf .lda 1 (cells d 1) [] sc.toNat) 1
  | .ldaW d a sc => ord a (accessOf .lda 4 (cells d 1) [] sc.toNat) 4
  | .ldaD d a sc => ord a (accessOf .lda 8 (cells d 2) [] sc.toNat) 8
  | .strB a b sc => ord a (accessOf .str 1 .none (bytes b 1 1) sc.toNat) 1
  | .strW a b sc => ord a (accessOf .str 4 .none (bytes b 1 4) sc.toNat) 4
  | .strD a b sc => ord a (accessOf .str 8 .none (bytes b 2 8) sc.toNat) 8
  | .ldf t a _ o => gran a o (accessOf (.ldf false) 16 (cells t 4) [] 1)
  | .ldfCons t a _ o => gran a o (accessOf (.ldf true) 16 (cells t 4) [] 1)
  | .stf t a _ o => gran a o (accessOf .stf 16 .none (bytesOfCells (s.r.run t 4)) 1)
  | _ => none

/-- A word that checks no address of its own and gives the memory system an access to attempt at once: the fences, and
`wbr` and `invr` of a range that translates (R303, R305, R306). -/
def orderAccess (i : Instr) (s : State) : Option Access :=
  let range := fun (a b : Fld) (op : AccOp) (sc : BitVec 3) =>
    let va := s.r.d a
    let len := (s.r.w b).toNat
    if len = 0 then none
    else
      match s.xlat s.n va.toNat len .load with
      | .bad _ _ => none
      | .ok ia tr => some { accessOf op len .none [] sc.toNat with va := va, ia := ia, tracked := tr }
  match i with
  | .fence sc k => some (accessOf (.fence true true k) 0 .none [] sc.toNat)
  | .fenceAcq sc k => some (accessOf (.fence false true k) 0 .none [] sc.toNat)
  | .fenceRel sc k => some (accessOf (.fence true false k) 0 .none [] sc.toNat)
  | .wbr a b sc => range a b .wbr sc
  | .invr a b sc => range a b .invr sc
  | _ => none

/-! ### Collectives (10 R217 to R220) -/

/-- S, the present members of the current fibre's mask `w[B]`: the live lanes of its crew that issue with it, whose window
holds the word's registers and whose own mask names them, and which the mask names (R217). -/
def State.members (s : State) (i : Instr) (b : Fld) : List Fibre :=
  s.mates.filter fun x =>
    (infoOf i).inWindow x.regs && (x.regs.w b).getLsbD x.id.fid && (s.r.w b).getLsbD x.id.fid

/-- Every member of a mask is among the fibres of a list (R217). -/
def allThere (mask : Word) (l : List Fibre) : Bool :=
  (List.range 32).all fun k => !mask.getLsbD k || l.any fun x => x.id.fid == k

/-- w[A] of a lane, where that lane is among the members; else the fibre's own (R219). -/
def fromLane (l : List Fibre) (lane : Option Nat) (a : Fld) (own : Word) : Word :=
  ((l.find? fun x => lane == some x.id.fid).map fun x => x.regs.w a).getD own

/-- The lanes of some fibres, one bit each. -/
def laneBits (l : List Fibre) : Word := l.foldl (fun m x => m ||| BitVec.ofNat 32 (2 ^ x.id.fid)) 0#32

/-- A collective but for `redux.yadd`: the field of its mask, and what it writes beside the status p15, by its present
members (R218, R219). -/
def collective (i : Instr) (s : State) : Option (Fld × (List Fibre → Regs → Regs)) :=
  let v := fun (b : Fld) => (s.r.cell (b.toNat + 1)).val.toNat
  let fid := s.f.id.fid
  let cell := fun (b d : Fld) (k : List Fibre → Word) => some (b, fun (l : List Fibre) (r : Regs) => r.setW d (k l))
  let pred := fun (b d : Fld) (k : List Fibre → Bool) => some (b, fun (l : List Fibre) (r : Regs) => r.setP d.toNat (k l))
  match i with
  | .shfl d a b => cell b d fun l => fromLane l (some (v b % 32)) a (s.r.w a)
  | .shflXor d a b => cell b d fun l => fromLane l (some (fid ^^^ v b % 32)) a (s.r.w a)
  | .shflUp d a b => cell b d fun l => fromLane l (if v b ≤ fid then some (fid - v b) else none) a (s.r.w a)
  | .shflDown d a b => cell b d fun l => fromLane l (if fid + v b ≤ 31 then some (fid + v b) else none) a (s.r.w a)
  | .voteAny d a b => pred b d fun l => l.any fun x => x.regs.p a.toNat
  | .voteAll d a b => pred b d fun l => l.all fun x => x.regs.p a.toNat
  | .ballot d a b => cell b d fun l => laneBits (l.filter fun x => x.regs.p a.toNat)
  | .reduxAdd d a b => cell b d fun l => l.foldl (fun n x => n + x.regs.w a) 0#32
  | .reduxMin d a b => cell b d fun l => l.foldl (fun m x => if (x.regs.w a).slt m then x.regs.w a else m) 0x7FFFFFFF#32
  | .reduxMax d a b => cell b d fun l => l.foldl (fun m x => if m.slt (x.regs.w a) then x.regs.w a else m) 0x80000000#32
  | .matchLanes d a b => cell b d fun l => laneBits (l.filter fun x => x.regs.w a == s.r.w a)
  | .present d b => cell b d laneBits
  | _ => none

/-- The fibres whose y[A] a `redux.yadd` adds: the present members, which pass its own checks too (R217, R220). -/
def State.summands (s : State) (d a b : Fld) : List Fibre :=
  (s.members (.reduxYadd d a b) b).filter fun x => (x.regs.y a).valid x.regs.lw && decide (prcL x.regs.prc ≤ x.regs.lw)

/-- What `redux.yadd` comes to: the exact sum, rounded once (R220). -/
def State.reduxDone (s : State) (d a b : Fld) : YDone :=
  s.yDone d [a] 2 (exactSum (prcRM s.r.prc = .rdn) ((s.summands d a b).map fun x => (x.regs.y a).value)) none

/-! ### Object words (10 R221 to R226) -/

/-- The form of an object word other than `obj.init`, with its fields (R222, R226). -/
def objForm (i : Instr) : Option (Nat × Fld × Fld × Fld) :=
  match i with
  | .objPush d a b => some (1, d, a, b)
  | .objPop d a b => some (2, d, a, b)
  | .objEnq d a b => some (3, d, a, b)
  | .objDeq d a b => some (4, d, a, b)
  | .objAdd d a b => some (5, d, a, b)
  | .objArrive d a b => some (6, d, a, b)
  | .objPeek d a b => some (7, d, a, b)
  | .objHelp d a b => some (8, d, a, b)
  | _ => none

/-- What a completion leaves in w[D] and w[D+1] by the table of R223: a kept cell holds what it held before the
instruction. -/
def objPair (x : ObjRun) (status : Nat) : Word × Word :=
  match status, x.xfn == 8 with
  | 5, _ => (x.low, x.high)
  | _, true => (0#32, x.result)
  | 0, false => (BitVec.ofNat 32 x.ticket, x.result)
  | 1, false => (BitVec.ofNat 32 x.ticket, 0#32)
  | 2, false => (BitVec.ofNat 32 x.ticket, 0#32)
  | 4, false => (0#32, x.high)
  | _, false => (BitVec.ofNat 32 x.ticket, x.high)

/-- The registers after a completion (R221, R223, R226): the pair of R223, full, p15, and OSTEP. -/
def objCells (x : ObjRun) (status : Nat) (r : Regs) : Regs :=
  { ((r.setAt x.pos (objPair x status).1 true).setAt (x.pos + 1) (objPair x status).2 true).setP 15 (decide (status ≤ 2)) with
    ostep := BitVec.ofNat 32 (x.steps + 256 * status) }

/-- The run that an object word starts: the ticket it presents, its first phase, and the cells of D as they are at issue
(R222, R226). -/
def State.objRunOf (s : State) (xfn : Nat) (d a b : Fld) : ObjRun where
  xfn := xfn
  va := s.r.d a
  operand := if xfn = 8 then 0#32 else s.r.w b
  ticket := (s.r.w d).toNat
  steps := 0
  phase := if xfn ≠ 8 ∧ s.r.w d = 0#32 then .announce else .apply
  result := 0#32
  bound := none
  pos := s.r.base + d.toNat
  low := s.r.w d
  high := (s.r.cells.getD (s.r.base + d.toNat + 1) Cell.zero).val
  grp := s.issueNo
  scope := 0
  fence := none
  mid := .idle
  lines := []
  halted := false

/-- A run completes: at status done, empty or full the core acquires at the object's SCOPE (R210, R223). -/
def State.objEnds (x : ObjRun) (status : Nat) (t : State) : State :=
  let u := (if status ≤ 2 then t.acquire t.c.num x.scope else t).onRegs (objCells x status)
  { u with f := { u.f with obj := none } }

/-- The fibre as its object instruction found it at issue, and free of it: w[D] and w[D+1] as they were (R57, R222). -/
def State.asIssued (s : State) : State := { s.atIssue with f := { s.atIssue.f with obj := none } }

/-! ### Engine words (16, 17) -/

/-- No fibre of the crew holds an engine word back: the release of R270 is over for each. -/
def State.engineReady (s : State) : Bool := !(s.mates.any fun x => x.acc.any fun a => !a.pastL1)

/-- What the fibre of lowest FID does to its gang for the whole crew (R336). -/
def State.engineDoes (s : State) (k : Gang → Gang) (t : State) : State := if s.lead.id = s.f.id then { t with g := k t.g } else t

/-- A copy word: its form, D, A and context (17 R341). -/
def copyForm (i : Instr) : Option (Nat × Fld × Fld × Nat) :=
  match i with
  | .cptG2s d a x => some (0, d, a, x.toNat)
  | .cptS2g d a x => some (1, d, a, x.toNat)
  | .cptS2gAtom d a x => some (2, d, a, x.toNat)
  | .cptG2sCons d a x => some (3, d, a, x.toNat)
  | .cptG2g d a x => some (4, d, a, x.toNat)
  | .cptGather d a x => some (5, d, a, x.toNat)
  | .cptCbk d a x => some (6, d, a, x.toNat)
  | _ => none

/-- The matrix word that an instruction hands to its engine (17 R351, R354, R356, R357); the operands are those of the fibre of
lowest FID. -/
def matrixWord (i : Instr) (s : State) : Option (Nat × MWord) :=
  let w := s.lead.regs.w
  let mma := fun (d a b : Fld) (p : Bool) (k : BitVec 4) (type : Nat) =>
    some (d.toNat, MWord.mma d.toNat type p (w a).toNat (w b).toNat (List.range (k.toNat + 1)))
  match i with
  | .mmaBf16 d a b p k => mma d a b p k 0
  | .mmaE4m3 d a b p k => mma d a b p k 1
  | .mmaE5m2 d a b p k => mma d a b p k 2
  | .mmaE4m3e5m2 d a b p k => mma d a b p k 3
  | .accZero d => some (d.toNat, .zero d.toNat)
  | .accChainB d a => some (d.toNat, .chainB d.toNat ((w a).getLsbD 0))
  | .accChainE d => some (d.toNat, .chainE d.toNat)
  | .accStF32 d a => some (d.toNat, .stF32 d.toNat (w a).toNat)
  | .accStBf16 d a => some (d.toNat, .stBf16 d.toNat (w a).toNat)
  | .accLdF32 d a => some (d.toNat, .ldF32 d.toNat (w a).toNat)
  | .accFlush d => some (d.toNat, .flush d.toNat)
  | _ => none

/-- The first check of a matrix word that fails, by its trap and the offset in TVAL: the tile (R327), the type of the grant
(R351), the mode of a chain (R354), alignment and bounds (R326, R356). -/
def matrixStop (i : Instr) (s : State) : Option (Nat × Word) :=
  let w := s.lead.regs.w
  let m := shpM s.g.shp
  let n := shpN s.g.shp
  let mma := fun (d a b : Fld) (p : Bool) (k : BitVec 4) (k8 : Bool) =>
    let aLen := (if p then (if k8 then 48 else 40) else 32) * m * (k.toNat + 1)
    let bLen := (if p then 64 else 32) * n * (k.toNat + 1)
    if shpT s.g.shp ≤ d.toNat ∨ k8 ≠ shpK8 s.g.shp ∨ p ≠ shpSp s.g.shp then some (0x02, 0#32)
    else if (w a).toNat % 128 ≠ 0 then some (0x03, w a)
    else if (w b).toNat % 128 ≠ 0 then some (0x03, w b)
    else if s.n.spadBytes < (w a).toNat + aLen then some (0x10, w a)
    else if s.n.spadBytes < (w b).toNat + bLen then some (0x10, w b)
    else none
  let move := fun (d a : Fld) (size : Nat) =>
    if shpT s.g.shp ≤ d.toNat then some (0x02, 0#32)
    else if (w a).toNat % 16 ≠ 0 then some (0x03, w a)
    else if s.n.spadBytes < (w a).toNat + size * m * n then some (0x10, w a)
    else none
  let tile := fun (d : Fld) => if shpT s.g.shp ≤ d.toNat then some (0x02, 0#32) else none
  match i with
  | .mmaBf16 d a b p k => mma d a b p k false
  | .mmaE4m3 d a b p k => mma d a b p k true
  | .mmaE5m2 d a b p k => mma d a b p k true
  | .mmaE4m3e5m2 d a b p k => mma d a b p k true
  | .accZero d => tile d
  | .accChainB d a => if shpT s.g.shp ≤ d.toNat ∨ 1 < (w a).toNat then some (0x02, 0#32) else none
  | .accChainE d => tile d
  | .accStF32 d a => move d a 4
  | .accStBf16 d a => move d a 2
  | .accLdF32 d a => move d a 4
  | .accFlush d => tile d
  | _ => none

/-! ### Task and arena words (20 R385 to R397) -/

/-- The action of a task word that follows its release and changes no register (R390 to R392). -/
def taskAction (i : Instr) (s : State) : Option (State → State) :=
  match i with
  | .taskTdep a b => some fun t => t.depend (s.r.d a) (s.r.d b)
  | .taskTsig a => some fun t => t.sendSignal (s.r.d a)
  | .taskEnq a => some fun t => t.enqueue s.r.pc (s.r.run a 8)
  | _ => none

/-! ### Node specs and manifests (19 R364 to R367, R384) -/

/-- A step of the object sequencer looks at `size` bytes at a VA: it touches them, and its run keeps their lines (R202). -/
def State.Looks (s : State) (x : Site) (tr : Xlat) (va size pa : Nat) (t : State) : Prop :=
  ∃ ia u, s.touch x tr va size .both = (.ok pa ia, u) ∧ t = u.onFibre x.fib.id fun b =>
    { b with obj := b.obj.map fun r => { r with lines := distinct (r.lines ++ linesOf ia size) } }

/-- It looks at an address of its object or of an element. -/
abbrev State.LooksVa (s : State) (x : Site) (va size pa : Nat) (t : State) : Prop :=
  s.Looks x (s.xlat x.node va size .both) va size pa t

/-- It looks at a mailbox, through the node's own range registers (R448). -/
abbrev State.LooksBox (s : State) (x : Site) (gfi pa : Nat) (t : State) : Prop :=
  s.Looks x (s.ownXlat x.node (mailboxVa x.node gfi) 8 .both) (mailboxVa x.node gfi) 8 pa t

/-- The field at an offset of a node spec obeys its rules, and so does what it points to: the image header with IMAGE and
ENT (where it is read, log 66), the successor list with SUCC, the extension block and its manifest with EXT, each of which could
be read (R364 to R367, R384). `host` tells a launch queue entry from a spec of `task.tnode`. -/
def Launch.fieldOk (l : Launch) (s : State) (host spent : Bool) (off : Nat) : Prop :=
  let b := num l.sp
  let headed := b 0 8 % 64 = 0 → b 80 8 % 64 = 0 → l.ext ≠ [] → rangesOk l.ext = true →
    s.readHeader spent l ≠ some (.inl off)
  let st := b 17 1 % 16
  let l1 := b 28 2 % 64
  let rg := b 28 2 / 64 % 64
  match off with
  | 0 => b 0 8 % 64 = 0 ∧ headed
  | 8 =>
    if host then 1 ≤ b 8 4 ∧ b 8 4 ≤ 0x7FFFFFFF ∧ ∀ n, s.node? (b 8 4) = some n → n.alive = false
    else b 8 4 = 0
  | 12 => 1 ≤ b 12 4 ∧ b 12 4 ≤ 0x7FFFFFFF
  | 16 => b 16 1 < 8 ∧ headed
  | 17 => 1 ≤ st ∧ st ≤ 8 ∧ b 17 1 < 32
  | 18 => ∀ i < 8, (i < st → b 18 2 / 4 ^ i % 4 ≠ 3) ∧ (st ≤ i → b 18 2 / 4 ^ i % 4 = 0)
  | 20 => (∀ i < 8, (b 20 4 / 16 ^ i % 16 = 0 ↔ st ≤ i)) ∧ total ((List.range 8).map fun i => b 20 4 / 16 ^ i % 16) ≤ 32
  | 24 => b 24 4 ≠ 0
  | 28 => b 28 2 < 4096 ∧ 10 ≤ l1 ∧ l1 ≤ 24 ∧ 8 ≤ rg ∧ rg ≤ 34 ∧ 4 ≤ 48 - l1 - rg ∧ 48 - l1 - rg ≤ 30
  | 30 => 1 ≤ b 30 2 ∧ b 30 2 ≤ 4 * (48 - l1 - rg)
  | 32 => b 32 2 % 8 = 0 ∧ 24 ≤ b 32 2 ∧ b 32 2 ≤ 4096
  | 34 => b 34 2 ≠ 0
  | 36 => b 36 2 < 4096
  | 39 => b 39 1 = 0
  | 48 => b 48 8 % 8 = 0
  | 68 => b 68 4 ≤ 4096
  | 72 => 72 ∉ l.failed ∧ b 72 8 % 4 = 0 ∧ ∀ i < b 68 4, ∃ n, s.node? (num l.succ (4 * i) 4) = some n ∧ n.state = .waiting ∧ n.failing = none
  | 80 => 80 ∉ l.failed ∧ b 80 8 % 64 = 0 ∧ extOk l.ext (specDet l.sp) = true ∧
      (specDet l.sp = true → num l.ext 348 8 ≠ 0 → (s.compareManifest l.mani l.sp).1 = 0)
  | 88 => s.areqOk l.sp 88 (b 68 4) = true
  | 96 => s.areqOk l.sp 96 (b 68 4) = true
  | 104 => s.areqOk l.sp 104 (b 68 4) = true
  | 112 => s.areqOk l.sp 112 (b 68 4) = true
  | 124 => b 124 4 = 0
  | _ => True

/-- The field of a manifest that a code names equals what it is compared against (R384). -/
def State.manifestField (s : State) (m sp : List Byte) (code : Nat) : Prop :=
  match code with
  | 1 => num m 0 4 = 0x4D4E4146 ∧ num m 4 4 = 1
  | 2 => num m 8 64 = firmwareDigest s.fabric.firmware
  | 3 => num m 72 1 = num sp 17 1 / 16 % 2
  | 4 => num m 74 2 = num sp 28 2
  | 5 => num m 76 4 = 1050000
  | 6 => num m 80 2 = s.coreMap.length
  | 7 => ∀ k < 256, num m (96 + 2 * k) 2 = s.coreMap.getD k 0
  | 8 => num m 88 8 = num sp 56 8
  | _ => True

end Sys2Proof.Machine
end

