-- ==== Sys2Proof/Certificates/Slice0/Obligations.lean ====
section
/-!
DEFINITION. The statements about the machine that the provers settle, each from the rules of spec/ that it cites.
-/
open Sys2Proof Sys2Proof.Machine

/-! ### Decoding -/

/-- 03 R55, R60 to R71: decoding the words of a well-formed instruction, with its chain bit set or clear, gives that
instruction with every operand. -/
def Obligations.EncodeDecode : Prop := ∀ (i : Instr) (c : Bool), WellFormed i → codes c i ≠ [] → decodeWords (codes c i) = .ok i

/-- 03 R55, R61, R65, R67 to R70: words written out field by field from the spec's encodings of them decode to the
instructions they stand for, with the chain bit set or clear; the three words of a branch packet do; a major opcode that
the table does not assign is refused, and so is a word of the branch packet that stands alone. -/
def Obligations.DecodeSamples : Prop :=
  decode (0#1 ++ 0x01#6 ++ 5#6 ++ 6#6 ++ 7#6 ++ 0#1 ++ 1#1 ++ 1#5) = .ok (.sub 5#6 6#6 7#6 false true) ∧
  decode (1#1 ++ 0x05#6 ++ 1#6 ++ 2#6 ++ 3#6 ++ 9#4 ++ 1#1 ++ 0#2) = .ok (.sel 1#6 2#6 3#6 9#4 true) ∧
  decode (0#1 ++ 0x07#6 ++ 63#6 ++ 4#6 ++ 0#1 ++ 0xFFF#12) = .ok (.addi 63#6 4#6 false 0xFFF#12) ∧
  decode (1#1 ++ 0x0D#6 ++ 8#6 ++ 0x40001#19) = .ok (.li 8#6 0x40001#19) ∧
  decode (0#1 ++ 0x0F#6 ++ 10#6 ++ 12#6 ++ 1#1 ++ 4#4 ++ 0x80#8) = .ok (.ldW 10#6 12#6 true 0x80#8) ∧
  decode (0#1 ++ 0x17#6 ++ 1#6 ++ 2#6 ++ 3#6 ++ 1#1 ++ 0#1 ++ 0#5) = .ok (.yadd 1#6 2#6 3#6 true false) ∧
  decode (0#1 ++ 0x1C#6 ++ 5#4 ++ 1#1 ++ 0xFFFFE#20) = .ok (.br 5#4 true 0xFFFFE#20) ∧
  decode (0#1 ++ 0x20#6 ++ 9#6 ++ 3#19) = .ok (.loop 9#6 3#19) ∧
  decode (0#1 ++ 0x25#6 ++ 1#6 ++ 2#6 ++ 4#6 ++ 1#7) = .ok (.shflXor 1#6 2#6 4#6) ∧
  decode (0#1 ++ 0x26#6 ++ 2#6 ++ 4#6 ++ 6#6 ++ 1#7) = .ok (.objPush 2#6 4#6 6#6) ∧
  decode (0#1 ++ 0x27#6 ++ 1#6 ++ 2#6 ++ 4#6 ++ 5#3 ++ 0#4) = .ok (.amoAdd 1#6 2#6 4#6 5#3) ∧
  decode (0#1 ++ 0x2D#6 ++ 4#6 ++ 8#6 ++ 0#1 ++ 1#4 ++ 2#8) = .ok (.ldfCons 4#6 8#6 false 2#8) ∧
  decode (0#1 ++ 0x31#6 ++ 2#6 ++ 8#6 ++ 0#6 ++ 7#3 ++ 0#4) = .ok (.cptG2s 2#6 8#6 7#3) ∧
  decode (0#1 ++ 0x34#6 ++ 3#6 ++ 1#6 ++ 2#6 ++ 1#1 ++ 0#2 ++ 15#4) = .ok (.mmaBf16 3#6 1#6 2#6 true 15#4) ∧
  decode 0x70000004#32 = .ok .nop ∧
  decodeWords [1#1 ++ 0x21#6 ++ 1#2 ++ 3#4 ++ 0#4 ++ 0#4 ++ 0#4 ++ 1#1 ++ 0#1 ++ 0#1 ++ 0#1 ++ 0#3,
    1#1 ++ 0x22#6 ++ 0#1 ++ 0xFFF#12 ++ 2#12, 0#1 ++ 0x22#6 ++ 0#1 ++ 0#12 ++ 0#12] =
      .ok (.mbr 1#2 3#4 0#4 0#4 0#4 true false false false 0xFFF#12 2#12 0#12 0#12) ∧
  (∀ w : Word, (w.extractLsb' 25 6 = 0#6 ∨ w.extractLsb' 25 6 = 0x21#6 ∨ w.extractLsb' 25 6 = 0x22#6 ∨
    57 ≤ (w.extractLsb' 25 6).toNat) → decode w = .illegal)

/-! ### The machine -/

/-- 01 R13 to R27, 12 R237, 13 R253, 23 R426, 19 R388: what device reset leaves. No fibre, gang or node is there, nothing is
on its way, no memory byte is listed and memory is in its canonical form (log 3), every arena slot is free with GEN 0, and
the next NID of `task.tnode` is 0x80000000. By log 2, the model's choice, every link is in service, HEAD and TAIL of every
queue agree, the power limit is 2400 W and 256 cores have numbers. -/
def Obligations.ResetState : Prop :=
  State.reset.allFibres = [] ∧ State.reset.allGangs = [] ∧ State.reset.allNodes = [] ∧ State.reset.flight = [] ∧
  State.reset.signals = [] ∧ State.reset.mem = [] ∧ State.reset.mem.wf = true ∧ State.reset.bad = [] ∧
  (∀ k, State.reset.arena k = ⟨0#8, .free, 0, 0, 0, 0, 0, 0xFFFFFFFF, false⟩) ∧
  (∀ x ∈ State.reset.fabric.sublinks, x = .up) ∧ State.reset.fabric.sublinks.length = 24 ∧
  State.reset.fabric.unreachable = [] ∧ (∀ q ∈ State.reset.queues, q.head = q.tail) ∧ State.reset.queues.length = 8 ∧
  State.reset.nextNid = 0x80000000 ∧ State.reset.off = false ∧ State.reset.fabric.power = 2400 ∧
  (∀ k, State.reset.core k = Core.blank k) ∧ State.reset.coreMap.length = 256 ∧ State.reset.coreMap.Nodup

/-- 01 R28: a fibre that a launch or a `spawn` creates starts with the reset values, at slot 0 of its entry packet, with a
window of eight full cells at the bottom of its stack, all 0 after a launch or the eight that `spawn` passed, no y
register, an empty loop stack and its four batch-tag counters at 0. -/
def Obligations.FreshFibre : Prop :=
  (∀ (id : FibId) (stg q ydef : Nat) (pc : DWord) (first : List Word), first.length = 8 → 8 ≤ q → ydef < 2 ^ 16 →
    let b := Fibre.fresh id stg q ydef pc first
    b.life = .live ∧ b.regs.pc = pc ∧ b.regs.base = 0 ∧ b.regs.n = 8 ∧ b.regs.ys = [] ∧ b.regs.lw = 0 ∧
    (∀ k (h : k < first.length), b.regs.cell k = ⟨first[k], true⟩) ∧ b.regs.cells.length = q ∧
    (∀ c ∈ b.regs.cells, c.full = true) ∧ b.regs.loops = [] ∧ b.regs.bt = [0, 0, 0, 0] ∧ b.regs.pw = 1#16 ∧
    b.regs.frames = [] ∧ b.regs.sfc = 0 ∧ b.regs.prc = 0x18#32 ∧ b.regs.rndc = 0#64 ∧ b.regs.ostep = 0#32 ∧
    b.regs.tvec = 0#64 ∧ b.regs.tcause = 0#32 ∧ b.regs.tepc = 0#64 ∧ b.regs.tval = 0#64 ∧ ydlLeft b.regs.ydl = ydef ∧ ydlHint b.regs.ydl = 0 ∧
    ydlIdle b.regs.ydl = 0 ∧ b.regs.lstat = 0#32 ∧ b.regs.fstat = 0#32 ∧ b.acc = [] ∧ b.dlv = []) ∧
  (∀ (n : Node) (gid : Nat), ∀ b ∈ n.newFibres gid, ∃ id stg,
    b = Fibre.fresh id stg n.spec.quota n.spec.ydef n.spec.entry (List.replicate 8 0#32) ∧ id.nid = n.spec.nid ∧
      id.gid = gid ∧ n.spec.lmask.getLsbD id.fid = true ∧ id.cid < n.spec.launchCrews.length) ∧
  (∀ (d a b : Fld) (s : State) (l : Nat), CanIssue (.spawn d a b) s → (s.r.d a).extractLsb' 0 4 = 0#4 →
    let v := s.spawnResult (s.r.w d)
    v.getLsbD 31 = false → (s.r.w d).getLsbD l = true → v.toNat ≠ s.f.id.cid →
      ∃ t x, exec (.spawn d a b) s = .next t ∧ t.fibre? { s.f.id with cid := v.toNat, fid := l } = some x ∧
        x.life = .live ∧ x.stg = s.f.stg ∧
        x.regs = Regs.fresh s.n.spec.quota s.n.spec.ydef (s.r.d a) (s.r.run b 8))

/-- 03 R55, R57, R59, R65, R71, 08 R176 to R179: a step runs the decoded instruction. When the bytes of the packet at the PC hold
a well-formed word that no word before it chains to and that chains to no later one, or a branch packet, the chain that
issues is that instruction alone. When such a chain stands at the PC of the one standing fibre of the partition whose clock
comes, no trap of the fibre's is due and the chain need not wait, the step does what exec does on the state in which the packet
has been fetched; beside it only the bundle is split again, and SEN, the clock, the tries of busy fetches and the turn go on.
Where a trap of that fibre is due and no flag is pending, the step enters it instead (06 R146). -/
def Obligations.StepRunsDecoded : Prop :=
  (∀ (t : State) (bs : List Byte) (i : Instr), t.fetchPacket = .inr bs → pcInvalid t.r.pc = false →
    let slot := pcSlot t.r.pc
    let word := fun (k : Nat) => wordOfBytes ((bs.drop (4 * k)).take 4)
    (word 3).extractLsb' 0 12 = 0#12 →
    ((∀ k < slot, (word k).getLsbD 31 = false) → (word slot).getLsbD 31 = false → decode (word slot) = .ok i →
      WellFormed i → (infoOf i).maj ≠ 0x21 → t.fetchChain = .chain [⟨t.r.pc, infoOf i, bodyOf i⟩] (pcNext t.r.pc)) ∧
    (slot = 0 → isMbrPacket (word 0) (word 1) (word 2) = true → mbrBad (word 0) (word 1) (word 2) = none →
      decodeMbr (word 0) (word 1) (word 2) = .ok i →
      t.fetchChain = .chain [⟨t.r.pc, infoOf i, bodyOf i⟩] (pcPacket t.r.pc + 16#64))) ∧
  (∀ (s : State) (id : FibId) (i : Instr) (b : Bundle),
    s.agenda = [] → s.off = false → s.turn % 2 = 0 → isEvent i = false → WellFormed i →
    let core := turnCore s.turn
    let part := turnPart s.turn
    let r := (if (s.part core part).clock % 4 = 0 then s.regroup core part else s).fetchTries core part
    let t := State.focus { r with issue := [id] } id
    let v := t.fetched
    let goesOn := fun (u : State) => State.onPart ((u.splitBundle core b [id]).onPart core part fun p =>
      { p with sen := if r.senior core part = some id then 0 else (r.part core part).sen }) core part fun p =>
        { p with clock := p.clock + 1 }
    r.standing core part = [b] → b.ids = [id] → t.focus id = t →
    (v.focus id = v → v.f.id = id → v.r.pc = t.r.pc → t.f.due = none →
      t.fetchChain = .chain [⟨t.r.pc, infoOf i, bodyOf i⟩] (nextAfter (infoOf i) t.r.pc) →
      (evalChain [⟨t.r.pc, infoOf i, bodyOf i⟩] (nextAfter (infoOf i) t.r.pc) v).waits = false →
      ∃ u, exec i v = .next u ∧ step s = .next { goesOn u with turn := s.turn + 1 }) ∧
    (∀ code sub val, t.f.due = some (code, sub, val) → t.f.flagsPending = false →
      step s = .next { goesOn (t.enterTrap t.r.pc code sub val).tick with turn := s.turn + 1 }))

/-- 03 R71, 22 R439, log 4: what else a step does. The head of the agenda happens first, and only it; a package that is
powered down does nothing else, and only a device reset brings it back; without an agenda even turns give a clock to a
partition, odd turns let one event of the device's own happen. The order of these steps is the model's choice (log 4). -/
def Obligations.StepCases : Prop := ∀ (s : State),
  (∀ e rest, s.agenda = e :: rest →
    (∀ t, exec e { s with agenda := rest } = .next t → step s = .next { t with turn := s.turn + 1 }) ∧
    (∀ x, exec e { s with agenda := rest } = .fault x → step s = .fault x)) ∧
  (s.agenda = [] → s.off = false → step s = .next
    { (if s.turn % 2 = 0 then s.partClock (turnCore s.turn) (turnPart s.turn) else s.ownEvent) with turn := s.turn + 1 }) ∧
  (s.off = true → ∀ t, step s = .next t → (∃ rest, s.agenda = .deviceReset :: rest) ∧ t.off = false) ∧
  (s.off = true → ∀ i, i ≠ .deviceReset → exec i s = .fault .poweredDown)

/-- 12 R238: every step keeps the canonical form of memory, from every state that has it: the listed addresses rise
strictly, and no entry is a byte that an unlisted address reads as (log 3). -/
def Obligations.StepKeepsMemory : Prop := ∀ s t : State, s.mem.wf = true → step s = .next t → t.mem.wf = true

/-- 05 R120, 12 R246: what a word's issue leaves unchanged. A word that issues changes no byte of memory, whether it commits,
waits, traps or faults, but for the words that write at a home before they commit: `obj.init` its object, `task.tnode`,
`task.tdep`, `task.tsig`, `task.enq` and `task.cont` their specs, STATUS bytes, rings and records, and a RED of a
deterministic node on a core whose hold buffer is full an entry of the spill area. A store reaches memory later, by the steps
of its access. -/
def Obligations.WordsKeepMemory : Prop := ∀ (i : Instr) (s t : State), isEvent i = false →
  (∀ d a b, i ≠ .objInit d a b) → (∀ d a, i ≠ .taskTnode d a) → (∀ a b, i ≠ .taskTdep a b) → (∀ a, i ≠ .taskTsig a) →
  (∀ a, i ≠ .taskEnq a) → (∀ a b, i ≠ .taskCont a b) →
  (s.n.spec.det = true → redOf i s ≠ none → s.holdCount s.c.num < Config.redHold) →
  exec i s = .next t → ∀ a, t.mem.read a = s.mem.read a

/-- 00 R3, 12 R238, R240: bytes written at the home of an address. Where the walk of a run inside one line finds its frame, the
run's bytes are written there in ascending order, and what the walk kept is all else that changes; every byte of memory
outside them reads as before, for a masked run too. Memory that reads the same everywhere is the same memory. A run inside one
line that a core writes at its home is lost, and the host told, where no path leads there (23 R427), and else the core's next
release covers that home (13 R263). -/
def Obligations.MemoryWrites : Prop :=
  (∀ (s t : State) (ia pa : Nat) (bs : List Byte), bs ≠ [] → ia % 128 + bs.length ≤ 128 →
    s.walk ia .store = (.frame pa, t) →
    s.homeWrite ia bs = (true, { t with mem := s.mem.writeBytes pa bs }) ∧ ∃ w, t = { s with walkers := w }) ∧
  (∀ (m : Memory) (a k : Nat) (bs : List Byte), m.wf = true →
    (m.writeBytes a bs).read k = if a ≤ k ∧ k < a + bs.length then bs.getD (k - a) 0#8 else m.read k) ∧
  (∀ (m : Memory) (a k : Nat) (bs : List (Option Byte)), m.wf = true →
    (m.writeMasked a bs).read k =
      if a ≤ k ∧ k < a + bs.length then (bs.getD (k - a) none).getD (m.read k) else m.read k) ∧
  (∀ (m : Memory) (lo hi k : Nat), m.wf = true →
    (m.blank lo hi).read k = if lo ≤ k ∧ k < hi then Config.blankByte else m.read k) ∧
  (∀ m1 m2 : Memory, m1.wf = true → m2.wf = true → (∀ k, m1.read k = m2.read k) → m1 = m2) ∧
  (∀ (s : State) (core nid gid cid ia : Nat) (bs : List Byte), bs ≠ [] → ia % 128 + bs.length ≤ 128 →
    s.engineWrite core nid gid cid ia bs =
      if s.reaches core ia then (s.homeWrite ia bs).2.sentTo core ia else s.tell (.lostWrite ia nid gid cid))

/-! ### Results of single words -/

/-- 05 R107 to R114, R116 to R118, R215: a word with a cell result that may issue commits, w[D] becomes its result, PC the
next word, and nothing else changes but YDL.LEFT; the same for a word with a pair result, and for a compare or a predicate
word. -/
def Obligations.ResultWords : Prop :=
  (∀ (i : Instr) (s : State) (d : Fld) (v : Word),
    CanIssue i s → cellResult i s = some (d, v) → exec i s = .next (s.wrote i fun r => r.setW d v)) ∧
  (∀ (i : Instr) (s : State) (d : Fld) (v : DWord),
    CanIssue i s → pairResult i s.r = some (d, v) → exec i s = .next (s.wrote i fun r => r.setD d v)) ∧
  (∀ (i : Instr) (s : State) (d : Fld) (v : Bool),
    CanIssue i s → predResult i s.r = some (d, v) → exec i s = .next (s.wrote i fun r => r.setP d.toNat v))

/-- 01 R15 to R17, 05 R105, R107, R108, R110 to R113, R117: the frame of the words that write one cell, two cells or a
predicate. Of the fibre's registers only the destination changes, and it becomes full; the PC, LEFT and, at a loop's end,
the loop stack go on as for every word; a write of p0 is ignored. No byte of memory changes, no other fibre, gang or core
does, and nothing is sent; what the fibre has under way stays, with the chain numbers that `based` gives. -/
def Obligations.RegisterFrame : Prop := ∀ (i : Instr) (s : State), CanIssue i s →
  let rest := fun (t : State) => (∀ a, t.mem.read a = s.mem.read a) ∧ t.g = s.g ∧ t.c = s.c ∧ t.n = s.n ∧
    t.fibres = s.fibres ∧ t.gangs = s.gangs ∧ t.cores = s.cores ∧ t.nodes = s.nodes ∧ t.flight = s.flight ∧
    t.notes = s.notes ∧ t.f.acc = (s.f.based s.f.nextSer (s.backTo i)).acc ∧ t.f.dlv = (s.f.based s.f.nextSer (s.backTo i)).dlv ∧
    t.f.life = s.f.life
  let same := fun (t : State) => { t.r with pc := s.r.pc, ydl := s.r.ydl, loops := s.r.loops, cells := s.r.cells, pw := s.r.pw } = s.r
  (∀ d v, cellResult i s = some (d, v) → ∃ t, exec i s = .next t ∧ rest t ∧ same t ∧ t.r.pw = s.r.pw ∧
    (s.r.base + d.toNat < s.r.cells.length → t.r.w d = v ∧ (t.r.cell d.toNat).full = true) ∧
    ∀ k, k ≠ s.r.base + d.toNat → t.r.cells[k]? = s.r.cells[k]?) ∧
  (∀ d v, pairResult i s.r = some (d, v) → ∃ t, exec i s = .next t ∧ rest t ∧ same t ∧ t.r.pw = s.r.pw ∧
    (s.r.base + d.toNat + 1 < s.r.cells.length → t.r.d d = v) ∧
    ∀ k, k ≠ s.r.base + d.toNat → k ≠ s.r.base + d.toNat + 1 → t.r.cells[k]? = s.r.cells[k]?) ∧
  (∀ d v, predResult i s.r = some (d, v) → ∃ t, exec i s = .next t ∧ rest t ∧ same t ∧ t.r.cells = s.r.cells ∧
    (0 < d.toNat → d.toNat < 16 → t.r.p d.toNat = v) ∧ (d.toNat = 0 → t.r.p 0 = true) ∧
    ∀ k, k ≠ d.toNat → 0 < k → k < 16 → t.r.p k = s.r.p k)

/-! ### The Y pipe -/

/-- 06 R142, R145, R147 to R150, R153, 01 R25, 04 R91: a Y-pipe word that rounds, whose precision fits the window, that keeps
enough bits or only flags that it does not, and that meets no trap, commits with y[D] holding the exact result rounded once.
That PX comes with every finite nonzero result where PRC.MIN is above L is by log 63, and that `ymant`, `yrint` and `ytrunc`
may set NV and `yrem` OF by log 64, the model's choices. -/
def Obligations.YRoundWords : Prop :=
  ∀ (i : Instr) (s : State) (d : Fld) (srcs : List Fld) (passes : Nat) (x : Exact) (e : Option (Int × Bool)),
    CanIssue i s → yExact i s = some (d, srcs, passes, x, e) → prcL s.r.prc ≤ s.r.lw →
    (s.shortOf x e = true → pxEnabled s.r.prc = false) → (s.yDone d srcs passes x e).Clear s →
    exec i s = .next (s.committed i .seq ((s.yDone d srcs passes x e).effect s))

/-- 06 R151, R152, R154: a Y-pipe word that writes a cell, a pair or a predicate, with no trap from its flags,
commits and delivers what `yScalar` says of it. -/
def Obligations.YScalarWords : Prop :=
  ∀ (i : Instr) (s : State) (y : YDone), CanIssue i s → yScalar i s = some y → y.Clear s →
    exec i s = .next (s.committed i .seq (y.effect s))

/-- 06 R142, 01 R20, 04 R90, R91: a Y-pipe word that rounds takes its traps in the order of R92; where it draws u it waits,
before it rounds, for an earlier `ldy` that may still draw (log 15). Sub-cause 2 with MIN above L is by log 63, and that TVAL
names the first of several broken headers, in the order A, B, D, is by log 59, the model's choices. -/
def Obligations.YTraps : Prop :=
  ∀ (i : Instr) (s : State) (d : Fld) (srcs : List Fld) (passes : Nat) (x : Exact) (e : Option (Int × Bool)),
    CanIssue i s → yExact i s = some (d, srcs, passes, x, e) →
    let traps := fun code sub val => exec i s = .next (s.traps code sub val).tick
    match srcs.find? fun f => !(s.r.y f).valid s.r.lw with
    | some f => traps 0x0F 0 (BitVec.ofNat 64 (2 ^ 63 + f.toNat))
    | none =>
      if s.r.lw < prcL s.r.prc then traps 0x06 1 (BitVec.ofNat 64 (prcL s.r.prc + 256 * s.r.lw))
      else if prcRM s.r.prc = .rsr ∧ s.f.drawWaits = true then exec i s = .next s.tick
      else if s.shortOf x e = true ∧ pxEnabled s.r.prc = true then
        traps 0x06 2 (BitVec.ofInt 64 ((e.map fun y => s.keptBits x y.1).getD 0))
      else if enabled s.r.prc (s.yDone d srcs passes x e).flags = true then
        traps 0x05 (s.yDone d srcs passes x e).flags.toNat 0#64
      else True

/-! ### PRC, PW and the system registers -/

/-- 06 R155, 05 R117, R118, R137, 01 R25, R27: the words of the PRC group, `gets`, `sets`, `w2p` and `sel.y`. A refused value
of PRC or of its flags, and a `gets` or `sets` that R27 refuses, raise trap 0x02 and change nothing; while a flag that the
word must see is pending it waits (06 R146), and `rnd` while an earlier `ldy` may still draw waits too (log 15, the model's
choice). -/
def Obligations.RegisterWords : Prop :=
  (∀ (i : Instr) (s : State) (k : Regs → Regs),
    CanIssue i s → regEffect i s = some k → waitsForFlags i s = false → prcRefuses i s = false →
      exec i s = .next (s.wrote i k)) ∧
  (∀ (i : Instr) (s : State), CanIssue i s →
    (waitsForFlags i s = true → prcRefuses i s = false → (∃ k, regEffect i s = some k) → exec i s = .next s.tick) ∧
    (waitsForFlags i s = false → prcRefuses i s = true →
      exec i s = .next (s.traps 0x02 0 (wordVal (encode false i) 7)).tick) ∧
    (∀ d b, i = .gets d b ∨ i = .sets d b → regEffect i s = none →
      exec i s = .next (s.traps 0x02 0 (wordVal (encode false i) 7)).tick))

/-! ### Control flow -/

/-- 05 R125, R127, R135, R136, R139: `br`, `bra`, `mbr`, `jmpr`, `nop` and a `call` that is not taken change nothing but
where control goes. -/
def Obligations.Branches : Prop := ∀ (i : Instr) (s : State) (ctl : Ctl),
  CanIssue i s → branchTo i s = some ctl → exec i s = .next (s.committed i ctl id)

/-- 05 R134, R135: where control goes. A taken branch pops the current loops that do not hold its target; a sequential
arrival after a loop's end packet takes the end action. -/
def Obligations.ArrivalAtLoops : Prop := ∀ (r : Regs) (next pc : DWord) (e : LoopEntry) (rest : List LoopEntry),
  r.loops = e :: rest → e.base = r.base →
  (¬(e.start ≤ pcPacket pc ∧ pcPacket pc ≤ e.last) →
    r.goes next (.taken pc) = { r with loops := rest }.goes next (.taken pc)) ∧
  ((e.start ≤ pcPacket pc ∧ pcPacket pc ≤ e.last) → r.goes next (.taken pc) = { r with pc := pc }) ∧
  (pcSlot pc = 0 → pc = e.last + 16#64 → e.count ≠ 1#32 →
    r.goes next (.arrive pc) = { r with pc := e.start, loops := { e with count := e.count - 1#32 } :: rest }) ∧
  (pcSlot pc = 0 → pc = e.last + 16#64 → e.count = 1#32 →
    r.goes next (.arrive pc) = { r with loops := rest }.goes next (.arrive pc)) ∧
  (pc ≠ e.last + 16#64 → r.goes next (.arrive pc) = { r with pc := pc })

/-- 05 R126, R127, 01 R17, R22: a call leaves the return PC, slides the window and goes to its target; where fewer than 12
cells would be left it raises trap 0x07. -/
def Obligations.CallSlidesWindow : Prop := ∀ (i : Instr) (s : State) (pc : DWord),
  CanIssue i s → callTarget i s = some pc →
  (12 ≤ cellsAfterCall s.r →
    exec i s = .next (s.committed i (.goto pc) fun t => t.onRegs fun r => r.slideCall r.pc)) ∧
  (cellsAfterCall s.r < 12 →
    exec i s = .next (s.traps 0x07 0 (s.r.spillVal (cellsAfterCall s.r))).tick)

/-- 01 R22, 05 R126, R127: the window of a callee. After a call that is taken and has room, the window starts n - k cells above
the caller's, holds the caller's last k cells and zero, full cells above them, has no y register and length 0; a record of
KIND 0 with the return PC and the caller's VPF area lies on top, and it takes 16 bytes of the stack; no cell below the
caller's top changes. -/
def Obligations.CalleeWindow : Prop := ∀ (i : Instr) (s : State) (pc : DWord) (j : Nat),
  CanIssue i s → callTarget i s = some pc → 12 ≤ cellsAfterCall s.r → j < 8 → ∃ t, exec i s = .next t ∧
  let k := min s.r.n 8
  t.r.pc = pc ∧ t.r.base = s.r.base + s.r.n - k ∧ t.r.n = 8 ∧ t.r.m = 0 ∧ t.r.lw = 0 ∧
  t.r.cell j = (if j < k then s.r.cell (s.r.n - k + j) else ⟨0#32, true⟩) ∧
  t.r.frames = ⟨nextAfter (infoOf i) s.r.pc, s.r.n, s.r.m, s.r.lw, 0, s.r.n - k, s.r.ys⟩ :: s.r.frames ∧
  t.r.wq = s.r.wq - 4 - (8 - k : Nat) ∧ (∀ pos, pos < s.r.base + s.r.n → t.r.cells[pos]? = s.r.cells[pos]?)

/-- 01 R21, 05 R130: `enter` makes a window of n cells and m registers of length Lw, or of PRC.L; where fewer than 12 cells
would be left it raises trap 0x07. -/
def Obligations.EnterMakesWindow : Prop := ∀ (d a : Fld) (v : BitVec 12) (s : State),
  CanIssue (.enter d a v) s →
  let lw := if v.toNat = 0 then prcL s.r.prc else v.toNat
  let left := cellsAfterEnter s.r (d.toNat + 1) a.toNat lw
  (12 ≤ left → s.f.pendingFrom (s.r.base + min s.r.n (d.toNat + 1)) s.r.frames.length = false →
    exec (.enter d a v) s = .next (s.committed (.enter d a v) .seq fun t =>
      (t.clip (s.r.base + min s.r.n (d.toNat + 1)) s.r.frames.length).onRegs fun r =>
        ({ r with n := d.toNat + 1, lw := lw, ys := List.replicate a.toNat (YReg.zero lw) }).zeroCells
          (s.r.base + min s.r.n (d.toNat + 1)) (s.r.base + (d.toNat + 1)))) ∧
  (left < 12 → exec (.enter d a v) s = .next (s.traps 0x07 0 (s.r.spillVal left)).tick)

/-- 01 R24, 05 R128, R131: `ret` pops the youngest record and goes to its RPC; with no record it ends the fibre or, where
frames are spilled, raises trap 0x08; on a trap frame it raises trap 0x02. -/
def Obligations.RetPopsRecord : Prop := ∀ (s : State), CanIssue .ret s →
  (∀ fr rest, s.r.frames = fr :: rest → fr.kind ≠ 1 →
    s.f.pendingFrom (s.r.base - fr.delta) rest.length = false →
    exec .ret s = .next (s.committed .ret (.arrive fr.rpc) fun t =>
      (t.clip (s.r.base - fr.delta + fr.n) (rest.length + 1)).onRegs fun r =>
        { r with
          frames := rest, base := r.base - fr.delta, n := fr.n, lw := fr.lw, ys := fr.ys
          loops := r.loops.filter fun e => e.base ≠ r.base })) ∧
  (∀ fr rest, s.r.frames = fr :: rest → fr.kind = 1 →
    exec .ret s = .next (s.traps 0x02 0 (wordVal (encode false .ret) 7)).tick) ∧
  (s.r.frames = [] → s.r.sfc ≠ 0 →
    exec .ret s = .next (s.traps 0x08 0 ((BitVec.ofInt 16 s.r.wq).setWidth 64)).tick) ∧
  (s.r.frames = [] → s.r.sfc = 0 → s.f.pendingFrom 0 0 = false →
    exec .ret s = .next (s.committed .ret .gone State.endFibre))

/-- 01 R32, 05 R129: `eret` with a trap frame on top, TCAUSE asking for no frames to move, pops the handler's loops and
its frame, clears H and goes on at TEPC. -/
def Obligations.EretLeavesHandler : Prop := ∀ (s : State) (fr : Frame) (rest : List Frame),
  CanIssue .eret s → s.r.frames = fr :: rest →
  (fr.kind ≠ 0 → pcInvalid s.r.tepc = false → s.r.tcause.extractLsb' 8 8 = 0#8 →
    s.f.pendingFrom (s.r.base - fr.delta) rest.length = false →
    exec .eret s = .next (s.committed .eret (.arrive s.r.tepc) fun t =>
      ((t.wordDone t.f.id).clip (s.r.base - fr.delta + fr.n) (rest.length + 1)).onRegs fun r =>
        { r with
          frames := rest, base := r.base - fr.delta, n := fr.n, lw := fr.lw, ys := fr.ys
          loops := r.loops.filter fun e => e.base ≠ r.base
          tcause := r.tcause &&& 0x7FFFFFFF#32 })) ∧
  ((fr.kind = 0 ∨ pcInvalid s.r.tepc = true) →
    exec .eret s = .next (s.traps 0x02 0 (wordVal (encode false .eret) 7)).tick)

/-- 05 R132, R134: `loop` pushes an entry for the body that starts at the next packet; a count of 0 goes past the body; a
fifth entry raises trap 0x09. -/
def Obligations.LoopPushesEntry : Prop := ∀ (d : Fld) (o : BitVec 19) (s : State), CanIssue (.loop d o) s →
  (s.r.w d ≠ 0#32 → s.r.loops.length < 4 →
    exec (.loop d o) s = .next (s.wrote (.loop d o) fun r => { r with
      loops := ⟨packetAt s 1, packetAt s o.toNat, s.r.w d, s.r.base⟩ :: r.loops })) ∧
  (s.r.w d = 0#32 → exec (.loop d o) s = .next (s.committed (.loop d o) (.arrive (packetAt s (o.toNat + 1))) id)) ∧
  (s.r.w d ≠ 0#32 → 4 ≤ s.r.loops.length →
    exec (.loop d o) s = .next (s.traps 0x09 0 ((s.r.w d).setWidth 64)).tick)

/-! ### Fibre control -/

/-- 10 R216, 08 R182, 183: `yield` writes its hint and counts idle polls; its deadline, or the node's default where it is 0,
goes to LEFT; hint 2 sets the polling back-off. -/
def Obligations.YieldWritesHint : Prop := ∀ (h : BitVec 3) (d : BitVec 16) (s : State), CanIssue (.yield h d) s →
  exec (.yield h d) s = .next (s.committed (.yield h d) .seq fun t => { t with f := { t.f with
    regs := { t.r with
      ydl := ydlOf (ydlLeft t.r.ydl) h.toNat (if h = 0#3 then 0 else min (ydlIdle t.r.ydl + 1) 16) }
    backoff := if h = 2#3 then some ((s.c.parts.getD (s.partOf s.f.id.cid) ⟨0, 0⟩).clock + 16) else t.f.backoff } }) ∧
  (h.toNat < 4 → s.n.spec.ydef < 65536 → ∃ t, exec (.yield h d) s = .next t ∧
    ydlLeft t.r.ydl = (if d = 0#16 then s.n.spec.ydef else d.toNat) ∧ ydlHint t.r.ydl = h.toNat ∧
    ydlIdle t.r.ydl = (if h = 0#3 then 0 else min (ydlIdle s.r.ydl + 1) 16))

/-- 10 R212, 08 R174: `end` ends the fibre; its crew ends with its last live fibre, and a gang that then has no crew left
drains where it stands. -/
def Obligations.EndFibre : Prop := ∀ (s : State), CanIssue .endFibre s → s.g.nid = s.f.id.nid → s.g.gid = s.f.id.gid →
  s.g.nid ≠ 0 → ∃ t, exec .endFibre s = .next t ∧ t.f.life = .ended ∧ t.f.id = s.f.id ∧ t.f.dlv = [] ∧ t.fibres = s.fibres ∧
    (let last := (s.fibres.all fun x => !(x.life == .live && decide (x.id ≠ s.f.id ∧ x.id.nid = s.f.id.nid ∧
        x.id.gid = s.f.id.gid ∧ x.id.cid = s.f.id.cid))) = true
     (t.g.crews = if last then s.g.crews.filter fun c => c.cid ≠ s.f.id.cid else s.g.crews) ∧
     t.g.place = match s.g.place with
       | .resident c => if last ∧ t.g.crews = [] then .draining c else .resident c
       | p => p) ∧
    t.mem = s.mem

/-- 10 R213, R214, 08 R173, R175, R187: `spawn` answers an error code in w[D], in the order of R213, or the lowest CID that is
unused in the gang, and then makes a crew of fresh fibres that waits for the spawner's earlier accesses. -/
def Obligations.SpawnMakesFibre : Prop := ∀ (d a b : Fld) (s : State), CanIssue (.spawn d a b) s →
  let mask := s.r.w d
  let v := s.spawnResult mask
  ((s.r.d a).extractLsb' 0 4 = 0#4 → v.getLsbD 31 = true →
    exec (.spawn d a b) s = .next (s.wrote (.spawn d a b) fun r => r.setW d v)) ∧
  ((s.r.d a).extractLsb' 0 4 = 0#4 → v.getLsbD 31 = false →
    exec (.spawn d a b) s = .next (s.committed (.spawn d a b) .seq fun t =>
      (((List.range 32).filter fun l => mask.getLsbD l).foldl
        (fun u l => u.bear (Fibre.fresh { s.f.id with cid := v.toNat, fid := l } s.f.stg s.n.spec.quota s.n.spec.ydef
          (s.r.d a) (s.r.run b 8)))
        (t.addCrew s.f.id.nid s.f.id.gid s.c.num
          ⟨v.toNat, s.f.stg, mask, 0, 0, .starting s.f.id s.f.nextSer, .here⟩)).onRegs fun r =>
            r.setAt (s.r.base + d.toNat) v true)) ∧
  ((s.r.d a).extractLsb' 0 4 ≠ 0#4 →
    exec (.spawn d a b) s = .next (s.traps 0x02 0 (wordVal (encode false (.spawn d a b)) 7)).tick) ∧
  (mask = 0#32 → v = 0x80000001#32) ∧
  (mask ≠ 0#32 → 32 ≤ s.g.crews.length → v = 0x80000002#32) ∧
  (mask ≠ 0#32 → s.g.crews.length < 32 → s.freeContext s.c.num = none → v = 0x80000003#32) ∧
  (mask ≠ 0#32 → s.g.crews.length < 32 → s.freeContext s.c.num ≠ none →
    let cells := (s.c.split.getD (0, 0)).2 * 16384
    let held := total ((s.gangsOn s.c.num).map fun g =>
      total (g.crews.map fun c => onesIn c.lanes * ((s.node? g.nid).getD Node.none).spec.quota))
    (cells < held + onesIn mask * s.n.spec.quota → v = 0x80000004#32) ∧
    (held + onesIn mask * s.n.spec.quota ≤ cells → v.toNat < 32 ∧ (∀ x ∈ s.g.crews, x.cid ≠ v.toNat) ∧
      ∀ c < v.toNat, ∃ x ∈ s.g.crews, x.cid = c))

/-! ### Exceptions -/

/-- 05 R138, 01 R31: `trap` and `brk` commit and enter the handler with TEPC at the next word. -/
def Obligations.TrapWords : Prop := ∀ (s : State) (i : Instr) (code sub : Nat),
  CanIssue i s → (∃ b : Fld, i = .trap b ∧ code = 0x0D ∧ sub = b.toNat) ∨ (i = .brk ∧ code = 0x0C ∧ sub = 0) →
  s.r.trapRefused = false → s.f.flagsPending = false →
  let b := s.f.based s.f.nextSer none
  let ydl := ydlOf (ydlLeft s.r.ydl - 1) (ydlHint s.r.ydl) (ydlIdle s.r.ydl)
  exec i s = .next (State.tick { s with f := { b with
    due := none, early := none, acc := b.acc.map Access.passed
    regs := { s.r with pc := pcNext s.r.pc, ydl := ydl }.trapEntry (pcNext s.r.pc) code sub 0#64 } })

/-- 01 R31, R22, 22 R405: fibre-trap entry. TEPC, TCAUSE (with H set) and TVAL are saved, a record of KIND 1 is pushed, the
window slides past the whole of the interrupted one to eight zero, full cells, and control goes to TVEC's packet. Nothing
else of the fibre changes, but that its words of 15 R312 that may be incomplete can be taken back to their start no more (log
67, the model's choice). -/
def Obligations.TrapEntry : Prop := ∀ (s : State) (first tepc val : DWord) (code sub j : Nat),
  s.r.trapRefused = false → s.f.flagsPending = false → code < 256 → sub < 256 → j < 8 →
  s.r.base + s.r.n + 8 ≤ s.r.cells.length →
  let t := s.trap first tepc code sub val
  let r := t.r
  r.tepc = tepc ∧ r.tcause = BitVec.ofNat 32 (2 ^ 31 + sub * 256 + code) ∧ r.tval = val ∧ r.pc = pcPacket s.r.tvec ∧
  r.frames = ⟨0#64, s.r.n, s.r.m, s.r.lw, 1, s.r.n, s.r.ys⟩ :: s.r.frames ∧
  r.base = s.r.base + s.r.n ∧ r.n = 8 ∧ r.lw = 0 ∧ r.ys = [] ∧ r.cell j = ⟨0#32, true⟩ ∧
  (∀ pos, pos < s.r.base + s.r.n → r.cells[pos]? = s.r.cells[pos]?) ∧
  r.pw = s.r.pw ∧ r.prc = s.r.prc ∧ r.rndc = s.r.rndc ∧ r.loops = s.r.loops ∧ r.tvec = s.r.tvec ∧ r.ydl = s.r.ydl ∧
  r.lstat = s.r.lstat ∧ r.fstat = s.r.fstat ∧ r.bt = s.r.bt ∧ r.sfc = s.r.sfc ∧
  t = { s with f := { s.f with due := none, early := none, acc := s.f.acc.map Access.passed, regs := r } }

/-- 22 R419, 01 R31, R405, R408: a double trap. A trap while H is set, with TVEC 0 or with fewer than 12 free cells is system
fault 0x46: one record, with the refused code in SUB and its TVAL in VA, is reported, and the crew is suspended; nothing
is entered. A `trap` or `brk` that is refused so commits nothing. -/
def Obligations.DoubleTrap : Prop := ∀ (s : State),
  s.r.tcause.getLsbD 31 = true ∨ s.r.tvec = 0#64 ∨ s.r.wq < 12 →
  let refused := fun (first val : DWord) (code : Nat) =>
    (State.report ((s.wordDone s.f.id).triesDone (.fetch s.f.id)) ⟨0x46, code, [], s.f.id.nid, s.f.id.gid,
      s.f.id.cid, BitVec.ofNat 32 (2 ^ s.f.id.fid), first, val, 0⟩).suspend
      s.f.id.nid s.f.id.gid s.f.id.cid 0x46
  (∀ (first tepc val : DWord) (code sub : Nat), s.trap first tepc code sub val = refused first val code) ∧
  (∀ (i : Instr) (code : Nat), CanIssue i s → (∃ b : Fld, i = .trap b ∧ code = 0x0D) ∨ (i = .brk ∧ code = 0x0C) →
    exec i s = .next (refused s.r.pc 0#64 code).tick)

/-- 03 R71, 01 R18, R63, 22 R405: what stops a word before it acts. A field that its form refuses raises trap 0x01 at level
3 and trap 0x02 at the other levels of decoding; an operand beyond the window raises trap 0x02 at level 6; an empty source
raises trap 0x04 or waits, as its policy says (which of several is named by log 59). At levels 6 and 7 no trap of the fibre is
due, no fault of it waits for a report, no object instruction of it is at work, and no word of the chain has been issued before
the others. -/
def Obligations.WordsThatStop : Prop := ∀ (i : Instr) (s : State), isEvent i = false → s.off = false →
  (∀ l, (infoOf i).level = some l →
    exec i s = .next (s.traps (if l = 3 then 0x01 else 0x02) 0 (wordVal (infoOf i).word l))) ∧
  ((infoOf i).level = none → s.f.due = none → s.f.met = none → s.f.obj = none → s.f.early = none →
    ((infoOf i).inWindow s.r = false → exec i s = .next (s.traps 0x02 0 (wordVal (infoOf i).word 6)).tick) ∧
    ((infoOf i).inWindow s.r = true →
    (∀ o, (infoOf i).ops.find? (fun o => o.reads && o.trap && isEmpty s.r o) = some o → s.crewCheck [infoOf i] = none →
      exec i s = .next (s.traps 0x04 0
        (BitVec.ofNat 64 (o.f.toNat + if o.kind = .y then 64 else 0))).tick) ∧
    ((infoOf i).ops.any (fun o => o.reads && isEmpty s.r o) = true →
      (∀ o ∈ (infoOf i).ops, (o.reads && o.trap && isEmpty s.r o) = false) → exec i s = .next s.tick)))

/-! ### Memory -/

/-- 05 R119, R121 to R123, 06 R157, 15 R289, R292, R297, R300: a word with a global access. A misaligned address raises trap
0x03; an address that the translation refuses is a system fault with its code; else the access is issued: its destination
is marked empty, it takes its place in program order, and nothing else changes. That the address of an `ldy` is checked at
issue for two bytes is by log 13, the model's choice. -/
def Obligations.GlobalAccesses : Prop := ∀ (i : Instr) (s : State) (a : Access) (va : Int) (len align : Nat),
  CanIssue i s → globalAccess i s = some (a, va, len, align) →
  (va % align ≠ 0 → exec i s = .next (s.traps 0x03 0 (BitVec.ofInt 64 va)).tick) ∧
  (va % align = 0 → ∀ code ia, s.xlat s.n va len a.op.need = .bad code ia →
    exec i s = .next (s.faults code 0 (BitVec.ofInt 64 va) ia).tick) ∧
  (va % align = 0 → ∀ ia tracked, s.xlat s.n va len a.op.need = .ok ia tracked →
    exec i s = .next (s.committed i .seq (State.issues a va ia tracked)))

/-- 06 R159, R161, R450, 04 R92: `ldc`, `sty` and `stc`, with their checks in order (which of the length, the alignment and
the address comes first is by log 12): sub-cause 1 of the precision for `ldc`, a broken header for the stores, a misaligned
address, a refused address, and an enabled flag of a store. Else the access is issued, and the flags of a store are set at
once; an `ldc` that draws waits for an earlier `ldy` that may still draw (log 15). -/
def Obligations.ConvertingAccesses : Prop := ∀ (i : Instr) (s : State), CanIssue i s →
  (∀ a va z, formatLoad i s = some (a, va, z) →
    (s.r.lw < prcL s.r.prc → exec i s = .next (s.traps 0x06 1 (BitVec.ofNat 64 (prcL s.r.prc + 256 * s.r.lw))).tick) ∧
    (prcL s.r.prc ≤ s.r.lw →
      (va % (z : Int) ≠ 0 → exec i s = .next (s.traps 0x03 0 (BitVec.ofInt 64 va)).tick) ∧
      (va % (z : Int) = 0 →
        (∀ code ia, s.xlat s.n va z .load = .bad code ia → exec i s = .next (s.faults code 0 (BitVec.ofInt 64 va) ia).tick) ∧
        (∀ ia tracked, s.xlat s.n va z .load = .ok ia tracked →
          (prcRM s.r.prc = .rsr → s.f.drawWaits = true → exec i s = .next s.tick) ∧
          ((prcRM s.r.prc = .rsr → s.f.drawWaits = false) →
            exec i s = .next (s.committed i .seq fun t =>
              (State.issues a va ia tracked t).onRegs fun r => r.drew (prcRM s.r.prc = .rsr))))))) ∧
  (∀ f va bs fl z, roundedStore i s = some (f, va, (bs, fl), z) →
    ((s.r.y f).valid s.r.lw = false → exec i s = .next (s.traps 0x0F 0 (BitVec.ofNat 64 (2 ^ 63 + f.toNat))).tick) ∧
    ((s.r.y f).valid s.r.lw = true →
      (va % (z : Int) ≠ 0 → exec i s = .next (s.traps 0x03 0 (BitVec.ofInt 64 va)).tick) ∧
      (va % (z : Int) = 0 →
        (∀ code ia, s.xlat s.n va bs.length .store = .bad code ia →
          exec i s = .next (s.faults code 0 (BitVec.ofInt 64 va) ia).tick) ∧
        (∀ ia tracked, s.xlat s.n va bs.length .store = .ok ia tracked →
          (enabled s.r.prc fl = true → exec i s = .next (s.traps 0x05 fl.toNat 0#64).tick) ∧
          (enabled s.r.prc fl = false →
            exec i s = .next (s.committed i .seq fun t =>
              (State.issues (accessOf .store bs.length .none bs 0) va ia tracked t).onRegs fun r =>
                (r.orFlags fl).drew (prcRM s.r.prc = .rsr)))))))

/-- 05 R120 to R123, 15 R290, R303, R309, 16 R332: the words that access the scratchpad. A misaligned offset raises trap 0x03,
an offset beyond the region or outside every tile window trap 0x10, and so does a granule access with bit 31 of its offset
set; a load's bytes are read at issue and arrive later, a store's are written at once, and an access of 16 bytes is issued
as two halves (R124); a pending access of the scratchpad holds each back, and a store waits for a release fence too and, in a
matrix stage, for any `mma` handed over before it (R332 asks it of the `mma` of its own crew: log 31). An ordered or granule
access is attempted at once. -/
def Obligations.ScratchpadWords : Prop := ∀ (i : Instr) (s : State), CanIssue i s →
  (∀ dest o z sg offs, spadLoad i s = some (dest, o, z, sg) → o.toNat % z = 0 → s.n.spadRun o z = some offs →
    s.f.acc.any Access.spad = false →
    exec i s = .next (s.committed i .seq fun t => t.sendLate
      { Deliv.blank with kind := .load, dest := dest, vals := loadCells sg (offs.map s.g.spad.read) })) ∧
  (∀ bs o z offs, spadStoreOf i s = some (bs, o, z) → o.toNat % z = 0 → s.n.spadRun o z = some offs →
    let held := s.f.acc.any Access.spad = true ∨ s.f.releasing = true ∨
      (s.g.role s.f.stg = .matrix ∧ s.g.mmaBefore s.g.mnext = true)
    (¬held → exec i s = .next (s.committed i .seq fun t => { t with g := t.g.spadPut offs bs })) ∧
    (held → exec i s = .next s.tick)) ∧
  (∀ a o, spadHalves i s = some (a, o) → o.toNat % 16 = 0 → (s.n.spadRun o 16).isSome = true →
    let held := s.f.acc.any Access.spad = true ∨ (a.op = .store ∧ (s.f.releasing = true ∨
      (s.g.role s.f.stg = .matrix ∧ s.g.mmaBefore s.g.mnext = true)))
    (¬held → exec i s = .next (s.committed i .seq
      (State.issues { a with spad := true, half := some none } o.toNat o.toNat true))) ∧
    (held → exec i s = .next s.tick)) ∧
  (∀ a o z high, spadAccess i s = some (a, o, z, high) → o.toNat % z = 0 → (s.n.spadRun o z).isSome = true →
    (high = true → o.getLsbD 31 = false) →
    exec i s = .next (s.committed i .seq fun t => t.issueNow { a with spad := true, va := o.setWidth 64 })) ∧
  (∀ a o z, spadAccess i s = some (a, o, z, true) → o.toNat % z = 0 → o.getLsbD 31 = true →
    exec i s = .next (s.traps 0x10 0 (o.setWidth 64)).tick) ∧
  (∀ o z, ((∃ dest sg, spadLoad i s = some (dest, o, z, sg)) ∨ (∃ bs, spadStoreOf i s = some (bs, o, z)) ∨
      (z = 16 ∧ ∃ a, spadHalves i s = some (a, o)) ∨ (∃ a high, spadAccess i s = some (a, o, z, high))) →
    (o.toNat % z ≠ 0 → exec i s = .next (s.traps 0x03 0 (o.setWidth 64)).tick) ∧
    (o.toNat % z = 0 → s.n.spadRun o z = none →
      exec i s = .next (s.traps 0x10 0 (o.setWidth 64)).tick))

/-- 15 R303, R305, R306, R308: the fences, `wbr` and `invr` hand their access to the memory system; a length of 0 names no
line and does nothing, and a refused range is a system fault. `pref` at a scope wider than `core`, or of no bytes, changes
nothing; at `crew` and `core` it brings the first 512 lines of its range into the L1. -/
def Obligations.OrderingWords : Prop := ∀ (i : Instr) (s : State), CanIssue i s →
  (∀ a, orderAccess i s = some a → exec i s = .next (s.committed i .seq fun t => t.issueNow a)) ∧
  (∀ (a b : Fld) (sc : BitVec 3), i = .wbr a b sc ∨ i = .invr a b sc →
    ((s.r.w b).toNat = 0 → exec i s = .next (s.committed i .seq id)) ∧
    ((s.r.w b).toNat ≠ 0 → ∀ code ia, s.xlat s.n (s.r.d a).toNat (s.r.w b).toNat .load = .bad code ia →
      exec i s = .next (s.faults code 0 (s.r.d a) ia).tick)) ∧
  (∀ (a b : Fld) (sc : BitVec 3), i = .pref a b sc →
    ((s.r.w b).toNat = 0 ∨ 2 ≤ sc.toNat → exec i s = .next (s.committed i .seq id)) ∧
    ((s.r.w b).toNat ≠ 0 → sc.toNat < 2 →
      let va := (s.r.d a).toNat
      let lines := min 512 ((va + (s.r.w b).toNat - 1) / 128 - va / 128 + 1)
      exec i s = .next (s.committed i .seq fun t => (List.range lines).foldl
        (fun u k => u.prefLine (if k = 0 then va else (va / 128 + k) * 128)) t)))

/-- 12 R245, 13 R267, 15 R298, R299, 19 R448: in a deterministic node a RED that passes its checks and its walk joins those
that its gang holds, with its operation, its address, its bytes, and its place in the batch order: CID, FID and program
order. While the core's hold buffer has room it lies there; else the oldest entry of the node's own in the buffer moves to
the node's spill area on the core, or the RED itself goes there where the node has none (the entry's 16 bytes are by log
39); with no room there either it is system fault 0x49, and a spill area that cannot be written fails the node (log 62).
A busy walk is tried again. -/
def Obligations.HeldReds : Prop := ∀ (i : Instr) (s : State) (op : Nat) (va : DWord) (z : Nat) (bs : List Byte),
  CanIssue i s → s.n.spec.det = true → redOf i s = some (op, va, z, bs) →
  (va.toNat % z ≠ 0 → exec i s = .next (s.traps 0x03 0 va).tick) ∧
  (va.toNat % z = 0 → ∀ code ia, s.xlat s.n va.toNat z .both = .bad code ia → exec i s = .next (s.faults code 0 va ia).tick) ∧
  (va.toNat % z = 0 → ∀ ia tracked, s.xlat s.n va.toNat z .both = .ok ia tracked →
    let core := s.c.num
    let inBuffer := total (s.allGangs.map fun g => (g.held.filter fun h => h.core = core && !h.spilled).length)
    let inArea := total (s.allGangs.map fun g =>
      if g.nid = s.n.spec.nid then (g.held.filter fun h => h.core = core && h.spilled).length else 0)
    let entry := s.n.spec.rsb + 16 * s.n.spec.rsn * core + 16 * inArea
    let held := fun (t : State) (spilled : Bool) => { t with
      g := { t.g with held := t.g.held ++ [{
        cid := t.f.id.cid, fid := t.f.id.fid, ser := t.f.nextSer, op := op, ia := ia, data := bs
        arena := if va.toNat / 2 ^ 56 = 0xA5 then some (va.toNat / 2 ^ 44 % 4096) else none
        spilled := spilled, core := t.c.num, no := t.issueNo }] }
      f := { t.f with nextSer := t.f.nextSer + 1 } }
    (∀ sub e, (s.walkRun ia z .both).1 = some (0, sub, e) → s.spent (.word s.f.id va.toNat) = false →
      exec i s = .next (s.tryAgain (.word s.f.id va.toNat)).tick) ∧
    (∀ code sub e, (s.walkRun ia z .both).1 = some (code, sub, e) → code ≠ 0 →
      exec i s = .next (s.faults code sub va e).tick) ∧
    ((s.walkRun ia z .both).1 = none →
      (8192 ≤ inBuffer → s.n.spec.rsn ≤ inArea → exec i s = .next (s.faults 0x49 0 va ia).tick) ∧
      (inBuffer < 8192 →
        exec i s = .next (s.committed i .seq fun t => held (t.wordDone t.f.id) false)) ∧
      (8192 ≤ inBuffer → inArea < s.n.spec.rsn →
        (∀ pa tr, s.ownXlat s.n entry 16 .both = .ok pa tr → (s.walkRun pa 16 .both).1 = none →
          exec i s = .next (s.committed i .seq fun t =>
            let u := (t.wordDone t.f.id).ownWrite pa ((List.range 16).map (Config.spillByte t.issueNo))
            match s.oldestHeld s.f.id.nid core with
            | none => held u true
            | some (no, gid) => held (u.onGang s.f.id.nid gid fun g => { g with held := spillFirst core no g.held }) false)) ∧
        (∀ code e, s.ownXlat s.n entry 16 .both = .bad code e →
          exec i s = .next (s.committed i .seq fun t =>
            (t.wordDone t.f.id).nodeFails s.f.id s.r.pc 0x42 0 (BitVec.ofNat 64 entry) e)))) ∧
    (∀ no gid, s.oldestHeld s.f.id.nid core = some (no, gid) →
      (∃ g ∈ s.allGangs, g.nid = s.f.id.nid ∧ g.gid = gid ∧ ∃ h ∈ g.held, h.core = core ∧ h.spilled = false ∧ h.no = no) ∧
      ∀ g ∈ s.allGangs, g.nid = s.f.id.nid → ∀ h ∈ g.held, h.core = core → h.spilled = false → no ≤ h.no))

/-- 15 R291, R297, R300: what an atomic access makes of the old bytes at its address: the sum, the bitwise and the
min and max forms of 32 bits, `swap`, `cas`, the 64-bit sum, and the bytes of `str`. -/
def Obligations.AtomicResults : Prop := ∀ (a : Access) (old b : Word) (x y : DWord),
  let w := fun (v : Word) => leBytes 4 v.toNat
  let d := fun (v : DWord) => leBytes 8 v.toNat
  (∀ ar op r, a.op = .amo op ar ∨ (a.op = .red op ∧ op < 6) → a.size = 4 → a.data = w b →
    [(0, old + b), (1, old &&& b), (2, old ||| b), (3, old ^^^ b), (4, if old.sle b then old else b),
     (5, if old.sle b then b else old), (6, if old ≤ b then old else b), (7, if old ≤ b then b else old),
     (8, b)].lookup op = some r → a.writes (w old) = some (w r)) ∧
  (∀ ar, a.op = .amo 9 ar → a.size = 4 → ∀ new : Word, a.data = w b ++ w new →
    a.writes (w old) = if old = b then some (w new) else none) ∧
  (∀ ar, a.op = .amo 10 ar ∨ a.op = .red 8 → a.size = 8 → a.data = d y → a.writes (d x) = some (d (x + y))) ∧
  (a.op = .str → a.size = 4 → a.data = w b → a.writes (w old) = some (w b))

/-! ### Collectives -/

/-- 10 R217 to R219: a collective whose mask names its own fibre writes its result over the present members and p15, which
tells whether every member of the mask is present; p15 named as D receives the vote. A mask that does not name the fibre
raises trap 0x0E. 10 R217, R220: `redux.yadd`. A mask without the own lane, a header that breaks R19 and a precision that
the window cannot hold trap in this order, and a member that traps by its own precision stays a summand for the others (log
14, the model's choice); else y[D] gets the exact sum of the present members' y[A], rounded once, late unless PRC.EN is not
0, and p15 tells whether every member is present. -/
def Obligations.Collectives : Prop :=
  (∀ (i : Instr) (s : State) (b : Fld) (k : List Fibre → Regs → Regs),
    CanIssue i s → collective i s = some (b, k) →
    ((s.r.w b).getLsbD s.f.id.fid = true →
      exec i s = .next (s.wrote i fun r =>
        k (s.members i b) (r.setP 15 (allThere (s.r.w b) (s.members i b))))) ∧
    ((s.r.w b).getLsbD s.f.id.fid = false →
      exec i s = .next (s.traps 0x0E 0 ((s.r.w b).setWidth 64)).tick)) ∧
  (∀ (d a b : Fld) (s : State), CanIssue (.reduxYadd d a b) s →
    let i := Instr.reduxYadd d a b
    let mask := s.r.w b
    let y := s.reduxDone d a b
    (mask.getLsbD s.f.id.fid = false → exec i s = .next (s.traps 0x0E 0 (mask.setWidth 64)).tick) ∧
    (mask.getLsbD s.f.id.fid = true → (s.r.y a).valid s.r.lw = false →
      exec i s = .next (s.traps 0x0F 0 (BitVec.ofNat 64 (2 ^ 63 + a.toNat))).tick) ∧
    (mask.getLsbD s.f.id.fid = true → (s.r.y a).valid s.r.lw = true → s.r.lw < prcL s.r.prc →
      exec i s = .next (s.traps 0x06 1 (BitVec.ofNat 64 (prcL s.r.prc + 256 * s.r.lw))).tick) ∧
    (mask.getLsbD s.f.id.fid = true → (s.r.y a).valid s.r.lw = true → prcL s.r.prc ≤ s.r.lw →
      (enabled s.r.prc y.flags = true → exec i s = .next (s.traps 0x05 y.flags.toNat 0#64).tick) ∧
      (y.Clear s → exec i s = .next (s.committed i .seq fun t =>
        ((y.effect s t).markRedux t.f.nextSer).onRegs fun r => r.setP 15 (allThere mask (s.summands d a b))))))

/-! ### Objects -/

/-- 10 R221 to R224, R226: an object word. It checks its address, marks w[D+1] empty and starts its run; while the run is at
work it waits; once the run is complete it commits with the cells, p15 and OSTEP of its status, as the word found its
registers at issue. A peer's window, and `obj.help` with a ticket, complete as refused without a step (log 27). 10 R225,
09 R195 to R197: `obj.init` with a well-formed header releases at the SCOPE it is given, then writes the 320 bytes of a new
object in twenty pieces of 16 bytes at their homes, and at last sets p15 and OSTEP; a header that breaks a rule raises trap
0x02 (a misaligned object is refused before it, by log 16). -/
def Obligations.ObjectWords : Prop :=
  (∀ (i : Instr) (s : State) (xfn : Nat) (d a b : Fld), objForm i = some (xfn, d, a, b) →
    (∀ x, s.f.obj = some x → x.xfn ≠ 0 → CanIssue i s.asIssued →
      (∀ status, x.phase = .complete status → exec i s = .next (s.committed i .seq (State.objEnds x status))) ∧
      ((∀ status, x.phase ≠ .complete status) → exec i s = .next s.tick)) ∧
    (s.f.obj = none → CanIssue i s →
      let refused := s.objPeer (s.r.d a) = true ∨ (xfn = 8 ∧ s.r.w d ≠ 0#32)
      let run := s.objRunOf xfn d a b
      ((s.r.d a).toNat % 64 ≠ 0 → exec i s = .next (s.traps 0x03 0 (s.r.d a)).tick) ∧
      ((s.r.d a).toNat % 64 = 0 → refused → exec i s = .next (s.committed i .seq (State.objEnds run 5))) ∧
      ((s.r.d a).toNat % 64 = 0 → ¬refused →
        exec i s = .next (State.tick
          (State.onRegs { s with f := { s.f with obj := some run } } fun g => g.emptyRun (run.pos + 1) 1))))) ∧
  (∀ (d a b : Fld) (s : State), CanIssue (.objInit d a b) s →
    let i := Instr.objInit d a b
    let va := s.r.d a
    let w := s.r.w b
    let kind := (w.extractLsb' 0 4).toNat
    let scope := (w.extractLsb' 4 3).toNat
    let cap := (w.extractLsb' 16 16).toNat
    let ok := 1 ≤ kind ∧ kind ≤ 4 ∧ 1 ≤ scope ∧ scope ≤ 5 ∧ w.extractLsb' 7 9 = 0#9 ∧ (kind = 3 ↔ cap = 0) ∧
      (kind ≤ 2 → (s.r.d d).toNat % 8 = 0) ∧ (kind = 4 → s.r.d d = 0#64)
    let bytes := leBytes 8 1 ++ leBytes 8 0 ++ leBytes 8 (s.r.d d).toNat ++ leBytes 8 (kind + 16 * scope + 2 ^ 32 * cap) ++
      List.replicate 288 0#8
    (va.toNat % 64 ≠ 0 → exec i s = .next (s.traps 0x03 0 va).tick) ∧
    (va.toNat % 64 = 0 → ¬ok → exec i s = .next (s.traps 0x02 0 (wordVal (encode false i) 7)).tick) ∧
    (va.toNat % 64 = 0 → ok → s.objPeer va = true → exec i s = .next (s.wrote i fun r => { r.setP 15 false with ostep := 0x500#32 })) ∧
    (va.toNat % 64 = 0 → ok → s.objPeer va = false →
      (s.f.obj = none →
        (s.initStop va.toNat = none → ∃ x, x.xfn = 0 ∧ x.va = va ∧ x.steps = 0 ∧
          exec i s = .next (State.tick
            (let t := s.wordDone s.f.id
             { t with f := t.f.releaseAt scope (if s.g.role s.f.stg = .matrix then s.g.mnext else 0) x }))) ∧
        (∀ code sub v e, s.initStop va.toNat = some (code, sub, v, e) → code ≠ 0 →
          exec i s = .next (s.faults code sub (BitVec.ofNat 64 v) e).tick) ∧
        (∀ sub v e, s.initStop va.toNat = some (0, sub, v, e) → s.spent (.word s.f.id v) = false →
          exec i s = .next (s.tryAgain (.word s.f.id v)).tick)) ∧
      (∀ x, s.f.obj = some x →
        ((s.f.acc.any fun e => some e.ser == x.fence) = true → exec i s = .next s.tick) ∧
        ((s.f.acc.any fun e => some e.ser == x.fence) = false → x.steps < 20 →
          ∀ y t pa ia, s.site? s.f.id = some y →
            (let v := x.va.toNat + 16 * x.steps
             s.touch y (s.xlat y.node v 16 .store) v 16 .store = (.ok pa ia, t)) →
            exec i s = .next (State.tick
              (let u := t.onFibre s.f.id fun b => { b with obj := b.obj.map fun q => { q with lines := distinct (q.lines ++ linesOf ia 16) } }
               State.onRun { u with mem := t.mem.writeBytes pa ((bytes.drop (16 * x.steps)).take 16) } s.f.id fun q =>
                 { q with steps := x.steps + 1 }))) ∧
        ((s.f.acc.any fun e => some e.ser == x.fence) = false → 20 ≤ x.steps →
          exec i s = .next (s.committed i .seq fun t =>
            let u := t.triesDone (.step t.f.id)
            { u with f := { u.f with regs := { u.r.setP 15 true with ostep := 1#32 }, obj := none } })))))

/-! ### Copies -/

/-- 16 R324, 17 R337, R338: `cpb` checks its length, its offset and its source, and waits at a count of 63; else a copy of the
fibre's is under way and its tag's counter is one more. `cpw` and `cpw.le` wait until the fibre's own counter is low
enough. -/
def Obligations.FibreCopies : Prop :=
  (∀ (d a b : Fld) (g : BitVec 2) (s : State), CanIssue (.cpb d a b g) s →
    let i := Instr.cpb d a b g
    let len := (s.r.w d).toNat
    let off := s.r.w b
    (32 < len → exec i s = .next (s.traps 0x02 0 (wordVal (encode false i) 7)).tick) ∧
    (len ≤ 32 → off.toNat % 32 ≠ 0 → exec i s = .next (s.traps 0x03 0 (off.setWidth 64)).tick) ∧
    (len ≤ 32 → off.toNat % 32 = 0 → s.n.spadBytes < off.toNat + 32 →
      exec i s = .next (s.traps 0x10 0 (off.setWidth 64)).tick) ∧
    (len ≤ 32 → off.toNat % 32 = 0 → off.toNat + 32 ≤ s.n.spadBytes →
      (len ≠ 0 → ∀ code ia, s.xlat s.n (s.r.d a).toNat len .load = .bad code ia →
        exec i s = .next (s.faults code 0 (s.r.d a) ia).tick) ∧
      (∀ ia, (len = 0 ∧ ia = 0) ∨ (len ≠ 0 ∧ ∃ tracked, s.xlat s.n (s.r.d a).toNat len .load = .ok ia tracked) →
        (s.r.bt.getD g.toNat 0 < 63 →
          exec i s = .next (s.committed i .seq fun t => { t with
            g := { t.g with cpbs := t.g.cpbs ++ [⟨s.f.id, s.f.nextSer, g.toNat, s.r.d a, ia, len, off.toNat, .issued⟩] }
            f := { t.f with
              nextSer := t.f.nextSer + 1
              regs := { t.r with bt := t.r.bt.modify g.toNat (· + 1) } } })) ∧
        (63 ≤ s.r.bt.getD g.toNat 0 → exec i s = .next s.tick)))) ∧
  (∀ (i : Instr) (s : State) (tag limit : Nat), CanIssue i s →
    (∃ g : BitVec 2, i = .cpw g ∧ tag = g.toNat ∧ limit = 0) ∨
      (∃ (a : Fld) (g : BitVec 2), i = .cpwLe a g ∧ tag = g.toNat ∧ limit = (s.r.w a).toNat) →
    (s.r.bt.getD tag 0 ≤ limit → exec i s = .next (s.committed i .seq id)) ∧
    (limit < s.r.bt.getD tag 0 → exec i s = .next s.tick))

/-- 16 R314, R315, 17 R336, R341, R343: a `cpt` whose block obeys its rules and whose context has room gives its operation the
next sequence number, which d[D] receives; the fibre of lowest FID hands it to the engine for the crew. -/
def Obligations.CopyWords : Prop := ∀ (i : Instr) (s : State) (form : Nat) (d a : Fld) (x : Nat),
  CanIssue i s → copyForm i = some (form, d, a, x) → s.engineReady = true →
  let c := s.g.ctxAt x
  let block := s.lead.regs.run a 8
  ((Block.of block).check form s.n.spadBytes = none → c.ops.length < 32 →
    exec i s = .next (s.committed i .seq fun t =>
      (s.engineDoes (fun g => g.onCtx x fun c => { c with
        issued := (s.g.ctxAt x).issued + 1
        ops := c.ops ++ [{
          seq := (s.g.ctxAt x).issued + 1, form := form, block := block, crew := s.f.id.cid, started := false, paged := false
          stale := false, cbt := [], row := 0, known := [], attempt := 0, homes := [], phase := .begin }] }) t).onRegs fun r =>
          r.setD d (BitVec.ofNat 64 (c.issued + 1)))) ∧
  ((Block.of block).check form s.n.spadBytes = none → 32 ≤ c.ops.length → exec i s = .next s.tick) ∧
  (∀ code v, (Block.of block).check form s.n.spadBytes = some (code, v) →
    exec i s = .next (s.traps code 0
      (if code = 0x02 then wordVal (encode false i) 7 else BitVec.ofNat 64 v)).tick)

/-- 17 R346, R347: `twait` answers 0 in p15 beyond what was issued, waits for what is not completed, and else answers 1;
`tread` and `tissued` read the context's numbers, and `tstat` reads STAT and clears it. -/
def Obligations.TimelineWords : Prop := ∀ (s : State), s.engineReady = true →
  (∀ (a : Fld) (x : BitVec 3), CanIssue (.twait a x) s →
    let n := (s.lead.regs.d a).toNat
    let c := s.g.ctxAt x.toNat
    (c.issued < n → exec (.twait a x) s = .next (s.wrote (.twait a x) fun r => r.setP 15 false)) ∧
    (n ≤ c.completed → n ≤ c.issued → exec (.twait a x) s = .next (s.wrote (.twait a x) fun r => r.setP 15 true)) ∧
    (c.completed < n → n ≤ c.issued → exec (.twait a x) s = .next s.tick)) ∧
  (∀ (d : Fld) (x : BitVec 3), CanIssue (.tread d x) s →
    exec (.tread d x) s = .next (s.wrote (.tread d x) fun r => r.setD d (BitVec.ofNat 64 (s.g.ctxAt x.toNat).completed))) ∧
  (∀ (d : Fld) (x : BitVec 3), CanIssue (.tissued d x) s →
    exec (.tissued d x) s = .next (s.wrote (.tissued d x) fun r => r.setD d (BitVec.ofNat 64 (s.g.ctxAt x.toNat).issued))) ∧
  (∀ (d : Fld) (x : BitVec 3), CanIssue (.tstat d x) s →
    exec (.tstat d x) s = .next (s.committed (.tstat d x) .seq fun t =>
      (s.engineDoes (fun g => g.onCtx x.toNat fun c => { c with stat := 0#32 }) t).onRegs fun r =>
        r.setW d (s.g.ctxAt x.toNat).stat))

/-! ### The matrix engine -/

/-- 16 R327, R328, 17 R336, R349 to R357: `shape` returns its grant at once, `acc.setprom` sets P and the promotion mode, and
every other matrix word that passes its checks goes to the engine's queue, when that has room; a check that fails traps. -/
def Obligations.MatrixWords : Prop := ∀ (s : State), s.engineReady = true →
  (∀ (i : Instr) (t : Nat) (w : MWord), CanIssue i s → matrixWord i s = some (t, w) →
    (matrixStop i s = none → s.g.matq.length < 32 →
      exec i s = .next (s.committed i .seq (s.engineDoes fun g => g.queueWord w))) ∧
    (matrixStop i s = none → 32 ≤ s.g.matq.length → exec i s = .next s.tick) ∧
    (∀ code o, matrixStop i s = some (code, o) →
      exec i s = .next (s.traps code 0
        (if code = 0x02 then wordVal (encode false i) 7 else o.setWidth 64)).tick)) ∧
  (∀ (d a : Fld), CanIssue (.shape d a) s →
    let req := s.lead.regs.run a 4
    (∀ m n k t, grantOf req s.freeAcc = some (m, n, k, t) →
      exec (.shape d a) s = .next (s.committed (.shape d a) .seq fun u =>
        (s.engineDoes (fun g => Gang.queueWord { g with shp := shpOf req m n k t } (.shape (shpOf req m n k t))) u).onRegs
          fun r => r.setRun (r.base + d.toNat) ([m, n, k, t].map (BitVec.ofNat 32)))) ∧
    (grantOf req s.freeAcc = none →
      exec (.shape d a) s = .next (s.committed (.shape d a) .seq fun u =>
        (s.engineDoes (fun g => Gang.queueWord { g with shp := 0#32 } (.shape 0#32)) u).onRegs
          fun r => r.setRun (r.base + d.toNat) (List.replicate 4 0#32)))) ∧
  (∀ (a b : Fld), CanIssue (.accSetprom a b) s →
    let p := (s.lead.regs.w a).toNat
    let mode := (s.lead.regs.w b).toNat
    (shpT s.g.shp ≠ 0 → 1 ≤ p → p ≤ 64 → mode ≤ 1 → s.g.matq.length < 32 →
      exec (.accSetprom a b) s = .next (s.committed (.accSetprom a b) .seq
        (s.engineDoes fun g => Gang.queueWord { g with promP := p, promRsr := mode == 1 } .setprom))) ∧
    ((shpT s.g.shp = 0 ∨ p = 0 ∨ 64 < p ∨ 1 < mode) →
      exec (.accSetprom a b) s = .next (s.traps 0x02 0 (wordVal (encode false (.accSetprom a b)) 7)).tick))

/-! ### Tasks and arenas -/

/-- 20 R387, R388, R390 to R393: `task.nself` gives the node's handle. `task.tdep`, `task.tsig` and `task.enq` begin a release
at `pkg`, wait for it, and then act, or commit without acting when it lost a write, which sets FSTAT.LOSTP; an enqueue whose
ring page is being migrated tries again. A signal lowers its node's counter at once. 19 R373 to R375: `task.enq` puts eight
cells into the core's queue, into the node's spill ring where the queue is full or the ring holds entries, and nowhere, with
OVERFLOW of STATUS, where the ring is full too. `task.deq` takes the oldest entry of its node in its own core's queue, else
the oldest in that of the lowest logical core that has one, acquires at `pkg` and sets p15; where it finds none p15 becomes
0; while the entry that it would come to lies in a ring it waits for the refill. -/
def Obligations.TaskWords : Prop :=
  (∀ (s : State),
    (∀ (d : Fld), CanIssue (.taskNself d) s →
      exec (.taskNself d) s = .next (s.wrote (.taskNself d) fun r =>
        r.setD d (BitVec.ofNat 64 (s.n.spec.nid + 2 ^ 32 * s.n.ctx)))) ∧
    (∀ (i : Instr) (k : State → State), CanIssue i s → taskAction i s = some k →
      (s.f.rel = none → exec i s = .next s.beginRelease.tick) ∧
      (∀ ser, s.f.rel = some (ser, none) → exec i s = .next s.tick) ∧
      (∀ ser, s.f.rel = some (ser, some true) → exec i s = .next (s.committed i .seq fun t => t.endRelease true)) ∧
      (∀ ser, s.f.rel = some (ser, some false) →
        (let key := TryKey.word s.f.id (s.n.ringVa s.c.num (s.n.ring s.c.num).rt)
         ((∀ a, i = .taskEnq a → s.ringBusy = false ∨ s.spent key = true) →
           exec i s = .next (s.committed i .seq fun t => k (t.endRelease false))) ∧
         (∀ a, i = .taskEnq a → s.ringBusy = true → s.spent key = false → exec i s = .next (s.tryAgain key).tick)))) ∧
    (∀ lost, (s.endRelease lost).f.rel = none ∧ (s.f.life = .live →
      (s.endRelease lost).r = if lost then { s.r with fstat := s.r.fstat ||| 1#32 } else s.r)) ∧
    (∀ h, s.current h = none → s.sendSignal h = s.tell (.signalDropped (h.extractLsb' 0 32).toNat)) ∧
    (∀ h n, s.current h = some n →
      (n.counter = 0 → s.sendSignal h = s.setFlag n.spec.nid 16) ∧
      (1 < n.counter → s.sendSignal h = s.setNode { n with counter := n.counter - 1 }) ∧
      (n.counter = 1 → n.state = .waiting → n.failing = none →
        s.sendSignal h = (s.setNode { n with counter := 0 }).nodeState n.spec.nid .runnable))) ∧
  (∀ (s : State) (pc : DWord) (cells : List Word),
    let ring := s.n.ring s.c.num
    let va := s.n.spec.tqb + 32 * s.n.spec.tqn * s.c.num + 32 * (ring.rt % s.n.spec.tqn)
    let full := ring.rt ≠ ring.rh ∨ 32 ≤ s.c.queue.length
    (ring.rt = ring.rh → s.c.queue.length < 32 →
      s.enqueue pc cells = { s with c := { s.c with queue := s.c.queue ++ [⟨s.n.spec.nid, cells⟩] } }) ∧
    (full → s.n.spec.tqn ≤ ring.used → s.enqueue pc cells = s.setFlag s.n.spec.nid 18) ∧
    (full → ring.used < s.n.spec.tqn →
      (∀ ia tracked, s.ownXlat s.n va 32 .both = .ok ia tracked → (s.walkRun ia 32 .both).1 = none →
        s.enqueue pc cells = State.engineWrite { s with n := s.n.setRing { ring with rt := (ring.rt + 1) % 2 ^ 32 } }
          s.c.num s.f.id.nid s.f.id.gid s.f.id.cid ia (bytesOfCells cells)) ∧
      (∀ code ia, s.ownXlat s.n va 32 .both = .bad code ia →
        s.enqueue pc cells = s.nodeFails s.f.id pc 0x42 0 (BitVec.ofNat 64 va) ia))) ∧
  (∀ (s : State) (d : Fld), CanIssue (.taskDeq d) s →
    exec (.taskDeq d) s = .next (s.committed (.taskDeq d) .seq fun t =>
      t.issueNow (accessOf .deq 0 (.cells (s.r.base + d.toNat) 8 []) [] 0))) ∧
  (∀ (s : State) (x : Site) (a : Access),
    let oldest := fun (k : Nat) => (s.core k).queue.find? fun e => e.nid = x.node.spec.nid
    let ring := fun (k : Nat) => (x.node.ring k).used
    let takes := fun (k : Nat) (e : TaskEntry) => s.performDeq x a = State.performed
      ((s.onCore k fun c => { c with queue := dropEntry x.node.spec.nid c.queue }).acquire x.core 4) x.fib.id a e.cells (some true)
    (∀ e, oldest x.core = some e → takes x.core e) ∧
    (oldest x.core = none → ring x.core ≠ 0 → s.performDeq x a = s) ∧
    (oldest x.core = none → ring x.core = 0 →
      (∀ k < s.coreMap.length, k ≠ x.core → (∀ j < k, j ≠ x.core → oldest j = none ∧ ring j = 0) →
        (∀ e, oldest k = some e → takes k e) ∧ (oldest k = none → ring k ≠ 0 → s.performDeq x a = s)) ∧
      ((∀ j < s.coreMap.length, j ≠ x.core → oldest j = none ∧ ring j = 0) →
        s.performDeq x a = s.onFibre x.fib.id fun b =>
          let r := b.regs.refill a.dest
          { b with
            acc := b.acc.filter fun e => e.ser ≠ a.ser
            regs := if b.life == .live && !a.orphan then (if a.mute then r else r.setP 15 false) else b.regs })))

/-- 20 R386, R389, 19 R366, R369, R370: `task.tnode` walks its spec at d[A], and after its release reads it. An accepted spec
becomes a node under the next device NID: the node stands with its spec, its launch context and its counter, waiting or runnable, the NID
is written into the spec, and d[D] receives the handle. A refused spec, no free launch context, no NID left and a release
that lost a write give {0, code}; a spec that cannot be read is a system fault, and a busy walk is tried again. -/
def Obligations.MakingNodes : Prop :=
  (∀ (d a : Fld) (s : State), CanIssue (.taskTnode d a) s →
    let i := Instr.taskTnode d a
    let va := s.r.d a
    (va.toNat % 128 ≠ 0 → exec i s = .next (s.traps 0x03 0 va).tick) ∧
    (va.toNat % 128 = 0 → ∀ code ia, s.xlat s.n va.toNat 128 .load = .bad code ia →
      exec i s = .next (s.faults code 0 va ia).tick) ∧
    let busy := fun (v : Nat) (e : Nat) =>
      (s.spent (.word s.f.id v) = false → exec i s = .next (s.tryAgain (.word s.f.id v)).tick) ∧
      (s.spent (.word s.f.id v) = true → exec i s = .next (s.faults 0x48 3 (BitVec.ofNat 64 v) e).tick)
    (∀ ia tracked, va.toNat % 128 = 0 → s.xlat s.n va.toNat 128 .load = .ok ia tracked →
      (∀ ser, s.f.rel = some (ser, none) → exec i s = .next s.tick) ∧
      (s.f.rel = none →
        (∀ bs, s.readHome ia 128 .load = .ok bs → exec i s = .next s.beginRelease.tick) ∧
        (∀ code sub e, s.readHome ia 128 .load = .fail code sub e → exec i s = .next (s.faults code sub va e).tick) ∧
        (∀ e, s.readHome ia 128 .load = .busy e → busy va.toNat e)) ∧
      (∀ ser, s.f.rel = some (ser, some true) →
        exec i s = .next (s.committed i .seq fun t =>
          (t.endRelease true).onRegs fun r => r.setD d (BitVec.ofNat 64 (2 ^ 32 * 4)))) ∧
      (∀ ser, s.f.rel = some (ser, some false) →
        (∀ l, s.readMaker va = .ok l →
          let spent := s.spent (.word s.f.id (num l.sp 0 8))
          (s.judge false spent l ≠ .busy →
            exec i s = .next (s.committed i .seq fun t =>
              let u := t.endRelease false
              let x := u.submit spent (match u.readMaker va with | .ok m => m | _ => l) ia
              x.2.onRegs fun r => r.setD d x.1)) ∧
          (s.judge false spent l = .busy → spent = false →
            exec i s = .next (s.tryAgain (.word s.f.id (num l.sp 0 8))).tick)) ∧
        (∀ field v code sub e, s.readMaker va = .bad field v code sub e →
          exec i s = .next (s.faults code sub (BitVec.ofNat 64 v) e).tick) ∧
        (∀ field v e, s.readMaker va = .busy field v e → busy v e)))) ∧
  (∀ (s : State) (spent : Bool) (l : Launch) (ia : Nat),
    (∀ code, s.judge false spent l = .refuse code →
      (s.submit spent l ia).1 = BitVec.ofNat 64 (2 ^ 32) ∧
        (s.submit spent l ia).2 = s.ownWrite (ia + 120) (leBytes 4 (5 + 256 * code))) ∧
    (∀ entry, s.judge false spent l = .accept entry →
      (s.freeLaunch = none → s.submit spent l ia = (BitVec.ofNat 64 (2 ^ 32 * 2), s)) ∧
      (∀ ctx, s.freeLaunch = some ctx →
        (2 ^ 32 ≤ s.nextNid → s.submit spent l ia = (BitVec.ofNat 64 (2 ^ 32 * 3), s)) ∧
        (0 < s.nextNid → s.nextNid < 2 ^ 32 →
          let x := s.submit spent l ia
          let sp := s.specOf l ia s.nextNid entry
          let n : Node := { Node.none with
            spec := sp, ctx := ctx, counter := sp.deps, state := if sp.deps = 0 then .runnable else .waiting }
          x.1 = BitVec.ofNat 64 (s.nextNid + 2 ^ 32 * ctx) ∧ x.2.nextNid = s.nextNid + 1 ∧
          x.2 = ((State.ownWrite { s with nextNid := s.nextNid + 1 } (ia + 8) (leBytes 4 s.nextNid)).setNode n).putStatus
            s.nextNid ∧
          ∃ due, x.2.node? s.nextNid = some { n with statusDue := due }))))

/-- 20 R386, R394, 19 R376: `task.cont` with a control word that breaks a rule raises trap 0x02, before it looks at the record
(log 16, the model's choice), a misaligned record trap 0x03 and a record that cannot be reached its system fault; after its
release it writes the record, which the node then holds, and the fibre ends; a busy walk is tried again. -/
def Obligations.Continuations : Prop := ∀ (a b : Fld) (s : State), CanIssue (.taskCont a b) s →
  let i := Instr.taskCont a b
  let va := s.r.d a
  let w := s.r.w b
  (contBad w s.r.n = true → exec i s = .next (s.traps 0x02 0 (wordVal (encode false i) 7)).tick) ∧
  (contBad w s.r.n = false → ((List.range 16).any fun k => w.getLsbD k && !(s.r.cell k).full) = true →
    exec i s = .next s.tick) ∧
  (contBad w s.r.n = false → ((List.range 16).any fun k => w.getLsbD k && !(s.r.cell k).full) = false →
    (va.toNat % 16 ≠ 0 → exec i s = .next (s.traps 0x03 0 va).tick) ∧
    (va.toNat % 16 = 0 → ∀ code ia, s.xlat s.n va.toNat 80 .both = .bad code ia →
      exec i s = .next (s.faults code 0 va ia).tick) ∧
    (∀ ia tracked, va.toNat % 16 = 0 → s.xlat s.n va.toNat 80 .both = .ok ia tracked →
      (∀ ser, s.f.rel = some (ser, none) → exec i s = .next s.tick) ∧
      ((∀ ser, s.f.rel ≠ some (ser, none)) →
        (s.reaches s.c.num ia = false → exec i s = .next (s.faults 0x42 0 va ia).tick) ∧
        (s.reaches s.c.num ia = true → ∀ e, (s.walkRun ia 80 .both).1 = some (0, 0, e) →
          s.spent (.word s.f.id va.toNat) = false → exec i s = .next (s.tryAgain (.word s.f.id va.toNat)).tick) ∧
        (s.reaches s.c.num ia = true → (s.walkRun ia 80 .both).1 = none →
          (s.f.rel = none → exec i s = .next s.beginRelease.tick) ∧
          (∀ ser, s.f.rel = some (ser, some true) → exec i s = .next (s.committed i .seq fun t => t.endRelease true)) ∧
          (∀ ser, s.f.rel = some (ser, some false) →
            exec i s = .next (s.committed i .gone fun t =>
              let u := (t.endRelease false).engineWrite t.c.num t.f.id.nid t.f.id.gid t.f.id.cid ia
                (leBytes 8 t.r.pc.toNat ++ leBytes 2 (w.extractLsb' 0 16).toNat ++
                  [BitVec.ofNat 8 (contWait w)] ++ List.replicate 5 0#8 ++
                  bytesOfCells ((List.range 16).map fun k => if w.getLsbD k then (s.r.cell k).val else 0#32))
              State.endFibre { u with n := { u.n with conts := u.n.conts ++ [{
                va := va, who := t.f.id, kind := contWait w % 4, sel := contWait w / 4
                need := if contWait w % 4 = 1 then (t.g.ctxAt (contWait w / 4)).issued else t.f.nextSer
                taken := false }] } }))))))

/-- 20 R395 to R397, 12 R236, R237: `arena.aptr` gives the pointer to offset 0 of a live arena of the node, or 0; an index above 15
raises trap 0x02. `arena.ainfo` gives the entry that a pointer's slot names, or zeros for another kind of address.
`arena.check` tells in p15 whether an access of w[B] bytes would pass. -/
def Obligations.ArenaWords : Prop := ∀ (s : State),
  (∀ (d a : Fld), CanIssue (.arenaAptr d a) s →
    let k := (s.r.w a).toNat
    (15 < k → exec (.arenaAptr d a) s =
      .next (s.traps 0x02 0 (wordVal (encode false (.arenaAptr d a)) 7)).tick) ∧
    (k ≤ 15 → ∀ slot, s.n.arenas.getD k none = some slot → (s.arena slot).state = .live → (s.arena slot).nid = s.n.spec.nid →
      exec (.arenaAptr d a) s = .next (s.wrote (.arenaAptr d a) fun r =>
        r.setD d (BitVec.ofNat 64 (0xA5 * 2 ^ 56 + slot * 2 ^ 44 + (s.arena slot).gen.toNat * 2 ^ 36)))) ∧
    (k ≤ 15 → (∀ slot, s.n.arenas.getD k none = some slot → ¬((s.arena slot).state = .live ∧ (s.arena slot).nid = s.n.spec.nid)) →
      exec (.arenaAptr d a) s = .next (s.wrote (.arenaAptr d a) fun r => r.setD d 0#64))) ∧
  (∀ (d a : Fld), CanIssue (.arenaAinfo d a) s →
    let p := s.r.d a
    let e := s.arena (p.extractLsb' 44 12).toNat
    exec (.arenaAinfo d a) s = .next (s.wrote (.arenaAinfo d a) fun r => r.setRun (r.base + d.toNat)
      (if p.extractLsb' 56 8 = 0xA5#8 then
        [BitVec.ofNat 32 (e.gen.toNat + 2 ^ 8 * (match e.state with | .free => 0 | .live => 1 | .dying => 2 | .dead => 3) +
            2 ^ 11 * e.place + 2 ^ 13 * e.col),
          BitVec.ofNat 32 e.nid, BitVec.ofNat 32 (e.size / 65536), BitVec.ofNat 32 e.heir]
      else List.replicate 4 0#32))) ∧
  (∀ (a b : Fld), CanIssue (.arenaCheck a b) s →
    let p := s.r.d a
    let e := s.arena (p.extractLsb' 44 12).toNat
    exec (.arenaCheck a b) s = .next (s.wrote (.arenaCheck a b) fun r => r.setP 15
      (decide (p.extractLsb' 56 8 = 0xA5#8 ∧ e.state = .live ∧ e.gen = p.extractLsb' 36 8 ∧
        (p.extractLsb' 0 36).toNat + (s.r.w b).toNat ≤ e.size))))

/-! ### Events of a fibre's accesses -/

/-- 05 R122, 06 R145, R146, R157, R158, 10 R220: a late value reaches its fibre. Its destination becomes full with the value,
its flags are ORed into PRC, a status goes to p15, and nothing of it is left on its way; the states kept for the converting
loads of later chains take it too. A converting load that resolves to a value does the same, and draws where it rounds
under RSR; one that resolves to a trap, with no older one unresolved and no flag pending, enters the trap in the state in
which it issued, with nothing of its own chain or of a later one left. A value of a word whose chain has not committed yet
waits for it (log 61, the model's choice). -/
def Obligations.LateValues : Prop := ∀ (who : FibId) (ser : Nat) (s : State) (b : Fibre), s.off = false → s.fibre? who = some b →
  (∀ (i : Instr) (kind : DelivKind) (v : Deliv),
    (i = .yResultDelivery who ser ∧ kind = .yop) ∨ (i = .reduxYaddResult who ser ∧ kind = .redux) ∨
      (i = .loadDataArrival who ser ∧ kind = .load) →
    b.dlv.find? (fun u => u.ser == ser && u.kind == kind) = some v →
    exec i s = .next (if b.early.any (fun start => decide (start ≤ ser)) then s else s.setFibre (b.arrive v))) ∧
  (∀ (v : Deliv),
    let into := fun (r0 : Regs) =>
      let r := r0.deliver v.dest v.vals v.yval
      let q := { r with prc := r.prc ||| (v.flags.setWidth 32 <<< 20) }
      match v.status with
      | none => q
      | some x => q.setP 15 x
    (∀ u ∈ (b.arrive v).dlv, u.ser ≠ v.ser) ∧ (b.arrive v).regs = into b.regs ∧
    (b.arrive v).acc = b.acc.map fun a => if v.ser < a.base then { a with ckpt := a.ckpt.map into } else a) ∧
  (∀ (n : Node) (v : Deliv) (op : AccOp) (r0 : Regs), s.node? who.nid = some n →
    b.dlv.find? (fun u => u.ser == ser && u.converting) = some v → v.kind = .conv op → v.ckpt = some r0 →
    let u := (rand32 n.spec.seed (BitVec.ofNat 64 who.gfi) r0.rndc).toNat
    (∀ y fl drew, resolveConv r0 op v.va v.bytes u = .value y fl drew → b.ahead ser = false →
      b.olderConv ser (fun _ => true) = false ∨ prcRM r0.prc ≠ .rsr →
      exec (.convertingLoadResolve who ser) s = .next (s.setFibre
        (let c := b.arrive { v with yval := some y, flags := fl }
         if drew then c.landed ser fun r => r.drew true else c))) ∧
    (∀ code sub val, resolveConv r0 op v.va v.bytes u = .trap code sub val → b.olderConv ser (fun _ => true) = false →
      let c := { b with
        regs := r0, obj := none, rel := none, early := none, due := none
        acc := b.acc.filter fun a => a.base < v.base
        dlv := b.dlv.filter fun u => u.base < v.base }
      c.flagsPending = false →
      exec (.convertingLoadResolve who ser) s = .next (((s.setFibre c).focus who).trap r0.pc r0.pc code sub val)))

/-- 05 R122 to R124, 12 R240, R246, 15 R289, R292, R293, 23 R429: the memory system attempts an access, or tries a busy walk
again. A load that hits the L1 reads it; a load that misses walks, fills and reads; one of 16 bytes does so for one half and
then for the other (which first is by log 56, and of a store the second half is walked no more, also by log 56), and so does
one of the scratchpad (05 R120); a store and an AMO or RED that performs in the L1 walk and write there; an access that
performs at its home is walked and sent, and an AMO whose home no path leads to is fault 0x42 (log 60); a walk that finds no
page leaves the access faulted, or gone in a node that fails (log 34). -/
def Obligations.Attempts : Prop := ∀ (s : State) (who : FibId) (ser : Nat) (i : Instr) (x : Site) (a : Access),
  s.off = false → s.site? who = some x → x.fib.entry? ser = some a → s.mayPerform x a = true →
  (i = .walk who ser ∧ a.stage = .issued) ∨ (i = .walkRetry who ser ∧ ∃ n, a.stage = .busy n false) →
  let id := x.fib.id
  let crew := (x.fib.id.gid, x.fib.id.cid)
  let atomic := (∃ op ar, a.op = .amo op ar) ∨ ∃ op, a.op = .red op
  let fails := fun (t : State) (code sub ia : Nat) =>
    if (t.node? id.nid).any fun n => n.failing.isSome then t.onFibre id fun b => { b with acc := b.acc.filter fun e => e.ser ≠ a.ser }
    else t.onAcc id a.ser fun e => { e with stage := .faulted code sub ia, half := e.half.map fun _ => none }
  (∀ sg, a.op = .load sg → a.spad = false → a.half = none → (s.core x.core).errRun a.ia a.size = false →
    (s.core x.core).holds a.ia a.size = true →
    exec i s = .next (s.performed id a (loadCells sg ((s.core x.core).bytes a.ia a.size)) none)) ∧
  (∀ sg t u bs, a.op = .load sg → a.spad = false → a.half = none → (s.core x.core).errRun a.ia a.size = false →
    (s.core x.core).holds a.ia a.size = false → s.reaches x.core a.ia = true → s.missWaits x.core a.ia a.size = false →
    s.walkRun a.ia a.size .load = (none, t) → t.badRun a.ia a.size = false →
    (t.core x.core).errRun a.ia a.size = false → t.readL1 x.core a.ia a.size x.node.ctx a.tracked .load = (some bs, u) →
    exec i s = .next (u.performed id a (loadCells sg bs) none)) ∧
  (∀ sg done, a.op = .load sg → a.spad = false → a.half = some done →
    let high := match done with
      | none => Config.highHalfFirst a.ser
      | some h => !h
    let at_ := a.ia + (if high then 8 else 0)
    (s.core x.core).errRun at_ 8 = false → (s.core x.core).holds at_ 8 = true →
    let bs := (s.core x.core).bytes at_ 8
    exec i s = .next (match done with
      | none => s.onAcc id a.ser fun e => { e with half := some (some high), data := bs }
      | some h => s.performed id a (loadCells false (if h then bs ++ a.data else a.data ++ bs)) none)) ∧
  (∀ t, a.op = .store → a.spad = false → s.walkRun a.ia a.size .store = (none, t) →
    let put := fun (u : State) (off n : Nat) =>
      u.storeL1 x.core (a.ia + off) ((a.data.drop off).take n) x.node.ctx a.tracked crew
    (a.half = none → exec i s = .next ((put t 0 a.size).performed id a [] none)) ∧
    (a.half = some none →
      let high := Config.highHalfFirst a.ser
      exec i s = .next ((put t (if high then 8 else 0) 8).onAcc id a.ser fun e =>
        { e with half := some (some high), data := a.data }))) ∧
  (∀ high, a.op = .store → a.spad = false → a.half = some (some high) →
    let off := if high then 0 else 8
    exec i s = .next ((s.storeL1 x.core (a.ia + off) ((a.data.drop off).take 8) x.node.ctx a.tracked crew).performed id a []
      none)) ∧
  (∀ t ia, a.op = .store → a.spad = false → (∀ high, a.half ≠ some (some high)) →
    s.walkRun a.ia a.size .store = (some (0x40, 0, ia), t) → exec i s = .next (fails t 0x40 0 ia)) ∧
  (∀ offs, a.spad = true → x.node.spadRun (a.va.extractLsb' 0 32) a.size = some offs →
    (a.op = .store → a.half = none →
      exec i s = .next ((s.onGang x.gang.nid x.gang.gid fun g => g.spadPut offs a.data).performed id a [] none)) ∧
    (∀ done, a.half = some done →
      let high := match done with
        | none => Config.highHalfFirst a.ser
        | some h => !h
      let mine := (offs.drop (if high then 8 else 0)).take 8
      (∀ sg, a.op = .load sg →
        let bs := mine.map x.gang.spad.read
        exec i s = .next (match done with
          | none => s.onAcc id a.ser fun e => { e with half := some (some high), data := bs }
          | some h => s.performed id a (loadCells false (if h then bs ++ a.data else a.data ++ bs)) none)) ∧
      (a.op = .store →
        let u := s.onGang x.gang.nid x.gang.gid fun g => g.spadPut mine ((a.data.drop (if high then 8 else 0)).take 8)
        exec i s = .next (if done.isNone then u.onAcc id a.ser fun e => { e with half := some (some high), data := a.data }
          else u.performed id a [] none)))) ∧
  (∀ t u old, atomic → s.atHome a = false →
    ((s.core x.core).holds a.ia a.size = true ∨
      (s.reaches x.core a.ia = true ∧ s.missWaits x.core a.ia a.size = false)) →
    s.walkRun a.ia a.size .both = (none, t) → t.badRun a.ia a.size = false →
    (t.core x.core).errRun a.ia a.size = false → t.readL1 x.core a.ia a.size x.node.ctx a.tracked .load = (some old, u) →
    exec i s = .next
      ((match a.writes old with
        | none => u
        | some bs => u.storeL1 x.core a.ia bs x.node.ctx a.tracked crew).performed id a (cellsOfBytes (a.size / 4) old) none)) ∧
  (∀ t, ((∃ op, a.op = .amo op false) ∨ ∃ op, a.op = .red op) → s.atHome a = true → s.reaches x.core a.ia = true →
    s.walkRun a.ia a.size .both = (none, t) → exec i s = .next (t.sendHome x a)) ∧
  (∀ op ar, a.op = .amo op ar → s.atHome a = true → s.reaches x.core a.ia = false →
    let t := fails s 0x42 0 a.ia
    exec i s = .next ((t.onFibre id fun b => b.sees 0#32 (t.lossBits x.core a.ia).2).tell (.lostWrite a.ia id.nid id.gid id.cid)))

/-- 12 R246, R249, R262, 13 R261, R263, 15 R292, R303, R304, 23 R427, R428: what leaves an L1 and what reaches a home. A line that
is evicted is dropped, its dirty bytes on their way to its home; a 16-byte store that is half performed in it performs its
other half first (log 56, the model's choice). In the order of its core a write-back writes its dirty
bytes; an access reads the old bytes, writes what R291 and R297 give, and its value is on its way; what no path can carry
is lost; a marker that everything before it has passed ends its fence's wait, and one on a retraining path sets FSTAT.SLOW
and stays. -/
def Obligations.HomeArrivals : Prop := ∀ (s : State), s.off = false →
  (∀ (core line : Nat) (l0 : L1Line), (s.core core).line? line = some l0 →
    let t := s.finishLine core line
    ((∀ b ∈ s.fibresOn core, ∀ a ∈ b.acc, a.rest = none) → t = s) ∧
    ∀ l, (t.core core).line? line = some l →
      (l.dm = 0#128 → exec (.l1Eviction core line) s = .next (t.onCore core fun c => c.dropLine line)) ∧
      (l.dm ≠ 0#128 → l.err = false → exec (.l1Eviction core line) s = .next
        (State.onCore { (t.onCore core fun c => c.setLine { l with dm := 0#128 }).sentTo core (line * 128) with
          flight := t.flight ++ [⟨core, .writeBack l.ctx l.crew l.tracked, line * 128, l.dirty⟩] } core fun c => c.dropLine line))) ∧
  (∀ (k : Nat) (y : Flight), s.flight[k]? = some y → y.bytes ≠ [] → s.reaches y.core y.ia = false →
    exec (.homeArrival k) s = .next (s.lose k)) ∧
  (∀ (k : Nat) (y : Flight), s.flight[k]? = some y → y.bytes ≠ [] → s.reaches y.core y.ia = true →
    s.pathUp y.core y.ia = true →
    ((s.flight.take k).any fun z => z.core = y.core && z.bytes != [] && y.bytes != [] &&
      decide (lineOf z.ia ≤ lineOf (y.ia + y.bytes.length - 1)) &&
      decide (lineOf y.ia ≤ lineOf (z.ia + z.bytes.length - 1))) = false →
    (∀ ctx crew tracked pa t, y.op = .writeBack ctx crew tracked → s.walk y.ia .store = (.frame pa, t) →
      exec (.homeArrival k) s = .next { t.triesDone (.writeBack y.core (y.ia / 128)) with
        flight := dropAt k t.flight, mem := t.mem.writeMasked pa y.bytes }) ∧
    (∀ who ser op b a t old u, y.op = .access who ser op → s.fibre? who = some b → b.entry? ser = some a →
      s.walkRun a.ia a.size a.op.need = (none, t) → t.badRun a.ia a.size = false →
      State.homeBytes { t.triesDone (.arrival who ser) with flight := dropAt k t.flight } a.ia a.size = (some old, u) →
      exec (.homeArrival k) s = .next
        (let v := match a.writes old with
          | none => u
          | some bs => (u.homeWrite a.ia bs).2
         (if a.acquires then v.acquire y.core a.scope else v).performed who a
           (match a.op with | .lda => loadCells false old | _ => cellsOfBytes (a.size / 4) old) none))) ∧
  (∀ (k : Nat) (y : Flight) who ser homes, s.flight[k]? = some y → y.op = .marker who ser homes →
    (homes.any (s.retraining (s.dieOf y.core)) = true → ∀ b, s.fibre? who = some b →
      (∀ a, b.entry? ser = some a → a.orphan = false) → b.life = .live →
      exec (.flushMarkerAck k) s = .next (s.setFibre (b.always fun r => r.setLoss 4#32 0#32))) ∧
    (((s.flight.take k).any fun z => z.core = y.core) = false → homes.any (s.retraining (s.dieOf y.core)) = false →
      ∀ x a rel acq chk, State.site? { s with flight := dropAt k s.flight } who = some x → x.fib.entry? ser = some a →
        a.op = .fence rel acq chk →
        exec (.flushMarkerAck k) s = .next (State.fenceDone { s with flight := dropAt k s.flight } x a rel acq chk)))

/-! ### Faults and the host's answers -/

/-- 12 R241, 22 R408 to R410, R412: a fault other than a page fault that an access has met is reported with its action; a
page-fault report suspends the crew with one record of its pages; the oldest record that waits is written to the fault
queue, whose head and tail are counts that run on (log 51, the model's choice); RESUME runs a suspended crew again, with its
faulted accesses to be replayed; FAIL and END_COMMAND end the node. -/
def Obligations.FaultAnswers : Prop := ∀ (s : State), s.off = false →
  (∀ who ser b a code sub ia, s.fibre? who = some b → b.entry? ser = some a → a.stage = .faulted code sub ia → code ≠ 0x40 →
    b.olderConv ser (fun _ => true) = false → exec (.memorySideFault who ser) s = .next
      ((s.onAcc who ser fun e => { e with stage := .reported }).actOn [⟨b.id, b.regs.pc, code, sub, a.va, ia⟩])) ∧
  (∀ nid gid cid,
    let runs := ((s.gang? nid gid).bind fun g => g.crew? cid).any fun c => c.state == .running
    let mets := (s.crewAll nid gid cid).filterMap Fibre.met
    let t := s.stopRuns nid gid cid
    let x := (t.crewAll nid gid cid).foldl (Batch.fibre runs mets) ⟨t, [], []⟩
    ∀ first rest, sortOn (fun i => i.id.fid) x.items = first :: rest →
      exec (.pageFaultReport nid gid cid) s = .next
        (((x.st.report ⟨0x40, 0, x.pages, nid, gid, cid, laneMask (x.items.map fun y => y.id.fid), first.pc, first.va,
          first.ia⟩).suspend nid gid cid 0x40).actAll (mets.filter fun y => y.code ≠ 0x40))) ∧
  (∀ x rest t, s.faultq.waiting = x :: rest → s.faultq.size ≠ 0 → s.faultq.tail - s.faultq.head < s.faultq.size →
    s.homeWrite (s.faultq.base + 256 * (s.faultq.tail % s.faultq.size)) x.bytes = (true, t) →
    exec .faultRecordWrite s = .next { t with faultq := { s.faultq with waiting := rest, tail := s.faultq.tail + 1 } }) ∧
  (∀ nid gid cid g c code, s.gang? nid gid = some g → g.crew? cid = some c → c.state = .suspended code →
    exec (.resume nid gid cid) s = .next
      ((s.onGang nid gid fun g =>
        { g.onCrew cid fun c => { c with state := match c.state with | .suspended _ => .running | x => x } with
          cpbs := mapIf (fun c => decide (c.who.nid = nid ∧ c.who.gid = gid ∧ c.who.cid = cid))
            (fun c => if c.stage.met = true then { c with stage := .replay } else c)
            g.cpbs }).mapFibres
        (fun i => decide (i.nid = nid ∧ i.gid = gid ∧ i.cid = cid))
        fun b => Fibre.resumed { b with acc := replayFrom [] b.acc }) ∧
    exec (.fail nid gid cid) s = .next (s.failNode nid code)) ∧
  (∀ nid, exec (.endCommand nid) s = .next (s.failNode nid 0)) ∧
  (∀ nid code n, nid ≠ 0 → s.node? nid = some n → n.failing = none → n.live = true →
    (s.failNode nid code).node? nid = some { n with failing := some code, conts := [] })

/-! ### Scheduler and gangs -/

/-- 03 R71, 08 R176, R179, R182, R183, 22 R405, R409: the steps of the scheduler. A regroup gives the partition new bundles,
each of runnable fibres of one gang, stage and PC, and every runnable fibre stands in one; only SEN = 63 forces the senior
fibre's bundle; SEN counts the clocks in which that bundle was ready and did not issue, and is 0 once the senior fibre has
issued; back-off ends once its clocks are over; a word that would commit with LEFT 0 takes system fault 0x45, by itself or
where it is due; a word that a level of R71 below 7 refuses traps. -/
def Obligations.SchedulerSteps : Prop := ∀ (s : State),
  (s.off = false →
    (∀ core part, exec (.regroup core part) s = .next (s.onCore core fun c =>
      { c with bundles := (c.bundles.filter fun b => b.part ≠ part) ++ s.bundlesOf part (s.runnable core part) })) ∧
    (∀ part (l : List Fibre),
      (∀ b ∈ s.bundlesOf part l, b.part = part ∧ ∀ i ∈ b.ids, ∃ f ∈ l, f.id = i ∧ f.id.nid = b.nid ∧ f.id.gid = b.gid ∧
        f.stg = b.stg ∧ f.regs.pc = b.pc) ∧
      (∀ f ∈ l, ∃ b ∈ s.bundlesOf part l, f.id ∈ b.ids)) ∧
    (∀ core part, (s.part core part).sen ≠ 63 → exec (.seniorForcedIssue core part) s = .next s) ∧
    (∀ core part x, (s.part core part).sen = 63 →
      (s.readyBundles core part).find? (fun x => (s.senior core part).any fun i => x.b.ids.contains i) = some x →
      exec (.seniorForcedIssue core part) s = .next ((x.res.1.splitBundle core x.b x.res.2).onPart core part fun p =>
        { p with sen := senAfter 63 (s.senior core part) [x] x })) ∧
    (∀ sen i ready x, (i ∈ x.res.2 → senAfter sen (some i) ready x = 0) ∧
      (i ∉ x.res.2 → i ∈ x.b.ids → senAfter sen (some i) ready x = sen) ∧
      (i ∉ x.res.2 → i ∉ x.b.ids → (∃ y ∈ ready, i ∈ y.b.ids) → senAfter sen (some i) ready x = min 63 (sen + 1)) ∧
      (i ∉ x.res.2 → (∀ y ∈ ready, i ∉ y.b.ids) → senAfter sen (some i) ready x = sen)) ∧
    (∀ who b k, s.fibre? who = some b → b.backoff = some k →
      exec (.backoffExpiry who) s =
        .next (if k < s.clockOf who then s.onFibre who fun f => { f with backoff := none } else s)) ∧
    (∀ who g b, s.gang? who.nid who.gid = some g → g.canRun who.cid = true → s.fibre? who = some b →
      let t := State.focus { s with issue := [who] } who
      t.f.life = .live → t.watchdogDue = true →
        exec (.watchdog who) s = .next (t.raise [⟨who, t.r.pc, 0x45, 0, 0#64, 0⟩])) ∧
    (∀ (level : Nat) (word : Word), s.f.life = .live → s.f.due = none → s.f.met = none →
      ¬(s.r.trapRefused = true ∧ 0 < s.f.convPending) → exec (.illegalInstruction level word) s = .next (State.trap { s with f := { s.f with obj := none, rel := none, early := none } }
        s.r.pc s.r.pc (if level ≤ 4 then 0x01 else 0x02) 0 (BitVec.ofNat 64 (word.toNat + level * 2 ^ 32))))) ∧
  (∀ (i : Instr) (d : Fld) (v : Word), s.off = false → s.f.due = none → s.f.met = none → (s.f.obj.all fun r => r.xfn == 0) = true →
    s.f.early = none → s.f.convPending = 0 → (infoOf i).level = none →
    (infoOf i).inWindow s.r = true → ((infoOf i).ops.any fun o => o.reads && isEmpty s.r o) = false →
    (infoOf i).mustWait s.g s.f = false → s.crewCheck [infoOf i] = none → ydlLeft s.r.ydl = 0 → cellResult i s = some (d, v) →
    exec i s = .next ((State.report ((s.wordDone s.f.id).triesDone (.fetch s.f.id))
      ⟨0x45, 0, [], s.f.id.nid, s.f.id.gid, s.f.id.cid, BitVec.ofNat 32 (2 ^ s.f.id.fid), s.r.pc,
      0#64, 0⟩).failNode s.f.id.nid 0x45).tick)

/-- 08 R172, R174, R186, R190, R191, 10 R214, 22 R413: gangs and crews start and end. A gang that is due starts on a core that
admits it, with all its crews and fibres, and its node runs: on the core of its GID in deterministic mode, else on the first
eligible one in the order of R190. Where no core admits it, the suspended gangs in its way are saved, or a core
drains for it (which ones by log 35). A spawned crew runs once what its spawner accessed before it has performed, its copies included. An
ended gang's slot, region and contexts are free once what its engines and fibres had accepted is complete, but for what has
met a fault in a node that fails (of its fibres' accesses and copies by log 34). -/
def Obligations.GangStarts : Prop := ∀ (s : State),
  (∀ n g core, s.choose n g = some core → s.admits n g core = true ∧
    (n.spec.det = true → core = g.gid % max 1 n.spec.mapC) ∧
    (n.spec.det = false → core < s.coreMap.length ∧ s.coolEnough n core = true ∧
      ∀ d < s.coreMap.length, s.admits n g d = true → s.coolEnough n d = true → s.coolness core ≤ s.coolness d)) ∧
  (∀ n g l, s.suspendedInWay n g = some l → ∃ core,
    (∀ x ∈ l, x ∈ s.allGangs ∧ x.suspended = true ∧ x.place = .resident core) ∧ (s.without core l).admits n g core = true) ∧
  (s.off = false →
    (∀ nid gid n g, s.node? nid = some n → s.dueGang n gid = some g →
      (∀ core, s.choose n g = some core →
        let t := (s.admitted n g core).onCore core fun c => c.dropClean fun _ => true
        let u := ((n.newFibres g.gid).foldl State.bear t).onNode n.spec.nid fun m => { m with placed := m.placed + 1 }
        exec (.gangPlacement nid gid) s = .next
          (if g.cont.isSome then t else if n.state = .runnable then u.nodeState n.spec.nid .running else u)) ∧
      (∀ l, s.choose n g = none → s.suspendedInWay n g = some l →
        exec (.gangPlacement nid gid) s =
          .next ((l.filter fun x => x.leaving == none).foldl (fun t x => t.stopGang x none) s)) ∧
      (∀ core, s.choose n g = none → s.suspendedInWay n g = none → s.drainCore n g = some core →
        exec (.gangPlacement nid gid) s = .next (s.onCore core fun c => { c with drainFor := some n.spec.split }))) ∧
    (∀ nid gid cid g c who ser, s.gang? nid gid = some g → g.crew? cid = some c → c.state = .starting who ser →
      exec (.spawnedCrewStart nid gid cid) s = .next
        (if ((g.cpbs.any fun x => decide (x.who = who) && decide (x.ser < ser)) ||
            (s.fibre? who).any fun b => b.acc.any fun a => decide (a.ser < ser) && !a.pastL1) = true then s
         else s.onCrew nid gid cid fun c => { c with state := .running })) ∧
    (∀ nid gid g core, s.gang? nid gid = some g → g.place = .draining core →
      let fails := (s.node? nid).any fun n => n.failing.isSome
      exec (.gangRelease nid gid) s = .next
        (if (∀ c ∈ g.cpbs, fails = true ∧ c.stage.faulty = true) ∧ g.matq = [] ∧ (∀ c ∈ g.ctxs, c.ops = []) ∧
            ∀ b ∈ s.gangAll nid gid, b.obj = none ∧ ∀ a ∈ b.acc, fails = true ∧ a.stage.faulty = true then
          State.freeSplit ((s.setGang { Gang.fresh nid gid g.roles with
            place := .ended, held := g.held, cont := g.cont }).onCore core fun c =>
              { c with bundles := dropFromBundles (fun i => decide (i.nid = nid ∧ i.gid = gid)) c.bundles }) core
         else s)))

/-- 08 R184, 22 R407, R413 to R416, R449: gangs and crews leave their core and come back. Every fibre of a gang that is
pre-empted stops; once it is quiet and the liveness entries are read (a walk that meets a busy entry is tried again, 12 R240),
its live fibres keep what R74 and R415 say, its images take the size of R414, and it leaves. A swap needs throughput mode,
IDLE at 16 in every fibre and a gang that waits, for no core admits it, that would then fit and for which no other gang leaves
yet; one that waits takes its place. One crew leaves in the same way and keeps its context. A gang that
is restored, in its turn (log 35), is admitted where R190 puts it, and after a swap every IDLE is 0. -/
def Obligations.GangSaves : Prop := ∀ (s : State) nid gid n g core, s.off = false → s.node? nid = some n →
  s.gang? nid gid = some g →
  let mine := fun (i : FibId) => decide (i.nid = g.nid ∧ i.gid = g.gid)
  let live := fun (u : State) (b : Fibre) => if b.life = .live then b.saved (u.liveAt n b.regs.pc) else b
  let size := fun (u : State) (b : Fibre) =>
    let masks := u.liveAt n b.regs.pc
    let cells := ((List.range b.regs.n).filter fun k => masks.cells.getLsbD k).length
    let ys := ((List.range b.regs.m).filter fun k => masks.ys.getLsbD k).length
    1024 + 4 * (cells + yCost ys b.regs.lw +
      ((b.regs.quota : Int) - b.regs.wq - b.regs.n - yCost b.regs.m b.regs.lw).toNat)
  let read := fun (u : State) (l : List Fibre) => l.all fun b => !(u.liveAt n b.regs.pc).busy
  let again := fun (u : State) (l : List Fibre) =>
    (distinct (((l.map fun b => u.liveAt n b.regs.pc).filter Live.busy).flatMap Live.reads)).foldl
      (fun t va => t.tryAgain (.mask n.spec.nid va)) u
  let done := fun (t : State) (l : List Fibre) =>
    (l.flatMap fun b => (t.liveAt n b.regs.pc).reads).foldl (fun t va => t.triesDone (.mask n.spec.nid va)) t
  let leave := fun (u : State) (swap : Bool) =>
    State.freeSplit (((done (u.mapFibres mine (live u)) (u.gangFibres g.nid g.gid)).onGang g.nid g.gid fun h =>
    { h with
      image := total ((u.gangFibres g.nid g.gid).map (size u)), place := .saved core swap, leaving := .none
      crews := h.crews.map fun c => { c with place := .here } }).onCore core
      fun c => { c with bundles := dropFromBundles mine c.bundles }) core
  (g.place = .resident core →
    (g.leaving = none →
      exec (.preemptGang nid gid) s = .next
        (let t := s.stopGang g none
         if !t.gangQuiet g then t
         else if !read t (t.gangFibres nid gid) then again t (t.gangFibres nid gid)
         else leave t false) ∧
      (let gone := (s.setGang { g with place := .saved core true }).freeSplit core
       exec (.gangSwap nid gid) s = .next
        (match (gone.waitingGangs core (nid, gid)).find? fun x => (s.choose x.1 x.2).isNone &&
            gone.admits x.1 x.2 core && (x.1.spec.det || gone.coolEnough x.1 core) &&
              !(s.allGangs.any fun y => y.leaving == some (some (x.2.nid, x.2.gid))) with
         | some w =>
           if n.spec.det = false ∧ n.failing = none ∧ ∀ b ∈ s.gangFibres nid gid, ydlIdle b.regs.ydl = 16 then
             preempt (s.stopGang g (some (w.2.nid, w.2.gid))) nid gid
           else s
         | none => s))) ∧
    (∀ w, g.leaving = some w →
      exec (.preemptGang nid gid) s = .next
        (if !s.gangQuiet g then s
         else if !read s (s.gangFibres nid gid) then again s (s.gangFibres nid gid)
         else if w.isSome then (leave s true).fillCore core (nid, gid) else leave s false)) ∧
    (∀ cid c, g.crew? cid = some c → g.leaving = none → c.place ≠ .away →
      let his := fun (i : FibId) => decide (i.nid = nid ∧ i.gid = gid ∧ i.cid = cid)
      let t := (s.stopRuns nid gid cid).onCrew nid gid cid fun c => { c with place := .leaving }
      exec (.preemptCrew nid gid cid) s = .next
        (let fs := t.crewFibres nid gid cid
         if ¬((∀ b ∈ fs, t.quiet b = true) ∧ ∀ x ∈ g.cpbs, his x.who = false) then t
         else if !read t fs then again t fs
         else
          ((done (t.mapFibres his (live t)) fs).onCrew nid gid cid fun c => { c with place := .away }).onCore core fun c =>
            { c with bundles := dropFromBundles his c.bundles })) ∧
    (∀ cid, exec (.crewRestore nid gid cid) s = .next
      ((s.onCrew nid gid cid fun c => if c.place = .away then { c with place := .here } else c).mapFibres
        (fun i => decide (i.nid = nid ∧ i.gid = gid ∧ i.cid = cid) && g.runs cid) Fibre.resumed))) ∧
  (∀ old swap dest, g.place = .saved old swap → n.places = true → g.waits = true → s.firstOf n none gid = true →
    s.choose n g = some dest →
    (let dirty := (s.core old).l1.any fun l => l.dm != 0#128 && l.ctx == n.ctx
     (old ≠ dest → dirty = true → exec (.gangRestore nid gid) s = .next (s.writeBackAll old fun l => l.ctx = n.ctx)) ∧
     ((old ≠ dest → dirty = false ∧ ∀ x ∈ s.flight, ∀ crew tracked, ¬(x.core = old ∧ x.op = .writeBack n.ctx crew tracked)) →
      exec (.gangRestore nid gid) s = .next
        (let t := s.admitted n g dest
         let u := (if old = dest then t else t.onCore dest fun c => c.dropClean fun _ => true).mapFibres
          (fun i => mine i && g.runs i.cid) Fibre.resumed
         if swap then
          u.mapFibres mine fun b => { b with regs := { b.regs with ydl := ydlOf (ydlLeft b.regs.ydl) (ydlHint b.regs.ydl) 0 } }
         else u))))

/-! ### Nodes and arenas -/

/-- 12 R267, 19 R364, R366 to R372, R374, R376, R384: the task engine's steps. A doorbell sets TAIL; the next entry of the
lowest queue that can be served (its HEAD and TAIL are counts, by log 65, the model's choice) is accepted with its launch
context, or refused with the offset of its first broken field (the header by log 66); a comparison tells the host the first
field that differs; a signal lowers its node's counter, and the node is runnable at 0; a queue takes a node's oldest ring entry; a continuation is taken and, once its condition holds,
makes a gang of one fibre that starts at RPC with the saved cells; the next RED of the next batch is applied at its home. -/
def Obligations.NodeSteps : Prop := ∀ (s : State), s.off = false →
  (∀ q tail, exec (.launchQueueTailWrite q tail) s =
    .next { s with queues := s.queues.modify q fun x => { x with tail := tail % 2 ^ 32 } }) ∧
  (∀ q sp l, (∀ k < min q 8, s.serveQueue k = none) → (s.queue q).head ≠ (s.queue q).tail →
    let addr := (s.queue q).qbase + 128 * ((s.queue q).head % max 1 (s.queue q).qsize)
    let key := TryKey.launch q (headerKey (num sp 0 8))
    let spent := s.spent key
    let passed := fun (t : State) => { t with
      queues := t.queues.modify q fun x => { x with head := (x.head + 1) % 2 ^ 32 }
      tries := t.tries.filter fun x => match x.1 with | .launch k _ => k != q | _ => true }
    (∀ f a ia, readLaunch (fun a size => (s.readIa a size).orSpent (s.spent (.launch q a))) true addr = .busy f a ia →
      exec (.nodeSpecAccept q) s = .next (s.tryAgain (.launch q a))) ∧
    (s.readIa addr 128 = .ok sp →
     readLaunch (fun a size => (s.readIa a size).orSpent (s.spent (.launch q a))) true addr = .ok l →
     (s.judge true spent l = .busy → exec (.nodeSpecAccept q) s = .next (s.tryAgain key)) ∧
     (∀ code, s.judge true spent l = .refuse code →
       exec (.nodeSpecAccept q) s = .next (passed (s.deviceWrite (addr + 120) (leBytes 4 (5 + 256 * code))))) ∧
     (∀ entry ctx, s.judge true spent l = .accept entry → s.freeLaunch = some ctx →
       let x := s.specOf l addr (num l.sp 8 4) entry
       exec (.nodeSpecAccept q) s = .next (passed ((s.setNode { Node.none with
         spec := x, state := if x.deps = 0 then .runnable else .waiting, counter := x.deps, ctx := ctx }).putStatus x.nid))))) ∧
  (∀ host spent l,
    (∀ code, s.judge host spent l = .refuse code → ¬l.fieldOk s host spent code ∧ ∀ k < code, l.fieldOk s host spent k) ∧
    (∀ entry, s.judge host spent l = .accept entry → ∀ k, l.fieldOk s host spent k)) ∧
  (∀ mani spec,
    let rd := fun (ia size : Nat) => (s.readIa ia size).orSpent (s.spent (.manifest ia))
    let done := (s.triesDone (.manifest mani)).triesDone (.manifest spec)
    (∀ m sp, rd mani 608 = .ok m → rd spec 128 = .ok sp →
      exec (.compareManifest mani spec) s =
        .next (done.tell (.manifest (s.compareManifest m sp).1 (s.compareManifest m sp).2))) ∧
    (∀ e, rd mani 608 = .busy e → exec (.compareManifest mani spec) s =
      .next { s.tryAgain (.manifest mani) with agenda := s.agenda ++ [.compareManifest mani spec] })) ∧
  (∀ m sp code e, s.compareManifest m sp = (code, e) →
    (∀ k, 1 ≤ k → k < code → s.manifestField m sp k) ∧ (code = 0 → ∀ k, s.manifestField m sp k) ∧
    (code ≠ 0 → ¬s.manifestField m sp code) ∧
    (code = 7 → num m (96 + 2 * e) 2 ≠ s.coreMap.getD e 0 ∧ ∀ j < e, num m (96 + 2 * j) 2 = s.coreMap.getD j 0)) ∧
  (∀ k x n, s.signals[k]? = some x → s.node? x.nid = some n →
    let t : State := { s with signals := dropAt k s.signals }
    exec (.dependenceSignal k) s = .next
      (if n.counter = 0 then t.setFlag x.nid 16
       else
         let u := t.setNode { n with counter := n.counter - 1 }
         if n.counter = 1 ∧ n.state = .waiting ∧ n.failing = none then u.nodeState x.nid .runnable else u)) ∧
  (∀ core n bs, (s.core core).queue.length < Config.taskQueue →
    (sortOn Node.ctx (s.allNodes.filter fun n => n.open_ && (n.ring core).used != 0)).head? = some n →
    s.readOwn n .both (n.ringVa core (n.ring core).rh) 32 = .ok bs →
    exec (.taskQueueRefill core) s = .next
      (((s.triesDone (.ring n.spec.nid core)).setNode
        (n.setRing { n.ring core with rh := ((n.ring core).rh + 1) % 2 ^ 32 })).onCore core fun c =>
        { c with queue := c.queue ++ [⟨n.spec.nid, cellsOfBytes 8 bs⟩] })) ∧
  (∀ nid k n c, s.node? nid = some n → n.conts[k]? = some c →
    let s' := s.triesDone (.record nid c.va.toNat)
    (∀ bs, c.taken = false → s.readVa n .load c.va.toNat 80 = .ok bs →
      exec (.continuationResume nid k) s = .next
        ((s'.setNode { n with conts := n.conts.modify k fun c => { c with taken := true } }).recordPut n c [1#8])) ∧
    (c.taken = true → s.contReady c = false → exec (.continuationResume nid k) s = .next s) ∧
    (∀ bs, c.taken = true → s.contReady c = true → s.readVa n .load c.va.toNat 80 = .ok bs →
      let gid := 0x80000000 + n.resumed
      let u := (s'.recordPut n c ([2#8] ++ leBytes 4 gid)).onNode n.spec.nid fun n =>
        { n with resumed := n.resumed + 1, conts := dropAt k n.conts }
      let b := Fibre.fresh ⟨n.spec.nid, gid, 0, c.who.fid⟩ 0 n.spec.quota n.spec.ydef (BitVec.ofNat 64 (num bs 0 8))
        (cellsOfBytes 16 (bs.drop 16))
      exec (.continuationResume nid k) s = .next
        ((u.setGang { Gang.fresh n.spec.nid gid [.vector] with
          crews := [⟨0, 0, BitVec.ofNat 32 (2 ^ c.who.fid), 0, 0, .running, .here⟩], cont := some n.resumed }).bear
          { b with regs := { b.regs with n := 16 } })) ∧
    (∀ code sub ia, c.taken = true → s.contReady c = true → s.readVa n .load c.va.toNat 80 = .fail code sub ia →
      exec (.continuationResume nid k) s = .next (s'.nodeFails c.who 0#64 code sub c.va ia)) ∧
    (∀ (t : State) bs ia tr, t.xlat n c.va.toNat 80 .load = .ok ia tr → t.recordPut n c bs = t.deviceWrite (ia + 11) bs)) ∧
  (∀ n g, s.nextBatch n = some g → g ∈ s.allGangs ∧ g.nid = n.spec.nid ∧ s.redsReady g = true ∧ g.gid ∉ n.batched ∧
    ∀ x ∈ s.allGangs, x.nid = n.spec.nid → x.gid < g.gid → x.gid ∈ n.batched) ∧
  (∀ nid n g, s.node? nid = some n → n.spec.det = true → n.failing = none → s.nextBatch n = some g →
    (g.held = [] → exec (.redBatchApply nid) s = .next (s.onNode nid fun n => { n with batched := n.batched ++ [g.gid] })) ∧
    (∀ h rest, sortOn (fun h => 32 * h.cid + h.fid) (sortOn HeldRed.ser g.held) = h :: rest →
      let z := redSize h.op
      let t := (linesOf h.ia z).foldl (fun u ln => u.flushLine h.core ln) s
      let gone := fun (u : State) => (u.triesDone (.batch g.nid g.gid)).onGang g.nid g.gid fun g =>
        { g with held := g.held.filter fun k => k ≠ h }
      ((linesOf h.ia z).any fun ln => t.inFlight h.core ln) = false →
      (t.reaches h.core h.ia = false →
        exec (.redBatchApply nid) s = .next (gone (t.tell (.lostWrite h.ia g.nid g.gid h.cid)))) ∧
      (∀ u v old, t.reaches h.core h.ia = true → t.pathUp h.core h.ia = true → t.walkRun h.ia z .both = (none, u) →
        u.badRun h.ia z = false → u.homeBytes h.ia z = (some old, v) →
        exec (.redBatchApply nid) s =
          .next (gone ((v.homeWrite h.ia (leBytes z (redNew h.op (leNat old) h.data))).2.sentTo h.core h.ia)))))

/-- 19 R367, R377, R379, R380: nodes end and arenas live and die. All requests of a runnable node are allocated, or none: each
has the first free slot, its zeroed bytes (where by log 23) and its heir. A node that is over ends by the six steps of R377,
each when what it waits for is done, once its STATUS is written. A dying arena is dropped once what passed its check is
over, and is dead after it. -/
def Obligations.NodeEnds : Prop := ∀ (s : State), s.off = false →
  (∀ nid n, s.node? nid = some n → n.born = false → n.state = .runnable → n.failing = none →
    exec (.arenaBirth nid) s = .next
      (match s.allocateAll n 0 n.spec.areqs with
       | none => s
       | some t => t.onNode nid fun n => { n with born := true })) ∧
  (∀ n i r slot ia col, r.size ≠ 0 →
    (List.range Config.arenaSlots).find? (fun k => (s.arena k).state = .free || (s.arena k).state = .dead) = some slot →
    s.roomFor r = some (ia, col) →
    s.allocate n i r = some
      (let t := s.setArena slot ⟨(s.arena slot).gen, .live, r.place, col, n.spec.nid, r.size * 65536, ia,
        if r.hv then n.spec.succ.getD r.hix 0 else 0xFFFFFFFF, false⟩
       State.onNode { t with mem := t.mem.blank ia (ia + r.size * 65536) } n.spec.nid fun n =>
        { n with arenas := n.arenas.set i (some slot) })) ∧
  (∀ slot, (s.arena slot).state = .dying → exec (.arenaDrained slot) s = .next
    (if (s.arena slot).dropped = false then (if s.arenaBusy slot then s else s.arenaDrop slot)
     else if s.ownerEnding (s.arena slot).nid then s
     else s.setArena slot { s.arena slot with state := .dead, dropped := false })) ∧
  (∀ nid n, s.node? nid = some n → n.statusDue = true → exec (.nodeCompletion nid) s = .next (s.putStatus nid)) ∧
  (∀ nid n, s.node? nid = some n → n.statusDue = false →
    (n.closing = false → n.live = true → s.nodeOver n = true →
      exec (.nodeCompletion nid) s = .next ((s.endBegins n).writeBackNode n)) ∧
    (n.closing = true → n.live = true →
      (s.endDrained n = false → exec (.nodeCompletion nid) s = .next (s.writeBackNode n)) ∧
      (s.endDrained n = true →
        (∀ code, n.failing = some code →
          exec (.nodeCompletion nid) s =
            .next (((s.discardTasks n).onNode nid fun n => { n with code := code }).nodeState nid .failed)) ∧
        (n.failing = none →
          exec (.nodeCompletion nid) s = .next
            (let t := ((s.handAll nid).discardTasks n).nodeState nid .completed
             if (t.node? nid).any (fun x => x.statusDue) = true then s
             else { t with signals := t.signals ++ ((n.spec.succ ++ n.added).filter fun i =>
                (t.node? i).any fun x => x.state != .refused && x.state != .failed && x.failing.isNone).map Signal.mk })))) ∧
    (n.closing = true → n.live = false → (∀ x ∈ s.arenas, ¬(x.2.nid = nid ∧ x.2.state = .dying)) →
      exec (.nodeCompletion nid) s = .next
        (let t := s.onNode nid fun n => { n with closing := false, failing := .none }
         { t with
           f := if t.f.id.nid = nid then Fibre.none else t.f
           g := if t.g.nid = nid then Gang.fresh 0 0 [] else t.g
           fibres := t.fibres.filter fun b => b.id.nid ≠ nid
           gangs := t.gangs.filter fun g => g.nid ≠ nid })))

/-! ### Steps of the object sequencer and of the engines -/

/-- 09 R197, R202 to R206, R208 to R210, 10 R226: the sequencer acts for a fibre whose run is at work, when its lane's turn has
come. First it reads the header's SCOPE, and the run releases at it. A step then reads; it installs an announcement, or
commits an apply, only where what it read still stands, and is a failure where it does not; and it ends by moving NEXT, by
finishing a ticket, or by collecting the fibre's own (what of a step other agents see between is by log 26). What it writes at
its homes follows the core's own copies of those lines there (12 R262), and the core's next release covers them (13 R263).
Each step is counted, and at the eighteenth the run completes, as pending where it holds a ticket (log 27). `obj.help` applies below the
NEXT that it read first. The effect of a dequeue is stated for a CAP above 0 (log 73 is the model's choice for 0). -/
def Obligations.ObjectSteps : Prop :=
  (∀ (s : State) (who : FibId) (x : Site) (r : ObjRun), s.off = false → s.site? who = some x → x.fib.obj = some r →
    r.xfn ≠ 0 → r.phase ≠ .stopped → x.gang.runs who.cid = true → s.lowerLane x r = false →
    let obj := r.va.toNat
    (∀ hp t, r.mid = .idle → r.fence = none → s.LooksVa x obj 32 hp t →
      ∀ i, i = .objAnnounceStep who ∧ r.phase = .announce ∨
          (i = .objApplyStep who ∨ i = .objCollect who) ∧ r.phase = .apply →
        exec i s = .next ((t.triesDone (.step who)).onFibre who fun b => b.releaseAt (t.mem.num (hp + 24) 8 / 16 % 8)
          (if x.gang.role x.fib.stg = .matrix then x.gang.mnext else 0) r)) ∧
    (∀ ser, r.fence = some ser → (∀ a ∈ x.fib.acc, a.ser ≠ ser) →
      (∀ hp rp t u, r.mid = .idle → r.phase = .announce → s.LooksVa x obj 32 hp t →
        let h := t.readHdr hp
        t.LooksVa x (obj + (64 + 32 * (h.next % 8))) 32 rp u →
        let c := u.readRec rp
        (0xFFFFFFFF ≤ h.next ∨ opFits h.kind r.xfn = false ∨ h.reserved = true →
          exec (.objAnnounceStep who) s = .next (u.countStep x fun q => { q with phase := .complete 5 })) ∧
        (h.next < 0xFFFFFFFF → opFits h.kind r.xfn = true → h.reserved = false →
          h.next < h.applied + 8 → ¬(c.state = 1 ∧ c.ticket + 8 = h.next) →
          ((c.state = 1 ∨ c.state = 2) → c.ticket = h.next →
            exec (.objAnnounceStep who) s = .next (u.setMid x.fib.id (.moving h.next hp))) ∧
          (¬((c.state = 1 ∨ c.state = 2) ∧ c.ticket = h.next) → ∀ mp v, u.LooksBox x x.fib.id.gfi mp v →
            exec (.objAnnounceStep who) s = .next (v.setMid x.fib.id (.announcing h.next c.w0 c.w1 hp rp mp))))) ∧
      (∀ t w0 w1 hp rp mp, r.mid = .announcing t w0 w1 hp rp mp →
        exec (.objAnnounceStep who) s = .next (s.stepWrites x r fun s =>
          let u := s.putNum mp 8 (openBox obj t)
          let free := (recOf w0 w1).state = 0 ∨ ((recOf w0 w1).state = 2 ∧ (recOf w0 w1).ticket + 8 = t)
          if u.mem.num rp 8 = w0 ∧ u.mem.num (rp + 8) 8 = w1 ∧ free then
            ((u.putNum rp 16 (recW0 t 1 r.xfn 0 (x.fib.id.cid * 32 + x.fib.id.fid) +
                2 ^ 64 * (r.operand.toNat + 2 ^ 32 * x.fib.id.gid))).onFibre x.fib.id fun b =>
              { b with regs := b.regs.setAt r.pos (BitVec.ofNat 32 t) true }).onRun x.fib.id fun q =>
                { q with ticket := t, phase := .apply, mid := .moving t hp }
          else u.countStep x id)) ∧
      (∀ hp rp t u, r.mid = .idle → r.phase = .apply → r.xfn ≠ 8 → s.LooksVa x obj 32 hp t →
        t.LooksVa x (obj + (64 + 32 * (r.ticket % 8))) 32 rp u →
        let h := u.readHdr hp
        let c := u.readRec rp
        let foreign := h.next ≤ r.ticket ∨ (c.ticket = r.ticket ∧ (c.cl ≠ who.cid * 32 + who.fid ∨ c.agid ≠ who.gid))
        (r.steps = 0 → foreign → ∀ i, i = .objApplyStep who ∨ i = .objCollect who →
          exec i s = .next (u.countStep x fun q => { q with phase := .complete 5 })) ∧
        (r.steps = 0 → ¬foreign → h.applied < r.ticket → exec (.objApplyStep who) s = .next (u.beginApply x r hp)) ∧
        ((r.steps = 0 → ¬foreign) → r.ticket ≤ h.applied → ∀ mp v, u.LooksBox x who.gfi mp v →
          let d := v.readRec rp
          exec (.objCollect who) s = .next
            (if d.ticket = r.ticket ∧ d.state = 1 then v.setMid who (.finishing r.ticket rp mp)
             else v.countStep x fun q => q.collect (v.collected rp mp r.ticket)))) ∧
      (∀ hp t, r.mid = .idle → r.phase = .apply → r.xfn ≠ 8 → r.steps ≠ 0 → s.LooksVa x obj 32 hp t →
        (t.readHdr hp).applied < r.ticket → exec (.objApplyStep who) s = .next (t.beginApply x r hp)) ∧
      (∀ u hp rp mp w1 w2 w3 r0 r1 slot, r.mid = .applying u hp rp mp w1 w2 w3 r0 r1 slot → r.xfn ≠ 8 →
        exec (.objApplyStep who) s = .next (s.stepWrites x r fun s =>
          let y := s.commitStep u hp rp (objHdrOf 0 w1 w2 w3) (recOf r0 r1) slot
          if y.1 then y.2.setMid x.fib.id (.finishing u rp mp) else y.2.countStep x id)) ∧
      (∀ hp t u rp c mp v, r.mid = .idle → r.phase = .apply → r.xfn ≠ 8 → r.steps ≠ 0 →
        s.LooksVa x obj 32 hp t → (t.readHdr hp).applied < r.ticket →
        t.unfinished x r (t.readHdr hp) r.ticket = some (u, rp, c) → t.LooksBox x (c.agid * 1024 + c.cl) mp v →
        exec (.objFinishStep who) s = .next (v.setMid x.fib.id (.finishing u rp mp))) ∧
      (∀ hp t, r.mid = .idle → r.phase = .apply → r.xfn = 8 → s.LooksVa x obj 32 hp t →
        let h := t.readHdr hp
        let bound := r.bound.getD h.next
        exec (.objApplyStep who) s = .next
          (if bound ≤ h.applied + 1 then
             t.atRecords x r (fun u => if r.bound.isNone || u.allDone x r h bound then u.helped x r bound else u) (ringBelow bound)
           else if r.bound.isNone then t.helped x r bound
           else t.beginApply x r hp)))) ∧
  (∀ (s : State) (who : FibId) (x : Site) (r : ObjRun), s.off = false → s.site? who = some x → x.fib.obj = some r →
    (∀ t hp, r.mid = .moving t hp → exec (.objAnnounceStep who) s = .next (s.stepWrites x r fun s =>
      State.countStep (if s.mem.num hp 8 = t then s.putNum hp 8 (t + 1) else s) x id)) ∧
    (∀ u rp mp, r.mid = .finishing u rp mp → r.xfn ≠ 8 → exec (.objFinishStep who) s = .next (s.stepWrites x r fun s =>
      let t := s.finishAt r.va.toNat u rp mp
      if u = r.ticket then t.countStep x fun q => q.collect (t.collected rp mp u) else t.countStep x id))) ∧
  (∀ (s : State) (x : Site) (r : ObjRun) (k : State → State),
    let t := r.lines.foldl (fun u ln => u.flushLine x.core ln) s
    ((∃ ln ∈ r.lines, t.inFlight x.core ln = true) → s.stepWrites x r k = t) ∧
    ((∀ ln ∈ r.lines, t.inFlight x.core ln = false) →
      s.stepWrites x r k = k (r.lines.foldl (fun u ln => u.sentTo x.core (ln * 128)) t))) ∧
  (∀ (s : State) (x : Site) (r : ObjRun) hp rp mp t u, (s.readHdr hp).slot (t.readRec rp).op = none →
    s.LooksVa x (r.va.toNat + (64 + 32 * (((s.readHdr hp).applied + 1) % 8))) 32 rp t →
    (t.readRec rp).ticket = (s.readHdr hp).applied + 1 → (t.readRec rp).state = 1 →
    t.LooksBox x ((t.readRec rp).agid * 1024 + (t.readRec rp).cl) mp u →
    s.beginApply x r hp = u.setMid x.fib.id (.applying ((s.readHdr hp).applied + 1) hp rp mp (s.readHdr hp).word1
      (s.readHdr hp).word2 (s.readHdr hp).word3 (t.readRec rp).w0 (t.readRec rp).w1 none)) ∧
  (∀ (s : State) u hp rp h c,
    let e := h.effect c.op c.operand 0
    let t := if rwOlder (s.mem.num (rp + 16) 8) u then s.putNum (rp + 16) 16 (rwOf e.result e.status u) else s
    s.commitStep u hp rp h c none =
      if t.mem.num (hp + 8) 8 = h.word1 ∧ t.mem.num (hp + 16) 8 = h.word2 then
        (true, t.putNum (hp + 8) 16 (u + 2 ^ 32 * e.lo + 2 ^ 48 * e.hi + 2 ^ 64 * e.word2))
      else (false, t)) ∧
  (∀ (s : State) (x : Site) (b : Fibre) (r : ObjRun) (k : ObjRun → ObjRun), s.fibre? x.fib.id = some b → b.obj = some r →
    r.halted = false →
    let q := k { r with mid := .idle, lines := [] }
    s.countStep x k = (s.triesDone (.step x.fib.id)).setFibre { b with obj := some { q with
      steps := q.steps + 1
      phase := match q.phase with
        | .complete st => .complete st
        | p => if q.steps + 1 < 18 then p else .complete (if q.xfn = 8 ∨ q.ticket = 0 then 4 else 3) } }) ∧
  (∀ (h : ObjHdr) b v, (h.kind = 1 → h.lo < h.cap → h.effect 1 b v = ⟨h.lo + 1, h.hi, h.word2, true, h.lo, 0⟩) ∧
    (h.kind = 1 → 0 < h.lo → h.effect 2 b v = ⟨h.lo - 1, h.hi, h.word2, false, v, 0⟩) ∧
    (h.kind = 2 → h.hi < h.cap → h.effect 3 b v = ⟨h.lo, h.hi + 1, h.word2, true, (h.lo + h.hi) % h.cap, 0⟩) ∧
    (h.kind = 2 → h.cap ≠ 0 → 0 < h.hi → h.effect 4 b v = ⟨(h.lo + 1) % h.cap, h.hi - 1, h.word2, false, v, 0⟩) ∧
    (h.kind = 3 → h.effect 5 b v =
      ⟨h.lo, h.hi, (h.word2 + ((BitVec.ofNat 32 b).signExtend 64).toNat) % 2 ^ 64, false, h.word2 % 2 ^ 32, 0⟩) ∧
    (h.kind = 4 → h.lo + 1 = h.cap → h.effect 6 b v = ⟨0, (h.hi + 1) % 65536, h.word2, false, h.hi, 0⟩))

/-- 13 R270 to R272, 16 R314 to R316, R323, R325, R333, 17 R344, R350 to R357: the steps of the engines. The next operation of
a context starts with its arena checks; a stale one completes with status 5, another moves its parts one after another and
completes once the markers of its writes are back (in how many steps by log 29). `s2g.atom` finds its version even, claims
it, and leaves it two higher, or is busy, or stops where a part of its tile is lost (log 72); `g2s.cons` makes five attempts, or is torn. The host resumes one that waits on a
page. A per-fibre copy lands with zeros after its bytes, its granules full and its counter lowered. The matrix engine of a
core takes the oldest word of the gang whose turn it is, an `mma` by one k-step, in any order where a chain lets it. -/
def Obligations.EngineSteps : Prop := ∀ (s : State) nid gid g n, s.off = false → s.gang? nid gid = some g →
  s.node? nid = some n →
  (∀ x core o, g.core? = some core → (g.ctxAt x).ops.find? (fun o => !o.started) = some o →
    ((Block.of o.block).fmt = 7 → ∀ e ∈ (g.ctxAt x).ops, ¬(e.form = formCbk ∧ e.seq < o.seq)) →
    let runs := (Block.of o.block).firstRuns o.form (g.indexList (Block.of o.block) o.form)
    exec (.copyOpStart nid gid x) s = .next (s.onGang g.nid g.gid fun h => h.onCtx x fun c =>
      { c with ops := mapIf (fun e => decide (e.seq = o.seq)) (fun e => { e with
          started := true, stale := s.staleRuns n runs, cbt := (g.ctxAt x).cbt
          known := distinct (runs.filterMap Run.slot) }) c.ops })) ∧
  (∀ x seq core o, g.core? = some core → (g.ctxAt x).ops.find? (fun o => o.seq = seq) = some o → o.started = true →
    o.paged = false → (o.form = formCbk → ∀ e ∈ (g.ctxAt x).ops, ¬(e.form = formCbk ∧ e.seq < o.seq)) →
    let b := Block.of o.block
    let set := fun (t : State) (k : CopyOp → CopyOp) => t.onGang g.nid g.gid fun h => h.onCtx x fun c =>
      { c with ops := mapIf (fun e => decide (e.seq = o.seq)) k c.ops }
    let done := fun (t : State) => t.triesDone (.copy g.nid g.gid x o.seq)
    let wrote := fun (t : State) (ia v : Nat) => t.engineWrite core g.nid g.gid o.crew ia (leBytes 8 v)
    let becomes := fun (t : State) => exec (.copyOpComplete nid gid x seq) s = .next t
    (o.stale = true → becomes (s.copyEnds g x o 5)) ∧
    (o.stale = false →
      (∀ v t ias, o.phase = .moving v → o.row < b.parts o.form →
        s.checkRuns n core o.known (b.partRuns o.form (g.indexList b o.form) o.row) = (.ok ias, t) →
        let runs := b.partRuns o.form (g.indexList b o.form) o.row
        let writes := ((ias.zip runs).filter fun y => y.2.need.w).map fun y => (y.1, y.2.size)
        let torn := o.form = formAtom ∧ ∃ y ∈ writes, t.reachesRun core y.1 y.2 = false
        (¬torn → becomes (set ((done t).movePart g core x o ias) fun e => { e with
          row := e.row + 1
          known := distinct (e.known ++ runs.filterMap Run.slot)
          homes := distinct (e.homes ++ (done t).homesOf writes) })) ∧
        (torn → becomes ((done t).copyTorn g core x o writes))) ∧
      (o.phase = .torn → s.marking g x o.seq = false → becomes (s.copyEnds g x o 3)) ∧
      (∀ v, o.phase = .moving v → b.parts o.form ≤ o.row → o.form ≠ formCons →
        becomes (if toSpad o.form = true ∨ o.form = formCbk then s.copyEnds g x o 0 else s.markCopy g core x o v)) ∧
      (∀ v, o.phase = .flushing v → o.form ≠ formAtom → s.marking g x o.seq = false → becomes (s.copyEnds g x o 0)) ∧
      (o.phase = .begin → o.form ≠ formAtom → o.form ≠ formCons →
        becomes (set (done s) fun e => { e with phase := .moving 0, row := 0 })) ∧
      (∀ ia t, o.form = formAtom → s.checkRuns n core o.known [⟨b.aux, 8, .both, true⟩] = (.ok [ia], t) →
        (o.phase = .begin → becomes
          (if (done t).versionAt ia % 2 = 1 then (done t).copyEnds g x o 2
           else set (done t) fun e => { e with phase := .looked ((done t).versionAt ia), row := 0 })) ∧
        (∀ v, o.phase = .looked v → becomes
          (if (done t).versionAt ia ≠ v then (done t).copyEnds g x o 2
           else set (wrote (done t) ia (v + 1)) fun e =>
             { e with phase := .moving v, homes := (done t).homesOf [(ia, 8)] })) ∧
        (∀ v, o.phase = .flushing v → s.marking g x o.seq = false →
          becomes ((wrote (done t) ia ((v + 2) % 2 ^ 64)).copyEnds g x o 0))) ∧
      (∀ ia t, o.form = formCons → s.checkRuns n core o.known [⟨b.aux, 8, .load, true⟩] = (.ok [ia], t) →
        let again := fun (u : State) => if 4 ≤ o.attempt then u.copyEnds g x o 1
          else set u fun e => { e with attempt := e.attempt + 1, row := 0, phase := .begin }
        (o.phase = .begin → becomes
          (if (done t).versionAt ia % 2 = 1 then again ((done t).acquire core 4)
           else set ((done t).acquire core 4) fun e => { e with phase := .moving ((done t).versionAt ia), row := 0 })) ∧
        (∀ v, o.phase = .moving v → b.parts o.form ≤ o.row → becomes
          (if (done t).versionAt ia = v then (done t).copyEnds g x o 0 else again (done t)))))) ∧
  (∀ (t : State) core x o from_ into, o.form = formG2g → (Block.of o.block).fmt = 0 →
    t.movePart g core x o [from_, into] = t.engineWrite core g.nid g.gid o.crew into
      ((t.engineBytes core from_ (Block.of o.block).len).1.getD [])) ∧
  (∀ x core o v, o.form ≠ formAtom → s.markCopy g core x o v = State.onGang { s with flight := s.flight ++
      [⟨core, .engineMarker g.nid g.gid x o.seq (o.homes.filter fun h => h != s.dieOf core), 0, []⟩] } g.nid g.gid fun h =>
    h.onCtx x fun c => { c with ops := mapIf (fun e => decide (e.seq = o.seq)) (fun e => { e with phase := .flushing v }) c.ops }) ∧
  (∀ x o status, status ≠ 4 → status ≠ 1 → (status = 0 → toSpad o.form = false) →
    s.copyEnds g x o status = s.onGang g.nid g.gid fun h => h.onCtx x fun c => c.complete o.seq status) ∧
  (∀ (c : CopyCtx) seq status, (c.complete seq status).issued = c.issued ∧
    ((c.ops.filter fun o => o.seq ≠ seq) = [] → (c.complete seq status).completed = c.issued) ∧
    (∀ o rest, (c.ops.filter fun o => o.seq ≠ seq) = o :: rest → (c.complete seq status).completed = o.seq - 1) ∧
    (status = 0 → (c.complete seq status).stat = c.stat) ∧
    (status ≠ 0 → c.stat.extractLsb' 8 8 = 0#8 → (c.complete seq status).stat = c.stat ||| BitVec.ofNat 32 (2 ^ (status - 1)) |||
      BitVec.ofNat 32 (256 * status + 65536 * (seq % 65536))) ∧
    (status ≠ 0 → c.stat.extractLsb' 8 8 ≠ 0#8 → (c.complete seq status).stat = c.stat ||| BitVec.ofNat 32 (2 ^ (status - 1)))) ∧
  (∀ x seq, (∃ o ∈ (g.ctxAt x).ops, o.seq = seq ∧ o.paged = true) →
    exec (.copyPageResume nid gid x seq) s = .next (s.onGang g.nid g.gid fun h => h.onCtx x fun c =>
      { c with ops := mapIf (fun o => decide (o.seq = seq)) (fun o => { o with paged := false }) c.ops })) ∧
  (∀ k core c, g.core? = some core → g.cpbs[k]? = some c → ((s.fibre? c.who).any fun b => b.holdsCopy c.ser) = false →
    c.stage = .issued → c.len ≠ 0 → ((linesOf c.ia c.len).any fun ln => s.inFlight core ln) = false →
    s.reaches core c.ia = true → s.pathUp core c.ia = true →
    ∀ t u bs, s.walkRun c.ia c.len .load = (none, t) → t.badRun c.ia c.len = false →
      (t.core core).errRun c.ia c.len = false → t.engineBytes core c.ia c.len = (some bs, u) →
      exec (.cpbLanding nid gid k) s = .next
        ((u.onGang g.nid g.gid fun h =>
          let h1 := h.spadPut ((List.range 32).map (c.off + ·)) (bs ++ List.replicate (32 - bs.length) 0#8)
          { h1 with cpbs := dropAt k h1.cpbs, gran := granSetRun c.off 32 h1.gran }).onFibre c.who fun b =>
            b.always fun r => { r with bt := r.bt.modify c.tag (· - 1) })) ∧
  (∀ pick core o rest, g.core? = some core → g.matq = o :: rest →
    (s.matrixTurn core ≠ some g.turnKey → exec (.matrixWordTake nid gid pick) s = .next s) ∧
    (s.matrixTurn core = some g.turnKey →
      let took := fun (h : Gang) => exec (.matrixWordTake nid gid pick) s =
        .next ((s.setGang h).onCore core fun c => { c with mturn := some g.turnKey })
      (∀ k j, g.picked n.spec.det pick = some (k, j) → took (g.takeStep n.spec.seed k j)) ∧
      (g.picked n.spec.det pick = none →
        (∀ t type sp a b left, o.word = .mma t type sp a b left → took (g.takeStep n.spec.seed 0 (left.headD 0))) ∧
        ((∀ t type sp a b left, o.word ≠ .mma t type sp a b left) → took { g.takeWord n.spec.seed o with matq := rest })))) ∧
  (∀ core k, s.matrixTurn core = some k → ∃ h ∈ s.gangsOn core, h.matq ≠ [] ∧ h.turnKey = k) ∧
  (∀ seed (o : MOp) rest t type sp a b j left, g.matq = o :: rest → o.word = .mma t type sp a b left →
    g.takeStep seed 0 j =
      { g with
        tiles := g.tiles.modify t fun x =>
          let y := { x with
            parts := (List.range x.parts.length).map fun e =>
              addStep (x.parts.getD e 0#26) (g.products o.shp type sp a b j (e / shpN o.shp) (e % shpN o.shp))
            count := x.count + 1 }
          if o.p ≤ y.count then y.promote seed g.gid t o.rsr else y
        matq := if (left.filter fun q => q ≠ j) = [] then rest
          else { o with word := .mma t type sp a b (left.filter fun q => q ≠ j) } :: rest })

/-! ### Links, host commands and errors -/

/-- 12 R249, 23 R424 to R430, R433, R434: links fail and come back without a lost byte where a path is left. A flit that fails
its CRC and a packet sent again change nothing that is seen. A sublink or a path is trained again, at most three times, and
the fibres that have something under way on it (log 43) see DRT or NRT; training brings it back, or it fails, and what no
path can carry is then lost; a peer without a path is unreachable, and NUNR says so. A peer's read, write, AMO or RED is
performed in the export window where its permissions, its size and the walk allow it, and is refused otherwise; while the walk
is busy it waits for its next try (R240, in the agenda by log 4). -/
def Obligations.LinksKeepBytes : Prop := ∀ (s : State), s.off = false →
  (∀ link sub, exec (.flitCrcFail link sub) s = .next s) ∧
  (∀ peer path, exec (.transportResend peer path) s = .next s) ∧
  (∀ bits (p : Nat → Trip → Bool) x, s.site? s.f.id = some x → s.f.life = .live →
    (s.linkEvent bits p).r = if (s.trips s.f).any (p x.core) then s.r.setLoss 0#32 bits else s.r) ∧
  (∀ link sub, sub < 4 →
    let l := s.fabric.sublinks.getD (4 * link + sub) .up
    let become := fun (t : State) (x : LinkState) =>
      { t with fabric := { t.fabric with sublinks := t.fabric.sublinks.set (4 * link + sub) x } }
    let seen := s.linkEvent 1#32 (s.rodeSublink link sub)
    (l = .up → exec (.dieSublinkRetrain link sub) s = .next (become seen (.retraining 1))) ∧
    (∀ n, l = .retraining n →
      exec (.dieSublinkRetrain link sub) s = .next (if n < 3 then become seen (.retraining (n + 1)) else s) ∧
      exec (.sublinkReturnToService link sub) s = .next (become s .up)) ∧
    (l = .retraining 3 → exec (.dieSublinkFail link sub) s = .next ((become s .failed).loseCut s.flight.length)) ∧
    (l = .up ∨ l = .failed → exec (.dieSublinkFail link sub) s = .next s)) ∧
  (∀ peer path,
    let seen := s.linkEvent 4#32 fun _ => s.rodePath peer path
    (s.pathState peer path = .up → path < 18 →
      exec (.networkPathRetrain peer path) s = .next (seen.setPath peer path (.retraining 1))) ∧
    (∀ n, s.pathState peer path = .retraining n →
      exec (.networkPathRetrain peer path) s = .next (if n < 3 then seen.setPath peer path (.retraining (n + 1)) else s) ∧
      exec (.pathReturnToService peer path) s = .next (s.setPath peer path .up) ∧
      (let t := s.setPath peer path .failed
       let cut := ∀ p < 18, t.fabric.portUp.getD p false = true → t.pathState peer p = .failed
       ((¬cut ∨ peer ∈ t.fabric.unreachable) → exec (.networkPathFail peer path) s = .next t) ∧
       (cut → peer ∉ t.fabric.unreachable →
        let u : State := { t with fabric := { t.fabric with unreachable := t.fabric.unreachable ++ [peer] } }
        exec (.networkPathFail peer path) s = .next
          (State.loseCut (u.linkEvent 16#32 fun _ y => y.home == 16 + peer) s.flight.length))))) ∧
  (∀ peer offset op,
    let need := match op with
      | .read _ => Need.load
      | .store _ => Need.store
      | _ => Need.both
    let size := match op with
      | .read len => len
      | .store data => data.length
      | .amo k _ => amoSize k
      | .red k _ => redSize k
    let ia := s.fabric.exportBase + offset
    let refused := (need.r = true ∧ s.fabric.exportR = false) ∨ (need.w = true ∧ s.fabric.exportW = false) ∨
      s.fabric.exportSize < offset + size ∨ 4096 < size ∨ s.placed ia size = false ∨
      ∃ code sub e, (code ≠ 0 ∨ s.spent (.peer peer ia) = true) ∧ (s.walkRun ia size need).1 = some (code, sub, e)
    let becomes := fun (t : State) => exec (.peerPacketArrival peer offset op) s = .next t
    (refused → becomes ((s.triesDone (.peer peer ia)).tell (.peerRefused peer))) ∧
    (¬refused → ∀ sub e, (s.walkRun ia size need).1 = some (0, sub, e) →
      becomes { s.tryAgain (.peer peer ia) with agenda := s.agenda ++ [.peerPacketArrival peer offset op] }) ∧
    (¬refused → ∀ v, s.walkRun ia size need = (none, v) →
      let t := v.triesDone (.peer peer ia)
      let away := fun (x : Place) => match x with
        | .peer id => t.fabric.unreachable.contains id
        | _ => false
      (∀ data, op = .store data → away (t.placeOf ia) = false → becomes (t.homeWrite ia data).2) ∧
      (∀ old u, t.badRun ia size = false → t.homeBytes ia size = (some old, u) →
        (∀ len, op = .read len → becomes { u with notes := u.notes ++ [.peerAnswer peer old] }) ∧
        (∀ k data, op = .amo k data → becomes
          ((match amoNew k (leNat old) data with
            | some v => u.deviceWrite ia (leBytes size v)
            | none => u).tell (.peerAnswer peer old))) ∧
        (∀ k data, op = .red k data → becomes (u.deviceWrite ia (leBytes size (redNew k (leNat old) data)))))))

/-- 08 R189, 12 R241, R247, 23 R431, R436 to R438, R441, R442: the host's commands. Each takes effect where its rule allows it,
and is refused with its rule otherwise: walk entries are dropped, the cache part and the power limit are set, firmware is
replaced, a spare of the core's die takes its number, once the core's gangs are saved, a link or a port is back in service
(a port in two parts, log 52), a signed report is sent, the device ID is set, device memory is read and written, a unit is
retired (by log 44, a core only once its die has no spare left; a channel takes 3 GB of its stack). The spare stands in the
column of the core whose number it takes (log 24). -/
def Obligations.HostCommands : Prop := ∀ (s : State), s.off = false →
  let deny := fun (rule : Nat) => { s with notes := s.notes ++ [.refused rule] }
  let fab := fun (k : Fabric → Fabric) => { s with fabric := k s.fabric }
  let gone := fun (kind index : Nat) => s.fabric.retired.contains (kind, index)
  let retires := fun (kind index : Nat) (k : Fabric → Fabric) =>
    State.loseCut (fab fun f => let g := k f
      { g with retired := if g.retired.contains (kind, index) then g.retired else g.retired ++ [(kind, index)] })
      s.flight.length
  (∀ u lo hi, exec (.walkInvalidate u lo hi) s = .next { s with
    walkers := s.walkers.modify u fun w => { w with kept := w.kept.filter fun e =>
      let size := if e.1 % 2 = 0 then 2 ^ 21 else 2 ^ 16
      let first := unitBase u + e.1 / 2 * size
      !(decide (first ≤ hi) && decide (lo < first + size)) } }) ∧
  (∀ die col mib, exec (.setMassifCachePart die col mib) s = .next
    (if mib ∈ [0, 16, 32, 48, 64] ∧ die < 4 ∧ col < 8 ∧ ∀ n ∈ s.allNodes, n.state ≠ .running then
      { s with cachePart := s.cachePart.set (8 * die + col) mib } else deny 247)) ∧
  (∀ watts, exec (.setPower watts) s = .next
    (if 1600 ≤ watts ∧ watts ≤ 2400 ∧ watts % 50 = 0 then fab fun f => { f with power := watts } else deny 438)) ∧
  (∀ engine digest signed, exec (.firmwareUpdate engine digest signed) s = .next
    (if signed = true ∧ engine < s.fabric.firmware.length ∧ ∀ n ∈ s.allNodes, ¬(n.alive = true ∧ n.spec.det = true) then
      fab fun f => { f with firmware := f.firmware.set engine (digest % 2 ^ 512) } else deny 437)) ∧
  (∀ core spare,
    (core < s.coreMap.length → spare < 272 → spare / 68 = s.coreMap.getD core 0 / 68 → spare ∉ s.coreMap →
      gone 0 spare = false →
      (s.gangsOn core = [] →
        let t := s.writeBackAll core fun _ => true
        exec (.substituteSpareCore core spare) s = .next
          { t.onCore core fun c => { c with l1 := [], spare := none, split := none } with
            coreMap := s.coreMap.set core spare
            fabric := { s.fabric with
              retired := s.fabric.retired ++ [(0, s.coreMap.getD core 0)]
              spareCols := s.fabric.spareCols ++ [(spare, s.colOf core)] } }) ∧
      (s.gangsOn core ≠ [] → (∀ g ∈ s.gangsOn core, ∀ n, s.node? g.nid = some n → n.spec.det = false) →
        exec (.substituteSpareCore core spare) s = .next
          (((s.gangsOn core).foldl (fun t g =>
              if g.leaving.isNone && g.place == .resident core then t.stopGang g none else t) s).onCore core fun c =>
            { c with spare := some spare })) ∧
      (∀ g ∈ s.gangsOn core, ∀ n, s.node? g.nid = some n → n.spec.det = true →
        exec (.substituteSpareCore core spare) s = .next (deny 437))) ∧
    (s.coreMap.length ≤ core ∨ spare ∈ s.coreMap ∨ spare / 68 ≠ s.coreMap.getD core 0 / 68 →
      exec (.substituteSpareCore core spare) s = .next (deny 437))) ∧
  (∀ index,
    let channel := index < 192 ∧ gone 3 index = false ∧ ∃ k < 192, k ≠ index ∧ gone 3 k = false
    let sublink := index < 24 ∧ gone 4 index = false ∧
      ∃ k < 24, k ≠ index ∧ gone 4 k = false ∧ s.fabric.sublinks.getD k .failed = .up
    (channel → exec (.retireRecalibrate 0 index) s = .next s) ∧
    (sublink → exec (.retireRecalibrate 1 index) s =
      .next (fab fun f => { f with sublinks := f.sublinks.set index .up })) ∧
    (¬channel → exec (.retireRecalibrate 0 index) s = .next (deny 437)) ∧
    (¬sublink → exec (.retireRecalibrate 1 index) s = .next (deny 437))) ∧
  (∀ port rate, port < 18 → rate = 800 ∨ rate = 1600 →
    (s.fabric.portUp.getD port false = true →
      exec (.replacePort port rate) s = .next (retires 5 port fun f => { f with portUp := f.portUp.set port false })) ∧
    (s.fabric.portUp.getD port false = false →
      exec (.replacePort port rate) s = .next
        (let t := fab fun f => { f with
          portRate := f.portRate.set port rate, portUp := f.portUp.set port true
          retired := f.retired.filter fun x => x ≠ (5, port), paths := f.paths.filter fun p => p.path ≠ port }
         { t with fabric := { t.fabric with unreachable := t.fabric.unreachable.filter t.pathless } }))) ∧
  (∀ nonce, ∃ report, exec (.attestationRequest nonce) s = .next
      { s with notes := s.notes ++ [.attestation report (Config.attestationSignature report)] } ∧
    report.head? = some s.fabric.deviceId ∧ report.getLast? = some (nonce % 2 ^ 512) ∧
    s.fabric.firmware ++ [firmwareDigest s.fabric.firmware] <+: report.drop 1) ∧
  (∀ devId, exec (.setDeviceId devId) s = .next
    (if devId < 2 ^ 19 ∧ ∀ n ∈ s.allNodes, n.alive = false then fab fun f => { f with deviceId := devId } else deny 442)) ∧
  (∀ ia data bytes len,
    ((∃ x, s.placeOf ia = .hbm x) ∨ ∃ x, s.placeOf ia = .massif x) →
    (data ≠ [] → s.placed ia data.length = true →
      exec (.hostMainbandAccess true ia len data) s = .next { s with mem := s.mem.writeBytes ia data }) ∧
    (len ≠ 0 → s.placed ia len = true → s.mem.bytes ia len = bytes →
      exec (.hostMainbandAccess false ia len data) s = .next { s with notes := s.notes ++ [.readData ia bytes] })) ∧
  (∀ k, s.stackSize k = 48000000000 - 3000000000 * ((List.range 16).filter fun c => gone 3 (16 * k + c)).length) ∧
  (∀ index,
    (index < 144 → exec (.unitRetirement 1 index) s = .next (retires 1 index fun f =>
      let rate := f.portRate.getD (index / 8) 0
      { f with portRate := f.portRate.set (index / 8) (if rate = 1600 then 800 else if rate = 800 then 400 else rate) })) ∧
    (index < 8 → exec (.unitRetirement 2 index) s =
      .next (retires 2 index fun f => { f with moduleUp := f.moduleUp.set index false })) ∧
    (index < 192 → exec (.unitRetirement 3 index) s = .next (retires 3 index id)) ∧
    (index < 24 → exec (.unitRetirement 4 index) s = .next (retires 4 index id)) ∧
    (index < 18 → exec (.unitRetirement 5 index) s =
      .next (retires 5 index fun f => { f with portUp := f.portUp.set index false })) ∧
    let spare := ∃ k < 68, 68 * s.dieOf index + k ∉ s.coreMap ∧ gone 0 (68 * s.dieOf index + k) = false
    (index < s.coreMap.length → (∀ n ∈ s.allNodes, n.alive = false) → ¬spare → ∃ t,
      exec (.unitRetirement 0 index) s = .next t ∧ t.coreMap = s.coreMap.take index ++ s.coreMap.drop (index + 1)) ∧
    ((∃ n ∈ s.allNodes, n.alive = true) ∨ s.coreMap.length ≤ index ∨ spare →
      exec (.unitRetirement 0 index) s = .next (deny 436)))

/-- 08 R189, 12 R237, R253, 22 R414, 23 R431, R439, R440: the management registers that the host writes, by the numbers of log
44, the save areas among them; a sensor's reading, 0xFFF where it is not good; an error that is corrected is counted, one
that is not is kept with its line or fails the node that holds it; a column that reads 920 or more powers the package down;
and a reset, which comes to a package that is powered down too, leaves the reset state but for what log 45 names. -/
def Obligations.ManagementAndErrors : Prop := ∀ (s : State),
  let trip := fun (t : State) (die col : Nat) => { t with notes := t.notes ++ [.trip die col], off := true }
  (s.off = false →
    (∀ reg v,
      (reg < 16 → exec (.managementRegisterWrite reg v) s =
        .next { s with walkers := s.walkers.modify reg fun w => { w with root := v } }) ∧
      (∀ q < 8, v % 128 = 0 → exec (.managementRegisterWrite (16 + 2 * q) v) s =
        .next { s with queues := s.queues.modify q fun x => { x with qbase := v } }) ∧
      (v % 128 ≠ 0 → exec (.managementRegisterWrite 16 v) s = .next { s with notes := s.notes ++ [.refused 431] }) ∧
      (v % 256 = 0 → exec (.managementRegisterWrite 32 v) s = .next { s with faultq := { s.faultq with base := v } }) ∧
      exec (.managementRegisterWrite 34 v) s = .next { s with faultq := { s.faultq with head := v } } ∧
      exec (.managementRegisterWrite 35 v) s = .next { s with fabric := { s.fabric with exportBase := v } } ∧
      (v < 4 → exec (.managementRegisterWrite 37 v) s = .next
        { s with fabric := { s.fabric with exportR := v % 2 == 1, exportW := v / 2 == 1 } }) ∧
      (∀ ctx < 1024, ∃ t, exec (.managementRegisterWrite (64 + ctx) v) s = .next t ∧
        t = { s with fabric := { s.fabric with saveAreas := t.fabric.saveAreas } } ∧
        t.fabric.saveAreas.find? (fun x => x.1 = ctx) = some (ctx, v))) ∧
    (∀ die col temp valid, die < 4 → col < 8 → s.sensors.length = 32 →
      let t := { s with sensors := s.sensors.set (8 * die + col) ⟨if valid then min temp 0xFFF else 0xFFF, valid⟩ }
      exec (.sensorReading die col temp valid) s =
        .next (if valid = true ∧ 920 ≤ temp then trip t die col else t)) ∧
    (∀ kind place, exec (.scrub kind place false) s = .next
      { s with fabric := { s.fabric with ecc := s.fabric.ecc.modify (min kind 7) (· + 1) } }) ∧
    (∀ line, line ∉ s.bad → (s.arenaAt (line * 128)) = none →
      exec (.scrub 0 line true) s = .next { s with bad := line :: s.bad, notes := s.notes ++ [.badMemory (line * 128)] }) ∧
    (∀ place, exec (.scrub 3 place true) s = .next
      ((s.report ⟨0x47, 0, [], place / 2 ^ 32, place % 2 ^ 32, 0, BitVec.ofNat 32 (2 ^ 0), 0#64, 0#64, 0⟩).failNode
        (place / 2 ^ 32) 0x47)) ∧
    (∀ die col x, s.sensors[8 * die + col]? = some x → die < 4 → col < 8 →
      exec (.thermalTrip die col) s = .next (if x.valid = true ∧ 920 ≤ x.temp then trip s die col else s))) ∧
  (s.off = true → ∀ die col, exec (.thermalTrip die col) s = .fault .poweredDown) ∧
  (∃ t, exec .deviceReset s = .next t ∧ t.off = false ∧ t.mem = (if s.off then [] else s.mem) ∧ t.f = State.reset.f ∧
    t.g = State.reset.g ∧ t.c = State.reset.c ∧ t.n = State.reset.n ∧ t.fibres = [] ∧ t.gangs = [] ∧ t.cores = [] ∧
    t.nodes = [] ∧ t.flight = [] ∧ t.arenas = State.reset.arenas ∧ t.walkers = State.reset.walkers ∧
    t.queues = State.reset.queues ∧ t.faultq = State.reset.faultq ∧ t.fabric.deviceId = Fabric.reset.deviceId ∧
    t.fabric.sublinks = s.fabric.sublinks ∧ t.coreMap = s.coreMap)
end

