-- ==== Sys2Proof/Laws/Events.lean ====
section
/-!
SUPPORT. What exec answers for an event: on a powered machine, the state its operation leaves.
-/
namespace Sys2Proof.Machine

theorem event_next {k : State → State} {s : State} (h : s.off = false) : event k s = .next (k s) := by simp [event, h]

theorem exec_yResultDelivery {s : State} (h : s.off = false) (who : FibId) (k : Nat) : exec (.yResultDelivery who k) s = .next (delivers s who k .yop) := by
  show execYResultDelivery who k s = _; exact event_next h
theorem exec_reduxYaddResult {s : State} (h : s.off = false) (who : FibId) (k : Nat) : exec (.reduxYaddResult who k) s = .next (delivers s who k .redux) := by
  show execReduxYaddResult who k s = _; exact event_next h
theorem exec_loadDataArrival {s : State} (h : s.off = false) (who : FibId) (k : Nat) : exec (.loadDataArrival who k) s = .next (delivers s who k .load) := by
  show execLoadDataArrival who k s = _; exact event_next h
theorem exec_convertingLoadResolve {s : State} (h : s.off = false) (who : FibId) (k : Nat) : exec (.convertingLoadResolve who k) s = .next (convResolve s who k) := by
  show execConvertingLoadResolve who k s = _; exact event_next h
theorem exec_l1Eviction {s : State} (h : s.off = false) (core line : Nat) : exec (.l1Eviction core line) s = .next (evict s core line) := by
  show execL1Eviction core line s = _; exact event_next h
theorem exec_homeArrival {s : State} (h : s.off = false) (k : Nat) : exec (.homeArrival k) s = .next (s.homeArrive k) := by
  show execHomeArrival k s = _; exact event_next h
theorem exec_flushMarkerAck {s : State} (h : s.off = false) (k : Nat) : exec (.flushMarkerAck k) s = .next (s.markerAck k) := by
  show execFlushMarkerAck k s = _; exact event_next h
theorem exec_walk {s : State} (h : s.off = false) (who : FibId) (k : Nat) : exec (.walk who k) s = .next (s.attempt who k false) := by
  show execWalk who k s = _; exact event_next h
theorem exec_walkRetry {s : State} (h : s.off = false) (who : FibId) (k : Nat) : exec (.walkRetry who k) s = .next (s.attempt who k true) := by
  show execWalkRetry who k s = _; exact event_next h
theorem exec_memorySideFault {s : State} (h : s.off = false) (who : FibId) (k : Nat) : exec (.memorySideFault who k) s = .next (memoryFault s who k) := by
  show execMemorySideFault who k s = _; exact event_next h
theorem exec_copyOpStart {s : State} (h : s.off = false) (nid gid ctx : Nat) : exec (.copyOpStart nid gid ctx) s = .next (copyStart s nid gid ctx) := by
  show execCopyOpStart nid gid ctx s = _; exact event_next h
theorem exec_copyOpComplete {s : State} (h : s.off = false) (nid gid ctx seq : Nat) : exec (.copyOpComplete nid gid ctx seq) s = .next (copyComplete s nid gid ctx seq) := by
  show execCopyOpComplete nid gid ctx seq s = _; exact event_next h
theorem exec_copyPageResume {s : State} (h : s.off = false) (nid gid ctx seq : Nat) : exec (.copyPageResume nid gid ctx seq) s = .next (Sys2Proof.Machine.copyPageResume s nid gid ctx seq) := by
  show execCopyPageResume nid gid ctx seq s = _; exact event_next h
theorem exec_cpbLanding {s : State} (h : s.off = false) (nid gid k : Nat) : exec (.cpbLanding nid gid k) s = .next (cpbLand s nid gid k) := by
  show execCpbLanding nid gid k s = _; exact event_next h
theorem exec_flitCrcFail {s : State} (h : s.off = false) (_link _sub : Nat) : exec (.flitCrcFail _link _sub) s = .next (id s) := by
  show execFlitCrcFail _link _sub s = _; exact event_next h
theorem exec_dieSublinkRetrain {s : State} (h : s.off = false) (link sub : Nat) : exec (.dieSublinkRetrain link sub) s = .next (sublinkRetrain s link sub) := by
  show execDieSublinkRetrain link sub s = _; exact event_next h
theorem exec_dieSublinkFail {s : State} (h : s.off = false) (link sub : Nat) : exec (.dieSublinkFail link sub) s = .next (sublinkFail s link sub) := by
  show execDieSublinkFail link sub s = _; exact event_next h
theorem exec_networkPathRetrain {s : State} (h : s.off = false) (peer path : Nat) : exec (.networkPathRetrain peer path) s = .next (pathRetrain s peer path) := by
  show execNetworkPathRetrain peer path s = _; exact event_next h
theorem exec_networkPathFail {s : State} (h : s.off = false) (peer path : Nat) : exec (.networkPathFail peer path) s = .next (pathFail s peer path) := by
  show execNetworkPathFail peer path s = _; exact event_next h
theorem exec_transportResend {s : State} (h : s.off = false) (_peer _path : Nat) : exec (.transportResend _peer _path) s = .next (id s) := by
  show execTransportResend _peer _path s = _; exact event_next h
theorem exec_peerPacketArrival {s : State} (h : s.off = false) (peer offset : Nat) (op : PeerOp) : exec (.peerPacketArrival peer offset op) s = .next (peerPacket s peer offset op) := by
  show execPeerPacketArrival peer offset op s = _; exact event_next h
theorem exec_walkInvalidate {s : State} (h : s.off = false) (unit lo hi : Nat) : exec (.walkInvalidate unit lo hi) s = .next (walkDrop s unit lo hi) := by
  show execWalkInvalidate unit lo hi s = _; exact event_next h
theorem exec_setMassifCachePart {s : State} (h : s.off = false) (die col mib : Nat) : exec (.setMassifCachePart die col mib) s = .next (cachePartSet s die col mib) := by
  show execSetMassifCachePart die col mib s = _; exact event_next h
theorem exec_setPower {s : State} (h : s.off = false) (watts : Nat) : exec (.setPower watts) s = .next (powerSet s watts) := by
  show execSetPower watts s = _; exact event_next h
theorem exec_firmwareUpdate {s : State} (h : s.off = false) (engine digest : Nat) (signed : Bool) : exec (.firmwareUpdate engine digest signed) s = .next (firmwareSet s engine digest signed) := by
  show execFirmwareUpdate engine digest signed s = _; exact event_next h
theorem exec_substituteSpareCore {s : State} (h : s.off = false) (logical physical : Nat) : exec (.substituteSpareCore logical physical) s = .next (spareCore s logical physical) := by
  show execSubstituteSpareCore logical physical s = _; exact event_next h
theorem exec_retireRecalibrate {s : State} (h : s.off = false) (kind index : Nat) : exec (.retireRecalibrate kind index) s = .next (recalibrate s kind index) := by
  show execRetireRecalibrate kind index s = _; exact event_next h
theorem exec_replacePort {s : State} (h : s.off = false) (port rate : Nat) : exec (.replacePort port rate) s = .next (portReplace s port rate) := by
  show execReplacePort port rate s = _; exact event_next h
theorem exec_attestationRequest {s : State} (h : s.off = false) (nonce : Nat) : exec (.attestationRequest nonce) s = .next (attest s nonce) := by
  show execAttestationRequest nonce s = _; exact event_next h
theorem exec_setDeviceId {s : State} (h : s.off = false) (devId : Nat) : exec (.setDeviceId devId) s = .next (deviceIdSet s devId) := by
  show execSetDeviceId devId s = _; exact event_next h
theorem exec_managementRegisterWrite {s : State} (h : s.off = false) (reg value : Nat) : exec (.managementRegisterWrite reg value) s = .next (mgmtWrite s reg value) := by
  show execManagementRegisterWrite reg value s = _; exact event_next h
theorem exec_thermalTrip {s : State} (h : s.off = false) (die col : Nat) : exec (.thermalTrip die col) s = .next (tripped s die col) := by
  show execThermalTrip die col s = _; exact event_next h
theorem exec_scrub {s : State} (h : s.off = false) (kind place : Nat) (uncorrectable : Bool) : exec (.scrub kind place uncorrectable) s = .next (scrubbed s kind place uncorrectable) := by
  show execScrub kind place uncorrectable s = _; exact event_next h
theorem exec_sensorReading {s : State} (h : s.off = false) (die col temp : Nat) (valid : Bool) : exec (.sensorReading die col temp valid) s = .next (sensorSet s die col temp valid) := by
  show execSensorReading die col temp valid s = _; exact event_next h
theorem exec_sublinkReturnToService {s : State} (h : s.off = false) (link sub : Nat) : exec (.sublinkReturnToService link sub) s = .next (sublinkReturn s link sub) := by
  show execSublinkReturnToService link sub s = _; exact event_next h
theorem exec_pathReturnToService {s : State} (h : s.off = false) (peer path : Nat) : exec (.pathReturnToService peer path) s = .next (pathReturn s peer path) := by
  show execPathReturnToService peer path s = _; exact event_next h
theorem exec_hostMainbandAccess {s : State} (h : s.off = false) (write : Bool) (ia len : Nat) (data : List (BitVec 8)) : exec (.hostMainbandAccess write ia len data) s = .next (hostAccess s write ia len data) := by
  show execHostMainbandAccess write ia len data s = _; exact event_next h
theorem exec_unitRetirement {s : State} (h : s.off = false) (kind index : Nat) : exec (.unitRetirement kind index) s = .next (retire s kind index) := by
  show execUnitRetirement kind index s = _; exact event_next h
theorem exec_pageFaultReport {s : State} (h : s.off = false) (nid gid cid : Nat) : exec (.pageFaultReport nid gid cid) s = .next (pageReport s nid gid cid) := by
  show execPageFaultReport nid gid cid s = _; exact event_next h
theorem exec_faultRecordWrite {s : State} (h : s.off = false) : exec (.faultRecordWrite) s = .next (recordWrite s) := by
  show execFaultRecordWrite s = _; exact event_next h
theorem exec_resume {s : State} (h : s.off = false) (nid gid cid : Nat) : exec (.resume nid gid cid) s = .next (resumeCrew s nid gid cid) := by
  show execResume nid gid cid s = _; exact event_next h
theorem exec_fail {s : State} (h : s.off = false) (nid gid cid : Nat) : exec (.fail nid gid cid) s = .next (failCrew s nid gid cid) := by
  show execFail nid gid cid s = _; exact event_next h
theorem exec_endCommand {s : State} (h : s.off = false) (nid : Nat) : exec (.endCommand nid) s = .next (s.failNode nid 0) := by
  show execEndCommand nid s = _; exact event_next h
theorem exec_preemptGang {s : State} (h : s.off = false) (nid gid : Nat) : exec (.preemptGang nid gid) s = .next (preempt s nid gid) := by
  show execPreemptGang nid gid s = _; exact event_next h
theorem exec_preemptCrew {s : State} (h : s.off = false) (nid gid cid : Nat) : exec (.preemptCrew nid gid cid) s = .next (preemptOne s nid gid cid) := by
  show execPreemptCrew nid gid cid s = _; exact event_next h
theorem exec_crewRestore {s : State} (h : s.off = false) (nid gid cid : Nat) : exec (.crewRestore nid gid cid) s = .next (restoreCrew s nid gid cid) := by
  show execCrewRestore nid gid cid s = _; exact event_next h
theorem exec_gangSwap {s : State} (h : s.off = false) (nid gid : Nat) : exec (.gangSwap nid gid) s = .next (swapGang s nid gid) := by
  show execGangSwap nid gid s = _; exact event_next h
theorem exec_gangPlacement {s : State} (h : s.off = false) (nid gid : Nat) : exec (.gangPlacement nid gid) s = .next (placeGang s nid gid) := by
  show execGangPlacement nid gid s = _; exact event_next h
theorem exec_gangRestore {s : State} (h : s.off = false) (nid gid : Nat) : exec (.gangRestore nid gid) s = .next (restoreGang s nid gid) := by
  show execGangRestore nid gid s = _; exact event_next h
theorem exec_gangRelease {s : State} (h : s.off = false) (nid gid : Nat) : exec (.gangRelease nid gid) s = .next (releaseGang s nid gid) := by
  show execGangRelease nid gid s = _; exact event_next h
theorem exec_spawnedCrewStart {s : State} (h : s.off = false) (nid gid cid : Nat) : exec (.spawnedCrewStart nid gid cid) s = .next (startCrew s nid gid cid) := by
  show execSpawnedCrewStart nid gid cid s = _; exact event_next h
theorem exec_matrixWordTake {s : State} (h : s.off = false) (nid gid pick : Nat) : exec (.matrixWordTake nid gid pick) s = .next (matrixTake s nid gid pick) := by
  show execMatrixWordTake nid gid pick s = _; exact event_next h
theorem exec_launchQueueTailWrite {s : State} (h : s.off = false) (queue tail : Nat) : exec (.launchQueueTailWrite queue tail) s = .next (tailWrite s queue tail) := by
  show execLaunchQueueTailWrite queue tail s = _; exact event_next h
theorem exec_nodeSpecAccept {s : State} (h : s.off = false) (queue : Nat) : exec (.nodeSpecAccept queue) s = .next (specAccept s queue) := by
  show execNodeSpecAccept queue s = _; exact event_next h
theorem exec_compareManifest {s : State} (h : s.off = false) (mani spec : Nat) : exec (.compareManifest mani spec) s = .next (manifestCompare s mani spec) := by
  show execCompareManifest mani spec s = _; exact event_next h
theorem exec_dependenceSignal {s : State} (h : s.off = false) (k : Nat) : exec (.dependenceSignal k) s = .next (signalArrives s k) := by
  show execDependenceSignal k s = _; exact event_next h
theorem exec_continuationResume {s : State} (h : s.off = false) (nid k : Nat) : exec (.continuationResume nid k) s = .next (contResume s nid k) := by
  show execContinuationResume nid k s = _; exact event_next h
theorem exec_redBatchApply {s : State} (h : s.off = false) (nid : Nat) : exec (.redBatchApply nid) s = .next (batchApply s nid) := by
  show execRedBatchApply nid s = _; exact event_next h
theorem exec_arenaBirth {s : State} (h : s.off = false) (nid : Nat) : exec (.arenaBirth nid) s = .next (Sys2Proof.Machine.arenaBirth s nid) := by
  show execArenaBirth nid s = _; exact event_next h
theorem exec_arenaDrained {s : State} (h : s.off = false) (slot : Nat) : exec (.arenaDrained slot) s = .next (Sys2Proof.Machine.arenaDrained s slot) := by
  show execArenaDrained slot s = _; exact event_next h
theorem exec_nodeCompletion {s : State} (h : s.off = false) (nid : Nat) : exec (.nodeCompletion nid) s = .next (nodeEnds s nid) := by
  show execNodeCompletion nid s = _; exact event_next h
theorem exec_objAnnounceStep {s : State} (h : s.off = false) (who : FibId) : exec (.objAnnounceStep who) s = .next (announceEvent s who) := by
  show execObjAnnounceStep who s = _; exact event_next h
theorem exec_objApplyStep {s : State} (h : s.off = false) (who : FibId) : exec (.objApplyStep who) s = .next (applyEvent s who) := by
  show execObjApplyStep who s = _; exact event_next h
theorem exec_objFinishStep {s : State} (h : s.off = false) (who : FibId) : exec (.objFinishStep who) s = .next (finishEvent s who) := by
  show execObjFinishStep who s = _; exact event_next h
theorem exec_objCollect {s : State} (h : s.off = false) (who : FibId) : exec (.objCollect who) s = .next (collectEvent s who) := by
  show execObjCollect who s = _; exact event_next h
theorem exec_regroup {s : State} (h : s.off = false) (core part : Nat) : exec (.regroup core part) s = .next (s.regroup core part) := by
  show execRegroup core part s = _; exact event_next h
theorem exec_seniorForcedIssue {s : State} (h : s.off = false) (core part : Nat) : exec (.seniorForcedIssue core part) s = .next (forcedIssue s core part) := by
  show execSeniorForcedIssue core part s = _; exact event_next h
theorem exec_backoffExpiry {s : State} (h : s.off = false) (who : FibId) : exec (.backoffExpiry who) s = .next (backoffEnds s who) := by
  show execBackoffExpiry who s = _; exact event_next h
theorem exec_watchdog {s : State} (h : s.off = false) (who : FibId) : exec (.watchdog who) s = .next (Sys2Proof.Machine.watchdog s who) := by
  show execWatchdog who s = _; exact event_next h
theorem exec_illegalInstruction {s : State} (h : s.off = false) (level : Nat) (word : BitVec 32) : exec (.illegalInstruction level word) s = .next (illegalWord s level word) := by
  show execIllegalInstruction level word s = _; exact event_next h
theorem exec_taskQueueRefill {s : State} (h : s.off = false) (core : Nat) : exec (.taskQueueRefill core) s = .next (refill s core) := by
  show execTaskQueueRefill core s = _; exact event_next h

end Sys2Proof.Machine
end

