-- ==== Sys2Proof/Laws/Access.lean ====
section
/-!
SUPPORT. Accesses: converting loads in order, loads that hit, and the two events that attempt an access.
-/
namespace Sys2Proof.Machine

theorem olderConv_false {b : Fibre} {ser : Nat} {p : AccOp → Bool} (h : b.olderConv ser (fun _ => true) = false) :
    b.olderConv ser p = false := by
  simp only [Fibre.olderConv, Bool.or_eq_false_iff, List.any_eq_false] at h ⊢
  refine ⟨fun a ha hp => h.1 a ha ?_, fun v hv hp => h.2 v hv ?_⟩
  · simp only [Bool.and_eq_true] at hp ⊢; exact ⟨hp.1, trivial⟩
  · simp only [Bool.and_eq_true] at hp ⊢
    refine ⟨hp.1, ?_⟩
    cases hk : v.kind <;> simp_all

theorem performLoad_hit {s : State} {x : Site} {a : Access} {off z : Nat} {k : State → List Byte → State}
    (he : (s.core x.core).errRun (a.ia + off) z = false) (hh : (s.core x.core).holds (a.ia + off) z = true) :
    s.performLoad x a off z k = k s ((s.core x.core).bytes (a.ia + off) z) := by
  simp [State.performLoad, he, hh]

theorem attempt_eq {s : State} {who : FibId} {ser : Nat} {i : Instr} {x : Site} {a : Access}
    (ho : s.off = false) (hx : s.site? who = some x) (ha : x.fib.entry? ser = some a) (hm : s.mayPerform x a = true)
    (hi : (i = .walk who ser ∧ a.stage = .issued) ∨ (i = .walkRetry who ser ∧ ∃ n, a.stage = .busy n false)) :
    exec i s = .next (s.perform x a) := by
  obtain ⟨rfl, hs⟩ | ⟨rfl, n, hs⟩ := hi
  · rw [exec_walk ho]; simp [State.attempt, hx, ha, hm, hs]
  · rw [exec_walkRetry ho]; simp [State.attempt, hx, ha, hm, hs]

end Sys2Proof.Machine
end

