-- ==== Sys2Proof/Laws/State.lean ====
section
/-!
SUPPORT. What each update of the state leaves in each field.
-/
namespace Sys2Proof.Machine

/-! ### onRegs -/

@[simp] theorem State.onRegs_f (s : State) (k : Regs → Regs) : (s.onRegs k).f = { s.f with regs := k s.f.regs } := rfl
@[simp] theorem State.onRegs_g (s : State) (k : Regs → Regs) : (s.onRegs k).g = s.g := rfl
@[simp] theorem State.onRegs_c (s : State) (k : Regs → Regs) : (s.onRegs k).c = s.c := rfl
@[simp] theorem State.onRegs_n (s : State) (k : Regs → Regs) : (s.onRegs k).n = s.n := rfl
@[simp] theorem State.onRegs_fibres (s : State) (k : Regs → Regs) : (s.onRegs k).fibres = s.fibres := rfl
@[simp] theorem State.onRegs_gangs (s : State) (k : Regs → Regs) : (s.onRegs k).gangs = s.gangs := rfl
@[simp] theorem State.onRegs_cores (s : State) (k : Regs → Regs) : (s.onRegs k).cores = s.cores := rfl
@[simp] theorem State.onRegs_nodes (s : State) (k : Regs → Regs) : (s.onRegs k).nodes = s.nodes := rfl
@[simp] theorem State.onRegs_mem (s : State) (k : Regs → Regs) : (s.onRegs k).mem = s.mem := rfl
@[simp] theorem State.onRegs_flight (s : State) (k : Regs → Regs) : (s.onRegs k).flight = s.flight := rfl
@[simp] theorem State.onRegs_walkers (s : State) (k : Regs → Regs) : (s.onRegs k).walkers = s.walkers := rfl
@[simp] theorem State.onRegs_bad (s : State) (k : Regs → Regs) : (s.onRegs k).bad = s.bad := rfl
@[simp] theorem State.onRegs_arenas (s : State) (k : Regs → Regs) : (s.onRegs k).arenas = s.arenas := rfl
@[simp] theorem State.onRegs_cachePart (s : State) (k : Regs → Regs) : (s.onRegs k).cachePart = s.cachePart := rfl
@[simp] theorem State.onRegs_sensors (s : State) (k : Regs → Regs) : (s.onRegs k).sensors = s.sensors := rfl
@[simp] theorem State.onRegs_queues (s : State) (k : Regs → Regs) : (s.onRegs k).queues = s.queues := rfl
@[simp] theorem State.onRegs_nextNid (s : State) (k : Regs → Regs) : (s.onRegs k).nextNid = s.nextNid := rfl
@[simp] theorem State.onRegs_signals (s : State) (k : Regs → Regs) : (s.onRegs k).signals = s.signals := rfl
@[simp] theorem State.onRegs_faultq (s : State) (k : Regs → Regs) : (s.onRegs k).faultq = s.faultq := rfl
@[simp] theorem State.onRegs_fabric (s : State) (k : Regs → Regs) : (s.onRegs k).fabric = s.fabric := rfl
@[simp] theorem State.onRegs_coreMap (s : State) (k : Regs → Regs) : (s.onRegs k).coreMap = s.coreMap := rfl
@[simp] theorem State.onRegs_notes (s : State) (k : Regs → Regs) : (s.onRegs k).notes = s.notes := rfl
@[simp] theorem State.onRegs_off (s : State) (k : Regs → Regs) : (s.onRegs k).off = s.off := rfl
@[simp] theorem State.onRegs_agenda (s : State) (k : Regs → Regs) : (s.onRegs k).agenda = s.agenda := rfl
@[simp] theorem State.onRegs_turn (s : State) (k : Regs → Regs) : (s.onRegs k).turn = s.turn := rfl
@[simp] theorem State.onRegs_issue (s : State) (k : Regs → Regs) : (s.onRegs k).issue = s.issue := rfl
@[simp] theorem State.onRegs_issueNo (s : State) (k : Regs → Regs) : (s.onRegs k).issueNo = s.issueNo := rfl
@[simp] theorem State.onRegs_tries (s : State) (k : Regs → Regs) : (s.onRegs k).tries = s.tries := rfl

/-! ### tell -/

@[simp] theorem State.tell_f (s : State) (x : Note) : (s.tell x).f = s.f := rfl
@[simp] theorem State.tell_g (s : State) (x : Note) : (s.tell x).g = s.g := rfl
@[simp] theorem State.tell_c (s : State) (x : Note) : (s.tell x).c = s.c := rfl
@[simp] theorem State.tell_n (s : State) (x : Note) : (s.tell x).n = s.n := rfl
@[simp] theorem State.tell_fibres (s : State) (x : Note) : (s.tell x).fibres = s.fibres := rfl
@[simp] theorem State.tell_gangs (s : State) (x : Note) : (s.tell x).gangs = s.gangs := rfl
@[simp] theorem State.tell_cores (s : State) (x : Note) : (s.tell x).cores = s.cores := rfl
@[simp] theorem State.tell_nodes (s : State) (x : Note) : (s.tell x).nodes = s.nodes := rfl
@[simp] theorem State.tell_mem (s : State) (x : Note) : (s.tell x).mem = s.mem := rfl
@[simp] theorem State.tell_flight (s : State) (x : Note) : (s.tell x).flight = s.flight := rfl
@[simp] theorem State.tell_walkers (s : State) (x : Note) : (s.tell x).walkers = s.walkers := rfl
@[simp] theorem State.tell_bad (s : State) (x : Note) : (s.tell x).bad = s.bad := rfl
@[simp] theorem State.tell_arenas (s : State) (x : Note) : (s.tell x).arenas = s.arenas := rfl
@[simp] theorem State.tell_cachePart (s : State) (x : Note) : (s.tell x).cachePart = s.cachePart := rfl
@[simp] theorem State.tell_sensors (s : State) (x : Note) : (s.tell x).sensors = s.sensors := rfl
@[simp] theorem State.tell_queues (s : State) (x : Note) : (s.tell x).queues = s.queues := rfl
@[simp] theorem State.tell_nextNid (s : State) (x : Note) : (s.tell x).nextNid = s.nextNid := rfl
@[simp] theorem State.tell_signals (s : State) (x : Note) : (s.tell x).signals = s.signals := rfl
@[simp] theorem State.tell_faultq (s : State) (x : Note) : (s.tell x).faultq = s.faultq := rfl
@[simp] theorem State.tell_fabric (s : State) (x : Note) : (s.tell x).fabric = s.fabric := rfl
@[simp] theorem State.tell_coreMap (s : State) (x : Note) : (s.tell x).coreMap = s.coreMap := rfl
@[simp] theorem State.tell_notes (s : State) (x : Note) : (s.tell x).notes = s.notes ++ [x] := rfl
@[simp] theorem State.tell_off (s : State) (x : Note) : (s.tell x).off = s.off := rfl
@[simp] theorem State.tell_agenda (s : State) (x : Note) : (s.tell x).agenda = s.agenda := rfl
@[simp] theorem State.tell_turn (s : State) (x : Note) : (s.tell x).turn = s.turn := rfl
@[simp] theorem State.tell_issue (s : State) (x : Note) : (s.tell x).issue = s.issue := rfl
@[simp] theorem State.tell_issueNo (s : State) (x : Note) : (s.tell x).issueNo = s.issueNo := rfl
@[simp] theorem State.tell_tries (s : State) (x : Note) : (s.tell x).tries = s.tries := rfl

/-! ### setArena -/

@[simp] theorem State.setArena_f (s : State) (k : Nat) (x : Arena) : (s.setArena k x).f = s.f := rfl
@[simp] theorem State.setArena_g (s : State) (k : Nat) (x : Arena) : (s.setArena k x).g = s.g := rfl
@[simp] theorem State.setArena_c (s : State) (k : Nat) (x : Arena) : (s.setArena k x).c = s.c := rfl
@[simp] theorem State.setArena_n (s : State) (k : Nat) (x : Arena) : (s.setArena k x).n = s.n := rfl
@[simp] theorem State.setArena_fibres (s : State) (k : Nat) (x : Arena) : (s.setArena k x).fibres = s.fibres := rfl
@[simp] theorem State.setArena_gangs (s : State) (k : Nat) (x : Arena) : (s.setArena k x).gangs = s.gangs := rfl
@[simp] theorem State.setArena_cores (s : State) (k : Nat) (x : Arena) : (s.setArena k x).cores = s.cores := rfl
@[simp] theorem State.setArena_nodes (s : State) (k : Nat) (x : Arena) : (s.setArena k x).nodes = s.nodes := rfl
@[simp] theorem State.setArena_mem (s : State) (k : Nat) (x : Arena) : (s.setArena k x).mem = s.mem := rfl
@[simp] theorem State.setArena_flight (s : State) (k : Nat) (x : Arena) : (s.setArena k x).flight = s.flight := rfl
@[simp] theorem State.setArena_walkers (s : State) (k : Nat) (x : Arena) : (s.setArena k x).walkers = s.walkers := rfl
@[simp] theorem State.setArena_bad (s : State) (k : Nat) (x : Arena) : (s.setArena k x).bad = s.bad := rfl
@[simp] theorem State.setArena_arenas (s : State) (k : Nat) (x : Arena) : (s.setArena k x).arenas = upsert (fun y => y.1 = k) (k, x) s.arenas := rfl
@[simp] theorem State.setArena_cachePart (s : State) (k : Nat) (x : Arena) : (s.setArena k x).cachePart = s.cachePart := rfl
@[simp] theorem State.setArena_sensors (s : State) (k : Nat) (x : Arena) : (s.setArena k x).sensors = s.sensors := rfl
@[simp] theorem State.setArena_queues (s : State) (k : Nat) (x : Arena) : (s.setArena k x).queues = s.queues := rfl
@[simp] theorem State.setArena_nextNid (s : State) (k : Nat) (x : Arena) : (s.setArena k x).nextNid = s.nextNid := rfl
@[simp] theorem State.setArena_signals (s : State) (k : Nat) (x : Arena) : (s.setArena k x).signals = s.signals := rfl
@[simp] theorem State.setArena_faultq (s : State) (k : Nat) (x : Arena) : (s.setArena k x).faultq = s.faultq := rfl
@[simp] theorem State.setArena_fabric (s : State) (k : Nat) (x : Arena) : (s.setArena k x).fabric = s.fabric := rfl
@[simp] theorem State.setArena_coreMap (s : State) (k : Nat) (x : Arena) : (s.setArena k x).coreMap = s.coreMap := rfl
@[simp] theorem State.setArena_notes (s : State) (k : Nat) (x : Arena) : (s.setArena k x).notes = s.notes := rfl
@[simp] theorem State.setArena_off (s : State) (k : Nat) (x : Arena) : (s.setArena k x).off = s.off := rfl
@[simp] theorem State.setArena_agenda (s : State) (k : Nat) (x : Arena) : (s.setArena k x).agenda = s.agenda := rfl
@[simp] theorem State.setArena_turn (s : State) (k : Nat) (x : Arena) : (s.setArena k x).turn = s.turn := rfl
@[simp] theorem State.setArena_issue (s : State) (k : Nat) (x : Arena) : (s.setArena k x).issue = s.issue := rfl
@[simp] theorem State.setArena_issueNo (s : State) (k : Nat) (x : Arena) : (s.setArena k x).issueNo = s.issueNo := rfl
@[simp] theorem State.setArena_tries (s : State) (k : Nat) (x : Arena) : (s.setArena k x).tries = s.tries := rfl

/-! ### report -/

@[simp] theorem State.report_f (s : State) (x : FaultRec) : (s.report x).f = s.f := rfl
@[simp] theorem State.report_g (s : State) (x : FaultRec) : (s.report x).g = s.g := rfl
@[simp] theorem State.report_c (s : State) (x : FaultRec) : (s.report x).c = s.c := rfl
@[simp] theorem State.report_n (s : State) (x : FaultRec) : (s.report x).n = s.n := rfl
@[simp] theorem State.report_fibres (s : State) (x : FaultRec) : (s.report x).fibres = s.fibres := rfl
@[simp] theorem State.report_gangs (s : State) (x : FaultRec) : (s.report x).gangs = s.gangs := rfl
@[simp] theorem State.report_cores (s : State) (x : FaultRec) : (s.report x).cores = s.cores := rfl
@[simp] theorem State.report_nodes (s : State) (x : FaultRec) : (s.report x).nodes = s.nodes := rfl
@[simp] theorem State.report_mem (s : State) (x : FaultRec) : (s.report x).mem = s.mem := rfl
@[simp] theorem State.report_flight (s : State) (x : FaultRec) : (s.report x).flight = s.flight := rfl
@[simp] theorem State.report_walkers (s : State) (x : FaultRec) : (s.report x).walkers = s.walkers := rfl
@[simp] theorem State.report_bad (s : State) (x : FaultRec) : (s.report x).bad = s.bad := rfl
@[simp] theorem State.report_arenas (s : State) (x : FaultRec) : (s.report x).arenas = s.arenas := rfl
@[simp] theorem State.report_cachePart (s : State) (x : FaultRec) : (s.report x).cachePart = s.cachePart := rfl
@[simp] theorem State.report_sensors (s : State) (x : FaultRec) : (s.report x).sensors = s.sensors := rfl
@[simp] theorem State.report_queues (s : State) (x : FaultRec) : (s.report x).queues = s.queues := rfl
@[simp] theorem State.report_nextNid (s : State) (x : FaultRec) : (s.report x).nextNid = s.nextNid := rfl
@[simp] theorem State.report_signals (s : State) (x : FaultRec) : (s.report x).signals = s.signals := rfl
@[simp] theorem State.report_faultq (s : State) (x : FaultRec) : (s.report x).faultq = { s.faultq with waiting := s.faultq.waiting ++ [x] } := rfl
@[simp] theorem State.report_fabric (s : State) (x : FaultRec) : (s.report x).fabric = s.fabric := rfl
@[simp] theorem State.report_coreMap (s : State) (x : FaultRec) : (s.report x).coreMap = s.coreMap := rfl
@[simp] theorem State.report_notes (s : State) (x : FaultRec) : (s.report x).notes = s.notes := rfl
@[simp] theorem State.report_off (s : State) (x : FaultRec) : (s.report x).off = s.off := rfl
@[simp] theorem State.report_agenda (s : State) (x : FaultRec) : (s.report x).agenda = s.agenda := rfl
@[simp] theorem State.report_turn (s : State) (x : FaultRec) : (s.report x).turn = s.turn := rfl
@[simp] theorem State.report_issue (s : State) (x : FaultRec) : (s.report x).issue = s.issue := rfl
@[simp] theorem State.report_issueNo (s : State) (x : FaultRec) : (s.report x).issueNo = s.issueNo := rfl
@[simp] theorem State.report_tries (s : State) (x : FaultRec) : (s.report x).tries = s.tries := rfl

/-! ### mapFibres -/

@[simp] theorem State.mapFibres_f (s : State) (p : FibId → Bool) (k : Fibre → Fibre) : (s.mapFibres p k).f = if p s.f.id then k s.f else s.f := rfl
@[simp] theorem State.mapFibres_g (s : State) (p : FibId → Bool) (k : Fibre → Fibre) : (s.mapFibres p k).g = s.g := rfl
@[simp] theorem State.mapFibres_c (s : State) (p : FibId → Bool) (k : Fibre → Fibre) : (s.mapFibres p k).c = s.c := rfl
@[simp] theorem State.mapFibres_n (s : State) (p : FibId → Bool) (k : Fibre → Fibre) : (s.mapFibres p k).n = s.n := rfl
@[simp] theorem State.mapFibres_fibres (s : State) (p : FibId → Bool) (k : Fibre → Fibre) : (s.mapFibres p k).fibres = mapIf (fun y => p y.id) k s.fibres := rfl
@[simp] theorem State.mapFibres_gangs (s : State) (p : FibId → Bool) (k : Fibre → Fibre) : (s.mapFibres p k).gangs = s.gangs := rfl
@[simp] theorem State.mapFibres_cores (s : State) (p : FibId → Bool) (k : Fibre → Fibre) : (s.mapFibres p k).cores = s.cores := rfl
@[simp] theorem State.mapFibres_nodes (s : State) (p : FibId → Bool) (k : Fibre → Fibre) : (s.mapFibres p k).nodes = s.nodes := rfl
@[simp] theorem State.mapFibres_mem (s : State) (p : FibId → Bool) (k : Fibre → Fibre) : (s.mapFibres p k).mem = s.mem := rfl
@[simp] theorem State.mapFibres_flight (s : State) (p : FibId → Bool) (k : Fibre → Fibre) : (s.mapFibres p k).flight = s.flight := rfl
@[simp] theorem State.mapFibres_walkers (s : State) (p : FibId → Bool) (k : Fibre → Fibre) : (s.mapFibres p k).walkers = s.walkers := rfl
@[simp] theorem State.mapFibres_bad (s : State) (p : FibId → Bool) (k : Fibre → Fibre) : (s.mapFibres p k).bad = s.bad := rfl
@[simp] theorem State.mapFibres_arenas (s : State) (p : FibId → Bool) (k : Fibre → Fibre) : (s.mapFibres p k).arenas = s.arenas := rfl
@[simp] theorem State.mapFibres_cachePart (s : State) (p : FibId → Bool) (k : Fibre → Fibre) : (s.mapFibres p k).cachePart = s.cachePart := rfl
@[simp] theorem State.mapFibres_sensors (s : State) (p : FibId → Bool) (k : Fibre → Fibre) : (s.mapFibres p k).sensors = s.sensors := rfl
@[simp] theorem State.mapFibres_queues (s : State) (p : FibId → Bool) (k : Fibre → Fibre) : (s.mapFibres p k).queues = s.queues := rfl
@[simp] theorem State.mapFibres_nextNid (s : State) (p : FibId → Bool) (k : Fibre → Fibre) : (s.mapFibres p k).nextNid = s.nextNid := rfl
@[simp] theorem State.mapFibres_signals (s : State) (p : FibId → Bool) (k : Fibre → Fibre) : (s.mapFibres p k).signals = s.signals := rfl
@[simp] theorem State.mapFibres_faultq (s : State) (p : FibId → Bool) (k : Fibre → Fibre) : (s.mapFibres p k).faultq = s.faultq := rfl
@[simp] theorem State.mapFibres_fabric (s : State) (p : FibId → Bool) (k : Fibre → Fibre) : (s.mapFibres p k).fabric = s.fabric := rfl
@[simp] theorem State.mapFibres_coreMap (s : State) (p : FibId → Bool) (k : Fibre → Fibre) : (s.mapFibres p k).coreMap = s.coreMap := rfl
@[simp] theorem State.mapFibres_notes (s : State) (p : FibId → Bool) (k : Fibre → Fibre) : (s.mapFibres p k).notes = s.notes := rfl
@[simp] theorem State.mapFibres_off (s : State) (p : FibId → Bool) (k : Fibre → Fibre) : (s.mapFibres p k).off = s.off := rfl
@[simp] theorem State.mapFibres_agenda (s : State) (p : FibId → Bool) (k : Fibre → Fibre) : (s.mapFibres p k).agenda = s.agenda := rfl
@[simp] theorem State.mapFibres_turn (s : State) (p : FibId → Bool) (k : Fibre → Fibre) : (s.mapFibres p k).turn = s.turn := rfl
@[simp] theorem State.mapFibres_issue (s : State) (p : FibId → Bool) (k : Fibre → Fibre) : (s.mapFibres p k).issue = s.issue := rfl
@[simp] theorem State.mapFibres_issueNo (s : State) (p : FibId → Bool) (k : Fibre → Fibre) : (s.mapFibres p k).issueNo = s.issueNo := rfl
@[simp] theorem State.mapFibres_tries (s : State) (p : FibId → Bool) (k : Fibre → Fibre) : (s.mapFibres p k).tries = s.tries := rfl

/-! ### sendLate -/

@[simp] theorem State.sendLate_g (s : State) (v : Deliv) : (s.sendLate v).g = s.g := rfl
@[simp] theorem State.sendLate_c (s : State) (v : Deliv) : (s.sendLate v).c = s.c := rfl
@[simp] theorem State.sendLate_n (s : State) (v : Deliv) : (s.sendLate v).n = s.n := rfl
@[simp] theorem State.sendLate_fibres (s : State) (v : Deliv) : (s.sendLate v).fibres = s.fibres := rfl
@[simp] theorem State.sendLate_gangs (s : State) (v : Deliv) : (s.sendLate v).gangs = s.gangs := rfl
@[simp] theorem State.sendLate_cores (s : State) (v : Deliv) : (s.sendLate v).cores = s.cores := rfl
@[simp] theorem State.sendLate_nodes (s : State) (v : Deliv) : (s.sendLate v).nodes = s.nodes := rfl
@[simp] theorem State.sendLate_mem (s : State) (v : Deliv) : (s.sendLate v).mem = s.mem := rfl
@[simp] theorem State.sendLate_flight (s : State) (v : Deliv) : (s.sendLate v).flight = s.flight := rfl
@[simp] theorem State.sendLate_walkers (s : State) (v : Deliv) : (s.sendLate v).walkers = s.walkers := rfl
@[simp] theorem State.sendLate_bad (s : State) (v : Deliv) : (s.sendLate v).bad = s.bad := rfl
@[simp] theorem State.sendLate_arenas (s : State) (v : Deliv) : (s.sendLate v).arenas = s.arenas := rfl
@[simp] theorem State.sendLate_cachePart (s : State) (v : Deliv) : (s.sendLate v).cachePart = s.cachePart := rfl
@[simp] theorem State.sendLate_sensors (s : State) (v : Deliv) : (s.sendLate v).sensors = s.sensors := rfl
@[simp] theorem State.sendLate_queues (s : State) (v : Deliv) : (s.sendLate v).queues = s.queues := rfl
@[simp] theorem State.sendLate_nextNid (s : State) (v : Deliv) : (s.sendLate v).nextNid = s.nextNid := rfl
@[simp] theorem State.sendLate_signals (s : State) (v : Deliv) : (s.sendLate v).signals = s.signals := rfl
@[simp] theorem State.sendLate_faultq (s : State) (v : Deliv) : (s.sendLate v).faultq = s.faultq := rfl
@[simp] theorem State.sendLate_fabric (s : State) (v : Deliv) : (s.sendLate v).fabric = s.fabric := rfl
@[simp] theorem State.sendLate_coreMap (s : State) (v : Deliv) : (s.sendLate v).coreMap = s.coreMap := rfl
@[simp] theorem State.sendLate_notes (s : State) (v : Deliv) : (s.sendLate v).notes = s.notes := rfl
@[simp] theorem State.sendLate_off (s : State) (v : Deliv) : (s.sendLate v).off = s.off := rfl
@[simp] theorem State.sendLate_agenda (s : State) (v : Deliv) : (s.sendLate v).agenda = s.agenda := rfl
@[simp] theorem State.sendLate_turn (s : State) (v : Deliv) : (s.sendLate v).turn = s.turn := rfl
@[simp] theorem State.sendLate_issue (s : State) (v : Deliv) : (s.sendLate v).issue = s.issue := rfl
@[simp] theorem State.sendLate_issueNo (s : State) (v : Deliv) : (s.sendLate v).issueNo = s.issueNo := rfl
@[simp] theorem State.sendLate_tries (s : State) (v : Deliv) : (s.sendLate v).tries = s.tries := rfl

/-! ### tick -/

@[simp] theorem State.tick_f (s : State) : (s.tick).f = s.f := rfl
@[simp] theorem State.tick_g (s : State) : (s.tick).g = s.g := rfl
@[simp] theorem State.tick_c (s : State) : (s.tick).c = s.c := rfl
@[simp] theorem State.tick_n (s : State) : (s.tick).n = s.n := rfl
@[simp] theorem State.tick_fibres (s : State) : (s.tick).fibres = s.fibres := rfl
@[simp] theorem State.tick_gangs (s : State) : (s.tick).gangs = s.gangs := rfl
@[simp] theorem State.tick_cores (s : State) : (s.tick).cores = s.cores := rfl
@[simp] theorem State.tick_nodes (s : State) : (s.tick).nodes = s.nodes := rfl
@[simp] theorem State.tick_mem (s : State) : (s.tick).mem = s.mem := rfl
@[simp] theorem State.tick_flight (s : State) : (s.tick).flight = s.flight := rfl
@[simp] theorem State.tick_walkers (s : State) : (s.tick).walkers = s.walkers := rfl
@[simp] theorem State.tick_bad (s : State) : (s.tick).bad = s.bad := rfl
@[simp] theorem State.tick_arenas (s : State) : (s.tick).arenas = s.arenas := rfl
@[simp] theorem State.tick_cachePart (s : State) : (s.tick).cachePart = s.cachePart := rfl
@[simp] theorem State.tick_sensors (s : State) : (s.tick).sensors = s.sensors := rfl
@[simp] theorem State.tick_queues (s : State) : (s.tick).queues = s.queues := rfl
@[simp] theorem State.tick_nextNid (s : State) : (s.tick).nextNid = s.nextNid := rfl
@[simp] theorem State.tick_signals (s : State) : (s.tick).signals = s.signals := rfl
@[simp] theorem State.tick_faultq (s : State) : (s.tick).faultq = s.faultq := rfl
@[simp] theorem State.tick_fabric (s : State) : (s.tick).fabric = s.fabric := rfl
@[simp] theorem State.tick_coreMap (s : State) : (s.tick).coreMap = s.coreMap := rfl
@[simp] theorem State.tick_notes (s : State) : (s.tick).notes = s.notes := rfl
@[simp] theorem State.tick_off (s : State) : (s.tick).off = s.off := rfl
@[simp] theorem State.tick_agenda (s : State) : (s.tick).agenda = s.agenda := rfl
@[simp] theorem State.tick_turn (s : State) : (s.tick).turn = s.turn := rfl
@[simp] theorem State.tick_issue (s : State) : (s.tick).issue = s.issue := rfl
@[simp] theorem State.tick_issueNo (s : State) : (s.tick).issueNo = s.issueNo + 1 := rfl
@[simp] theorem State.tick_tries (s : State) : (s.tick).tries = s.tries := rfl

/-! ### triesDone -/

@[simp] theorem State.triesDone_f (s : State) (k : TryKey) : (s.triesDone k).f = s.f := rfl
@[simp] theorem State.triesDone_g (s : State) (k : TryKey) : (s.triesDone k).g = s.g := rfl
@[simp] theorem State.triesDone_c (s : State) (k : TryKey) : (s.triesDone k).c = s.c := rfl
@[simp] theorem State.triesDone_n (s : State) (k : TryKey) : (s.triesDone k).n = s.n := rfl
@[simp] theorem State.triesDone_fibres (s : State) (k : TryKey) : (s.triesDone k).fibres = s.fibres := rfl
@[simp] theorem State.triesDone_gangs (s : State) (k : TryKey) : (s.triesDone k).gangs = s.gangs := rfl
@[simp] theorem State.triesDone_cores (s : State) (k : TryKey) : (s.triesDone k).cores = s.cores := rfl
@[simp] theorem State.triesDone_nodes (s : State) (k : TryKey) : (s.triesDone k).nodes = s.nodes := rfl
@[simp] theorem State.triesDone_mem (s : State) (k : TryKey) : (s.triesDone k).mem = s.mem := rfl
@[simp] theorem State.triesDone_flight (s : State) (k : TryKey) : (s.triesDone k).flight = s.flight := rfl
@[simp] theorem State.triesDone_walkers (s : State) (k : TryKey) : (s.triesDone k).walkers = s.walkers := rfl
@[simp] theorem State.triesDone_bad (s : State) (k : TryKey) : (s.triesDone k).bad = s.bad := rfl
@[simp] theorem State.triesDone_arenas (s : State) (k : TryKey) : (s.triesDone k).arenas = s.arenas := rfl
@[simp] theorem State.triesDone_cachePart (s : State) (k : TryKey) : (s.triesDone k).cachePart = s.cachePart := rfl
@[simp] theorem State.triesDone_sensors (s : State) (k : TryKey) : (s.triesDone k).sensors = s.sensors := rfl
@[simp] theorem State.triesDone_queues (s : State) (k : TryKey) : (s.triesDone k).queues = s.queues := rfl
@[simp] theorem State.triesDone_nextNid (s : State) (k : TryKey) : (s.triesDone k).nextNid = s.nextNid := rfl
@[simp] theorem State.triesDone_signals (s : State) (k : TryKey) : (s.triesDone k).signals = s.signals := rfl
@[simp] theorem State.triesDone_faultq (s : State) (k : TryKey) : (s.triesDone k).faultq = s.faultq := rfl
@[simp] theorem State.triesDone_fabric (s : State) (k : TryKey) : (s.triesDone k).fabric = s.fabric := rfl
@[simp] theorem State.triesDone_coreMap (s : State) (k : TryKey) : (s.triesDone k).coreMap = s.coreMap := rfl
@[simp] theorem State.triesDone_notes (s : State) (k : TryKey) : (s.triesDone k).notes = s.notes := rfl
@[simp] theorem State.triesDone_off (s : State) (k : TryKey) : (s.triesDone k).off = s.off := rfl
@[simp] theorem State.triesDone_agenda (s : State) (k : TryKey) : (s.triesDone k).agenda = s.agenda := rfl
@[simp] theorem State.triesDone_turn (s : State) (k : TryKey) : (s.triesDone k).turn = s.turn := rfl
@[simp] theorem State.triesDone_issue (s : State) (k : TryKey) : (s.triesDone k).issue = s.issue := rfl
@[simp] theorem State.triesDone_issueNo (s : State) (k : TryKey) : (s.triesDone k).issueNo = s.issueNo := rfl
@[simp] theorem State.triesDone_tries (s : State) (k : TryKey) : (s.triesDone k).tries = s.tries.filter fun x => decide (x.1 ≠ k) := rfl

/-! ### tryAgain -/

@[simp] theorem State.tryAgain_f (s : State) (k : TryKey) : (s.tryAgain k).f = s.f := rfl
@[simp] theorem State.tryAgain_g (s : State) (k : TryKey) : (s.tryAgain k).g = s.g := rfl
@[simp] theorem State.tryAgain_c (s : State) (k : TryKey) : (s.tryAgain k).c = s.c := rfl
@[simp] theorem State.tryAgain_n (s : State) (k : TryKey) : (s.tryAgain k).n = s.n := rfl
@[simp] theorem State.tryAgain_fibres (s : State) (k : TryKey) : (s.tryAgain k).fibres = s.fibres := rfl
@[simp] theorem State.tryAgain_gangs (s : State) (k : TryKey) : (s.tryAgain k).gangs = s.gangs := rfl
@[simp] theorem State.tryAgain_cores (s : State) (k : TryKey) : (s.tryAgain k).cores = s.cores := rfl
@[simp] theorem State.tryAgain_nodes (s : State) (k : TryKey) : (s.tryAgain k).nodes = s.nodes := rfl
@[simp] theorem State.tryAgain_mem (s : State) (k : TryKey) : (s.tryAgain k).mem = s.mem := rfl
@[simp] theorem State.tryAgain_flight (s : State) (k : TryKey) : (s.tryAgain k).flight = s.flight := rfl
@[simp] theorem State.tryAgain_walkers (s : State) (k : TryKey) : (s.tryAgain k).walkers = s.walkers := rfl
@[simp] theorem State.tryAgain_bad (s : State) (k : TryKey) : (s.tryAgain k).bad = s.bad := rfl
@[simp] theorem State.tryAgain_arenas (s : State) (k : TryKey) : (s.tryAgain k).arenas = s.arenas := rfl
@[simp] theorem State.tryAgain_cachePart (s : State) (k : TryKey) : (s.tryAgain k).cachePart = s.cachePart := rfl
@[simp] theorem State.tryAgain_sensors (s : State) (k : TryKey) : (s.tryAgain k).sensors = s.sensors := rfl
@[simp] theorem State.tryAgain_queues (s : State) (k : TryKey) : (s.tryAgain k).queues = s.queues := rfl
@[simp] theorem State.tryAgain_nextNid (s : State) (k : TryKey) : (s.tryAgain k).nextNid = s.nextNid := rfl
@[simp] theorem State.tryAgain_signals (s : State) (k : TryKey) : (s.tryAgain k).signals = s.signals := rfl
@[simp] theorem State.tryAgain_faultq (s : State) (k : TryKey) : (s.tryAgain k).faultq = s.faultq := rfl
@[simp] theorem State.tryAgain_fabric (s : State) (k : TryKey) : (s.tryAgain k).fabric = s.fabric := rfl
@[simp] theorem State.tryAgain_coreMap (s : State) (k : TryKey) : (s.tryAgain k).coreMap = s.coreMap := rfl
@[simp] theorem State.tryAgain_notes (s : State) (k : TryKey) : (s.tryAgain k).notes = s.notes := rfl
@[simp] theorem State.tryAgain_off (s : State) (k : TryKey) : (s.tryAgain k).off = s.off := rfl
@[simp] theorem State.tryAgain_agenda (s : State) (k : TryKey) : (s.tryAgain k).agenda = s.agenda := rfl
@[simp] theorem State.tryAgain_turn (s : State) (k : TryKey) : (s.tryAgain k).turn = s.turn := rfl
@[simp] theorem State.tryAgain_issue (s : State) (k : TryKey) : (s.tryAgain k).issue = s.issue := rfl
@[simp] theorem State.tryAgain_issueNo (s : State) (k : TryKey) : (s.tryAgain k).issueNo = s.issueNo := rfl
@[simp] theorem State.tryAgain_tries (s : State) (k : TryKey) : (s.tryAgain k).tries = upsert (fun x => x.1 = k) (k, s.triesOf k + 1) s.tries := rfl

/-! ### flush -/

@[simp] theorem State.flush_f (s : State) : (s.flush).f = s.f := rfl
@[simp] theorem State.flush_g (s : State) : (s.flush).g = s.g := rfl
@[simp] theorem State.flush_c (s : State) : (s.flush).c = s.c := rfl
@[simp] theorem State.flush_n (s : State) : (s.flush).n = s.n := rfl
@[simp] theorem State.flush_mem (s : State) : (s.flush).mem = s.mem := rfl
@[simp] theorem State.flush_flight (s : State) : (s.flush).flight = s.flight := rfl
@[simp] theorem State.flush_walkers (s : State) : (s.flush).walkers = s.walkers := rfl
@[simp] theorem State.flush_bad (s : State) : (s.flush).bad = s.bad := rfl
@[simp] theorem State.flush_arenas (s : State) : (s.flush).arenas = s.arenas := rfl
@[simp] theorem State.flush_cachePart (s : State) : (s.flush).cachePart = s.cachePart := rfl
@[simp] theorem State.flush_sensors (s : State) : (s.flush).sensors = s.sensors := rfl
@[simp] theorem State.flush_queues (s : State) : (s.flush).queues = s.queues := rfl
@[simp] theorem State.flush_nextNid (s : State) : (s.flush).nextNid = s.nextNid := rfl
@[simp] theorem State.flush_signals (s : State) : (s.flush).signals = s.signals := rfl
@[simp] theorem State.flush_faultq (s : State) : (s.flush).faultq = s.faultq := rfl
@[simp] theorem State.flush_fabric (s : State) : (s.flush).fabric = s.fabric := rfl
@[simp] theorem State.flush_coreMap (s : State) : (s.flush).coreMap = s.coreMap := rfl
@[simp] theorem State.flush_notes (s : State) : (s.flush).notes = s.notes := rfl
@[simp] theorem State.flush_off (s : State) : (s.flush).off = s.off := rfl
@[simp] theorem State.flush_agenda (s : State) : (s.flush).agenda = s.agenda := rfl
@[simp] theorem State.flush_turn (s : State) : (s.flush).turn = s.turn := rfl
@[simp] theorem State.flush_issue (s : State) : (s.flush).issue = s.issue := rfl
@[simp] theorem State.flush_issueNo (s : State) : (s.flush).issueNo = s.issueNo := rfl
@[simp] theorem State.flush_tries (s : State) : (s.flush).tries = s.tries := rfl

/-! ### setFibre -/

@[simp] theorem State.setFibre_g (s : State) (x : Fibre) : (s.setFibre x).g = s.g := by unfold State.setFibre; split <;> rfl
@[simp] theorem State.setFibre_c (s : State) (x : Fibre) : (s.setFibre x).c = s.c := by unfold State.setFibre; split <;> rfl
@[simp] theorem State.setFibre_n (s : State) (x : Fibre) : (s.setFibre x).n = s.n := by unfold State.setFibre; split <;> rfl
@[simp] theorem State.setFibre_gangs (s : State) (x : Fibre) : (s.setFibre x).gangs = s.gangs := by unfold State.setFibre; split <;> rfl
@[simp] theorem State.setFibre_cores (s : State) (x : Fibre) : (s.setFibre x).cores = s.cores := by unfold State.setFibre; split <;> rfl
@[simp] theorem State.setFibre_nodes (s : State) (x : Fibre) : (s.setFibre x).nodes = s.nodes := by unfold State.setFibre; split <;> rfl
@[simp] theorem State.setFibre_mem (s : State) (x : Fibre) : (s.setFibre x).mem = s.mem := by unfold State.setFibre; split <;> rfl
@[simp] theorem State.setFibre_flight (s : State) (x : Fibre) : (s.setFibre x).flight = s.flight := by unfold State.setFibre; split <;> rfl
@[simp] theorem State.setFibre_walkers (s : State) (x : Fibre) : (s.setFibre x).walkers = s.walkers := by unfold State.setFibre; split <;> rfl
@[simp] theorem State.setFibre_bad (s : State) (x : Fibre) : (s.setFibre x).bad = s.bad := by unfold State.setFibre; split <;> rfl
@[simp] theorem State.setFibre_arenas (s : State) (x : Fibre) : (s.setFibre x).arenas = s.arenas := by unfold State.setFibre; split <;> rfl
@[simp] theorem State.setFibre_cachePart (s : State) (x : Fibre) : (s.setFibre x).cachePart = s.cachePart := by unfold State.setFibre; split <;> rfl
@[simp] theorem State.setFibre_sensors (s : State) (x : Fibre) : (s.setFibre x).sensors = s.sensors := by unfold State.setFibre; split <;> rfl
@[simp] theorem State.setFibre_queues (s : State) (x : Fibre) : (s.setFibre x).queues = s.queues := by unfold State.setFibre; split <;> rfl
@[simp] theorem State.setFibre_nextNid (s : State) (x : Fibre) : (s.setFibre x).nextNid = s.nextNid := by unfold State.setFibre; split <;> rfl
@[simp] theorem State.setFibre_signals (s : State) (x : Fibre) : (s.setFibre x).signals = s.signals := by unfold State.setFibre; split <;> rfl
@[simp] theorem State.setFibre_faultq (s : State) (x : Fibre) : (s.setFibre x).faultq = s.faultq := by unfold State.setFibre; split <;> rfl
@[simp] theorem State.setFibre_fabric (s : State) (x : Fibre) : (s.setFibre x).fabric = s.fabric := by unfold State.setFibre; split <;> rfl
@[simp] theorem State.setFibre_coreMap (s : State) (x : Fibre) : (s.setFibre x).coreMap = s.coreMap := by unfold State.setFibre; split <;> rfl
@[simp] theorem State.setFibre_notes (s : State) (x : Fibre) : (s.setFibre x).notes = s.notes := by unfold State.setFibre; split <;> rfl
@[simp] theorem State.setFibre_off (s : State) (x : Fibre) : (s.setFibre x).off = s.off := by unfold State.setFibre; split <;> rfl
@[simp] theorem State.setFibre_agenda (s : State) (x : Fibre) : (s.setFibre x).agenda = s.agenda := by unfold State.setFibre; split <;> rfl
@[simp] theorem State.setFibre_turn (s : State) (x : Fibre) : (s.setFibre x).turn = s.turn := by unfold State.setFibre; split <;> rfl
@[simp] theorem State.setFibre_issue (s : State) (x : Fibre) : (s.setFibre x).issue = s.issue := by unfold State.setFibre; split <;> rfl
@[simp] theorem State.setFibre_issueNo (s : State) (x : Fibre) : (s.setFibre x).issueNo = s.issueNo := by unfold State.setFibre; split <;> rfl
@[simp] theorem State.setFibre_tries (s : State) (x : Fibre) : (s.setFibre x).tries = s.tries := by unfold State.setFibre; split <;> rfl

/-! ### setGang -/

@[simp] theorem State.setGang_f (s : State) (x : Gang) : (s.setGang x).f = s.f := by unfold State.setGang; split <;> rfl
@[simp] theorem State.setGang_c (s : State) (x : Gang) : (s.setGang x).c = s.c := by unfold State.setGang; split <;> rfl
@[simp] theorem State.setGang_n (s : State) (x : Gang) : (s.setGang x).n = s.n := by unfold State.setGang; split <;> rfl
@[simp] theorem State.setGang_fibres (s : State) (x : Gang) : (s.setGang x).fibres = s.fibres := by unfold State.setGang; split <;> rfl
@[simp] theorem State.setGang_cores (s : State) (x : Gang) : (s.setGang x).cores = s.cores := by unfold State.setGang; split <;> rfl
@[simp] theorem State.setGang_nodes (s : State) (x : Gang) : (s.setGang x).nodes = s.nodes := by unfold State.setGang; split <;> rfl
@[simp] theorem State.setGang_mem (s : State) (x : Gang) : (s.setGang x).mem = s.mem := by unfold State.setGang; split <;> rfl
@[simp] theorem State.setGang_flight (s : State) (x : Gang) : (s.setGang x).flight = s.flight := by unfold State.setGang; split <;> rfl
@[simp] theorem State.setGang_walkers (s : State) (x : Gang) : (s.setGang x).walkers = s.walkers := by unfold State.setGang; split <;> rfl
@[simp] theorem State.setGang_bad (s : State) (x : Gang) : (s.setGang x).bad = s.bad := by unfold State.setGang; split <;> rfl
@[simp] theorem State.setGang_arenas (s : State) (x : Gang) : (s.setGang x).arenas = s.arenas := by unfold State.setGang; split <;> rfl
@[simp] theorem State.setGang_cachePart (s : State) (x : Gang) : (s.setGang x).cachePart = s.cachePart := by unfold State.setGang; split <;> rfl
@[simp] theorem State.setGang_sensors (s : State) (x : Gang) : (s.setGang x).sensors = s.sensors := by unfold State.setGang; split <;> rfl
@[simp] theorem State.setGang_queues (s : State) (x : Gang) : (s.setGang x).queues = s.queues := by unfold State.setGang; split <;> rfl
@[simp] theorem State.setGang_nextNid (s : State) (x : Gang) : (s.setGang x).nextNid = s.nextNid := by unfold State.setGang; split <;> rfl
@[simp] theorem State.setGang_signals (s : State) (x : Gang) : (s.setGang x).signals = s.signals := by unfold State.setGang; split <;> rfl
@[simp] theorem State.setGang_faultq (s : State) (x : Gang) : (s.setGang x).faultq = s.faultq := by unfold State.setGang; split <;> rfl
@[simp] theorem State.setGang_fabric (s : State) (x : Gang) : (s.setGang x).fabric = s.fabric := by unfold State.setGang; split <;> rfl
@[simp] theorem State.setGang_coreMap (s : State) (x : Gang) : (s.setGang x).coreMap = s.coreMap := by unfold State.setGang; split <;> rfl
@[simp] theorem State.setGang_notes (s : State) (x : Gang) : (s.setGang x).notes = s.notes := by unfold State.setGang; split <;> rfl
@[simp] theorem State.setGang_off (s : State) (x : Gang) : (s.setGang x).off = s.off := by unfold State.setGang; split <;> rfl
@[simp] theorem State.setGang_agenda (s : State) (x : Gang) : (s.setGang x).agenda = s.agenda := by unfold State.setGang; split <;> rfl
@[simp] theorem State.setGang_turn (s : State) (x : Gang) : (s.setGang x).turn = s.turn := by unfold State.setGang; split <;> rfl
@[simp] theorem State.setGang_issue (s : State) (x : Gang) : (s.setGang x).issue = s.issue := by unfold State.setGang; split <;> rfl
@[simp] theorem State.setGang_issueNo (s : State) (x : Gang) : (s.setGang x).issueNo = s.issueNo := by unfold State.setGang; split <;> rfl
@[simp] theorem State.setGang_tries (s : State) (x : Gang) : (s.setGang x).tries = s.tries := by unfold State.setGang; split <;> rfl

/-! ### setCore -/

@[simp] theorem State.setCore_f (s : State) (x : Core) : (s.setCore x).f = s.f := by unfold State.setCore; split <;> rfl
@[simp] theorem State.setCore_g (s : State) (x : Core) : (s.setCore x).g = s.g := by unfold State.setCore; split <;> rfl
@[simp] theorem State.setCore_n (s : State) (x : Core) : (s.setCore x).n = s.n := by unfold State.setCore; split <;> rfl
@[simp] theorem State.setCore_fibres (s : State) (x : Core) : (s.setCore x).fibres = s.fibres := by unfold State.setCore; split <;> rfl
@[simp] theorem State.setCore_gangs (s : State) (x : Core) : (s.setCore x).gangs = s.gangs := by unfold State.setCore; split <;> rfl
@[simp] theorem State.setCore_nodes (s : State) (x : Core) : (s.setCore x).nodes = s.nodes := by unfold State.setCore; split <;> rfl
@[simp] theorem State.setCore_mem (s : State) (x : Core) : (s.setCore x).mem = s.mem := by unfold State.setCore; split <;> rfl
@[simp] theorem State.setCore_flight (s : State) (x : Core) : (s.setCore x).flight = s.flight := by unfold State.setCore; split <;> rfl
@[simp] theorem State.setCore_walkers (s : State) (x : Core) : (s.setCore x).walkers = s.walkers := by unfold State.setCore; split <;> rfl
@[simp] theorem State.setCore_bad (s : State) (x : Core) : (s.setCore x).bad = s.bad := by unfold State.setCore; split <;> rfl
@[simp] theorem State.setCore_arenas (s : State) (x : Core) : (s.setCore x).arenas = s.arenas := by unfold State.setCore; split <;> rfl
@[simp] theorem State.setCore_cachePart (s : State) (x : Core) : (s.setCore x).cachePart = s.cachePart := by unfold State.setCore; split <;> rfl
@[simp] theorem State.setCore_sensors (s : State) (x : Core) : (s.setCore x).sensors = s.sensors := by unfold State.setCore; split <;> rfl
@[simp] theorem State.setCore_queues (s : State) (x : Core) : (s.setCore x).queues = s.queues := by unfold State.setCore; split <;> rfl
@[simp] theorem State.setCore_nextNid (s : State) (x : Core) : (s.setCore x).nextNid = s.nextNid := by unfold State.setCore; split <;> rfl
@[simp] theorem State.setCore_signals (s : State) (x : Core) : (s.setCore x).signals = s.signals := by unfold State.setCore; split <;> rfl
@[simp] theorem State.setCore_faultq (s : State) (x : Core) : (s.setCore x).faultq = s.faultq := by unfold State.setCore; split <;> rfl
@[simp] theorem State.setCore_fabric (s : State) (x : Core) : (s.setCore x).fabric = s.fabric := by unfold State.setCore; split <;> rfl
@[simp] theorem State.setCore_coreMap (s : State) (x : Core) : (s.setCore x).coreMap = s.coreMap := by unfold State.setCore; split <;> rfl
@[simp] theorem State.setCore_notes (s : State) (x : Core) : (s.setCore x).notes = s.notes := by unfold State.setCore; split <;> rfl
@[simp] theorem State.setCore_off (s : State) (x : Core) : (s.setCore x).off = s.off := by unfold State.setCore; split <;> rfl
@[simp] theorem State.setCore_agenda (s : State) (x : Core) : (s.setCore x).agenda = s.agenda := by unfold State.setCore; split <;> rfl
@[simp] theorem State.setCore_turn (s : State) (x : Core) : (s.setCore x).turn = s.turn := by unfold State.setCore; split <;> rfl
@[simp] theorem State.setCore_issue (s : State) (x : Core) : (s.setCore x).issue = s.issue := by unfold State.setCore; split <;> rfl
@[simp] theorem State.setCore_issueNo (s : State) (x : Core) : (s.setCore x).issueNo = s.issueNo := by unfold State.setCore; split <;> rfl
@[simp] theorem State.setCore_tries (s : State) (x : Core) : (s.setCore x).tries = s.tries := by unfold State.setCore; split <;> rfl

/-! ### setNode -/

@[simp] theorem State.setNode_f (s : State) (x : Node) : (s.setNode x).f = s.f := by unfold State.setNode; split <;> rfl
@[simp] theorem State.setNode_g (s : State) (x : Node) : (s.setNode x).g = s.g := by unfold State.setNode; split <;> rfl
@[simp] theorem State.setNode_c (s : State) (x : Node) : (s.setNode x).c = s.c := by unfold State.setNode; split <;> rfl
@[simp] theorem State.setNode_fibres (s : State) (x : Node) : (s.setNode x).fibres = s.fibres := by unfold State.setNode; split <;> rfl
@[simp] theorem State.setNode_gangs (s : State) (x : Node) : (s.setNode x).gangs = s.gangs := by unfold State.setNode; split <;> rfl
@[simp] theorem State.setNode_cores (s : State) (x : Node) : (s.setNode x).cores = s.cores := by unfold State.setNode; split <;> rfl
@[simp] theorem State.setNode_mem (s : State) (x : Node) : (s.setNode x).mem = s.mem := by unfold State.setNode; split <;> rfl
@[simp] theorem State.setNode_flight (s : State) (x : Node) : (s.setNode x).flight = s.flight := by unfold State.setNode; split <;> rfl
@[simp] theorem State.setNode_walkers (s : State) (x : Node) : (s.setNode x).walkers = s.walkers := by unfold State.setNode; split <;> rfl
@[simp] theorem State.setNode_bad (s : State) (x : Node) : (s.setNode x).bad = s.bad := by unfold State.setNode; split <;> rfl
@[simp] theorem State.setNode_arenas (s : State) (x : Node) : (s.setNode x).arenas = s.arenas := by unfold State.setNode; split <;> rfl
@[simp] theorem State.setNode_cachePart (s : State) (x : Node) : (s.setNode x).cachePart = s.cachePart := by unfold State.setNode; split <;> rfl
@[simp] theorem State.setNode_sensors (s : State) (x : Node) : (s.setNode x).sensors = s.sensors := by unfold State.setNode; split <;> rfl
@[simp] theorem State.setNode_queues (s : State) (x : Node) : (s.setNode x).queues = s.queues := by unfold State.setNode; split <;> rfl
@[simp] theorem State.setNode_nextNid (s : State) (x : Node) : (s.setNode x).nextNid = s.nextNid := by unfold State.setNode; split <;> rfl
@[simp] theorem State.setNode_signals (s : State) (x : Node) : (s.setNode x).signals = s.signals := by unfold State.setNode; split <;> rfl
@[simp] theorem State.setNode_faultq (s : State) (x : Node) : (s.setNode x).faultq = s.faultq := by unfold State.setNode; split <;> rfl
@[simp] theorem State.setNode_fabric (s : State) (x : Node) : (s.setNode x).fabric = s.fabric := by unfold State.setNode; split <;> rfl
@[simp] theorem State.setNode_coreMap (s : State) (x : Node) : (s.setNode x).coreMap = s.coreMap := by unfold State.setNode; split <;> rfl
@[simp] theorem State.setNode_notes (s : State) (x : Node) : (s.setNode x).notes = s.notes := by unfold State.setNode; split <;> rfl
@[simp] theorem State.setNode_off (s : State) (x : Node) : (s.setNode x).off = s.off := by unfold State.setNode; split <;> rfl
@[simp] theorem State.setNode_agenda (s : State) (x : Node) : (s.setNode x).agenda = s.agenda := by unfold State.setNode; split <;> rfl
@[simp] theorem State.setNode_turn (s : State) (x : Node) : (s.setNode x).turn = s.turn := by unfold State.setNode; split <;> rfl
@[simp] theorem State.setNode_issue (s : State) (x : Node) : (s.setNode x).issue = s.issue := by unfold State.setNode; split <;> rfl
@[simp] theorem State.setNode_issueNo (s : State) (x : Node) : (s.setNode x).issueNo = s.issueNo := by unfold State.setNode; split <;> rfl
@[simp] theorem State.setNode_tries (s : State) (x : Node) : (s.setNode x).tries = s.tries := by unfold State.setNode; split <;> rfl

/-! ### onFibre -/

@[simp] theorem State.onFibre_g (s : State) (i : FibId) (k : Fibre → Fibre) : (s.onFibre i k).g = s.g := by unfold State.onFibre; split <;> simp
@[simp] theorem State.onFibre_c (s : State) (i : FibId) (k : Fibre → Fibre) : (s.onFibre i k).c = s.c := by unfold State.onFibre; split <;> simp
@[simp] theorem State.onFibre_n (s : State) (i : FibId) (k : Fibre → Fibre) : (s.onFibre i k).n = s.n := by unfold State.onFibre; split <;> simp
@[simp] theorem State.onFibre_gangs (s : State) (i : FibId) (k : Fibre → Fibre) : (s.onFibre i k).gangs = s.gangs := by unfold State.onFibre; split <;> simp
@[simp] theorem State.onFibre_cores (s : State) (i : FibId) (k : Fibre → Fibre) : (s.onFibre i k).cores = s.cores := by unfold State.onFibre; split <;> simp
@[simp] theorem State.onFibre_nodes (s : State) (i : FibId) (k : Fibre → Fibre) : (s.onFibre i k).nodes = s.nodes := by unfold State.onFibre; split <;> simp
@[simp] theorem State.onFibre_mem (s : State) (i : FibId) (k : Fibre → Fibre) : (s.onFibre i k).mem = s.mem := by unfold State.onFibre; split <;> simp
@[simp] theorem State.onFibre_flight (s : State) (i : FibId) (k : Fibre → Fibre) : (s.onFibre i k).flight = s.flight := by unfold State.onFibre; split <;> simp
@[simp] theorem State.onFibre_walkers (s : State) (i : FibId) (k : Fibre → Fibre) : (s.onFibre i k).walkers = s.walkers := by unfold State.onFibre; split <;> simp
@[simp] theorem State.onFibre_bad (s : State) (i : FibId) (k : Fibre → Fibre) : (s.onFibre i k).bad = s.bad := by unfold State.onFibre; split <;> simp
@[simp] theorem State.onFibre_arenas (s : State) (i : FibId) (k : Fibre → Fibre) : (s.onFibre i k).arenas = s.arenas := by unfold State.onFibre; split <;> simp
@[simp] theorem State.onFibre_cachePart (s : State) (i : FibId) (k : Fibre → Fibre) : (s.onFibre i k).cachePart = s.cachePart := by unfold State.onFibre; split <;> simp
@[simp] theorem State.onFibre_sensors (s : State) (i : FibId) (k : Fibre → Fibre) : (s.onFibre i k).sensors = s.sensors := by unfold State.onFibre; split <;> simp
@[simp] theorem State.onFibre_queues (s : State) (i : FibId) (k : Fibre → Fibre) : (s.onFibre i k).queues = s.queues := by unfold State.onFibre; split <;> simp
@[simp] theorem State.onFibre_nextNid (s : State) (i : FibId) (k : Fibre → Fibre) : (s.onFibre i k).nextNid = s.nextNid := by unfold State.onFibre; split <;> simp
@[simp] theorem State.onFibre_signals (s : State) (i : FibId) (k : Fibre → Fibre) : (s.onFibre i k).signals = s.signals := by unfold State.onFibre; split <;> simp
@[simp] theorem State.onFibre_faultq (s : State) (i : FibId) (k : Fibre → Fibre) : (s.onFibre i k).faultq = s.faultq := by unfold State.onFibre; split <;> simp
@[simp] theorem State.onFibre_fabric (s : State) (i : FibId) (k : Fibre → Fibre) : (s.onFibre i k).fabric = s.fabric := by unfold State.onFibre; split <;> simp
@[simp] theorem State.onFibre_coreMap (s : State) (i : FibId) (k : Fibre → Fibre) : (s.onFibre i k).coreMap = s.coreMap := by unfold State.onFibre; split <;> simp
@[simp] theorem State.onFibre_notes (s : State) (i : FibId) (k : Fibre → Fibre) : (s.onFibre i k).notes = s.notes := by unfold State.onFibre; split <;> simp
@[simp] theorem State.onFibre_off (s : State) (i : FibId) (k : Fibre → Fibre) : (s.onFibre i k).off = s.off := by unfold State.onFibre; split <;> simp
@[simp] theorem State.onFibre_agenda (s : State) (i : FibId) (k : Fibre → Fibre) : (s.onFibre i k).agenda = s.agenda := by unfold State.onFibre; split <;> simp
@[simp] theorem State.onFibre_turn (s : State) (i : FibId) (k : Fibre → Fibre) : (s.onFibre i k).turn = s.turn := by unfold State.onFibre; split <;> simp
@[simp] theorem State.onFibre_issue (s : State) (i : FibId) (k : Fibre → Fibre) : (s.onFibre i k).issue = s.issue := by unfold State.onFibre; split <;> simp
@[simp] theorem State.onFibre_issueNo (s : State) (i : FibId) (k : Fibre → Fibre) : (s.onFibre i k).issueNo = s.issueNo := by unfold State.onFibre; split <;> simp
@[simp] theorem State.onFibre_tries (s : State) (i : FibId) (k : Fibre → Fibre) : (s.onFibre i k).tries = s.tries := by unfold State.onFibre; split <;> simp

/-! ### onGang -/

@[simp] theorem State.onGang_f (s : State) (a b : Nat) (k : Gang → Gang) : (s.onGang a b k).f = s.f := by unfold State.onGang; split <;> simp
@[simp] theorem State.onGang_c (s : State) (a b : Nat) (k : Gang → Gang) : (s.onGang a b k).c = s.c := by unfold State.onGang; split <;> simp
@[simp] theorem State.onGang_n (s : State) (a b : Nat) (k : Gang → Gang) : (s.onGang a b k).n = s.n := by unfold State.onGang; split <;> simp
@[simp] theorem State.onGang_fibres (s : State) (a b : Nat) (k : Gang → Gang) : (s.onGang a b k).fibres = s.fibres := by unfold State.onGang; split <;> simp
@[simp] theorem State.onGang_cores (s : State) (a b : Nat) (k : Gang → Gang) : (s.onGang a b k).cores = s.cores := by unfold State.onGang; split <;> simp
@[simp] theorem State.onGang_nodes (s : State) (a b : Nat) (k : Gang → Gang) : (s.onGang a b k).nodes = s.nodes := by unfold State.onGang; split <;> simp
@[simp] theorem State.onGang_mem (s : State) (a b : Nat) (k : Gang → Gang) : (s.onGang a b k).mem = s.mem := by unfold State.onGang; split <;> simp
@[simp] theorem State.onGang_flight (s : State) (a b : Nat) (k : Gang → Gang) : (s.onGang a b k).flight = s.flight := by unfold State.onGang; split <;> simp
@[simp] theorem State.onGang_walkers (s : State) (a b : Nat) (k : Gang → Gang) : (s.onGang a b k).walkers = s.walkers := by unfold State.onGang; split <;> simp
@[simp] theorem State.onGang_bad (s : State) (a b : Nat) (k : Gang → Gang) : (s.onGang a b k).bad = s.bad := by unfold State.onGang; split <;> simp
@[simp] theorem State.onGang_arenas (s : State) (a b : Nat) (k : Gang → Gang) : (s.onGang a b k).arenas = s.arenas := by unfold State.onGang; split <;> simp
@[simp] theorem State.onGang_cachePart (s : State) (a b : Nat) (k : Gang → Gang) : (s.onGang a b k).cachePart = s.cachePart := by unfold State.onGang; split <;> simp
@[simp] theorem State.onGang_sensors (s : State) (a b : Nat) (k : Gang → Gang) : (s.onGang a b k).sensors = s.sensors := by unfold State.onGang; split <;> simp
@[simp] theorem State.onGang_queues (s : State) (a b : Nat) (k : Gang → Gang) : (s.onGang a b k).queues = s.queues := by unfold State.onGang; split <;> simp
@[simp] theorem State.onGang_nextNid (s : State) (a b : Nat) (k : Gang → Gang) : (s.onGang a b k).nextNid = s.nextNid := by unfold State.onGang; split <;> simp
@[simp] theorem State.onGang_signals (s : State) (a b : Nat) (k : Gang → Gang) : (s.onGang a b k).signals = s.signals := by unfold State.onGang; split <;> simp
@[simp] theorem State.onGang_faultq (s : State) (a b : Nat) (k : Gang → Gang) : (s.onGang a b k).faultq = s.faultq := by unfold State.onGang; split <;> simp
@[simp] theorem State.onGang_fabric (s : State) (a b : Nat) (k : Gang → Gang) : (s.onGang a b k).fabric = s.fabric := by unfold State.onGang; split <;> simp
@[simp] theorem State.onGang_coreMap (s : State) (a b : Nat) (k : Gang → Gang) : (s.onGang a b k).coreMap = s.coreMap := by unfold State.onGang; split <;> simp
@[simp] theorem State.onGang_notes (s : State) (a b : Nat) (k : Gang → Gang) : (s.onGang a b k).notes = s.notes := by unfold State.onGang; split <;> simp
@[simp] theorem State.onGang_off (s : State) (a b : Nat) (k : Gang → Gang) : (s.onGang a b k).off = s.off := by unfold State.onGang; split <;> simp
@[simp] theorem State.onGang_agenda (s : State) (a b : Nat) (k : Gang → Gang) : (s.onGang a b k).agenda = s.agenda := by unfold State.onGang; split <;> simp
@[simp] theorem State.onGang_turn (s : State) (a b : Nat) (k : Gang → Gang) : (s.onGang a b k).turn = s.turn := by unfold State.onGang; split <;> simp
@[simp] theorem State.onGang_issue (s : State) (a b : Nat) (k : Gang → Gang) : (s.onGang a b k).issue = s.issue := by unfold State.onGang; split <;> simp
@[simp] theorem State.onGang_issueNo (s : State) (a b : Nat) (k : Gang → Gang) : (s.onGang a b k).issueNo = s.issueNo := by unfold State.onGang; split <;> simp
@[simp] theorem State.onGang_tries (s : State) (a b : Nat) (k : Gang → Gang) : (s.onGang a b k).tries = s.tries := by unfold State.onGang; split <;> simp

/-! ### onCore -/

@[simp] theorem State.onCore_f (s : State) (a : Nat) (k : Core → Core) : (s.onCore a k).f = s.f := by simp [State.onCore]
@[simp] theorem State.onCore_g (s : State) (a : Nat) (k : Core → Core) : (s.onCore a k).g = s.g := by simp [State.onCore]
@[simp] theorem State.onCore_n (s : State) (a : Nat) (k : Core → Core) : (s.onCore a k).n = s.n := by simp [State.onCore]
@[simp] theorem State.onCore_fibres (s : State) (a : Nat) (k : Core → Core) : (s.onCore a k).fibres = s.fibres := by simp [State.onCore]
@[simp] theorem State.onCore_gangs (s : State) (a : Nat) (k : Core → Core) : (s.onCore a k).gangs = s.gangs := by simp [State.onCore]
@[simp] theorem State.onCore_nodes (s : State) (a : Nat) (k : Core → Core) : (s.onCore a k).nodes = s.nodes := by simp [State.onCore]
@[simp] theorem State.onCore_mem (s : State) (a : Nat) (k : Core → Core) : (s.onCore a k).mem = s.mem := by simp [State.onCore]
@[simp] theorem State.onCore_flight (s : State) (a : Nat) (k : Core → Core) : (s.onCore a k).flight = s.flight := by simp [State.onCore]
@[simp] theorem State.onCore_walkers (s : State) (a : Nat) (k : Core → Core) : (s.onCore a k).walkers = s.walkers := by simp [State.onCore]
@[simp] theorem State.onCore_bad (s : State) (a : Nat) (k : Core → Core) : (s.onCore a k).bad = s.bad := by simp [State.onCore]
@[simp] theorem State.onCore_arenas (s : State) (a : Nat) (k : Core → Core) : (s.onCore a k).arenas = s.arenas := by simp [State.onCore]
@[simp] theorem State.onCore_cachePart (s : State) (a : Nat) (k : Core → Core) : (s.onCore a k).cachePart = s.cachePart := by simp [State.onCore]
@[simp] theorem State.onCore_sensors (s : State) (a : Nat) (k : Core → Core) : (s.onCore a k).sensors = s.sensors := by simp [State.onCore]
@[simp] theorem State.onCore_queues (s : State) (a : Nat) (k : Core → Core) : (s.onCore a k).queues = s.queues := by simp [State.onCore]
@[simp] theorem State.onCore_nextNid (s : State) (a : Nat) (k : Core → Core) : (s.onCore a k).nextNid = s.nextNid := by simp [State.onCore]
@[simp] theorem State.onCore_signals (s : State) (a : Nat) (k : Core → Core) : (s.onCore a k).signals = s.signals := by simp [State.onCore]
@[simp] theorem State.onCore_faultq (s : State) (a : Nat) (k : Core → Core) : (s.onCore a k).faultq = s.faultq := by simp [State.onCore]
@[simp] theorem State.onCore_fabric (s : State) (a : Nat) (k : Core → Core) : (s.onCore a k).fabric = s.fabric := by simp [State.onCore]
@[simp] theorem State.onCore_coreMap (s : State) (a : Nat) (k : Core → Core) : (s.onCore a k).coreMap = s.coreMap := by simp [State.onCore]
@[simp] theorem State.onCore_notes (s : State) (a : Nat) (k : Core → Core) : (s.onCore a k).notes = s.notes := by simp [State.onCore]
@[simp] theorem State.onCore_off (s : State) (a : Nat) (k : Core → Core) : (s.onCore a k).off = s.off := by simp [State.onCore]
@[simp] theorem State.onCore_agenda (s : State) (a : Nat) (k : Core → Core) : (s.onCore a k).agenda = s.agenda := by simp [State.onCore]
@[simp] theorem State.onCore_turn (s : State) (a : Nat) (k : Core → Core) : (s.onCore a k).turn = s.turn := by simp [State.onCore]
@[simp] theorem State.onCore_issue (s : State) (a : Nat) (k : Core → Core) : (s.onCore a k).issue = s.issue := by simp [State.onCore]
@[simp] theorem State.onCore_issueNo (s : State) (a : Nat) (k : Core → Core) : (s.onCore a k).issueNo = s.issueNo := by simp [State.onCore]
@[simp] theorem State.onCore_tries (s : State) (a : Nat) (k : Core → Core) : (s.onCore a k).tries = s.tries := by simp [State.onCore]

/-! ### onNode -/

@[simp] theorem State.onNode_f (s : State) (a : Nat) (k : Node → Node) : (s.onNode a k).f = s.f := by unfold State.onNode; split <;> simp
@[simp] theorem State.onNode_g (s : State) (a : Nat) (k : Node → Node) : (s.onNode a k).g = s.g := by unfold State.onNode; split <;> simp
@[simp] theorem State.onNode_c (s : State) (a : Nat) (k : Node → Node) : (s.onNode a k).c = s.c := by unfold State.onNode; split <;> simp
@[simp] theorem State.onNode_fibres (s : State) (a : Nat) (k : Node → Node) : (s.onNode a k).fibres = s.fibres := by unfold State.onNode; split <;> simp
@[simp] theorem State.onNode_gangs (s : State) (a : Nat) (k : Node → Node) : (s.onNode a k).gangs = s.gangs := by unfold State.onNode; split <;> simp
@[simp] theorem State.onNode_cores (s : State) (a : Nat) (k : Node → Node) : (s.onNode a k).cores = s.cores := by unfold State.onNode; split <;> simp
@[simp] theorem State.onNode_mem (s : State) (a : Nat) (k : Node → Node) : (s.onNode a k).mem = s.mem := by unfold State.onNode; split <;> simp
@[simp] theorem State.onNode_flight (s : State) (a : Nat) (k : Node → Node) : (s.onNode a k).flight = s.flight := by unfold State.onNode; split <;> simp
@[simp] theorem State.onNode_walkers (s : State) (a : Nat) (k : Node → Node) : (s.onNode a k).walkers = s.walkers := by unfold State.onNode; split <;> simp
@[simp] theorem State.onNode_bad (s : State) (a : Nat) (k : Node → Node) : (s.onNode a k).bad = s.bad := by unfold State.onNode; split <;> simp
@[simp] theorem State.onNode_arenas (s : State) (a : Nat) (k : Node → Node) : (s.onNode a k).arenas = s.arenas := by unfold State.onNode; split <;> simp
@[simp] theorem State.onNode_cachePart (s : State) (a : Nat) (k : Node → Node) : (s.onNode a k).cachePart = s.cachePart := by unfold State.onNode; split <;> simp
@[simp] theorem State.onNode_sensors (s : State) (a : Nat) (k : Node → Node) : (s.onNode a k).sensors = s.sensors := by unfold State.onNode; split <;> simp
@[simp] theorem State.onNode_queues (s : State) (a : Nat) (k : Node → Node) : (s.onNode a k).queues = s.queues := by unfold State.onNode; split <;> simp
@[simp] theorem State.onNode_nextNid (s : State) (a : Nat) (k : Node → Node) : (s.onNode a k).nextNid = s.nextNid := by unfold State.onNode; split <;> simp
@[simp] theorem State.onNode_signals (s : State) (a : Nat) (k : Node → Node) : (s.onNode a k).signals = s.signals := by unfold State.onNode; split <;> simp
@[simp] theorem State.onNode_faultq (s : State) (a : Nat) (k : Node → Node) : (s.onNode a k).faultq = s.faultq := by unfold State.onNode; split <;> simp
@[simp] theorem State.onNode_fabric (s : State) (a : Nat) (k : Node → Node) : (s.onNode a k).fabric = s.fabric := by unfold State.onNode; split <;> simp
@[simp] theorem State.onNode_coreMap (s : State) (a : Nat) (k : Node → Node) : (s.onNode a k).coreMap = s.coreMap := by unfold State.onNode; split <;> simp
@[simp] theorem State.onNode_notes (s : State) (a : Nat) (k : Node → Node) : (s.onNode a k).notes = s.notes := by unfold State.onNode; split <;> simp
@[simp] theorem State.onNode_off (s : State) (a : Nat) (k : Node → Node) : (s.onNode a k).off = s.off := by unfold State.onNode; split <;> simp
@[simp] theorem State.onNode_agenda (s : State) (a : Nat) (k : Node → Node) : (s.onNode a k).agenda = s.agenda := by unfold State.onNode; split <;> simp
@[simp] theorem State.onNode_turn (s : State) (a : Nat) (k : Node → Node) : (s.onNode a k).turn = s.turn := by unfold State.onNode; split <;> simp
@[simp] theorem State.onNode_issue (s : State) (a : Nat) (k : Node → Node) : (s.onNode a k).issue = s.issue := by unfold State.onNode; split <;> simp
@[simp] theorem State.onNode_issueNo (s : State) (a : Nat) (k : Node → Node) : (s.onNode a k).issueNo = s.issueNo := by unfold State.onNode; split <;> simp
@[simp] theorem State.onNode_tries (s : State) (a : Nat) (k : Node → Node) : (s.onNode a k).tries = s.tries := by unfold State.onNode; split <;> simp

/-! ### onCrew -/

@[simp] theorem State.onCrew_f (s : State) (a b d : Nat) (k : Crew → Crew) : (s.onCrew a b d k).f = s.f := by simp [State.onCrew]
@[simp] theorem State.onCrew_c (s : State) (a b d : Nat) (k : Crew → Crew) : (s.onCrew a b d k).c = s.c := by simp [State.onCrew]
@[simp] theorem State.onCrew_n (s : State) (a b d : Nat) (k : Crew → Crew) : (s.onCrew a b d k).n = s.n := by simp [State.onCrew]
@[simp] theorem State.onCrew_fibres (s : State) (a b d : Nat) (k : Crew → Crew) : (s.onCrew a b d k).fibres = s.fibres := by simp [State.onCrew]
@[simp] theorem State.onCrew_cores (s : State) (a b d : Nat) (k : Crew → Crew) : (s.onCrew a b d k).cores = s.cores := by simp [State.onCrew]
@[simp] theorem State.onCrew_nodes (s : State) (a b d : Nat) (k : Crew → Crew) : (s.onCrew a b d k).nodes = s.nodes := by simp [State.onCrew]
@[simp] theorem State.onCrew_mem (s : State) (a b d : Nat) (k : Crew → Crew) : (s.onCrew a b d k).mem = s.mem := by simp [State.onCrew]
@[simp] theorem State.onCrew_flight (s : State) (a b d : Nat) (k : Crew → Crew) : (s.onCrew a b d k).flight = s.flight := by simp [State.onCrew]
@[simp] theorem State.onCrew_walkers (s : State) (a b d : Nat) (k : Crew → Crew) : (s.onCrew a b d k).walkers = s.walkers := by simp [State.onCrew]
@[simp] theorem State.onCrew_bad (s : State) (a b d : Nat) (k : Crew → Crew) : (s.onCrew a b d k).bad = s.bad := by simp [State.onCrew]
@[simp] theorem State.onCrew_arenas (s : State) (a b d : Nat) (k : Crew → Crew) : (s.onCrew a b d k).arenas = s.arenas := by simp [State.onCrew]
@[simp] theorem State.onCrew_cachePart (s : State) (a b d : Nat) (k : Crew → Crew) : (s.onCrew a b d k).cachePart = s.cachePart := by simp [State.onCrew]
@[simp] theorem State.onCrew_sensors (s : State) (a b d : Nat) (k : Crew → Crew) : (s.onCrew a b d k).sensors = s.sensors := by simp [State.onCrew]
@[simp] theorem State.onCrew_queues (s : State) (a b d : Nat) (k : Crew → Crew) : (s.onCrew a b d k).queues = s.queues := by simp [State.onCrew]
@[simp] theorem State.onCrew_nextNid (s : State) (a b d : Nat) (k : Crew → Crew) : (s.onCrew a b d k).nextNid = s.nextNid := by simp [State.onCrew]
@[simp] theorem State.onCrew_signals (s : State) (a b d : Nat) (k : Crew → Crew) : (s.onCrew a b d k).signals = s.signals := by simp [State.onCrew]
@[simp] theorem State.onCrew_faultq (s : State) (a b d : Nat) (k : Crew → Crew) : (s.onCrew a b d k).faultq = s.faultq := by simp [State.onCrew]
@[simp] theorem State.onCrew_fabric (s : State) (a b d : Nat) (k : Crew → Crew) : (s.onCrew a b d k).fabric = s.fabric := by simp [State.onCrew]
@[simp] theorem State.onCrew_coreMap (s : State) (a b d : Nat) (k : Crew → Crew) : (s.onCrew a b d k).coreMap = s.coreMap := by simp [State.onCrew]
@[simp] theorem State.onCrew_notes (s : State) (a b d : Nat) (k : Crew → Crew) : (s.onCrew a b d k).notes = s.notes := by simp [State.onCrew]
@[simp] theorem State.onCrew_off (s : State) (a b d : Nat) (k : Crew → Crew) : (s.onCrew a b d k).off = s.off := by simp [State.onCrew]
@[simp] theorem State.onCrew_agenda (s : State) (a b d : Nat) (k : Crew → Crew) : (s.onCrew a b d k).agenda = s.agenda := by simp [State.onCrew]
@[simp] theorem State.onCrew_turn (s : State) (a b d : Nat) (k : Crew → Crew) : (s.onCrew a b d k).turn = s.turn := by simp [State.onCrew]
@[simp] theorem State.onCrew_issue (s : State) (a b d : Nat) (k : Crew → Crew) : (s.onCrew a b d k).issue = s.issue := by simp [State.onCrew]
@[simp] theorem State.onCrew_issueNo (s : State) (a b d : Nat) (k : Crew → Crew) : (s.onCrew a b d k).issueNo = s.issueNo := by simp [State.onCrew]
@[simp] theorem State.onCrew_tries (s : State) (a b d : Nat) (k : Crew → Crew) : (s.onCrew a b d k).tries = s.tries := by simp [State.onCrew]

/-! ### focus -/

@[simp] theorem State.focus_mem (s : State) (i : FibId) : (s.focus i).mem = s.mem := by unfold State.focus; split <;> simp
@[simp] theorem State.focus_flight (s : State) (i : FibId) : (s.focus i).flight = s.flight := by unfold State.focus; split <;> simp
@[simp] theorem State.focus_walkers (s : State) (i : FibId) : (s.focus i).walkers = s.walkers := by unfold State.focus; split <;> simp
@[simp] theorem State.focus_bad (s : State) (i : FibId) : (s.focus i).bad = s.bad := by unfold State.focus; split <;> simp
@[simp] theorem State.focus_arenas (s : State) (i : FibId) : (s.focus i).arenas = s.arenas := by unfold State.focus; split <;> simp
@[simp] theorem State.focus_cachePart (s : State) (i : FibId) : (s.focus i).cachePart = s.cachePart := by unfold State.focus; split <;> simp
@[simp] theorem State.focus_sensors (s : State) (i : FibId) : (s.focus i).sensors = s.sensors := by unfold State.focus; split <;> simp
@[simp] theorem State.focus_queues (s : State) (i : FibId) : (s.focus i).queues = s.queues := by unfold State.focus; split <;> simp
@[simp] theorem State.focus_nextNid (s : State) (i : FibId) : (s.focus i).nextNid = s.nextNid := by unfold State.focus; split <;> simp
@[simp] theorem State.focus_signals (s : State) (i : FibId) : (s.focus i).signals = s.signals := by unfold State.focus; split <;> simp
@[simp] theorem State.focus_faultq (s : State) (i : FibId) : (s.focus i).faultq = s.faultq := by unfold State.focus; split <;> simp
@[simp] theorem State.focus_fabric (s : State) (i : FibId) : (s.focus i).fabric = s.fabric := by unfold State.focus; split <;> simp
@[simp] theorem State.focus_coreMap (s : State) (i : FibId) : (s.focus i).coreMap = s.coreMap := by unfold State.focus; split <;> simp
@[simp] theorem State.focus_notes (s : State) (i : FibId) : (s.focus i).notes = s.notes := by unfold State.focus; split <;> simp
@[simp] theorem State.focus_off (s : State) (i : FibId) : (s.focus i).off = s.off := by unfold State.focus; split <;> simp
@[simp] theorem State.focus_agenda (s : State) (i : FibId) : (s.focus i).agenda = s.agenda := by unfold State.focus; split <;> simp
@[simp] theorem State.focus_turn (s : State) (i : FibId) : (s.focus i).turn = s.turn := by unfold State.focus; split <;> simp
@[simp] theorem State.focus_issue (s : State) (i : FibId) : (s.focus i).issue = s.issue := by unfold State.focus; split <;> simp
@[simp] theorem State.focus_issueNo (s : State) (i : FibId) : (s.focus i).issueNo = s.issueNo := by unfold State.focus; split <;> simp
@[simp] theorem State.focus_tries (s : State) (i : FibId) : (s.focus i).tries = s.tries := by unfold State.focus; split <;> simp

end Sys2Proof.Machine
end

