-- ==== Sys2Proof/Laws/Walk.lean ====
section
/-!
SUPPORT. Frames of the walks and of the writes at homes: what they keep, and nothing else, changes.
-/
namespace Sys2Proof.Machine

/-- A walk changes only what its unit keeps. -/

theorem State.entry_frame (s : State) (u key addr : Nat) : ∃ w, (s.entry u key addr).2 = { s with walkers := w } := by
  unfold State.entry; dsimp only
  repeat' split
  all_goals first | exact ⟨s.walkers, rfl⟩ | exact ⟨_, rfl⟩

theorem State.tableWalk_frame (s : State) (ia : Nat) (need : Need) : ∃ v, (s.tableWalk ia need).2 = { s with walkers := v } := by
  unfold State.tableWalk; dsimp only
  split
  · exact ⟨s.walkers, rfl⟩
  · obtain ⟨v, hv⟩ := s.entry_frame (unitOf ia) (2 * ((ia - unitBase (unitOf ia)) / 2 ^ 21)) ((s.walkers.getD (unitOf ia) ⟨0, []⟩).root + 8 * ((ia - unitBase (unitOf ia)) / 2 ^ 21))
    generalize hs1 : (s.entry (unitOf ia) (2 * ((ia - unitBase (unitOf ia)) / 2 ^ 21)) ((s.walkers.getD (unitOf ia) ⟨0, []⟩).root + 8 * ((ia - unitBase (unitOf ia)) / 2 ^ 21))) = p at *
    obtain ⟨e, s1⟩ := p
    dsimp only at hv ⊢
    subst hv
    split
    · exact ⟨v, rfl⟩
    · exact ⟨v, rfl⟩
    · split
      · exact ⟨v, rfl⟩
      · generalize hs2 : State.entry _ (unitOf ia) _ _ = p2
        obtain ⟨l, s2⟩ := p2
        have := State.entry_frame { s with walkers := v } (unitOf ia) (2 * ((ia - unitBase (unitOf ia)) / 2 ^ 16) + 1) (entAddr e + 8 * (ia / 2 ^ 16 % 32))
        rw [hs2] at this
        obtain ⟨v2, hv2⟩ := this
        dsimp only at hv2 ⊢
        subst hv2
        split <;> exact ⟨v2, rfl⟩
    · exact ⟨v, rfl⟩

theorem State.walk_frame (s : State) (ia : Nat) (need : Need) : ∃ v, (s.walk ia need).2 = { s with walkers := v } := by
  unfold State.walk
  split
  · exact ⟨s.walkers, rfl⟩
  · exact ⟨s.walkers, rfl⟩
  · split
    · exact ⟨s.walkers, rfl⟩
    · exact s.tableWalk_frame ia need

theorem State.walkRun_frame (s : State) (ia size : Nat) (need : Need) : ∃ v, (s.walkRun ia size need).2 = { s with walkers := v } := by
  unfold State.walkRun
  generalize splitLines ia size = l
  have key : ∀ (l : List (Nat × Nat × Nat)) (acc : Option (Nat × Nat × Nat) × State), (∃ v, acc.2 = { s with walkers := v }) → ∃ v, (l.foldl (fun acc y =>
      match acc with
      | (some e, t) => (some e, t)
      | (none, t) =>
        let a := y.1 * 128 + y.2.1
        match t.walk a need with
        | (.frame _, t1) => (none, t1)
        | (.pageFault, t1) => (some (0x40, 0, a), t1)
        | (.walkFault o, t1) => (some (0x48, o, a), t1)
        | (.denied, t1) => (some (0x42, 0, a), t1)
        | (.busy, t1) => (some (0, 0, a), t1)) acc).2 = { s with walkers := v } := by
    intro l
    induction l with
    | nil => intro acc h; exact h
    | cons y rest ih =>
      intro acc h
      rw [List.foldl_cons]
      apply ih
      obtain ⟨o, t⟩ := acc
      obtain ⟨v, rfl⟩ := h
      cases o with
      | some e => exact ⟨v, rfl⟩
      | none =>
        dsimp only
        obtain ⟨v2, h2⟩ := State.walk_frame { s with walkers := v } (y.1 * 128 + y.2.1) need
        generalize State.walk { s with walkers := v } (y.1 * 128 + y.2.1) need = p at h2
        obtain ⟨r, t1⟩ := p
        dsimp only at h2
        subst h2
        cases r <;> exact ⟨v2, rfl⟩
  exact key l (none, s) ⟨s.walkers, rfl⟩

theorem State.homeWrite_frame (s : State) (ia : Nat) (bs : List Byte) : ∃ m v, (s.homeWrite ia bs).2 = { s with mem := m, walkers := v } := by
  unfold State.homeWrite
  generalize splitLines ia bs.length = l
  have key : ∀ (l : List (Nat × Nat × Nat)) (acc : Bool × State), (∃ m v, acc.2 = { s with mem := m, walkers := v }) → ∃ m v, (l.foldl (fun acc x =>
      match acc.2.walk (x.1 * 128 + x.2.1) .store with
      | (.frame pa, t1) =>
        (acc.1, { t1 with mem := t1.mem.writeBytes pa ((bs.drop (x.1 * 128 + x.2.1 - ia)).take x.2.2) })
      | (_, t1) => (false, t1)) acc).2 = { s with mem := m, walkers := v } := by
    intro l
    induction l with
    | nil => intro acc h; exact h
    | cons y rest ih =>
      intro acc h
      rw [List.foldl_cons]
      apply ih
      obtain ⟨o, t⟩ := acc
      obtain ⟨m, v, rfl⟩ := h
      dsimp only
      obtain ⟨v2, h2⟩ := State.walk_frame { s with mem := m, walkers := v } (y.1 * 128 + y.2.1) .store
      generalize State.walk { s with mem := m, walkers := v } (y.1 * 128 + y.2.1) .store = p at h2
      obtain ⟨r, t1⟩ := p
      dsimp only at h2
      subst h2
      cases r <;> exact ⟨_, v2, rfl⟩
  exact key l (true, s) ⟨s.mem, s.walkers, rfl⟩

end Sys2Proof.Machine
end

