-- ==== Sys2Proof/Laws/MemKept.lean ====
section
/-!
SUPPORT. The operations that leave memory alone: one lemma each, `X_mem`, and for one that answers a pair a form
`X_kept` that reads its equation. What is not here writes at a home: Laws/MemWf.lean.
-/
namespace Sys2Proof.Machine

@[simp] theorem foldl_mem {α : Type} (f : State → α → State) (hf : ∀ s a, (f s a).mem = s.mem) (l : List α)
    (s : State) : (l.foldl f s).mem = s.mem := by
  induction l generalizing s with
  | nil => rfl
  | cons a r ih => rw [List.foldl_cons, ih, hf]
@[simp] theorem foldl2_mem {α β : Type} (f : β × State → α → β × State) (hf : ∀ s a, (f s a).2.mem = s.2.mem)
    (l : List α) (s : β × State) : (l.foldl f s).2.mem = s.2.mem := by
  induction l generalizing s with
  | nil => rfl
  | cons a r ih => rw [List.foldl_cons, ih, hf]
@[simp] theorem State.arenaDie_mem (s : State) (slot : Nat) : (State.arenaDie s slot).mem = s.mem := by rfl
@[simp] theorem State.recall_mem (s : State) (p : FibId → Bool) : (State.recall s p).mem = s.mem := by
  unfold State.recall
  apply foldl_mem
  intro t y
  split
  · split <;> simp
  · rfl
@[simp] theorem State.stopRuns_mem (s : State) (nid gid cid : Nat) :
    (State.stopRuns s nid gid cid).mem = s.mem := by simp [State.stopRuns]
@[simp] theorem State.suspend_mem (s : State) (nid gid cid code : Nat) :
    (State.suspend s nid gid cid code).mem = s.mem := by simp [State.suspend]
@[simp] theorem State.failNode_mem (s : State) (nid code : Nat) : (State.failNode s nid code).mem = s.mem := by
  unfold State.failNode
  repeat' split
  all_goals simp
@[simp] theorem State.nodeFails_mem (s : State) (id : FibId) (pc : DWord) (code sub : Nat) (va : DWord) (ia : Nat) :
    (State.nodeFails s id pc code sub va ia).mem = s.mem := by simp [State.nodeFails]
@[simp] theorem State.nodeFault_mem (s : State) (id : FibId) (pc : DWord) (code : Nat) (va : DWord) (ia : Nat) :
    (State.nodeFault s id pc code va ia).mem = s.mem := by simp [State.nodeFault]
@[simp] theorem State.actOn_mem (s : State) (l : List FaultItem) : (State.actOn s l).mem = s.mem := by
  unfold State.actOn
  dsimp only
  repeat' split
  all_goals simp
@[simp] theorem State.actAll_mem (s : State) (l : List FaultItem) : (State.actAll s l).mem = s.mem := by
  simp [State.actAll]
@[simp] theorem State.wordDone_mem (s : State) (id : FibId) : (State.wordDone s id).mem = s.mem := by rfl
@[simp] theorem State.raise_mem (s : State) (l : List FaultItem) : (State.raise s l).mem = s.mem := by
  simp [State.raise]
@[simp] theorem State.enterTrap_mem (s : State) (tepc : DWord) (code sub : Nat) (val : DWord) :
    (State.enterTrap s tepc code sub val).mem = s.mem := by
  unfold State.enterTrap
  split <;> simp
@[simp] theorem State.trap_mem (s : State) (first tepc : DWord) (code sub : Nat) (val : DWord) :
    (State.trap s first tepc code sub val).mem = s.mem := by
  unfold State.trap
  split <;> simp
@[simp] theorem State.putW_mem (s : State) (f : Fld) (v : Word) (a : State) : (s.putW f v a).mem = a.mem := by rfl
@[simp] theorem State.putD_mem (s : State) (f : Fld) (v : DWord) (a : State) : (s.putD f v a).mem = a.mem := by rfl
@[simp] theorem State.putRun_mem (s : State) (f : Fld) (vs : List Word) (a : State) :
    (s.putRun f vs a).mem = a.mem := by rfl
@[simp] theorem State.putY_mem (s : State) (f : Fld) (v : YReg) (a : State) : (s.putY f v a).mem = a.mem := by rfl
@[simp] theorem State.putP_mem (_s : State) (k : Nat) (b : Bool) (a : State) : (State.putP _s k b a).mem = a.mem := by rfl
@[simp] theorem State.entry_mem (s : State) (u key addr : Nat) : (State.entry s u key addr).2.mem = s.mem := by
  unfold State.entry
  dsimp only
  repeat' split
  all_goals simp
theorem State.entry_kept {s : State} {u key addr : Nat} {res after} (h : State.entry s u key addr = (res, after)) :
    after.mem = s.mem := by
  rw [← State.entry_mem s u key addr, h]
@[simp] theorem State.tableWalk_mem (s : State) (ia : Nat) (need : Need) : (State.tableWalk s ia need).2.mem = s.mem := by
  unfold State.tableWalk
  dsimp only
  repeat' split
  all_goals simp
theorem State.tableWalk_kept {s : State} {ia : Nat} {need : Need} {res after} (h : State.tableWalk s ia need = (res, after)) :
    after.mem = s.mem := by
  rw [← State.tableWalk_mem s ia need, h]
@[simp] theorem State.walk_mem (s : State) (ia : Nat) (need : Need) : (State.walk s ia need).2.mem = s.mem := by
  unfold State.walk
  repeat' split
  all_goals simp
theorem State.walk_kept {s : State} {ia : Nat} {need : Need} {res after} (h : State.walk s ia need = (res, after)) :
    after.mem = s.mem := by
  rw [← State.walk_mem s ia need, h]
@[simp] theorem State.sentTo_mem (s : State) (core ia : Nat) : (State.sentTo s core ia).mem = s.mem := by simp [State.sentTo]
@[simp] theorem State.lineLost_mem (s : State) (core : Nat) (l : L1Line) : (State.lineLost s core l).mem = s.mem := by
  unfold State.lineLost
  split <;> simp
@[simp] theorem State.finishLine_mem (s : State) (core ln : Nat) : (State.finishLine s core ln).mem = s.mem := by
  unfold State.finishLine
  refine foldl_mem _ (fun t b => foldl_mem _ (fun u a => ?_) _ _) _ _
  split
  · split <;> simp
  · rfl
@[simp] theorem State.lineLeaves_mem (s : State) (core ln : Nat) : (State.lineLeaves s core ln).mem = s.mem := by
  unfold State.lineLeaves
  repeat' split
  all_goals simp
@[simp] theorem State.writeBack_mem (s : State) (core ln : Nat) : (State.writeBack s core ln).mem = s.mem := by
  simp [State.writeBack]
@[simp] theorem State.flushLine_mem (s : State) (core ln : Nat) :
    (State.flushLine s core ln).mem = s.mem := by simp [State.flushLine]
@[simp] theorem State.makeRoom_mem (s : State) (core ln : Nat) : (State.makeRoom s core ln).mem = s.mem := by
  unfold State.makeRoom
  dsimp only
  repeat' split
  all_goals simp
@[simp] theorem State.fillL1_mem (s : State) (core ln : Nat) (home : List Byte) (ctx : Nat) (tracked : Bool) :
    (State.fillL1 s core ln home ctx tracked).mem = s.mem := by simp [State.fillL1]
@[simp] theorem State.trimL1_mem (s : State) (core : Nat) : (State.trimL1 s core).mem = s.mem := by
  unfold State.trimL1
  apply foldl_mem
  intro t l
  split <;> simp
@[simp] theorem State.writeBackAll_mem (s : State) (core : Nat) (p : L1Line → Bool) :
    (State.writeBackAll s core p).mem = s.mem := by simp [State.writeBackAll]
@[simp] theorem State.storeL1_mem (s : State) (core ia : Nat) (bs : List Byte) (ctx : Nat) (tracked : Bool) (crew : Nat × Nat) :
    (State.storeL1 s core ia bs ctx tracked crew).mem = s.mem := by
  unfold State.storeL1
  apply foldl_mem
  intro t x
  dsimp only
  split
  · split <;> simp
  · simp
@[simp] theorem State.homeLine_mem (s : State) (ln : Nat) (need : Need) : (State.homeLine s ln need).2.mem = s.mem := by
  unfold State.homeLine
  grind [State.walk_kept]
theorem State.homeLine_kept {s : State} {ln : Nat} {need : Need} {res after} (h : State.homeLine s ln need = (res, after)) :
    after.mem = s.mem := by
  rw [← State.homeLine_mem s ln need, h]
@[simp] theorem State.homeBytes_mem (s : State) (ia size : Nat) : (State.homeBytes s ia size).2.mem = s.mem := by
  unfold State.homeBytes
  apply foldl2_mem (fun _ _ => _)
  rintro ⟨_ | _, t⟩ x
  · rfl
  · grind [State.walk_kept]
theorem State.homeBytes_kept {s : State} {ia size : Nat} {res after} (h : State.homeBytes s ia size = (res, after)) :
    after.mem = s.mem := by
  rw [← State.homeBytes_mem s ia size, h]
@[simp] theorem State.engineBytes_mem (s : State) (core ia size : Nat) :
    (State.engineBytes s core ia size).2.mem = s.mem := by
  unfold State.engineBytes
  grind [State.homeBytes_kept]
theorem State.engineBytes_kept {s : State} {core ia size : Nat} {res after} (h : State.engineBytes s core ia size = (res, after)) :
    after.mem = s.mem := by
  rw [← State.engineBytes_mem s core ia size, h]
@[simp] theorem State.walkRun_mem (s : State) (ia size : Nat) (need : Need) :
    (State.walkRun s ia size need).2.mem = s.mem := by
  obtain ⟨v, hv⟩ := s.walkRun_frame ia size need
  rw [hv]
theorem State.walkRun_kept {s : State} {ia size : Nat} {need : Need} {res after} (h : State.walkRun s ia size need = (res, after)) :
    after.mem = s.mem := by
  rw [← State.walkRun_mem s ia size need, h]
@[simp] theorem State.readL1_mem (s : State) (core ia size ctx : Nat) (tracked : Bool) (need : Need) :
    (State.readL1 s core ia size ctx tracked need).2.mem = s.mem := by
  unfold State.readL1
  have key := foldl2_mem (fun (acc : Bool × State) (x : Nat × Nat × Nat) =>
      if !acc.1 then acc
      else if (acc.2.core core).holds (x.1 * 128 + x.2.1) x.2.2 then acc
      else
        match acc.2.homeLine x.1 need with
        | (none, t1) => (false, t1)
        | (some home, t1) => (true, t1.fillL1 core x.1 home ctx tracked))
    (by rintro ⟨b, t⟩ x; grind [State.homeLine_kept, State.fillL1_mem]) (splitLines ia size) (true, s)
  generalize List.foldl _ (true, s) (splitLines ia size) = p at key ⊢
  obtain ⟨b, t⟩ := p
  cases b <;> exact key
theorem State.readL1_kept {s : State} {core ia size ctx : Nat} {tracked : Bool} {need : Need} {res after} (h : State.readL1 s core ia size ctx tracked need = (res, after)) :
    after.mem = s.mem := by
  rw [← State.readL1_mem s core ia size ctx tracked need, h]
@[simp] theorem State.onAcc_mem (s : State) (id : FibId) (ser : Nat) (k : Access → Access) :
    (State.onAcc s id ser k).mem = s.mem := by simp [State.onAcc]
@[simp] theorem State.performed_mem (s : State) (id : FibId) (a : Access) (vals : List Word) (status : Option Bool) :
    (State.performed s id a vals status).mem = s.mem := by simp [State.performed]
@[simp] theorem State.convArrived_mem (s : State) (id : FibId) (a : Access) (bs : List Byte) :
    (State.convArrived s id a bs).mem = s.mem := by simp [State.convArrived]
@[simp] theorem State.accFails_mem (s : State) (id : FibId) (ser code sub ia : Nat) :
    (State.accFails s id ser code sub ia).mem = s.mem := by
  unfold State.accFails
  split <;> simp
@[simp] theorem State.walkFailed_mem (s : State) (id : FibId) (a : Access) (e : Nat × Nat × Nat) :
    (State.walkFailed s id a e).mem = s.mem := by
  unfold State.walkFailed
  dsimp only
  repeat' split
  all_goals simp
@[simp] theorem State.fetchRun_mem (s : State) (x : Site) (a : Access) (ia size : Nat) (need : Need) :
    (State.fetchRun s x a ia size need).2.mem = s.mem := by
  unfold State.fetchRun
  split
  · rename_i h; exact State.walkRun_kept h
  · rename_i h
    split
    · exact State.walkRun_kept h
    · split <;> (rename_i h2; exact (State.readL1_kept h2).trans (State.walkRun_kept h))
theorem State.fetchRun_kept {s : State} {x : Site} {a : Access} {ia size : Nat} {need : Need} {res after} (h : State.fetchRun s x a ia size need = (res, after)) :
    after.mem = s.mem := by
  rw [← State.fetchRun_mem s x a ia size need, h]
theorem State.performLoad_mem (s : State) (x : Site) (a : Access) (off size : Nat) (k : State → List Byte → State)
    (hk : ∀ t bs, (k t bs).mem = t.mem) : (s.performLoad x a off size k).mem = s.mem := by
  unfold State.performLoad
  grind [State.fetchRun_kept, State.walkFailed_mem]
@[simp] theorem State.halfDone_mem (s : State) (id : FibId) (a : Access) (high : Bool) (data : List Byte) :
    (State.halfDone s id a high data).mem = s.mem := by simp [State.halfDone]
@[simp] theorem State.performQuad_mem (s : State) (x : Site) (a : Access) (done : Option Bool) :
    (State.performQuad s x a done).mem = s.mem := by
  unfold State.performQuad
  apply State.performLoad_mem
  intro t bs
  split <;> simp
@[simp] theorem State.performLdy_mem (s : State) (x : Site) (a : Access) (slot : Nat) :
    (State.performLdy s x a slot).mem = s.mem := by
  unfold State.performLdy
  apply State.performLoad_mem
  intro t bs
  dsimp only
  split
  · simp
  · split
    · simp
    · exact State.performLoad_mem _ _ _ _ _ _ fun _ _ => by simp
@[simp] theorem State.sendMarker_mem (s : State) (x : Site) (a : Access) : (State.sendMarker s x a).mem = s.mem := by
  unfold State.sendMarker
  dsimp only
  split <;> simp
@[simp] theorem State.startRelease_mem (s : State) (x : Site) (a : Access) : (State.startRelease s x a).mem = s.mem := by
  unfold State.startRelease
  dsimp only
  repeat' split
  all_goals simp
@[simp] theorem State.acquire_mem (s : State) (core scope : Nat) : (State.acquire s core scope).mem = s.mem := by
  unfold State.acquire
  split <;> simp
@[simp] theorem State.sendHome_mem (s : State) (x : Site) (a : Access) :
    (State.sendHome s x a).mem = s.mem := by simp [State.sendHome]
@[simp] theorem State.spadStore_mem (s : State) (x : Site) (a : Access) : (State.spadStore s x a).mem = s.mem := by
  unfold State.spadStore
  split <;> simp
@[simp] theorem State.fenceDone_mem (s : State) (x : Site) (a : Access) (rel acq chk : Bool) :
    (State.fenceDone s x a rel acq chk).mem = s.mem := by
  unfold State.fenceDone
  split <;> simp
@[simp] theorem State.comesToNothing_mem (s : State) (id : FibId) (a : Access) :
    (State.comesToNothing s id a).mem = s.mem := by simp [State.comesToNothing]
@[simp] theorem State.performDeq_mem (s : State) (x : Site) (a : Access) : (State.performDeq s x a).mem = s.mem := by
  unfold State.performDeq
  split <;> simp
@[simp] theorem State.performLdf_mem (s : State) (x : Site) (a : Access) (cons : Bool) :
    (State.performLdf s x a cons).mem = s.mem := by
  unfold State.performLdf
  dsimp only
  repeat' split
  all_goals simp
@[simp] theorem State.performRange_mem (s : State) (x : Site) (a : Access) (drop : Bool) :
    (State.performRange s x a drop).mem = s.mem := by
  unfold State.performRange
  repeat' split
  all_goals simp
@[simp] theorem State.performInL1_mem (s : State) (x : Site) (a : Access) : (State.performInL1 s x a).mem = s.mem := by
  unfold State.performInL1
  grind [State.fetchRun_kept, State.walkFailed_mem, State.walkRun_kept, State.storeL1_mem, State.performed_mem]
@[simp] theorem State.unreached_mem (s : State) (id : FibId) (core : Nat) (a : Access) :
    (State.unreached s id core a).mem = s.mem := by
  unfold State.unreached
  split <;> simp
@[simp] theorem State.performAtHome_mem (s : State) (x : Site) (a : Access) : (State.performAtHome s x a).mem = s.mem := by
  unfold State.performAtHome
  grind [State.walkFailed_mem, State.walkRun_kept, State.startRelease_mem, State.sendHome_mem, State.unreached_mem]
@[simp] theorem State.performStore_mem (s : State) (x : Site) (a : Access) : (State.performStore s x a).mem = s.mem := by
  unfold State.performStore
  grind [State.walkFailed_mem, State.walkRun_kept, State.storeL1_mem, State.performed_mem, State.halfDone_mem]
@[simp] theorem State.performSpad_mem (s : State) (x : Site) (a : Access) : (State.performSpad s x a).mem = s.mem := by
  unfold State.performSpad
  dsimp only
  repeat' split
  all_goals simp
@[simp] theorem State.perform_mem (s : State) (x : Site) (a : Access) : (State.perform s x a).mem = s.mem := by
  unfold State.perform
  dsimp only
  have load := fun (k : State → List Byte → State) hk => s.performLoad_mem x a 0 a.size k hk
  repeat' split
  all_goals first
    | rfl
    | (simp; done)
    | (apply load; intros; simp)
@[simp] theorem State.retranslate_mem (s : State) (x : Site) (a : Access) : (State.retranslate s x a).mem = s.mem := by
  unfold State.retranslate
  dsimp only
  split <;> simp
@[simp] theorem State.attempt_mem (s : State) (id : FibId) (ser : Nat) (retry : Bool) :
    (State.attempt s id ser retry).mem = s.mem := by
  unfold State.attempt
  repeat' split
  all_goals simp
@[simp] theorem State.lossTo_mem (s : State) (core ia : Nat) (w : LostWrite) (after : List Flight) :
    (State.lossTo s core ia w after).mem = s.mem := by
  unfold State.lossTo
  dsimp only
  rw [foldl_mem, State.mapFibres_mem, foldl_mem]
  · intro t m; split <;> simp
  · intro t y; split
    · split <;> simp
    · rfl
@[simp] theorem State.lose_mem (s : State) (k : Nat) : (State.lose s k).mem = s.mem := by
  unfold State.lose
  dsimp only
  repeat' split
  all_goals simp
@[simp] theorem State.markerDone_mem (s : State) (who : FibId) (ser : Nat) : (State.markerDone s who ser).mem = s.mem := by
  unfold State.markerDone
  repeat' split
  all_goals simp
@[simp] theorem State.markerAck_mem (s : State) (k : Nat) : (State.markerAck s k).mem = s.mem := by
  unfold State.markerAck
  repeat' split
  all_goals simp
@[simp] theorem State.atIssue_mem (s : State) : (State.atIssue s).mem = s.mem := by
  unfold State.atIssue
  repeat' split
  all_goals simp
@[simp] theorem State.endFibre_mem (s : State) : (State.endFibre s).mem = s.mem := by
  unfold State.endFibre
  dsimp only
  split <;> simp
@[simp] theorem State.issueAccess_mem (s : State) (a : Access) : (State.issueAccess s a).mem = s.mem := by rfl
@[simp] theorem State.issueNow_mem (s : State) (a : Access) : (State.issueNow s a).mem = s.mem := by simp [State.issueNow]
@[simp] theorem State.clip_mem (s : State) (top levels : Nat) : (State.clip s top levels).mem = s.mem := by rfl
@[simp] theorem State.moveFrames_mem (s : State) (a : Moved) : (s.moveFrames a).mem = s.mem := by
  unfold State.moveFrames
  split
  · refine (foldl_mem _ ?_ _ _).trans (foldl_mem _ ?_ _ _) <;> intros <;> simp
  · refine (foldl_mem _ ?_ _ _).trans (foldl_mem _ ?_ _ _) <;> intros <;> simp
  · rfl
@[simp] theorem State.bear_mem (s : State) (x : Fibre) : (State.bear s x).mem = s.mem := by
  unfold State.bear
  split <;> simp
@[simp] theorem State.addCrew_mem (s : State) (nid gid core : Nat) (c : Crew) :
    (State.addCrew s nid gid core c).mem = s.mem := by simp [State.addCrew]
@[simp] theorem State.spawn_mem (s : State) (mask : Word) (pc : DWord) (cells : List Word) (pos : Nat) :
    (State.spawn s mask pc cells pos).mem = s.mem := by
  unfold State.spawn
  dsimp only
  split <;> simp
@[simp] theorem State.leadDoes_mem (s : State) (k : Gang → Gang) (a : State) :
    (s.leadDoes k a).mem = a.mem := by unfold State.leadDoes; split <;> simp
@[simp] theorem State.landCpb_mem (s : State) (g : Gang) (k : Nat) (c : CpbOp) (bs : List Byte) :
    (State.landCpb s g k c bs).mem = s.mem := by simp [State.landCpb]
@[simp] theorem State.readCpb_mem (s : State) (n : Node) (g : Gang) (core k : Nat) (c : CpbOp) :
    (State.readCpb s n g core k c).mem = s.mem := by
  unfold State.readCpb
  dsimp only
  repeat' split
  all_goals (try simp only [State.onGang_mem, State.landCpb_mem])
  all_goals first
    | rfl
    | exact State.walkRun_kept (by assumption)
    | exact (State.engineBytes_kept (by assumption)).trans (State.walkRun_kept (by assumption))
@[simp] theorem cpbLand_mem (s : State) (nid gid k : Nat) : (cpbLand s nid gid k).mem = s.mem := by
  unfold cpbLand
  split
  · split
    · extract_lets behind
      split
      · rfl
      · split <;> simp
    · rfl
  · rfl
@[simp] theorem State.engineError_mem (s : State) (g : Gang) (o : CopyOp) (ia : Nat) :
    (State.engineError s g o ia).mem = s.mem := by simp [State.engineError]
@[simp] theorem State.copyEnds_mem (s : State) (g : Gang) (x : Nat) (o : CopyOp) (status : Nat) :
    (State.copyEnds s g x o status).mem = s.mem := by
  unfold State.copyEnds
  split <;> simp
@[simp] theorem State.onCopy_mem (s : State) (g : Gang) (x seq : Nat) (k : CopyOp → CopyOp) :
    (State.onCopy s g x seq k).mem = s.mem := by simp [State.onCopy]
@[simp] theorem State.checkRuns_mem (s : State) (n : Node) (core : Nat) (known : List Nat) (l : List Run) :
    (s.checkRuns n core known l).2.mem = s.mem := by
  induction l generalizing s with
  | nil => rfl
  | cons x rest ih =>
    have lines := fun (t : State) (l : List Nat) => foldl_mem (fun (u : State) ln => u.flushLine core ln) (by simp) l t
    unfold State.checkRuns
    split
    · rfl
    · split
      · rfl
      · split
        · rfl
        · split
          · exact State.walkRun_kept (by assumption)
          · exact State.walkRun_kept (by assumption)
          · exact State.walkRun_kept (by assumption)
          · rename_i t h
            have k := State.walkRun_kept h
            split
            · exact k
            · extract_lets l t1
              have k1 : t1.mem = s.mem := by simp only [t1]; split <;> simp [lines, k]
              split
              · exact k1
              · have k2 := (ih t1).trans k1
                split <;> rename_i h2 <;> rw [h2] at k2 <;> exact k2
theorem State.checkRuns_kept {s : State} {n : Node} {core : Nat} {known : List Nat} {l : List Run} {res after}
    (h : s.checkRuns n core known l = (res, after)) : after.mem = s.mem := by
  rw [← s.checkRuns_mem n core known l, h]
@[simp] theorem State.markCopy_mem (s : State) (g : Gang) (core x : Nat) (o : CopyOp) (v : Nat) :
    (State.markCopy s g core x o v).mem = s.mem := by
  unfold State.markCopy
  split <;> simp
@[simp] theorem State.copyStops_mem (s : State) (g : Gang) (x : Nat) (o : CopyOp) (r : RunsRes) :
    (s.copyStops g x o r).mem = s.mem := by
  unfold State.copyStops
  split
  · rfl
  · split <;> simp
  · simp
  · dsimp only; split <;> simp
  · rfl
@[simp] theorem State.copyAgain_mem (s : State) (g : Gang) (x : Nat) (o : CopyOp) :
    (State.copyAgain s g x o).mem = s.mem := by
  unfold State.copyAgain
  split <;> simp
@[simp] theorem State.copyBegins_mem (s : State) (g : Gang) (core x : Nat) (o : CopyOp) (ver : Option Nat) :
    (State.copyBegins s g core x o ver).mem = s.mem := by
  unfold State.copyBegins
  dsimp only
  repeat' split
  all_goals simp
@[simp] theorem State.copyMoved_mem (s : State) (g : Gang) (core x : Nat) (o : CopyOp) (v : Nat) (ver : Option Nat) :
    (State.copyMoved s g core x o v ver).mem = s.mem := by
  unfold State.copyMoved
  repeat' split
  all_goals simp
@[simp] theorem copyStart_mem (s : State) (nid gid x : Nat) : (copyStart s nid gid x).mem = s.mem := by
  unfold copyStart
  dsimp only
  repeat' split
  all_goals simp
@[simp] theorem copyPageResume_mem (s : State) (nid gid x seq : Nat) : (copyPageResume s nid gid x seq).mem = s.mem := by
  unfold copyPageResume
  repeat' split
  all_goals simp
@[simp] theorem State.beginRelease_mem (s : State) : (State.beginRelease s).mem = s.mem := by simp [State.beginRelease]
@[simp] theorem State.endRelease_mem (s : State) (lost : Bool) : (State.endRelease s lost).mem = s.mem := by
  unfold State.endRelease
  dsimp only
  split <;> simp
@[simp] theorem refill_mem (s : State) (core : Nat) : (refill s core).mem = s.mem := by
  unfold refill
  dsimp only
  repeat' split
  all_goals simp
@[simp] theorem matrixTake_mem (s : State) (nid gid pick : Nat) : (matrixTake s nid gid pick).mem = s.mem := by
  unfold matrixTake
  repeat' split
  all_goals simp
@[simp] theorem State.clearLines_mem (s : State) (core ia size : Nat) : (State.clearLines s core ia size).2.mem = s.mem :=
  foldl_mem (fun (u : State) ln => u.flushLine core ln) (by simp) _ _
theorem State.clearLines_kept {s : State} {core ia size : Nat} {res after} (h : State.clearLines s core ia size = (res, after)) :
    after.mem = s.mem := by
  rw [← State.clearLines_mem s core ia size, h]
@[simp] theorem State.touch_mem (s : State) (x : Site) (tr : Xlat) (va size : Nat) (need : Need) :
    (State.touch s x tr va size need).2.mem = s.mem := by
  unfold State.touch
  split
  · rfl
  · split
    · rfl
    · split
      · rfl
      · split
        · split
          · rfl
          · exact State.tryAgain_mem s _
        · exact State.walkRun_kept (by assumption)
        · rename_i h
          have k := State.walkRun_kept h
          split
          · exact k
          · split
            · rename_i h1; exact (State.clearLines_kept h1).trans ((State.sentTo_mem _ _ _).trans k)
            · rename_i h1
              have k1 := (State.clearLines_kept h1).trans ((State.sentTo_mem _ _ _).trans k)
              split <;> (rename_i h2; exact (State.walk_kept h2).trans k1)
theorem State.touch_kept {s : State} {x : Site} {tr : Xlat} {va size : Nat} {need : Need} {res after}
    (h : State.touch s x tr va size need = (res, after)) : after.mem = s.mem := by
  rw [← State.touch_mem s x tr va size need, h]
@[simp] theorem State.stepFault_mem (s : State) (x : Site) (code sub va ia : Nat) :
    (State.stepFault s x code sub va ia).mem = s.mem := by simp [State.stepFault]
theorem State.touching_mem (s : State) (x : Site) (tr : Xlat) (va size : Nat) (need : Need) (k : State → Nat → State)
    (hk : ∀ t pa, (k t pa).mem = t.mem) : (s.touching x tr va size need k).mem = s.mem := by
  unfold State.touching
  grind [State.touch_kept, State.stepFault_mem, State.onFibre_mem]
theorem State.touchVa_mem (s : State) (x : Site) (va size : Nat) (need : Need) (k : State → Nat → State)
    (hk : ∀ t pa, (k t pa).mem = t.mem) : (s.touchVa x va size need k).mem = s.mem := State.touching_mem _ _ _ _ _ _ _ hk
theorem State.atHeader_mem (s : State) (x : Site) (r : ObjRun) (k : State → Nat → State)
    (hk : ∀ t pa, (k t pa).mem = t.mem) : (s.atHeader x r k).mem = s.mem := State.touchVa_mem _ _ _ _ _ _ hk
theorem State.atRecord_mem (s : State) (x : Site) (r : ObjRun) (u : Nat) (k : State → Nat → State)
    (hk : ∀ t pa, (k t pa).mem = t.mem) : (s.atRecord x r u k).mem = s.mem := State.touchVa_mem _ _ _ _ _ _ hk
theorem State.atBox_mem (s : State) (x : Site) (gfi : Nat) (k : State → Nat → State)
    (hk : ∀ t pa, (k t pa).mem = t.mem) : (s.atBox x gfi k).mem = s.mem := State.touching_mem _ _ _ _ _ _ _ hk
@[simp] theorem State.onRun_mem (s : State) (id : FibId) (k : ObjRun → ObjRun) :
    (State.onRun s id k).mem = s.mem := by simp [State.onRun]
@[simp] theorem State.setMid_mem (s : State) (id : FibId) (m : ObjMid) :
    (State.setMid s id m).mem = s.mem := by simp [State.setMid]
@[simp] theorem State.countStep_mem (s : State) (x : Site) (k : ObjRun → ObjRun) :
    (State.countStep s x k).mem = s.mem := by simp [State.countStep]
theorem State.objStep_mem (s : State) (who : FibId) (k : State → Site → ObjRun → State)
    (hk : ∀ t x r, (k t x r).mem = t.mem) : (s.objStep who k).mem = s.mem := by
  have release := fun (x : Site) (r : ObjRun) (m : State → Nat → Nat) => s.atHeader_mem x r
    (fun t hp => (t.triesDone (.step who)).onFibre who fun b => b.releaseAt (t.readHdr hp).scope (m t hp) r) (by simp)
  unfold State.objStep
  repeat' split
  all_goals first
    | rfl
    | exact hk _ _ _
    | exact release _ _ fun _ _ => _
@[simp] theorem State.helped_mem (s : State) (x : Site) (r : ObjRun) (bound : Nat) :
    (State.helped s x r bound).mem = s.mem := by simp [State.helped]
@[simp] theorem State.stepEnds_mem (s : State) (x : Site) (r : ObjRun) : (State.stepEnds s x r).mem = s.mem := by
  unfold State.stepEnds
  split <;> simp
@[simp] theorem State.beginFinish_mem (s : State) (x : Site) (u rp : Nat) (c : ObjRec) :
    (State.beginFinish s x u rp c).mem = s.mem := State.atBox_mem _ _ _ _ fun _ _ => by simp
@[simp] theorem State.beginApply_mem (s : State) (x : Site) (r : ObjRun) (hp : Nat) :
    (State.beginApply s x r hp).mem = s.mem := by
  unfold State.beginApply
  refine State.atRecord_mem _ _ _ _ _ fun t rp => ?_
  dsimp only
  split
  · simp
  · refine State.atBox_mem _ _ _ _ fun u mp => ?_
    split
    · simp
    · exact State.touchVa_mem _ _ _ _ _ _ fun _ _ => by simp
@[simp] theorem State.beginAnnounce_mem (s : State) (x : Site) (r : ObjRun) : (State.beginAnnounce s x r).mem = s.mem := by
  unfold State.beginAnnounce
  refine State.atHeader_mem _ _ _ _ fun t hp => ?_
  refine State.atRecord_mem _ _ _ _ _ fun u rp => ?_
  dsimp only
  repeat' split
  all_goals first
    | (simp; done)
    | exact State.atBox_mem _ _ _ _ fun _ _ => by simp
theorem State.ownTicket_mem (s : State) (x : Site) (r : ObjRun) (k : State → Nat → Nat → State)
    (hk : ∀ t hp rp, (k t hp rp).mem = t.mem) : (s.ownTicket x r k).mem = s.mem := by
  unfold State.ownTicket
  refine State.atHeader_mem _ _ _ _ fun t hp => ?_
  refine State.atRecord_mem _ _ _ _ _ fun u rp => ?_
  split
  · simp
  · exact hk _ _ _
theorem State.atRecords_mem (s : State) (x : Site) (r : ObjRun) (k : State → State) (hk : ∀ t, (k t).mem = t.mem)
    (l : List Nat) : (s.atRecords x r k l).mem = s.mem := by
  induction l generalizing s with
  | nil => exact hk s
  | cons u rest ih => exact State.atRecord_mem _ _ _ _ _ fun t _ => ih t
@[simp] theorem State.helpStep_mem (s : State) (x : Site) (r : ObjRun) : (State.helpStep s x r).mem = s.mem := by
  unfold State.helpStep
  refine State.atHeader_mem _ _ _ _ fun t hp => ?_
  dsimp only
  split
  · refine State.atRecords_mem _ _ _ _ (fun u => ?_) _
    split <;> simp
  · split <;> simp
@[simp] theorem State.objDone_mem (s : State) (r : ObjRun) (status : Nat) : (State.objDone s r status).mem = s.mem := by
  unfold State.objDone
  dsimp only
  split <;> simp
@[simp] theorem State.prefLine_mem (s : State) (va : Nat) : (State.prefLine s va).mem = s.mem := by
  unfold State.prefLine
  dsimp only
  repeat' split
  all_goals (try simp only [State.fillL1_mem])
  all_goals first
    | rfl
    | exact State.walkRun_kept (by assumption)
    | exact (State.homeLine_kept (by assumption)).trans (State.walkRun_kept (by assumption))
@[simp] theorem State.markRedux_mem (s : State) (ser : Nat) : (State.markRedux s ser).mem = s.mem := by rfl
@[simp] theorem State.fetchStep_mem (s : State) : (State.fetchStep s).2.mem = s.mem := by
  unfold State.fetchStep
  dsimp only
  repeat' split
  all_goals first
    | rfl
    | exact State.walkRun_kept (by assumption)
    | exact (State.readL1_kept (by assumption)).trans (State.walkRun_kept (by assumption))
theorem State.fetchStep_kept {s : State} {res after} (h : State.fetchStep s = (res, after)) : after.mem = s.mem := by
  rw [← State.fetchStep_mem s, h]
@[simp] theorem State.fetched_mem (s : State) : (State.fetched s).mem = s.mem := by simp [State.fetched]
@[simp] theorem State.regroup_mem (s : State) (core part : Nat) :
    (State.regroup s core part).mem = s.mem := by simp [State.regroup]
@[simp] theorem State.splitBundle_mem (s : State) (core : Nat) (b : Bundle) (done : List FibId) :
    (State.splitBundle s core b done).mem = s.mem := by simp [State.splitBundle]
@[simp] theorem State.onPart_mem (s : State) (core part : Nat) (k : Part → Part) :
    (State.onPart s core part k).mem = s.mem := by simp [State.onPart]
@[simp] theorem State.fetchTries_mem (s : State) (core part : Nat) : (State.fetchTries s core part).mem = s.mem := by
  unfold State.fetchTries
  apply foldl_mem
  intro t b
  split
  · rfl
  · split <;> simp
@[simp] theorem backoffEnds_mem (s : State) (who : FibId) : (backoffEnds s who).mem = s.mem := by
  unfold backoffEnds
  repeat' split
  all_goals simp
@[simp] theorem watchdog_mem (s : State) (who : FibId) : (watchdog s who).mem = s.mem := by
  unfold watchdog
  dsimp only
  repeat' split
  all_goals simp
@[simp] theorem illegalWord_mem (s : State) (level : Nat) (word : Word) : (illegalWord s level word).mem = s.mem := by
  unfold illegalWord
  dsimp only
  split <;> simp
@[simp] theorem delivers_mem (s : State) (who : FibId) (ser : Nat) (kind : DelivKind) :
    (delivers s who ser kind).mem = s.mem := by
  unfold delivers
  repeat' split
  all_goals simp
@[simp] theorem convResolve_mem (s : State) (who : FibId) (ser : Nat) : (convResolve s who ser).mem = s.mem := by
  unfold convResolve
  dsimp only
  repeat' split
  all_goals simp
@[simp] theorem evict_mem (s : State) (core line : Nat) : (evict s core line).mem = s.mem := by
  unfold evict
  split <;> simp
@[simp] theorem memoryFault_mem (s : State) (who : FibId) (ser : Nat) : (memoryFault s who ser).mem = s.mem := by
  unfold memoryFault
  repeat' split
  all_goals simp
theorem Batch.entry_mem (x : Batch) (b : Fibre) (a : Access) : (x.entry b a).st.mem = x.st.mem := by
  unfold Batch.entry
  dsimp only
  repeat' split
  all_goals first | rfl | simp

theorem Batch.copy_mem (x : Batch) (b : Fibre) (c : CpbOp) : (x.copy b c).st.mem = x.st.mem := by
  unfold Batch.copy
  dsimp only
  repeat' split
  all_goals first | rfl | simp

theorem foldl_batch {α : Type} (f : Batch → α → Batch) (hf : ∀ x a, (f x a).st.mem = x.st.mem) (l : List α) (x : Batch) :
    (l.foldl f x).st.mem = x.st.mem := by
  induction l generalizing x with
  | nil => rfl
  | cons a r ih => rw [List.foldl_cons, ih, hf]

theorem Batch.met_mem (x : Batch) (i : FaultItem) : (x.met i).st.mem = x.st.mem := by
  unfold Batch.met
  dsimp only
  split <;> rfl

theorem Batch.fibre_mem (ahead : Bool) (mets : List FaultItem) (x : Batch) (b : Fibre) :
    (Batch.fibre ahead mets x b).st.mem = x.st.mem := by
  unfold Batch.fibre
  extract_lets own z later copies y
  have hy : y.st.mem = x.st.mem := by
    simp only [y, z]
    rw [foldl_batch _ (fun z c => z.copy_mem b c), foldl_batch _ (fun z a => z.entry_mem b a),
      foldl_batch _ (fun z i => z.met_mem i)]
  split <;> exact hy
@[simp] theorem pageReport_mem (s : State) (nid gid cid : Nat) : (pageReport s nid gid cid).mem = s.mem := by
  unfold pageReport
  dsimp only
  split
  · rfl
  · rw [State.actAll_mem, State.suspend_mem, State.report_mem, foldl_batch _ (fun x b => Batch.fibre_mem _ _ x b),
      State.stopRuns_mem]
@[simp] theorem resumeCrew_mem (s : State) (nid gid cid : Nat) : (resumeCrew s nid gid cid).mem = s.mem := by
  unfold resumeCrew
  repeat' split
  all_goals simp
@[simp] theorem failCrew_mem (s : State) (nid gid cid : Nat) : (failCrew s nid gid cid).mem = s.mem := by
  unfold failCrew
  repeat' split
  all_goals simp
@[simp] theorem State.admitted_mem (s : State) (n : Node) (g : Gang) (core : Nat) :
    (State.admitted s n g core).mem = s.mem := by simp [State.admitted]
@[simp] theorem State.dropAllClean_mem (s : State) (core : Nat) :
    (State.dropAllClean s core).mem = s.mem := by simp [State.dropAllClean]
@[simp] theorem State.freeSplit_mem (s : State) (core : Nat) : (State.freeSplit s core).mem = s.mem := by
  unfold State.freeSplit
  split <;> simp
@[simp] theorem State.savesFibres_mem (s : State) (n : Node) (p : FibId → Bool) :
    (State.savesFibres s n p).mem = s.mem := by simp [State.savesFibres]
@[simp] theorem State.livesDone_mem (s : State) (n : Node) (l : List Fibre) : (State.livesDone s n l).mem = s.mem := by
  unfold State.livesDone
  exact foldl_mem _ (fun t va => State.triesDone_mem t _) _ _
@[simp] theorem State.livesAgain_mem (s : State) (n : Node) (l : List Fibre) : (State.livesAgain s n l).mem = s.mem :=
  foldl_mem _ (fun _ _ => State.tryAgain_mem _ _) _ _
@[simp] theorem State.saveGang_mem (s : State) (n : Node) (g : Gang) (core : Nat) (swap : Bool) :
    (State.saveGang s n g core swap).mem = s.mem := by simp [State.saveGang]
@[simp] theorem State.stopGang_mem (s : State) (g : Gang) (swap : Option (Nat × Nat)) :
    (State.stopGang s g swap).mem = s.mem := by simp [State.stopGang]
@[simp] theorem State.resumeFibres_mem (s : State) (g : Gang) : (State.resumeFibres s g).mem = s.mem := by rfl
@[simp] theorem State.restoreOn_mem (s : State) (n : Node) (g : Gang) (core old : Nat) (swap : Bool) :
    (State.restoreOn s n g core old swap).mem = s.mem := by
  unfold State.restoreOn
  repeat' split
  all_goals simp
@[simp] theorem State.makeWay_mem (s : State) (n : Node) (g : Gang) : (State.makeWay s n g).mem = s.mem := by
  unfold State.makeWay
  repeat' split
  all_goals simp
@[simp] theorem restoreGang_mem (s : State) (nid gid : Nat) : (restoreGang s nid gid).mem = s.mem := by
  unfold restoreGang
  repeat' split
  all_goals simp
@[simp] theorem preemptOne_mem (s : State) (nid gid cid : Nat) : (preemptOne s nid gid cid).mem = s.mem := by
  unfold preemptOne
  split
  · split
    · split
      · rfl
      · extract_lets mine t fs
        have ht : t.mem = s.mem := by simp [t]
        split
        · exact ht
        · split <;> simp [ht]
    · rfl
  · rfl
@[simp] theorem restoreCrew_mem (s : State) (nid gid cid : Nat) : (restoreCrew s nid gid cid).mem = s.mem := by
  unfold restoreCrew
  repeat' split
  all_goals simp
@[simp] theorem releaseGang_mem (s : State) (nid gid : Nat) : (releaseGang s nid gid).mem = s.mem := by
  unfold releaseGang
  dsimp only
  repeat' split
  all_goals simp
@[simp] theorem startCrew_mem (s : State) (nid gid cid : Nat) : (startCrew s nid gid cid).mem = s.mem := by
  unfold startCrew
  dsimp only
  repeat' split
  all_goals simp
@[simp] theorem tailWrite_mem (s : State) (q tail : Nat) : (tailWrite s q tail).mem = s.mem := by rfl
@[simp] theorem State.headOn_mem (s : State) (q : Nat) : (State.headOn s q).mem = s.mem := by rfl
@[simp] theorem manifestCompare_mem (s : State) (mani spec : Nat) : (manifestCompare s mani spec).mem = s.mem := by
  unfold manifestCompare
  dsimp only
  split
  · exact State.tryAgain_mem s (.manifest mani)
  · exact State.tryAgain_mem s (.manifest spec)
  all_goals simp
@[simp] theorem State.redGone_mem (s : State) (g : Gang) (h : HeldRed) :
    (State.redGone s g h).mem = s.mem := by simp [State.redGone]
@[simp] theorem State.arenaDrop_mem (s : State) (slot : Nat) : (State.arenaDrop s slot).mem = s.mem := by rfl
@[simp] theorem arenaDrained_mem (s : State) (slot : Nat) : (arenaDrained s slot).mem = s.mem := by
  unfold arenaDrained
  dsimp only
  repeat' split
  all_goals simp
@[simp] theorem State.writeBackNode_mem (s : State) (n : Node) :
    (State.writeBackNode s n).mem = s.mem := by simp [State.writeBackNode]
@[simp] theorem State.signalAll_mem (s : State) (n : Node) : (State.signalAll s n).mem = s.mem := by rfl
@[simp] theorem State.forget_mem (s : State) (nid : Nat) : (State.forget s nid).mem = s.mem := by simp [State.forget]
@[simp] theorem State.onFabric_mem (s : State) (k : Fabric → Fabric) : (State.onFabric s k).mem = s.mem := by rfl
@[simp] theorem State.setSublink_mem (s : State) (link sub : Nat) (x : LinkState) :
    (State.setSublink s link sub x).mem = s.mem := by
  unfold State.setSublink
  split <;> simp
@[simp] theorem State.linkEvent_mem (s : State) (bits : Word) (p : Nat → Trip → Bool) :
    (State.linkEvent s bits p).mem = s.mem := by rfl
@[simp] theorem sublinkRetrain_mem (s : State) (link sub : Nat) : (sublinkRetrain s link sub).mem = s.mem := by
  unfold sublinkRetrain
  repeat' split
  all_goals simp
@[simp] theorem State.loseCut_mem (s : State) (n : Nat) : (s.loseCut n).mem = s.mem := by
  induction n generalizing s with
  | zero => rfl
  | succ n ih => unfold State.loseCut; dsimp only; split <;> simp [ih]
@[simp] theorem sublinkFail_mem (s : State) (link sub : Nat) : (sublinkFail s link sub).mem = s.mem := by
  unfold sublinkFail
  repeat' split
  all_goals simp
@[simp] theorem sublinkReturn_mem (s : State) (link sub : Nat) : (sublinkReturn s link sub).mem = s.mem := by
  unfold sublinkReturn
  split <;> simp
@[simp] theorem State.setPath_mem (s : State) (peer path : Nat) (x : LinkState) :
    (State.setPath s peer path x).mem = s.mem := by rfl
@[simp] theorem pathRetrain_mem (s : State) (peer path : Nat) : (pathRetrain s peer path).mem = s.mem := by
  unfold pathRetrain
  repeat' split
  all_goals simp
@[simp] theorem pathFail_mem (s : State) (peer path : Nat) : (pathFail s peer path).mem = s.mem := by
  unfold pathFail
  dsimp only
  repeat' split
  all_goals simp
@[simp] theorem pathReturn_mem (s : State) (peer path : Nat) : (pathReturn s peer path).mem = s.mem := by
  unfold pathReturn
  split <;> simp
@[simp] theorem State.deny_mem (s : State) (rule : Nat) : (State.deny s rule).mem = s.mem := by rfl
@[simp] theorem walkDrop_mem (s : State) (u lo hi : Nat) : (walkDrop s u lo hi).mem = s.mem := by rfl
@[simp] theorem cachePartSet_mem (s : State) (die col mib : Nat) : (cachePartSet s die col mib).mem = s.mem := by
  unfold cachePartSet
  split <;> simp
@[simp] theorem powerSet_mem (s : State) (watts : Nat) : (powerSet s watts).mem = s.mem := by
  unfold powerSet
  split <;> simp
@[simp] theorem firmwareSet_mem (s : State) (engine digest : Nat) (signed : Bool) :
    (firmwareSet s engine digest signed).mem = s.mem := by
  unfold firmwareSet
  split <;> simp
@[simp] theorem State.takeSpare_mem (s : State) (core spare : Nat) :
    (State.takeSpare s core spare).mem = s.mem := by simp [State.takeSpare]
@[simp] theorem spareCore_mem (s : State) (core spare : Nat) : (spareCore s core spare).mem = s.mem := by
  unfold spareCore
  dsimp only
  repeat' split
  all_goals try (simp; done)
  rw [State.onCore_mem]
  apply foldl_mem
  intro t g
  split <;> simp
@[simp] theorem recalibrate_mem (s : State) (kind index : Nat) : (recalibrate s kind index).mem = s.mem := by
  unfold recalibrate
  repeat' split
  all_goals simp
@[simp] theorem State.retireUnit_mem (s : State) (kind index : Nat) (k : Fabric → Fabric) :
    (State.retireUnit s kind index k).mem = s.mem := by simp [State.retireUnit]
@[simp] theorem State.portOut_mem (s : State) (port : Nat) : (State.portOut s port).mem = s.mem := by simp [State.portOut]
@[simp] theorem portReplace_mem (s : State) (port rate : Nat) : (portReplace s port rate).mem = s.mem := by
  unfold portReplace
  repeat' split
  all_goals simp
@[simp] theorem attest_mem (s : State) (nonce : Nat) : (attest s nonce).mem = s.mem := by rfl
@[simp] theorem deviceIdSet_mem (s : State) (id : Nat) : (deviceIdSet s id).mem = s.mem := by
  unfold deviceIdSet
  split <;> simp
@[simp] theorem mgmtWrite_mem (s : State) (reg v : Nat) : (mgmtWrite s reg v).mem = s.mem := by
  unfold mgmtWrite
  repeat' split
  all_goals simp
@[simp] theorem retire_mem (s : State) (kind index : Nat) : (retire s kind index).mem = s.mem := by
  unfold retire
  repeat' split
  all_goals simp
@[simp] theorem State.tripsAt_mem (s : State) (die col : Nat) : (State.tripsAt s die col).mem = s.mem := by rfl
@[simp] theorem tripped_mem (s : State) (die col : Nat) : (tripped s die col).mem = s.mem := by
  unfold tripped
  dsimp only
  split <;> simp
@[simp] theorem sensorSet_mem (s : State) (die col temp : Nat) (valid : Bool) :
    (sensorSet s die col temp valid).mem = s.mem := by
  unfold sensorSet
  split <;> simp
@[simp] theorem scrubbed_mem (s : State) (kind place : Nat) (uncorrectable : Bool) :
    (scrubbed s kind place uncorrectable).mem = s.mem := by
  unfold scrubbed
  repeat' split
  all_goals simp
@[simp] theorem State.asChain_mem (t : State) (start : Nat) (r0 : Option Regs) : (State.asChain t start r0).mem = t.mem := by rfl
@[simp] theorem State.traps_mem (s : State) (code sub : Nat) (val : DWord) : (State.traps s code sub val).mem = s.mem := by
  unfold State.traps
  split <;> simp
@[simp] theorem State.faults_mem (s : State) (code sub : Nat) (va : DWord) (ia : Nat) :
    (State.faults s code sub va ia).mem = s.mem := by
  unfold State.faults
  split <;> simp
@[simp] theorem State.wrote_mem (i : Instr) (k : Regs → Regs) (s : State) : (State.wrote i k s).mem = s.mem := by rfl
@[simp] theorem YDone.effect_mem (y : YDone) (s t : State) : (YDone.effect y s t).mem = t.mem := by
  unfold YDone.effect
  split <;> simp
@[simp] theorem State.issues_mem (a : Access) (va : Int) (ia : Nat) (tracked : Bool) (t : State) :
    (State.issues a va ia tracked t).mem = t.mem := by rfl
@[simp] theorem State.objEnds_mem (x : ObjRun) (status : Nat) (t : State) : (State.objEnds x status t).mem = t.mem := by
  unfold State.objEnds
  split <;> simp
@[simp] theorem State.asIssued_mem (s : State) : (State.asIssued s).mem = s.mem := by simp [State.asIssued]
@[simp] theorem State.engineDoes_mem (s : State) (k : Gang → Gang) (t : State) : (State.engineDoes s k t).mem = t.mem := by
  unfold State.engineDoes
  split <;> simp

end Sys2Proof.Machine
end

