-- ==== Sys2Proof/Laws/Memory.lean ====
section
/-!
SUPPORT. Laws of memory: what one write does, and that every operation keeps the canonical form.
-/
namespace Sys2Proof.Machine

/-! ### The canonical form -/

theorem Memory.wfFrom_mono {m : Memory} {lo lo' : Nat} (h : Memory.wfFrom lo m = true) (hle : lo' ≤ lo) :
    Memory.wfFrom lo' m = true := by
  cases m with
  | nil => rfl
  | cons c r => obtain ⟨k, v⟩ := c; simp only [Memory.wfFrom, Bool.and_eq_true, decide_eq_true_eq] at h ⊢; exact ⟨⟨by omega, h.1.2⟩, h.2⟩

theorem Memory.write_wfFrom {m : Memory} {lo a : Nat} (v : Byte) (h : Memory.wfFrom lo m = true) (hle : lo ≤ a) :
    Memory.wfFrom lo (m.write a v) = true := by
  induction m generalizing lo with
  | nil =>
    by_cases hv : v = Config.blankByte <;> simp [Memory.write, Memory.wfFrom, hv, hle]
  | cons c r ih =>
    obtain ⟨k, w⟩ := c
    simp only [Memory.wfFrom, Bool.and_eq_true, decide_eq_true_eq] at h
    obtain ⟨⟨hk, hw⟩, hr⟩ := h
    unfold Memory.write
    split
    · split
      · simp [Memory.wfFrom, hw, hr]; omega
      · next hv => simp [Memory.wfFrom, hw, hr, hv]; omega
    · split
      · next _ he =>
        subst he
        split
        · exact Memory.wfFrom_mono hr (by omega)
        · next hv => simp [Memory.wfFrom, hr, hv]; omega
      · simp only [Memory.wfFrom, Bool.and_eq_true, decide_eq_true_eq]
        exact ⟨⟨hk, hw⟩, ih hr (by omega)⟩

theorem Memory.write_wf {m : Memory} (a : Nat) (v : Byte) (h : m.wf = true) : (m.write a v).wf = true :=
  Memory.write_wfFrom v h (Nat.zero_le a)

theorem Memory.writeBytes_wf {m : Memory} (a : Nat) (bs : List Byte) (h : m.wf = true) : (m.writeBytes a bs).wf = true := by
  induction bs generalizing m a with
  | nil => exact h
  | cons b r ih => exact ih (a + 1) (Memory.write_wf a b h)

theorem Memory.writeMasked_wf {m : Memory} (a : Nat) (bs : List (Option Byte)) (h : m.wf = true) :
    (m.writeMasked a bs).wf = true := by
  induction bs generalizing m a with
  | nil => exact h
  | cons b r ih =>
    cases b with
    | none => exact ih (a + 1) h
    | some b => exact ih (a + 1) (Memory.write_wf a b h)

theorem Memory.blank_wfFrom {m : Memory} {lo : Nat} (x y : Nat) (h : Memory.wfFrom lo m = true) :
    Memory.wfFrom lo (m.blank x y) = true := by
  induction m generalizing lo with
  | nil => rfl
  | cons c r ih =>
    obtain ⟨k, w⟩ := c
    simp only [Memory.wfFrom, Bool.and_eq_true, decide_eq_true_eq] at h
    unfold Memory.blank at ih ⊢
    rw [List.filter_cons]
    split
    · simp only [Memory.wfFrom, Bool.and_eq_true, decide_eq_true_eq]
      exact ⟨h.1, ih h.2⟩
    · exact Memory.wfFrom_mono (ih h.2) (by omega)

theorem Memory.blank_wf {m : Memory} (x y : Nat) (h : m.wf = true) : (m.blank x y).wf = true := Memory.blank_wfFrom x y h

theorem State.reset_mem_wf : State.reset.mem.wf = true := rfl

/-! ### Reading and writing one byte -/

/-- Below its first listed address, memory is blank. -/
theorem Memory.read_below {m : Memory} {lo a : Nat} (h : Memory.wfFrom lo m = true) (ha : a < lo) :
    m.read a = Config.blankByte := by
  cases m with
  | nil => rfl
  | cons c r =>
    obtain ⟨k, w⟩ := c
    simp only [Memory.wfFrom, Bool.and_eq_true, decide_eq_true_eq] at h
    unfold Memory.read
    rw [if_pos (by omega)]

theorem Memory.read_write_from {m : Memory} {lo : Nat} (a k : Nat) (v : Byte) (h : Memory.wfFrom lo m = true) :
    (m.write a v).read k = if k = a then v else m.read k := by
  induction m generalizing lo with
  | nil =>
    by_cases hv : v = Config.blankByte
    · simp [Memory.write, Memory.read, hv]
    · simp only [Memory.write, hv, if_false, Memory.read]
      by_cases h1 : k = a
      · simp [h1]
      · by_cases h2 : k < a <;> simp [h1, h2, Ne.symm h1]
  | cons c r ih =>
    obtain ⟨j, w⟩ := c
    simp only [Memory.wfFrom, Bool.and_eq_true, decide_eq_true_eq] at h
    obtain ⟨-, hr⟩ := h
    unfold Memory.write
    split
    · next h1 =>
      by_cases hv : v = Config.blankByte
      · rw [if_pos hv]
        by_cases h2 : k = a
        · subst h2; unfold Memory.read; simp [h1, hv]
        · simp [h2]
      · rw [if_neg hv]
        by_cases h2 : k = a
        · subst h2; unfold Memory.read; simp
        · by_cases h3 : k < a
          · rw [if_neg h2]; unfold Memory.read; rw [if_pos h3, if_pos (by omega)]
          · rw [if_neg h2]; conv_lhs => unfold Memory.read
            rw [if_neg h3, if_neg (Ne.symm h2)]
    · split
      · next h1 h2 =>
        subst h2
        by_cases hv : v = Config.blankByte
        · rw [if_pos hv]
          by_cases h3 : k = j
          · subst h3; rw [if_pos rfl, Memory.read_below hr (by omega), hv]
          · rw [if_neg h3]
            by_cases h4 : k < j
            · rw [Memory.read_below hr (by omega)]; unfold Memory.read; rw [if_pos h4]
            · conv_rhs => unfold Memory.read
              rw [if_neg h4, if_neg (Ne.symm h3)]
        · rw [if_neg hv]
          by_cases h3 : k = j
          · subst h3; unfold Memory.read; simp
          · rw [if_neg h3]; unfold Memory.read; simp [Ne.symm h3]
      · next h1 h2 =>
        conv_lhs => unfold Memory.read
        conv_rhs => unfold Memory.read
        rw [ih hr]
        by_cases h3 : k < j
        · rw [if_pos h3, if_pos h3, if_neg (by omega)]
        · rw [if_neg h3, if_neg h3]
          by_cases h4 : j = k
          · rw [if_pos h4, if_pos h4, if_neg (by omega)]
          · rw [if_neg h4, if_neg h4]

/-- A byte written is read, and every other byte reads as before. -/
theorem Memory.read_write {m : Memory} (a k : Nat) (v : Byte) (h : m.wf = true) :
    (m.write a v).read k = if k = a then v else m.read k := Memory.read_write_from a k v h

end Sys2Proof.Machine
end

