-- ==== Sys2Proof/Laws/MemWf.lean ====
section
/-!
SUPPORT. The operations that write at a home keep memory in its canonical form: one lemma each, `X_wf`.
-/
namespace Sys2Proof.Machine

theorem foldl_wf {α : Type} (f : State → α → State) (hf : ∀ s a, s.mem.wf = true → (f s a).mem.wf = true)
    (l : List α) (s : State)
    (h : s.mem.wf = true) : (l.foldl f s).mem.wf = true := by
  induction l generalizing s with
  | nil => exact h
  | cons a r ih => exact ih _ (hf _ _ h)
@[simp] theorem State.homeWrite_wf (s : State) (ia : Nat) (bs : List Byte) (hw : s.mem.wf = true) :
    (State.homeWrite s ia bs).2.mem.wf = true := by
  unfold State.homeWrite
  generalize splitLines ia bs.length = l
  suffices ∀ (l : List (Nat × Nat × Nat)) (p : Bool × State), p.2.mem.wf = true → (l.foldl (fun (acc : Bool × State) x =>
      match acc.2.walk (x.1 * 128 + x.2.1) .store with
      | (.frame pa, t1) =>
        (acc.1, { t1 with mem := t1.mem.writeBytes pa ((bs.drop (x.1 * 128 + x.2.1 - ia)).take x.2.2) })
      | (_, t1) => (false, t1)) p).2.mem.wf = true from this l (true, s) hw
  intro l
  induction l with
  | nil => exact fun _ h => h
  | cons x r ih =>
    intro p h
    refine ih _ ?_
    obtain ⟨b, u⟩ := p
    dsimp only
    split <;> rename_i hw <;> dsimp only <;> rw [State.walk_kept hw] <;>
      first | exact h | exact Memory.writeBytes_wf _ _ h
theorem State.homeWrite_wf' {s t : State} {ia : Nat} {bs : List Byte} {b : Bool} (h : s.homeWrite ia bs = (b, t))
    (hs : s.mem.wf = true) :
    t.mem.wf = true := by
  have := s.homeWrite_wf ia bs hs
  rwa [h] at this
@[simp] theorem State.engineWrite_wf (s : State) (core nid gid cid ia : Nat) (bs : List Byte) (hw : s.mem.wf = true) :
    (State.engineWrite s core nid gid cid ia bs).mem.wf = true := by
  unfold State.engineWrite
  refine foldl_wf _ (fun t x h => ?_) _ _ hw
  dsimp only
  split <;> simp [h]
@[simp] theorem State.ownWrite_wf (s : State) (ia : Nat) (bs : List Byte) (hw : s.mem.wf = true) :
    (State.ownWrite s ia bs).mem.wf = true := State.engineWrite_wf _ _ _ _ _ _ _ hw
@[simp] theorem State.arriveAccess_wf (s : State) (k : Nat) (y : Flight) (who : FibId) (ser : Nat) (hw : s.mem.wf = true) :
    (State.arriveAccess s k y who ser).mem.wf = true := by
  unfold State.arriveAccess
  dsimp only
  split
  · exact hw
  · split
    · exact hw
    · split
      · split <;> simp [hw]
      · rename_i h1; have k := State.walkRun_kept h1; simp [k, hw]
      · rename_i h1
        have k := State.walkRun_kept h1
        split
        · simp [k, hw]
        · split
          · exact hw
          · rename_i h2
            have ht := (State.homeBytes_kept h2).trans k
            rw [State.performed_mem]
            repeat' split
            all_goals simp [ht, hw]
@[simp] theorem State.homeArrive_wf (s : State) (k : Nat) (hw : s.mem.wf = true) :
    (State.homeArrive s k).mem.wf = true := by
  unfold State.homeArrive
  repeat' split
  all_goals first
    | exact hw
    | (simp [hw]; done)
    | (rename_i h; have k := State.walk_kept h; simp [k, hw, Memory.writeMasked_wf]; done)
    | (dsimp only; split <;> simp [hw])
@[simp] theorem State.deviceWrite_wf (s : State) (ia : Nat) (bs : List Byte) (hw : s.mem.wf = true) :
    (State.deviceWrite s ia bs).mem.wf = true := by
  unfold State.deviceWrite
  split <;> simp [hw]
@[simp] theorem State.putStatus_wf (s : State) (nid : Nat) (hw : s.mem.wf = true) :
    (State.putStatus s nid).mem.wf = true := by
  unfold State.putStatus
  split <;> simp [hw]
@[simp] theorem State.nodeState_wf (s : State) (nid : Nat) (st : NodeState) (hw : s.mem.wf = true) :
    (State.nodeState s nid st).mem.wf = true := by simp [State.nodeState, hw]
@[simp] theorem State.setFlag_wf (s : State) (nid bit : Nat) (hw : s.mem.wf = true) :
    (State.setFlag s nid bit).mem.wf = true := by
  unfold State.setFlag
  repeat' split
  all_goals simp [hw]
@[simp] theorem State.accept_wf (s : State) (sp : Spec) (ctx : Nat) (hw : s.mem.wf = true) :
    (State.accept s sp ctx).mem.wf = true := by simp [State.accept, hw]
@[simp] theorem State.signal_wf (s : State) (nid : Nat) (hw : s.mem.wf = true) :
    (State.signal s nid).mem.wf = true := by
  unfold State.signal
  repeat' split
  all_goals simp [hw]
@[simp] theorem State.addDep_wf (s : State) (nid : Nat) (hw : s.mem.wf = true) :
    (State.addDep s nid).mem.wf = true := by
  unfold State.addDep
  repeat' split
  all_goals simp [hw]
@[simp] theorem State.movePart_wf (s : State) (g : Gang) (core x : Nat) (o : CopyOp) (ias : List Nat) (hw : s.mem.wf = true) :
    (State.movePart s g core x o ias).mem.wf = true := by
  unfold State.movePart
  dsimp only
  repeat' split
  all_goals simp [hw]
theorem State.checked_wf {s : State} {n : Node} {g : Gang} {core x : Nat} {o : CopyOp} {key : TryKey}
    {l : List Run} {k : State → List Nat → State} (hk : ∀ t ias, t.mem.wf = true → (k t ias).mem.wf = true)
    (hw : s.mem.wf = true) :
    (match s.checkRuns n core o.known l with
      | (.ok ias, t) => k (t.triesDone key) ias
      | (y, t) => t.copyStops g x o y).mem.wf = true := by
  split <;> rename_i h <;> have e := State.checkRuns_kept h
  · exact hk _ _ (by simpa [e] using hw)
  · simpa [e] using hw
@[simp] theorem State.copyTorn_mem (s : State) (g : Gang) (core x : Nat) (o : CopyOp) (runs : List (Nat × Nat)) :
    (State.copyTorn s g core x o runs).mem = s.mem := by
  unfold State.copyTorn
  rw [State.copyEnds_mem]
  exact foldl_mem _ (fun t ln => State.tell_mem t _) _ _
@[simp] theorem State.copyStep_wf (s : State) (n : Node) (g : Gang) (core x : Nat) (o : CopyOp) (hw : s.mem.wf = true) :
    (State.copyStep s n g core x o).mem.wf = true := by
  unfold State.copyStep
  extract_lets b idx key checked
  have hc : ∀ l k, (∀ t ias, t.mem.wf = true → (k t ias).mem.wf = true) → (checked l k).mem.wf = true :=
    fun l k hk => State.checked_wf hk hw
  clear_value checked
  split
  · exact hc _ _ fun t vs h => by simp [h]
  · refine hc _ _ fun t vs h => ?_
    split <;> simp [h]
  · split
    · refine hc _ _ fun t vs h => ?_
      dsimp only
      split <;> simp [h]
    · split
      · exact hc _ _ fun t vs h => by simp [h]
      · simp [hw]
  · split
    · exact hw
    · split
      · exact hc _ _ fun t vs h => by simp [h]
      · simp [hw]
  · split <;> simp [hw]
@[simp] theorem copyComplete_wf (s : State) (nid gid x seq : Nat) (hw : s.mem.wf = true) :
    (copyComplete s nid gid x seq).mem.wf = true := by
  unfold copyComplete
  repeat' split
  all_goals simp [hw]
@[simp] theorem State.submit_wf (s : State) (spent : Bool) (l : Launch) (ia : Nat) (hw : s.mem.wf = true) :
    (State.submit s spent l ia).2.mem.wf = true := by
  unfold State.submit
  repeat' split
  all_goals simp [hw]
@[simp] theorem State.depend_wf (s : State) (a b : DWord) (hw : s.mem.wf = true) :
    (State.depend s a b).mem.wf = true := by
  unfold State.depend
  repeat' split
  all_goals simp [hw]
@[simp] theorem State.sendSignal_wf (s : State) (h : DWord) (hw : s.mem.wf = true) :
    (State.sendSignal s h).mem.wf = true := by
  unfold State.sendSignal
  split <;> simp [hw]
@[simp] theorem State.enqueue_wf (s : State) (pc : DWord) (cells : List Word) (hw : s.mem.wf = true) :
    (State.enqueue s pc cells).mem.wf = true := by
  unfold State.enqueue
  dsimp only
  repeat' split
  all_goals simp [hw]
@[simp] theorem State.suspendInto_wf (s : State) (r : Regs) (va : DWord) (ia : Nat) (w : Word) (hw : s.mem.wf = true) :
    (State.suspendInto s r va ia w).mem.wf = true := by simp [State.suspendInto, hw]
@[simp] theorem State.putNum_wf (s : State) (pa size v : Nat) (hw : s.mem.wf = true) :
    (State.putNum s pa size v).mem.wf = true := by simpa [State.putNum] using Memory.writeBytes_wf _ _ hw
theorem State.touching_wf (s : State) (x : Site) (tr : Xlat) (va size : Nat) (need : Need) (k : State → Nat → State)
    (hk : ∀ t pa, t.mem.wf = true → (k t pa).mem.wf = true) (hw : s.mem.wf = true) :
    (s.touching x tr va size need k).mem.wf = true := by
  unfold State.touching
  split <;> rename_i h <;> have e := State.touch_kept h
  · exact hk _ _ (by rw [State.onFibre_mem, e]; exact hw)
  · rw [e]; exact hw
  · simpa [e] using hw
/-- The same with the answer of the step's writes named. -/
theorem State.stepWrites_wf' (s : State) (x : Site) (r : ObjRun) (k : State → State)
    (hk : ∀ t u, k t = u → t.mem.wf = true → u.mem.wf = true) (hw : s.mem.wf = true) : (s.stepWrites x r k).mem.wf = true := by
  unfold State.stepWrites
  extract_lets t
  have ht : t.mem = s.mem := foldl_mem _ (by simp) _ _
  split
  · rw [ht]; exact hw
  · exact hk _ _ rfl (by rw [foldl_mem _ (by simp), ht]; exact hw)
theorem State.stepWrites_wf (s : State) (x : Site) (r : ObjRun) (k : State → State)
    (hk : ∀ t, t.mem.wf = true → (k t).mem.wf = true) (hw : s.mem.wf = true) : (s.stepWrites x r k).mem.wf = true :=
  State.stepWrites_wf' _ _ _ _ (fun t _ e h => e ▸ hk t h) hw
theorem State.objStep_wf (s : State) (who : FibId) (k : State → Site → ObjRun → State)
    (hk : ∀ t x r, t.mem.wf = true → (k t x r).mem.wf = true) (hw : s.mem.wf = true) :
    (s.objStep who k).mem.wf = true := by
  unfold State.objStep
  repeat' split
  all_goals first
    | exact hw
    | exact hk _ _ _ hw
    | (rw [State.atHeader_mem _ _ _ _ (fun _ _ => by simp)]; exact hw)
@[simp] theorem State.commitStep_wf (s : State) (u hp rp : Nat) (h : ObjHdr) (c : ObjRec) (slot : Option (Nat × Nat)) (hw : s.mem.wf = true) :
    (State.commitStep s u hp rp h c slot).2.mem.wf = true := by
  unfold State.commitStep
  extract_lets e t t1
  have ht : t.mem.wf = true := by
    simp only [t]
    split
    · exact hw
    · split
      · apply State.putNum_wf
        exact hw
      · exact hw
  clear_value t
  have ht1 : t1.mem.wf = true := by
    simp only [t1]
    split
    · apply State.putNum_wf
      exact ht
    · exact ht
  clear_value t1
  generalize u + 2 ^ 32 * e.lo + 2 ^ 48 * e.hi + 2 ^ 64 * e.word2 = v
  split
  · dsimp only
    apply State.putNum_wf
    exact ht1
  · exact ht1
@[simp] theorem State.finishAt_wf (s : State) (obj u rp mp : Nat) (hw : s.mem.wf = true) :
    (State.finishAt s obj u rp mp).mem.wf = true := by
  unfold State.finishAt
  dsimp only
  repeat' split
  all_goals simp [hw]
@[simp] theorem State.install_wf (s : State) (x : Site) (r : ObjRun) (t w0 w1 hp rp mp : Nat) (hw : s.mem.wf = true) :
    (State.install s x r t w0 w1 hp rp mp).mem.wf = true := by
  unfold State.install
  dsimp only
  repeat' split
  all_goals simp [hw]
@[simp] theorem announceEvent_wf (s : State) (who : FibId) (hw : s.mem.wf = true) :
    (announceEvent s who).mem.wf = true := by
  refine State.objStep_wf s who _ (fun t x r h => ?_) hw
  split
  · split <;> simp [h]
  · exact State.stepWrites_wf _ _ _ _ (fun u hu => by simp [hu]) h
  · exact State.stepWrites_wf _ _ _ _ (fun u hu => by split <;> simp [hu]) h
  · exact h
theorem State.afterCommit_wf (y : Bool × State) (x : Site) (r : ObjRun) (m : ObjMid) (hy : y.2.mem.wf = true) :
    (State.afterCommit y x r m).mem.wf = true := by
  unfold State.afterCommit
  split <;> simp [hy]
@[simp] theorem applyEvent_wf (s : State) (who : FibId) (hw : s.mem.wf = true) :
    (applyEvent s who).mem.wf = true := by
  refine State.objStep_wf s who _ (fun t x r h => ?_) hw
  split
  · extract_lets go
    have hgo : ∀ (u : State) (hp : Nat), (go u hp).mem = u.mem := by
      intro u hp; simp only [go]; split <;> simp
    clear_value go
    split
    · exact h
    · split
      · simp [h]
      · split
        · rw [State.ownTicket_mem _ _ _ _ fun u hp _ => hgo u hp]; exact h
        · rw [State.atHeader_mem _ _ _ _ hgo]; exact h
  · refine State.stepWrites_wf' _ _ _ _ (fun v w e hv => ?_) h
    rw [← e]
    exact State.afterCommit_wf _ _ _ _ (State.commitStep_wf v _ _ _ _ _ _ hv)
  · exact h
@[simp] theorem finishEvent_wf (s : State) (who : FibId) (hw : s.mem.wf = true) :
    (finishEvent s who).mem.wf = true := by
  refine State.objStep_wf s who _ (fun t x r h => ?_) hw
  split
  · split
    · exact h
    · rw [State.atHeader_mem _ _ _ _ (fun u hp => ?_)]
      · exact h
      · dsimp only
        split
        · rfl
        · split
          · rfl
          · exact State.beginFinish_mem _ _ _ _ _
  · refine State.stepWrites_wf _ _ _ _ (fun u hu => ?_) h
    dsimp only
    split <;> simp [hu]
  · exact h
@[simp] theorem collectEvent_wf (s : State) (who : FibId) (hw : s.mem.wf = true) :
    (collectEvent s who).mem.wf = true := by
  refine State.objStep_wf s who _ (fun t x r h => ?_) hw
  split
  · exact h
  · rw [State.ownTicket_mem _ _ _ _ (fun u hp rp => ?_)]
    · exact h
    · split
      · rfl
      · exact State.atBox_mem _ _ _ _ fun _ _ => by dsimp only; split <;> simp
@[simp] theorem State.initPiece_wf (s : State) (r : ObjRun) (bs : List Byte) (hw : s.mem.wf = true) :
    (State.initPiece s r bs).mem.wf = true := by
  unfold State.initPiece
  split
  · exact hw
  · exact State.touching_wf _ _ _ _ _ _ _ (fun t pa h => by simpa using Memory.writeBytes_wf _ _ h) hw
@[simp] theorem State.spillWrite_wf (s : State) (n : Node) (core : Nat) (hw : s.mem.wf = true) :
    (State.spillWrite s n core).mem.wf = true := by
  unfold State.spillWrite
  split <;> simp [hw]
@[simp] theorem State.keepRed_wf (s : State) (op ia : Nat) (va : DWord) (data : List Byte) (hw : s.mem.wf = true) :
    (State.keepRed s op ia va data).mem.wf = true := by
  unfold State.keepRed
  dsimp only
  repeat' split
  all_goals simp [hw]
@[simp] theorem State.holdRed_wf (s : State) (pc : DWord) (op ia : Nat) (va : DWord) (data : List Byte) (hw : s.mem.wf = true) :
    (State.holdRed s pc op ia va data).mem.wf = true := by
  unfold State.holdRed
  repeat' split
  all_goals simp [hw]
@[simp] theorem recordWrite_wf (s : State) (hw : s.mem.wf = true) :
    (recordWrite s).mem.wf = true := by
  unfold recordWrite
  dsimp only
  split
  · exact hw
  · split
    · exact hw
    · split
      · rename_i t h1; exact (State.homeWrite_wf' h1 hw : t.mem.wf = true)
      · exact hw
@[simp] theorem State.start_wf (s : State) (n : Node) (g : Gang) (core : Nat) (hw : s.mem.wf = true) :
    (State.start s n g core).mem.wf = true := by
  unfold State.start
  extract_lets t u v
  have ht : t.mem = s.mem := by simp [t]
  have hv : v.mem = s.mem := by simp only [v, State.onNode_mem, u]; rw [foldl_mem _ (by simp), ht]
  split
  · simpa [ht] using hw
  · split
    · exact State.nodeState_wf _ _ _ (by rw [hv]; exact hw)
    · rw [hv]; exact hw
@[simp] theorem placeGang_wf (s : State) (nid gid : Nat) (hw : s.mem.wf = true) :
    (placeGang s nid gid).mem.wf = true := by
  unfold placeGang
  repeat' split
  all_goals simp [hw]

@[simp] theorem State.fillCore_wf (s : State) (core : Nat) (not : Nat × Nat) (hw : s.mem.wf = true) :
    (State.fillCore s core not).mem.wf = true := by
  unfold State.fillCore
  repeat' split
  all_goals simp [hw]
@[simp] theorem preempt_wf (s : State) (nid gid : Nat) (hw : s.mem.wf = true) :
    (preempt s nid gid).mem.wf = true := by
  unfold preempt
  split
  · split
    · extract_lets swap t u
      have ht : t.mem = s.mem := by simp only [t]; split <;> simp
      split
      · rw [ht]; exact hw
      · split
        · simp [ht, hw]
        · split <;> simp [u, ht, hw]
    · exact hw
  · exact hw
@[simp] theorem swapGang_wf (s : State) (nid gid : Nat) (hw : s.mem.wf = true) :
    (swapGang s nid gid).mem.wf = true := by
  unfold swapGang
  dsimp only
  repeat' split
  all_goals simp [hw]
theorem State.serveQueue_wf {s t : State} {q : Nat} (h : s.serveQueue q = some t) (hw : s.mem.wf = true) :
    t.mem.wf = true := by
  unfold State.serveQueue at h
  dsimp only at h
  split at h
  · cases h
  · split at h
    · cases h
    · cases h; simpa using hw
    · split at h
      · cases h; simpa using hw
      · split at h
        · cases h; simpa using hw
        · cases h; rw [State.headOn_mem]; exact State.deviceWrite_wf _ _ _ hw
        · obtain ⟨c, -, hc⟩ := Option.map_eq_some_iff.mp h
          rw [← hc, State.headOn_mem]; exact State.accept_wf _ _ _ hw
@[simp] theorem specAccept_wf (s : State) (q : Nat) (hw : s.mem.wf = true) :
    (specAccept s q).mem.wf = true := by
  unfold specAccept
  split
  · exact hw
  · cases h : s.serveQueue q with
    | none => exact hw
    | some t => exact State.serveQueue_wf h hw
@[simp] theorem signalArrives_wf (s : State) (k : Nat) (hw : s.mem.wf = true) :
    (signalArrives s k).mem.wf = true := by
  unfold signalArrives
  split <;> simp [hw]
@[simp] theorem State.recordPut_wf (s : State) (n : Node) (c : Cont) (bs : List Byte) (hw : s.mem.wf = true) :
    (State.recordPut s n c bs).mem.wf = true := by
  unfold State.recordPut
  split
  · exact hw
  · exact State.deviceWrite_wf _ _ _ hw
@[simp] theorem State.contTake_wf (s : State) (n : Node) (k : Nat) (c : Cont) (hw : s.mem.wf = true) :
    (State.contTake s n k c).mem.wf = true := by simp [State.contTake, hw]
@[simp] theorem State.contGoes_wf (s : State) (n : Node) (k : Nat) (c : Cont) (bs : List Byte) (hw : s.mem.wf = true) :
    (State.contGoes s n k c bs).mem.wf = true := by simp [State.contGoes, hw]
@[simp] theorem contResume_wf (s : State) (nid k : Nat) (hw : s.mem.wf = true) :
    (contResume s nid k).mem.wf = true := by
  unfold contResume
  repeat' split
  all_goals first
    | exact hw
    | (simp [hw]; done)
    | (dsimp only; repeat' split)
  all_goals first
    | exact hw
    | simp [hw]
@[simp] theorem State.applyRed_wf (s : State) (g : Gang) (h : HeldRed) (hw : s.mem.wf = true) :
    (State.applyRed s g h).mem.wf = true := by
  unfold State.applyRed
  extract_lets z key who fails t
  have ht : t.mem = s.mem := foldl_mem _ (by simp) _ _
  have hf : ∀ u code sub ia, (fails u code sub ia).mem = u.mem := by simp [fails]
  split
  · rw [ht]; exact hw
  · split
    · simp [ht, hw]
    · split
      · rw [ht]; exact hw
      · split
        · split <;> simp [hf, ht, hw]
        · rename_i h; rw [hf, State.walkRun_kept h, ht]; exact hw
        · rename_i h
          have e := (State.walkRun_kept h).trans ht
          split
          · rw [hf, e]; exact hw
          · split
            · rw [ht]; exact hw
            · rename_i h2; simp [(State.homeBytes_kept h2).trans e, hw]
@[simp] theorem batchApply_wf (s : State) (nid : Nat) (hw : s.mem.wf = true) :
    (batchApply s nid).mem.wf = true := by
  unfold batchApply
  repeat' split
  all_goals simp [hw]
theorem State.allocate_wf {s t : State} {n : Node} {i : Nat} {r : AReq} (h : s.allocate n i r = some t)
    (hs : s.mem.wf = true) :
    t.mem.wf = true := by
  unfold State.allocate at h
  split at h
  · cases h; exact hs
  · split at h
    · cases h; simp [Memory.blank_wf, hs]
    · cases h
theorem State.allocateAll_wf {l : List AReq} {s t : State} {n : Node} {i : Nat} (h : s.allocateAll n i l = some t)
    (hs : s.mem.wf = true) :
    t.mem.wf = true := by
  induction l generalizing s i with
  | nil => cases h; exact hs
  | cons x r ih =>
    obtain ⟨u, hu, h⟩ := Option.bind_eq_some_iff.mp h
    exact ih h (State.allocate_wf hu hs)
@[simp] theorem arenaBirth_wf (s : State) (nid : Nat) (hw : s.mem.wf = true) :
    (arenaBirth s nid).mem.wf = true := by
  unfold arenaBirth
  repeat' split
  all_goals first
    | exact hw
    | (rename_i h; simp [State.allocateAll_wf h hw])
@[simp] theorem State.endBegins_wf (s : State) (n : Node) (hw : s.mem.wf = true) :
    (State.endBegins s n).mem.wf = true := by
  unfold State.endBegins
  dsimp only
  repeat' split
  all_goals simp [hw]
@[simp] theorem State.handOver_wf (s : State) (slot : Nat) (h : Node) (hw : s.mem.wf = true) :
    (State.handOver s slot h).mem.wf = true := by
  unfold State.handOver
  split <;> simp [hw]
@[simp] theorem State.handAll_wf (s : State) (nid : Nat) (hw : s.mem.wf = true) :
    (State.handAll s nid).mem.wf = true := by
  refine foldl_wf _ (fun t k ht => ?_) _ _ hw
  split <;> simp [ht]
@[simp] theorem State.discardTasks_wf (s : State) (n : Node) (hw : s.mem.wf = true) :
    (State.discardTasks s n).mem.wf = true := by
  unfold State.discardTasks
  dsimp only
  repeat' split
  all_goals simp [hw]
@[simp] theorem State.completes_wf (s : State) (n : Node) (hw : s.mem.wf = true) : (State.completes s n).mem.wf = true := by
  unfold State.completes
  dsimp only
  split
  · exact hw
  · rw [State.signalAll_mem]
    exact State.nodeState_wf _ _ _ (State.discardTasks_wf _ _ (s.handAll_wf _ hw))
@[simp] theorem nodeEnds_wf (s : State) (nid : Nat) (hw : s.mem.wf = true) :
    (nodeEnds s nid).mem.wf = true := by
  have h2 := fun n => State.discardTasks_wf s n hw
  unfold nodeEnds
  repeat' split
  all_goals first
    | exact hw
    | simp [hw, h2]
theorem State.peerReads_wf (s : State) (ia size : Nat) (k : List Byte → State → State) (hw : s.mem.wf = true)
    (hk : ∀ old t, t.mem.wf = true → (k old t).mem.wf = true) : (s.peerReads ia size k).mem.wf = true := by
  unfold State.peerReads
  split
  · simp [hw]
  · split
    · exact hw
    · rename_i h
      exact hk _ _ (by rw [State.homeBytes_kept h]; exact hw)
@[simp] theorem State.peerDoes_wf (s : State) (peer ia : Nat) (op : PeerOp) (hw : s.mem.wf = true) :
    (State.peerDoes s peer ia op).mem.wf = true := by
  unfold State.peerDoes
  split
  · simp [hw]
  all_goals
    refine State.peerReads_wf _ _ _ _ hw fun old t ht => ?_
    repeat' split
    all_goals simp [ht]
@[simp] theorem peerPacket_wf (s : State) (peer offset : Nat) (op : PeerOp) (hw : s.mem.wf = true) :
    (peerPacket s peer offset op).mem.wf = true := by
  unfold peerPacket
  dsimp only
  repeat' split
  all_goals first
    | exact hw
    | (simp [hw]; done)
    | (rename_i h; exact State.peerDoes_wf _ _ _ _ (by rw [State.triesDone_mem, State.walkRun_kept h]; exact hw))
@[simp] theorem hostAccess_wf (s : State) (write : Bool) (ia len : Nat) (data : List Byte) (hw : s.mem.wf = true) :
    (hostAccess s write ia len data).mem.wf = true := by
  unfold hostAccess
  dsimp only
  repeat' split
  all_goals first
    | exact hw
    | exact Memory.writeBytes_wf _ _ hw
@[simp] theorem resetDevice_wf (s : State) (hw : s.mem.wf = true) :
    (resetDevice s).mem.wf = true := by
  unfold resetDevice
  dsimp only
  split
  · rfl
  · exact hw

end Sys2Proof.Machine
end

