-- ==== Sys2Proof/Laws/WordKeeps.lean ====
section
/-!
SUPPORT. What a word that issues does to memory, said of every word form: `Keeps P` holds of the words whose commit keeps a
property of memory, whatever the property, for all that do not write at a home.
-/
namespace Sys2Proof.Machine

/-- What a word does to memory, when it commits or is at work, keeps a property of memory. -/
def WordRes.Keeps (P : Memory → Prop) : WordRes → Prop
  | .commit _ k => ∀ t : State, P t.mem → P (k t).mem
  | .hold k => ∀ t : State, P t.mem → P (k t).mem
  | .release k => ∀ t : State, P t.mem → P (k t).mem
  | _ => True

/-- The same of a chain. -/
def ChainRes.Keeps (P : Memory → Prop) : ChainRes → Prop
  | .go k => ∀ t : State, P t.mem → P (k t).mem
  | .hold k => ∀ t : State, P t.mem → P (k t).mem
  | _ => True

variable {P : Memory → Prop}

theorem ite_keeps {c : Prop} [Decidable c] {a b : WordRes} (ha : a.Keeps P) (hb : b.Keeps P) :
    (if c then a else b).Keeps P := by
  split <;> assumption
@[simp] theorem trapFlags_keeps (fl : Flags) :
    (trapFlags fl).Keeps P := by simp [trapFlags, WordRes.Keeps]
@[simp] theorem trapLength_keeps (r : Regs) :
    (trapLength r).Keeps P := by simp [trapLength, WordRes.Keeps]
@[simp] theorem trapHeader_keeps (f : Fld) : (trapHeader f).Keeps P := by simp [trapHeader, WordRes.Keeps]
@[simp] theorem yDeliver_keeps (s : State) (passes : Nat) (dest : Dest) (vals : List Word) (yval : Option YReg)
    (fl : Flags) (drew : Bool) :
    (yDeliver s passes dest vals yval fl drew).Keeps P := by
  unfold yDeliver
  try dsimp only
  repeat' split
  all_goals first | trivial | simp [WordRes.Keeps, WordRes.regs]
@[simp] theorem yRound_keeps (s : State) (passes : Nat) (d : Fld) (exact : V × Flags × Option Mag)
    (eo : Option (Int × Bool)) :
    (yRound s passes d exact eo).Keeps P := by
  unfold yRound
  refine ite_keeps (trapLength_keeps _) (ite_keeps True.intro ?_)
  split
  all_goals exact ite_keeps True.intro (yDeliver_keeps _ _ _ _ _ _ _)
@[simp] theorem globalWord_keeps (s : State) (a : Access) (va : Int) (size : Nat) (aligned : Bool) :
    (globalWord s a va size aligned).Keeps P := by
  unfold globalWord
  repeat' split
  all_goals simp [WordRes.Keeps, WordRes.regs]
@[simp] theorem loadWord_keeps (s : State) (t a : Fld) (o : BitVec 8) (size : Nat) (signed : Bool) :
    (loadWord s t a o size signed).Keeps P := by simp [loadWord]
@[simp] theorem storeWord_keeps (s : State) (t a : Fld) (o : BitVec 8) (size : Nat) :
    (storeWord s t a o size).Keeps P := by simp [storeWord]
theorem spadWord_keeps (s : State) (o : Word) (size : Nat) (k : List Nat → WordRes) (hk : ∀ l, (k l).Keeps P) :
    (spadWord s o size k).Keeps P := by
  unfold spadWord
  repeat' split
  all_goals first | trivial | exact hk _
@[simp] theorem ldsWord_keeps (s : State) (t a : Fld) (o : BitVec 8) (size : Nat) (signed : Bool) :
    (ldsWord s t a o size signed).Keeps P := by
  unfold ldsWord
  dsimp only
  refine spadWord_keeps _ _ _ _ fun l => ite_keeps (fun t ht => ?_) fun t ht => ?_
  · simpa using ht
  · simpa using ht
@[simp] theorem stsWord_keeps (s : State) (t a : Fld) (o : BitVec 8) (size : Nat) : (stsWord s t a o size).Keeps P := by
  unfold stsWord
  dsimp only
  refine spadWord_keeps _ _ _ _ fun l => ite_keeps True.intro fun t ht => ?_
  dsimp only
  split
  · simpa using ht
  · exact ht
@[simp] theorem ldcWord_keeps (s : State) (t a : Fld) (o : BitVec 8) (fmt : Nat) : (ldcWord s t a o fmt).Keeps P := by
  unfold ldcWord
  split
  · simp
  · dsimp only
    have := globalWord_keeps (P := P) s
      { newAccess (.ldc fmt) 0#64 0 (convSize fmt) (.yreg s.r.frames.length t.toNat) [] with
        base := s.f.nextSer, ckpt := some s.r }
      (s.r.va a o (convSize fmt)) (convSize fmt) true
    split
    · rename_i h
      rw [h] at this
      split
      · trivial
      · intro t ht; simpa using this t ht
    · exact this
@[simp] theorem ldyWord_keeps (s : State) (t a : Fld) (k : BitVec 4) (o : BitVec 8) :
    (ldyWord s t a k o).Keeps P := by simp [ldyWord]
@[simp] theorem roundStore_keeps (s : State) (va : Int) (aligned : Bool) (data : List Byte) (fl : Flags) :
    (roundStore s va aligned data fl).Keeps P := by
  unfold roundStore
  have := globalWord_keeps (P := P) s (newAccess .store 0#64 0 data.length .none data) va data.length aligned
  split
  · rename_i h
    rw [h] at this
    split
    · simp
    · intro t ht; simpa using this t ht
  · exact this
@[simp] theorem stcWord_keeps (s : State) (t a : Fld) (o : BitVec 8) (fmt : Nat) : (stcWord s t a o fmt).Keeps P := by
  unfold stcWord
  try dsimp only
  repeat' first
    | trivial
    | exact roundStore_keeps _ _ _ _ _
    | split
@[simp] theorem styWord_keeps (s : State) (t a : Fld) (k : BitVec 4) (o : BitVec 8) : (styWord s t a k o).Keeps P := by
  unfold styWord
  try dsimp only
  repeat' first
    | trivial
    | exact roundStore_keeps _ _ _ _ _
    | split
@[simp] theorem granuleWord_keeps (s : State) (t a : Fld) (o : BitVec 8) (op : AccOp) :
    (granuleWord s t a o op).Keeps P := by
  unfold granuleWord
  dsimp only
  repeat' split
  all_goals simp [WordRes.Keeps, WordRes.regs]
@[simp] theorem cellOp2_keeps (s : State) (d a b : Fld) (op : Word → Word → Word) :
    (cellOp2 s d a b op).Keeps P := by simp [cellOp2, WordRes.Keeps, WordRes.regs]
@[simp] theorem pairOp2_keeps (s : State) (d a b : Fld) (op : DWord → DWord → DWord) :
    (pairOp2 s d a b op).Keeps P := by simp [pairOp2, WordRes.Keeps, WordRes.regs]
@[simp] theorem pairCellOp_keeps (s : State) (d a b : Fld) (op : DWord → Word → DWord) :
    (pairCellOp s d a b op).Keeps P := by simp [pairCellOp, WordRes.Keeps, WordRes.regs]
@[simp] theorem cellOp1_keeps (s : State) (d a : Fld) (op : Word → Word) :
    (cellOp1 s d a op).Keeps P := by simp [cellOp1, WordRes.Keeps, WordRes.regs]
@[simp] theorem pairOp1_keeps (s : State) (d a : Fld) (op : DWord → DWord) :
    (pairOp1 s d a op).Keeps P := by simp [pairOp1, WordRes.Keeps, WordRes.regs]
@[simp] theorem cellCmp_keeps (s : State) (d a b : Fld) (rel : Word → Word → Bool) :
    (cellCmp s d a b rel).Keeps P := by simp [cellCmp, WordRes.Keeps, WordRes.regs]
@[simp] theorem pairCmp_keeps (s : State) (d a b : Fld) (rel : DWord → DWord → Bool) :
    (pairCmp s d a b rel).Keeps P := by simp [pairCmp, WordRes.Keeps, WordRes.regs]
@[simp] theorem immCmp_keeps (s : State) (d a : Fld) (i : BitVec 9) (rel : Word → Word → Bool) :
    (immCmp s d a i rel).Keeps P := by simp [immCmp, WordRes.Keeps, WordRes.regs]
@[simp] theorem predOp_keeps (s : State) (d a b : Fld) (op : Bool → Bool → Bool) :
    (predOp s d a b op).Keeps P := by simp [predOp, WordRes.Keeps, WordRes.regs]
@[simp] theorem callTo_keeps (s : State) (pc : DWord) : (callTo s pc).Keeps P := by
  unfold callTo
  dsimp only
  split <;> simp [WordRes.Keeps]
@[simp] theorem enterWord_keeps (s : State) (n m lw : Nat) : (enterWord s n m lw).Keeps P := by
  unfold enterWord
  dsimp only
  repeat' split
  all_goals simp [WordRes.Keeps, WordRes.regs]
@[simp] theorem retWord_keeps (s : State) : (retWord s).Keeps P := by
  unfold retWord
  repeat' split
  all_goals simp [WordRes.Keeps]
@[simp] theorem eretWord_keeps (s : State) : (eretWord s).Keeps P := by
  unfold eretWord
  dsimp only
  repeat' split
  all_goals simp [WordRes.Keeps]
@[simp] theorem loopWord_keeps (s : State) (d : Fld) (i : BitVec 19) : (loopWord s d i).Keeps P := by
  unfold loopWord
  dsimp only
  repeat' split
  all_goals simp [WordRes.Keeps, WordRes.regs]
@[simp] theorem getsWord_keeps (s : State) (d : Fld) (sel : Nat) : (getsWord s d sel).Keeps P := by
  unfold getsWord
  repeat' split
  all_goals simp [WordRes.Keeps, WordRes.regs]
@[simp] theorem setsWord_keeps (s : State) (a : Fld) (sel : Nat) : (setsWord s a sel).Keeps P := by
  unfold setsWord
  repeat' split
  all_goals simp [WordRes.Keeps, WordRes.regs]
@[simp] theorem spawnWord_keeps (s : State) (d a b : Fld) : (spawnWord s d a b).Keeps P := by
  unfold spawnWord
  dsimp only
  split <;> simp [WordRes.Keeps, WordRes.regs]
@[simp] theorem yieldWord_keeps (s : State) (h : Nat) : (yieldWord s h).Keeps P := by
  unfold yieldWord
  dsimp only
  split <;> simp [WordRes.Keeps, WordRes.regs]
theorem engineWord_keeps (s : State) (k : Regs → WordRes) (hk : ∀ r, (k r).Keeps P) : (engineWord s k).Keeps P := by
  unfold engineWord
  repeat' split
  all_goals first | trivial | exact hk _
@[simp] theorem cpbWord_keeps (s : State) (d a b : Fld) (tag : Nat) : (cpbWord s d a b tag).Keeps P := by
  unfold cpbWord
  dsimp only
  repeat' split
  all_goals simp [WordRes.Keeps, WordRes.regs]
@[simp] theorem cpwWord_keeps (s : State) (tag limit : Nat) : (cpwWord s tag limit).Keeps P := by
  unfold cpwWord
  split <;> simp [WordRes.Keeps, WordRes.regs]
@[simp] theorem cptWord_keeps (s : State) (d a : Fld) (x : BitVec 3) (form : Nat) : (cptWord s d a x form).Keeps P := by
  unfold cptWord
  try dsimp only
  repeat' first
    | (simp [WordRes.Keeps, WordRes.regs]; done)
    | (refine engineWord_keeps _ _ fun r => ?_)
    | split
@[simp] theorem twaitWord_keeps (s : State) (a : Fld) (x : BitVec 3) : (twaitWord s a x).Keeps P := by
  unfold twaitWord
  try dsimp only
  repeat' first
    | (simp [WordRes.Keeps, WordRes.regs]; done)
    | (refine engineWord_keeps _ _ fun r => ?_)
    | split
@[simp] theorem timelineWord_keeps (s : State) (d : Fld) (v : Nat) : (timelineWord s d v).Keeps P := by
  unfold timelineWord
  try dsimp only
  repeat' first
    | (intro t ht; simpa using ht)
    | (refine engineWord_keeps _ _ fun r => ?_)
@[simp] theorem tstatWord_keeps (s : State) (d : Fld) (x : BitVec 3) : (tstatWord s d x).Keeps P := by
  unfold tstatWord
  try dsimp only
  repeat' first
    | (intro t ht; simpa using ht)
    | (refine engineWord_keeps _ _ fun r => ?_)
theorem releaseFirst_keeps (s : State) (act : Bool → WordRes) (hk : ∀ b, (act b).Keeps P) :
    (releaseFirst s act).Keeps P := by
  unfold releaseFirst
  split
  · intro t ht; simpa using ht
  · trivial
  · rename_i lost _
    have := hk lost
    split
    · rename_i h; rw [h] at this; intro t ht; exact this _ (by simpa using ht)
    · exact this
theorem busyWord_keeps (s : State) (va : Nat) {x : WordRes} (hx : x.Keeps P) : (s.busyWord va x).Keeps P :=
  ite_keeps hx fun t ht => by simpa using ht
theorem tnodeWord_wf (s : State) (d a : Fld) : (tnodeWord s d a).Keeps fun m => m.wf = true := by
  unfold tnodeWord
  extract_lets va
  refine ite_keeps True.intro ?_
  split
  · exact True.intro
  · extract_lets act
    have ha : act.Keeps fun m => m.wf = true := by
      refine releaseFirst_keeps _ _ fun lost => ?_
      refine ite_keeps (fun t ht => ?_) ?_
      · simpa using ht
      · split
        · exact busyWord_keeps _ _ True.intro
        · exact True.intro
        · refine ite_keeps (busyWord_keeps _ _ True.intro) fun t ht => ?_
          dsimp only
          rw [State.putD_mem]
          exact State.submit_wf _ _ _ _ ht
    clear_value act
    refine ite_keeps ha ?_
    split
    · exact busyWord_keeps _ _ True.intro
    · exact True.intro
    · exact ha
theorem afterRelease_keeps (s : State) (k : State → State) (hk : ∀ t, P t.mem → P (k t).mem) :
    (afterRelease s k).Keeps P := by
  unfold afterRelease
  refine releaseFirst_keeps _ _ fun b => ?_
  cases b
  · exact hk
  · exact fun _ h => h
@[simp] theorem deqWord_keeps (s : State) (d : Fld) : (deqWord s d).Keeps P := by
  simp [deqWord, WordRes.Keeps, WordRes.regs]
theorem enqWord_wf (s : State) (a : Fld) : (enqWord s a).Keeps fun m => m.wf = true := by
  unfold enqWord
  extract_lets put
  have hp : put.Keeps fun m => m.wf = true := fun t ht => State.enqueue_wf _ _ _ ht
  refine releaseFirst_keeps _ _ fun lost => ?_
  exact ite_keeps (fun t ht => ht) (ite_keeps (busyWord_keeps _ _ hp) hp)
theorem contWord_wf (s : State) (a b : Fld) : (contWord s a b).Keeps fun m => m.wf = true := by
  unfold contWord
  extract_lets va w
  refine ite_keeps True.intro (ite_keeps True.intro (ite_keeps True.intro ?_))
  split
  · exact True.intro
  · extract_lets act
    have ha : act.Keeps fun m => m.wf = true :=
      releaseFirst_keeps _ _ fun lost => ite_keeps (fun _ ht => ht) fun t ht => State.suspendInto_wf _ _ _ _ _ ht
    refine ite_keeps ha (ite_keeps True.intro ?_)
    split
    · exact busyWord_keeps _ _ True.intro
    · exact True.intro
    · exact ha
@[simp] theorem shapeWord_keeps (s : State) (d a : Fld) : (shapeWord s d a).Keeps P := by
  unfold shapeWord
  try dsimp only
  repeat' first
    | (intro t ht; split <;> simpa using ht)
    | (refine engineWord_keeps _ _ fun r => ?_)
theorem tileWord_keeps (s : State) (t : Nat) (checks : Regs → Option WordRes) (w : Regs → MWord)
    (hk : ∀ r x, checks r = some x → x.Keeps P) : (tileWord s t checks w).Keeps P := by
  unfold tileWord
  refine engineWord_keeps _ _ fun r => ?_
  dsimp only
  repeat' split
  all_goals first
    | trivial
    | (exact hk _ _ ‹_›)
    | (intro t ht; simpa using ht)
theorem offsetCheck_keeps {s : State} {o : Word} {align len : Nat} {w : WordRes}
    (h : offsetCheck s o align len = some w) :
    w.Keeps P := by
  unfold offsetCheck at h
  repeat' split at h
  all_goals first
    | (cases h; done)
    | (cases h; trivial)
@[simp] theorem mmaWord_keeps (s : State) (d a b : Fld) (p : Bool) (k : BitVec 4) (type : Nat) :
    (mmaWord s d a b p k type).Keeps P := by
  refine tileWord_keeps _ _ _ _ fun r x h => ?_
  dsimp only at h
  repeat' split at h
  all_goals first
    | (cases h; trivial)
    | exact offsetCheck_keeps h
    | (cases h; exact offsetCheck_keeps ‹_›)
@[simp] theorem accMove_keeps (s : State) (d a : Fld) (size : Nat) (w : Nat → MWord) :
    (accMove s d a size w).Keeps P := by
  unfold accMove
  try dsimp only
  repeat' first
    | (simp [WordRes.Keeps]; done)
    | (refine tileWord_keeps _ _ _ _ fun r x h => ?_)
    | exact offsetCheck_keeps ‹_›
@[simp] theorem setpromWord_keeps (s : State) (a b : Fld) : (setpromWord s a b).Keeps P := by
  unfold setpromWord
  try dsimp only
  repeat' first
    | (simp [WordRes.Keeps, WordRes.regs]; done)
    | (refine engineWord_keeps _ _ fun r => ?_)
    | split
@[simp] theorem chainBegin_keeps (s : State) (d a : Fld) : (chainBegin s d a).Keeps P := by
  refine tileWord_keeps _ _ _ _ fun r x h => ?_
  split at h <;> cases h
  trivial
@[simp] theorem objWord_keeps (s : State) (d a b : Fld) (xfn : Nat) : (objWord s d a b xfn).Keeps P := by
  unfold objWord
  have h1 : ∀ (r : ObjRun) st u, P (State.mem u) → P (State.objDone u r st).mem :=
    fun r st u hu => by rw [State.objDone_mem]; exact hu
  split
  · split
    · exact h1 _ _
    · exact True.intro
  · extract_lets va run
    exact ite_keeps True.intro (ite_keeps (h1 _ 5) fun t ht => ht)
theorem objInitWord_wf (s : State) (d a b : Fld) : (objInitWord s d a b).Keeps fun m => m.wf = true := by
  unfold objInitWord
  extract_lets va
  refine ite_keeps True.intro ?_
  split
  · exact True.intro
  · refine ite_keeps (fun t ht => by simpa using ht) ?_
    split
    · exact ite_keeps True.intro (ite_keeps (fun t ht => State.initPiece_wf _ _ _ ht) fun t ht => ht)
    · split
      · exact busyWord_keeps _ _ True.intro
      · exact True.intro
      · exact fun t ht => ht
@[simp] theorem amoWord_keeps (s : State) (d a b : Fld) (op : Nat) (ar : Bool) (scope : BitVec 3) :
    (amoWord s d a b op ar scope).Keeps P := by simp [amoWord]
theorem redWord_wf (s : State) (a b : Fld) (op : Nat) (scope : BitVec 3) :
    (redWord s a b op scope).Keeps fun m => m.wf = true := by
  unfold redWord
  extract_lets z data va
  refine ite_keeps (globalWord_keeps _ _ _ _ _) (ite_keeps True.intro ?_)
  split
  · exact True.intro
  · split
    · exact busyWord_keeps _ _ True.intro
    · exact True.intro
    · extract_lets hold
      have hh : hold.Keeps fun m => m.wf = true := fun t ht => State.holdRed_wf _ _ _ _ _ _ ht
      exact ite_keeps True.intro (ite_keeps (busyWord_keeps _ _ hh) hh)
@[simp] theorem orderedSpad_keeps (s : State) (acc : Access) (o : Word) : (orderedSpad s acc o).Keeps P := by
  unfold orderedSpad
  repeat' split
  all_goals simp [WordRes.Keeps, WordRes.regs]
@[simp] theorem orderedWord_keeps (s : State) (a : Fld) (acc : Access) : (orderedWord s a acc).Keeps P := by
  unfold orderedWord
  try dsimp only
  repeat' first
    | exact globalWord_keeps _ _ _ _ _
    | exact orderedSpad_keeps _ _ _
    | split
@[simp] theorem ldaWord_keeps (s : State) (d a : Fld) (size : Nat) (scope : BitVec 3) :
    (ldaWord s d a size scope).Keeps P :=
  orderedWord_keeps _ _ _
@[simp] theorem strWord_keeps (s : State) (a b : Fld) (size : Nat) (scope : BitVec 3) :
    (strWord s a b size scope).Keeps P :=
  orderedWord_keeps _ _ _
@[simp] theorem fenceWord_keeps (rel acq chk : Bool) (scope : BitVec 3) :
    (fenceWord rel acq chk scope).Keeps P := by simp [fenceWord, WordRes.Keeps, WordRes.regs]
@[simp] theorem rangeWord_keeps (s : State) (a b : Fld) (op : AccOp) (scope : BitVec 3) :
    (rangeWord s a b op scope).Keeps P := by
  unfold rangeWord
  dsimp only
  repeat' split
  all_goals simp [WordRes.Keeps, WordRes.regs]
@[simp] theorem prefWord_keeps (s : State) (a b : Fld) (scope : BitVec 3) : (prefWord s a b scope).Keeps P := by
  unfold prefWord
  dsimp only
  split <;> simp [WordRes.Keeps, WordRes.regs]
theorem yForm_keeps (s : State) (srcs : List Fld) (k : WordRes) (hk : k.Keeps P) : (yForm s srcs k).Keeps P := by
  unfold yForm
  repeat' split
  all_goals trivial
@[simp] theorem yOp2_keeps (s : State) (passes : Nat) (d a b : Fld) (op : V → V → Exact) :
    (yOp2 s passes d a b op).Keeps P := by
  unfold yOp2
  try dsimp only
  repeat' first
    | exact yRound_keeps _ _ _ _ _
    | (refine yForm_keeps _ _ _ ?_)
@[simp] theorem yOp1_keeps (s : State) (passes : Nat) (d a : Fld) (op : V → Exact) :
    (yOp1 s passes d a op).Keeps P := by
  unfold yOp1
  try dsimp only
  repeat' first
    | exact yRound_keeps _ _ _ _ _
    | (refine yForm_keeps _ _ _ ?_)
@[simp] theorem yFused_keeps (s : State) (np nd : Bool) (d a b : Fld) : (yFused s np nd d a b).Keeps P := by
  unfold yFused
  try dsimp only
  repeat' first
    | exact yRound_keeps _ _ _ _ _
    | (refine yForm_keeps _ _ _ ?_)
@[simp] theorem yAddSub_keeps (s : State) (neg : Bool) (d a b : Fld) : (yAddSub s neg d a b).Keeps P := by
  unfold yAddSub
  try dsimp only
  repeat' first
    | exact yRound_keeps _ _ _ _ _
    | (refine yForm_keeps _ _ _ ?_)
@[simp] theorem yCell_keeps (s : State) (d a : Fld) (op : V → Word × Flags) : (yCell s d a op).Keeps P := by
  unfold yCell
  try dsimp only
  repeat' first
    | exact yDeliver_keeps _ _ _ _ _ _ _
    | (refine yForm_keeps _ _ _ ?_)
@[simp] theorem yCompare_keeps (s : State) (d a b : Fld) (un sig : Bool) (rel : Ordering → Bool) :
    (yCompare s d a b un sig rel).Keeps P := by
  unfold yCompare
  try dsimp only
  repeat' first
    | exact yDeliver_keeps _ _ _ _ _ _ _
    | (refine yForm_keeps _ _ _ ?_)
@[simp] theorem yFromInt_keeps (s : State) (d : Fld) (z : Int) : (yFromInt s d z).Keeps P := by simp [yFromInt]
@[simp] theorem yToInt_keeps (s : State) (d a : Fld) (len : Nat) (lo hi : Int) : (yToInt s d a len lo hi).Keeps P := by
  unfold yToInt
  try dsimp only
  repeat' first
    | exact yDeliver_keeps _ _ _ _ _ _ _
    | (refine yForm_keeps _ _ _ ?_)
theorem afterFlags_keeps (s : State) (k : WordRes) (hk : k.Keeps P) : (afterFlags s k).Keeps P := by
  unfold afterFlags; split <;> trivial
theorem whenDrawn_keeps (s : State) (k : WordRes) (hk : k.Keeps P) : (whenDrawn s k).Keeps P := by
  unfold whenDrawn; split <;> trivial
@[simp] theorem writePrc_keeps (v : Word) : (writePrc v).Keeps P := by
  unfold writePrc
  split <;> simp [WordRes.Keeps, WordRes.regs]
theorem collWord_keeps (s : State) (ops : List Opnd) (b : Fld) (k : Word → List Fibre → State → State)
    (hk : ∀ m l t, P t.mem → P (k m l t).mem) : (collWord s ops b k).Keeps P := by
  unfold collWord
  dsimp only
  repeat' split
  all_goals first | trivial | (intro t ht; exact hk _ _ _ (by simpa using ht))
@[simp] theorem collCell_keeps (s : State) (d b : Fld) (ops : List Opnd) (k : List Fibre → Word) :
    (collCell s d b ops k).Keeps P := by
  unfold collCell
  try dsimp only
  repeat' first
    | trivial
    | (refine collWord_keeps _ _ _ _ fun m l t ht => ?_)
@[simp] theorem shflWord_keeps (s : State) (d a b : Fld) (form : Nat) :
    (shflWord s d a b form).Keeps P := by simp [shflWord]
@[simp] theorem voteWord_keeps (s : State) (d a b : Fld) (k : List Bool → Bool) : (voteWord s d a b k).Keeps P := by
  unfold voteWord
  try dsimp only
  repeat' first
    | trivial
    | (refine collWord_keeps _ _ _ _ fun m l t ht => ?_)
@[simp] theorem reduxYaddWord_keeps (s : State) (d a b : Fld) : (reduxYaddWord s d a b).Keeps P := by
  unfold reduxYaddWord
  extract_lets mask here vals
  have := yRound_keeps (P := P) s 2 d (exactSum (prcRM s.r.prc = .rdn) vals) none
  split
  · trivial
  · split
    · simp
    · split
      · rename_i h
        rw [h] at this
        intro t ht; simpa using this t ht
      · exact this

end Sys2Proof.Machine
end

