-- ==== Sys2Proof/Laws/BodyKeeps.lean ====
section
/-!
SUPPORT. What the body of every instruction word does to memory: it keeps any property of memory, but for the fourteen words
that may write at a home, and those keep the canonical form.
-/
namespace Sys2Proof.Machine

variable {P : Memory → Prop}

@[simp] theorem bodyLdB_keeps (t a o s) : (bodyLdB t a o s).Keeps P := by simp [bodyLdB]
@[simp] theorem bodyLdBs_keeps (t a o s) : (bodyLdBs t a o s).Keeps P := by simp [bodyLdBs]
@[simp] theorem bodyLdH_keeps (t a o s) : (bodyLdH t a o s).Keeps P := by simp [bodyLdH]
@[simp] theorem bodyLdHs_keeps (t a o s) : (bodyLdHs t a o s).Keeps P := by simp [bodyLdHs]
@[simp] theorem bodyLdW_keeps (t a o s) : (bodyLdW t a o s).Keeps P := by simp [bodyLdW]
@[simp] theorem bodyLdD_keeps (t a o s) : (bodyLdD t a o s).Keeps P := by simp [bodyLdD]
@[simp] theorem bodyLdQ_keeps (t a o s) : (bodyLdQ t a o s).Keeps P := by simp [bodyLdQ]
@[simp] theorem bodyStB_keeps (t a o s) : (bodyStB t a o s).Keeps P := by simp [bodyStB]
@[simp] theorem bodyStH_keeps (t a o s) : (bodyStH t a o s).Keeps P := by simp [bodyStH]
@[simp] theorem bodyStW_keeps (t a o s) : (bodyStW t a o s).Keeps P := by simp [bodyStW]
@[simp] theorem bodyStD_keeps (t a o s) : (bodyStD t a o s).Keeps P := by simp [bodyStD]
@[simp] theorem bodyStQ_keeps (t a o s) : (bodyStQ t a o s).Keeps P := by simp [bodyStQ]
@[simp] theorem bodyLdsB_keeps (t a o s) : (bodyLdsB t a o s).Keeps P := by simp [bodyLdsB]
@[simp] theorem bodyLdsBs_keeps (t a o s) : (bodyLdsBs t a o s).Keeps P := by simp [bodyLdsBs]
@[simp] theorem bodyLdsH_keeps (t a o s) : (bodyLdsH t a o s).Keeps P := by simp [bodyLdsH]
@[simp] theorem bodyLdsHs_keeps (t a o s) : (bodyLdsHs t a o s).Keeps P := by simp [bodyLdsHs]
@[simp] theorem bodyLdsW_keeps (t a o s) : (bodyLdsW t a o s).Keeps P := by simp [bodyLdsW]
@[simp] theorem bodyLdsD_keeps (t a o s) : (bodyLdsD t a o s).Keeps P := by simp [bodyLdsD]
@[simp] theorem bodyLdsQ_keeps (t a o s) : (bodyLdsQ t a o s).Keeps P := by simp [bodyLdsQ]
@[simp] theorem bodyStsB_keeps (t a o s) : (bodyStsB t a o s).Keeps P := by simp [bodyStsB]
@[simp] theorem bodyStsH_keeps (t a o s) : (bodyStsH t a o s).Keeps P := by simp [bodyStsH]
@[simp] theorem bodyStsW_keeps (t a o s) : (bodyStsW t a o s).Keeps P := by simp [bodyStsW]
@[simp] theorem bodyStsD_keeps (t a o s) : (bodyStsD t a o s).Keeps P := by simp [bodyStsD]
@[simp] theorem bodyStsQ_keeps (t a o s) : (bodyStsQ t a o s).Keeps P := by simp [bodyStsQ]
@[simp] theorem bodyLdy_keeps (t a k o s) : (bodyLdy t a k o s).Keeps P := by simp [bodyLdy]
@[simp] theorem bodySty_keeps (t a k o s) : (bodySty t a k o s).Keeps P := by simp [bodySty]
@[simp] theorem bodyLdcFp32_keeps (t a o s) : (bodyLdcFp32 t a o s).Keeps P := by simp [bodyLdcFp32]
@[simp] theorem bodyLdcBf16_keeps (t a o s) : (bodyLdcBf16 t a o s).Keeps P := by simp [bodyLdcBf16]
@[simp] theorem bodyLdcFp16_keeps (t a o s) : (bodyLdcFp16 t a o s).Keeps P := by simp [bodyLdcFp16]
@[simp] theorem bodyLdcE4m3_keeps (t a o s) : (bodyLdcE4m3 t a o s).Keeps P := by simp [bodyLdcE4m3]
@[simp] theorem bodyLdcE5m2_keeps (t a o s) : (bodyLdcE5m2 t a o s).Keeps P := by simp [bodyLdcE5m2]
@[simp] theorem bodyLdcInt32_keeps (t a o s) : (bodyLdcInt32 t a o s).Keeps P := by simp [bodyLdcInt32]
@[simp] theorem bodyLdcUint32_keeps (t a o s) : (bodyLdcUint32 t a o s).Keeps P := by simp [bodyLdcUint32]
@[simp] theorem bodyLdcInt8_keeps (t a o s) : (bodyLdcInt8 t a o s).Keeps P := by simp [bodyLdcInt8]
@[simp] theorem bodyLdcUint8_keeps (t a o s) : (bodyLdcUint8 t a o s).Keeps P := by simp [bodyLdcUint8]
@[simp] theorem bodyStcFp32_keeps (t a o s) : (bodyStcFp32 t a o s).Keeps P := by simp [bodyStcFp32]
@[simp] theorem bodyStcBf16_keeps (t a o s) : (bodyStcBf16 t a o s).Keeps P := by simp [bodyStcBf16]
@[simp] theorem bodyStcFp16_keeps (t a o s) : (bodyStcFp16 t a o s).Keeps P := by simp [bodyStcFp16]
@[simp] theorem bodyStcE4m3_keeps (t a o s) : (bodyStcE4m3 t a o s).Keeps P := by simp [bodyStcE4m3]
@[simp] theorem bodyStcE5m2_keeps (t a o s) : (bodyStcE5m2 t a o s).Keeps P := by simp [bodyStcE5m2]
@[simp] theorem bodyStcInt32_keeps (t a o s) : (bodyStcInt32 t a o s).Keeps P := by simp [bodyStcInt32]
@[simp] theorem bodyStcUint32_keeps (t a o s) : (bodyStcUint32 t a o s).Keeps P := by simp [bodyStcUint32]
@[simp] theorem bodyStcInt8_keeps (t a o s) : (bodyStcInt8 t a o s).Keeps P := by simp [bodyStcInt8]
@[simp] theorem bodyStcUint8_keeps (t a o s) : (bodyStcUint8 t a o s).Keeps P := by simp [bodyStcUint8]
@[simp] theorem bodyLdf_keeps (t a o s) : (bodyLdf t a o s).Keeps P := by simp [bodyLdf]
@[simp] theorem bodyLdfCons_keeps (t a o s) : (bodyLdfCons t a o s).Keeps P := by simp [bodyLdfCons]
@[simp] theorem bodyStf_keeps (t a o s) : (bodyStf t a o s).Keeps P := by simp [bodyStf]
@[simp] theorem bodyAdd_keeps (d a b s) : (bodyAdd d a b s).Keeps P := by simp [bodyAdd]
@[simp] theorem bodySub_keeps (d a b s) : (bodySub d a b s).Keeps P := by simp [bodySub]
@[simp] theorem bodyMul_keeps (d a b s) : (bodyMul d a b s).Keeps P := by simp [bodyMul]
@[simp] theorem bodyMulh_keeps (d a b s) : (bodyMulh d a b s).Keeps P := by simp [bodyMulh]
@[simp] theorem bodyMulhu_keeps (d a b s) : (bodyMulhu d a b s).Keeps P := by simp [bodyMulhu]
@[simp] theorem bodyDiv_keeps (d a b s) : (bodyDiv d a b s).Keeps P := by simp [bodyDiv]
@[simp] theorem bodyDivu_keeps (d a b s) : (bodyDivu d a b s).Keeps P := by simp [bodyDivu]
@[simp] theorem bodyRem_keeps (d a b s) : (bodyRem d a b s).Keeps P := by simp [bodyRem]
@[simp] theorem bodyRemu_keeps (d a b s) : (bodyRemu d a b s).Keeps P := by simp [bodyRemu]
@[simp] theorem bodyAnd_keeps (d a b s) : (bodyAnd d a b s).Keeps P := by simp [bodyAnd]
@[simp] theorem bodyOr_keeps (d a b s) : (bodyOr d a b s).Keeps P := by simp [bodyOr]
@[simp] theorem bodyXor_keeps (d a b s) : (bodyXor d a b s).Keeps P := by simp [bodyXor]
@[simp] theorem bodyAndn_keeps (d a b s) : (bodyAndn d a b s).Keeps P := by simp [bodyAndn]
@[simp] theorem bodyOrn_keeps (d a b s) : (bodyOrn d a b s).Keeps P := by simp [bodyOrn]
@[simp] theorem bodyShl_keeps (d a b s) : (bodyShl d a b s).Keeps P := by simp [bodyShl]
@[simp] theorem bodyShr_keeps (d a b s) : (bodyShr d a b s).Keeps P := by simp [bodyShr]
@[simp] theorem bodySar_keeps (d a b s) : (bodySar d a b s).Keeps P := by simp [bodySar]
@[simp] theorem bodyRotl_keeps (d a b s) : (bodyRotl d a b s).Keeps P := by simp [bodyRotl]
@[simp] theorem bodyMin_keeps (d a b s) : (bodyMin d a b s).Keeps P := by simp [bodyMin]
@[simp] theorem bodyMax_keeps (d a b s) : (bodyMax d a b s).Keeps P := by simp [bodyMax]
@[simp] theorem bodyMinu_keeps (d a b s) : (bodyMinu d a b s).Keeps P := by simp [bodyMinu]
@[simp] theorem bodyMaxu_keeps (d a b s) : (bodyMaxu d a b s).Keeps P := by simp [bodyMaxu]
@[simp] theorem bodyAdds_keeps (d a b s) : (bodyAdds d a b s).Keeps P := by simp [bodyAdds]
@[simp] theorem bodySubs_keeps (d a b s) : (bodySubs d a b s).Keeps P := by simp [bodySubs]
@[simp] theorem bodyAddus_keeps (d a b s) : (bodyAddus d a b s).Keeps P := by simp [bodyAddus]
@[simp] theorem bodySubus_keeps (d a b s) : (bodySubus d a b s).Keeps P := by simp [bodySubus]
@[simp] theorem bodyLea1_keeps (d a b s) : (bodyLea1 d a b s).Keeps P := by simp [bodyLea1]
@[simp] theorem bodyLea2_keeps (d a b s) : (bodyLea2 d a b s).Keeps P := by simp [bodyLea2]
@[simp] theorem bodyLea3_keeps (d a b s) : (bodyLea3 d a b s).Keeps P := by simp [bodyLea3]
@[simp] theorem bodyLea4_keeps (d a b s) : (bodyLea4 d a b s).Keeps P := by simp [bodyLea4]
@[simp] theorem bodyAddD_keeps (d a b s) : (bodyAddD d a b s).Keeps P := by simp [bodyAddD]
@[simp] theorem bodySubD_keeps (d a b s) : (bodySubD d a b s).Keeps P := by simp [bodySubD]
@[simp] theorem bodyMulD_keeps (d a b s) : (bodyMulD d a b s).Keeps P := by simp [bodyMulD]
@[simp] theorem bodyMulhD_keeps (d a b s) : (bodyMulhD d a b s).Keeps P := by simp [bodyMulhD]
@[simp] theorem bodyMulhuD_keeps (d a b s) : (bodyMulhuD d a b s).Keeps P := by simp [bodyMulhuD]
@[simp] theorem bodyAndD_keeps (d a b s) : (bodyAndD d a b s).Keeps P := by simp [bodyAndD]
@[simp] theorem bodyOrD_keeps (d a b s) : (bodyOrD d a b s).Keeps P := by simp [bodyOrD]
@[simp] theorem bodyXorD_keeps (d a b s) : (bodyXorD d a b s).Keeps P := by simp [bodyXorD]
@[simp] theorem bodyShlD_keeps (d a b s) : (bodyShlD d a b s).Keeps P := by simp [bodyShlD]
@[simp] theorem bodyShrD_keeps (d a b s) : (bodyShrD d a b s).Keeps P := by simp [bodyShrD]
@[simp] theorem bodySarD_keeps (d a b s) : (bodySarD d a b s).Keeps P := by simp [bodySarD]
@[simp] theorem bodyMinD_keeps (d a b s) : (bodyMinD d a b s).Keeps P := by simp [bodyMinD]
@[simp] theorem bodyMaxD_keeps (d a b s) : (bodyMaxD d a b s).Keeps P := by simp [bodyMaxD]
@[simp] theorem bodyMinuD_keeps (d a b s) : (bodyMinuD d a b s).Keeps P := by simp [bodyMinuD]
@[simp] theorem bodyMaxuD_keeps (d a b s) : (bodyMaxuD d a b s).Keeps P := by simp [bodyMaxuD]
@[simp] theorem bodyAddwD_keeps (d a b s) : (bodyAddwD d a b s).Keeps P := by simp [bodyAddwD]
@[simp] theorem bodyAdduwD_keeps (d a b s) : (bodyAdduwD d a b s).Keeps P := by simp [bodyAdduwD]
@[simp] theorem bodyMulwD_keeps (d a b s) :
    (bodyMulwD d a b s).Keeps P := by simp [bodyMulwD, WordRes.Keeps, WordRes.regs]
@[simp] theorem bodyMuluwD_keeps (d a b s) :
    (bodyMuluwD d a b s).Keeps P := by simp [bodyMuluwD, WordRes.Keeps, WordRes.regs]
@[simp] theorem bodyMov_keeps (d a s) : (bodyMov d a s).Keeps P := by simp [bodyMov]
@[simp] theorem bodyNot_keeps (d a s) : (bodyNot d a s).Keeps P := by simp [bodyNot]
@[simp] theorem bodyNeg_keeps (d a s) : (bodyNeg d a s).Keeps P := by simp [bodyNeg]
@[simp] theorem bodyAbs_keeps (d a s) : (bodyAbs d a s).Keeps P := by simp [bodyAbs]
@[simp] theorem bodyClz_keeps (d a s) : (bodyClz d a s).Keeps P := by simp [bodyClz]
@[simp] theorem bodyCtz_keeps (d a s) : (bodyCtz d a s).Keeps P := by simp [bodyCtz]
@[simp] theorem bodyPopc_keeps (d a s) : (bodyPopc d a s).Keeps P := by simp [bodyPopc]
@[simp] theorem bodyBrev_keeps (d a s) : (bodyBrev d a s).Keeps P := by simp [bodyBrev]
@[simp] theorem bodyBswap_keeps (d a s) : (bodyBswap d a s).Keeps P := by simp [bodyBswap]
@[simp] theorem bodySextb_keeps (d a s) : (bodySextb d a s).Keeps P := by simp [bodySextb]
@[simp] theorem bodySexth_keeps (d a s) : (bodySexth d a s).Keeps P := by simp [bodySexth]
@[simp] theorem bodyZextb_keeps (d a s) : (bodyZextb d a s).Keeps P := by simp [bodyZextb]
@[simp] theorem bodyZexth_keeps (d a s) : (bodyZexth d a s).Keeps P := by simp [bodyZexth]
@[simp] theorem bodyMovD_keeps (d a s) : (bodyMovD d a s).Keeps P := by simp [bodyMovD]
@[simp] theorem bodyClzD_keeps (d a s) : (bodyClzD d a s).Keeps P := by simp [bodyClzD, WordRes.Keeps, WordRes.regs]
@[simp] theorem bodyPopcD_keeps (d a s) : (bodyPopcD d a s).Keeps P := by simp [bodyPopcD, WordRes.Keeps, WordRes.regs]
@[simp] theorem bodySextD_keeps (d a s) : (bodySextD d a s).Keeps P := by simp [bodySextD, WordRes.Keeps, WordRes.regs]
@[simp] theorem bodyZextD_keeps (d a s) : (bodyZextD d a s).Keeps P := by simp [bodyZextD, WordRes.Keeps, WordRes.regs]
@[simp] theorem bodyAddi_keeps (d a i s) : (bodyAddi d a i s).Keeps P := by simp [bodyAddi]
@[simp] theorem bodyAndi_keeps (d a i s) : (bodyAndi d a i s).Keeps P := by simp [bodyAndi]
@[simp] theorem bodyOri_keeps (d a i s) : (bodyOri d a i s).Keeps P := by simp [bodyOri]
@[simp] theorem bodyXori_keeps (d a i s) : (bodyXori d a i s).Keeps P := by simp [bodyXori]
@[simp] theorem bodyShli_keeps (d a n s) : (bodyShli d a n s).Keeps P := by simp [bodyShli]
@[simp] theorem bodyShri_keeps (d a n s) : (bodyShri d a n s).Keeps P := by simp [bodyShri]
@[simp] theorem bodySari_keeps (d a n s) : (bodySari d a n s).Keeps P := by simp [bodySari]
@[simp] theorem bodyRotli_keeps (d a n s) : (bodyRotli d a n s).Keeps P := by simp [bodyRotli]
@[simp] theorem bodyShliD_keeps (d a n s) : (bodyShliD d a n s).Keeps P := by simp [bodyShliD]
@[simp] theorem bodyShriD_keeps (d a n s) : (bodyShriD d a n s).Keeps P := by simp [bodyShriD]
@[simp] theorem bodySariD_keeps (d a n s) : (bodySariD d a n s).Keeps P := by simp [bodySariD]
@[simp] theorem bodyRotliD_keeps (d a n s) : (bodyRotliD d a n s).Keeps P := by simp [bodyRotliD]
@[simp] theorem bodyLi_keeps (d i s) : (bodyLi d i s).Keeps P := by simp [bodyLi, WordRes.Keeps, WordRes.regs]
@[simp] theorem bodyLih_keeps (d i s) : (bodyLih d i s).Keeps P := by simp [bodyLih, WordRes.Keeps, WordRes.regs]
@[simp] theorem bodyEq_keeps (d a b s) : (bodyEq d a b s).Keeps P := by simp [bodyEq]
@[simp] theorem bodyNe_keeps (d a b s) : (bodyNe d a b s).Keeps P := by simp [bodyNe]
@[simp] theorem bodyLt_keeps (d a b s) : (bodyLt d a b s).Keeps P := by simp [bodyLt]
@[simp] theorem bodyLe_keeps (d a b s) : (bodyLe d a b s).Keeps P := by simp [bodyLe]
@[simp] theorem bodyLtu_keeps (d a b s) : (bodyLtu d a b s).Keeps P := by simp [bodyLtu]
@[simp] theorem bodyLeu_keeps (d a b s) : (bodyLeu d a b s).Keeps P := by simp [bodyLeu]
@[simp] theorem bodyEqD_keeps (d a b s) : (bodyEqD d a b s).Keeps P := by simp [bodyEqD]
@[simp] theorem bodyNeD_keeps (d a b s) : (bodyNeD d a b s).Keeps P := by simp [bodyNeD]
@[simp] theorem bodyLtD_keeps (d a b s) : (bodyLtD d a b s).Keeps P := by simp [bodyLtD]
@[simp] theorem bodyLeD_keeps (d a b s) : (bodyLeD d a b s).Keeps P := by simp [bodyLeD]
@[simp] theorem bodyLtuD_keeps (d a b s) : (bodyLtuD d a b s).Keeps P := by simp [bodyLtuD]
@[simp] theorem bodyLeuD_keeps (d a b s) : (bodyLeuD d a b s).Keeps P := by simp [bodyLeuD]
@[simp] theorem bodyTst_keeps (d a b s) : (bodyTst d a b s).Keeps P := by simp [bodyTst]
@[simp] theorem bodyTstz_keeps (d a b s) : (bodyTstz d a b s).Keeps P := by simp [bodyTstz]
@[simp] theorem bodyCmpiEq_keeps (d a i s) : (bodyCmpiEq d a i s).Keeps P := by simp [bodyCmpiEq]
@[simp] theorem bodyCmpiNe_keeps (d a i s) : (bodyCmpiNe d a i s).Keeps P := by simp [bodyCmpiNe]
@[simp] theorem bodyCmpiLt_keeps (d a i s) : (bodyCmpiLt d a i s).Keeps P := by simp [bodyCmpiLt]
@[simp] theorem bodyCmpiLe_keeps (d a i s) : (bodyCmpiLe d a i s).Keeps P := by simp [bodyCmpiLe]
@[simp] theorem bodyCmpiLtu_keeps (d a i s) : (bodyCmpiLtu d a i s).Keeps P := by simp [bodyCmpiLtu]
@[simp] theorem bodyCmpiLeu_keeps (d a i s) : (bodyCmpiLeu d a i s).Keeps P := by simp [bodyCmpiLeu]
@[simp] theorem bodyCmpiGt_keeps (d a i s) : (bodyCmpiGt d a i s).Keeps P := by simp [bodyCmpiGt]
@[simp] theorem bodyCmpiGe_keeps (d a i s) : (bodyCmpiGe d a i s).Keeps P := by simp [bodyCmpiGe]
@[simp] theorem bodySel_keeps (d a b p n s) :
    (bodySel d a b p n s).Keeps P := by simp [bodySel, WordRes.Keeps, WordRes.regs]
@[simp] theorem bodySelD_keeps (d a b p n s) :
    (bodySelD d a b p n s).Keeps P := by simp [bodySelD, WordRes.Keeps, WordRes.regs]
@[simp] theorem bodySelY_keeps (d a b p n s) :
    (bodySelY d a b p n s).Keeps P := by simp [bodySelY, WordRes.Keeps, WordRes.regs]
@[simp] theorem bodyPand_keeps (d a b s) : (bodyPand d a b s).Keeps P := by simp [bodyPand]
@[simp] theorem bodyPor_keeps (d a b s) : (bodyPor d a b s).Keeps P := by simp [bodyPor]
@[simp] theorem bodyPxor_keeps (d a b s) : (bodyPxor d a b s).Keeps P := by simp [bodyPxor]
@[simp] theorem bodyPandn_keeps (d a b s) : (bodyPandn d a b s).Keeps P := by simp [bodyPandn]
@[simp] theorem bodyPnot_keeps (d a s) : (bodyPnot d a s).Keeps P := by simp [bodyPnot, WordRes.Keeps, WordRes.regs]
@[simp] theorem bodyPmov_keeps (d a s) : (bodyPmov d a s).Keeps P := by simp [bodyPmov, WordRes.Keeps, WordRes.regs]
@[simp] theorem bodyP2w_keeps (d s) : (bodyP2w d s).Keeps P := by simp [bodyP2w, WordRes.Keeps, WordRes.regs]
@[simp] theorem bodyW2p_keeps (a s) : (bodyW2p a s).Keeps P := by simp [bodyW2p, WordRes.Keeps, WordRes.regs]
@[simp] theorem bodyPset_keeps (d s) : (bodyPset d s).Keeps P := by simp [bodyPset, WordRes.Keeps, WordRes.regs]
@[simp] theorem bodyPclr_keeps (d s) : (bodyPclr d s).Keeps P := by simp [bodyPclr, WordRes.Keeps, WordRes.regs]
@[simp] theorem bodyBr_keeps (p n o s) : (bodyBr p n o s).Keeps P := by
  unfold bodyBr
  split <;> simp [WordRes.Keeps]
@[simp] theorem bodyBra_keeps (o s) : (bodyBra o s).Keeps P := by simp [bodyBra, WordRes.Keeps]
@[simp] theorem bodyCall_keeps (p n o s) : (bodyCall p n o s).Keeps P := by
  unfold bodyCall
  split <;> first | exact callTo_keeps _ _ | simp [WordRes.Keeps]
@[simp] theorem bodyRet_keeps (s) : (bodyRet s).Keeps P := by simp [bodyRet]
@[simp] theorem bodyCallr_keeps (a s) : (bodyCallr a s).Keeps P := by
  unfold bodyCallr
  split <;> first | exact callTo_keeps _ _ | simp [WordRes.Keeps]
@[simp] theorem bodyJmpr_keeps (a s) : (bodyJmpr a s).Keeps P := by
  unfold bodyJmpr
  split <;> simp [WordRes.Keeps]
@[simp] theorem bodyEret_keeps (s) : (bodyEret s).Keeps P := by simp [bodyEret]
@[simp] theorem bodyEnter_keeps (d a i s) : (bodyEnter d a i s).Keeps P := by simp [bodyEnter]
@[simp] theorem bodyLoop_keeps (d i s) : (bodyLoop d i s).Keeps P := by simp [bodyLoop]
@[simp] theorem bodyMbr_keeps (np p1 p2 p3 p4 n1 n2 n3 n4 off1 off2 off3 off4 s) :
    (bodyMbr np p1 p2 p3 p4 n1 n2 n3 n4 off1 off2 off3 off4 s).Keeps P := by
  unfold bodyMbr
  repeat' split
  all_goals simp [WordRes.Keeps]
@[simp] theorem bodyEndFibre_keeps (_s) :
    (bodyEndFibre _s).Keeps P := by simp [bodyEndFibre, WordRes.Keeps]
@[simp] theorem bodySpawn_keeps (d a b s) : (bodySpawn d a b s).Keeps P := by simp [bodySpawn]
@[simp] theorem bodyFid_keeps (d s) : (bodyFid d s).Keeps P := by simp [bodyFid, WordRes.Keeps, WordRes.regs]
@[simp] theorem bodyCid_keeps (d s) : (bodyCid d s).Keeps P := by simp [bodyCid, WordRes.Keeps, WordRes.regs]
@[simp] theorem bodyGid_keeps (d s) : (bodyGid d s).Keeps P := by simp [bodyGid, WordRes.Keeps, WordRes.regs]
@[simp] theorem bodyStg_keeps (d s) : (bodyStg d s).Keeps P := by simp [bodyStg, WordRes.Keeps, WordRes.regs]
@[simp] theorem bodyNid_keeps (d s) : (bodyNid d s).Keeps P := by simp [bodyNid, WordRes.Keeps, WordRes.regs]
@[simp] theorem bodyYield_keeps (h s) : (bodyYield h s).Keeps P := by simp [bodyYield]
@[simp] theorem bodyGets_keeps (d b s) : (bodyGets d b s).Keeps P := by simp [bodyGets]
@[simp] theorem bodySets_keeps (a b s) : (bodySets a b s).Keeps P := by simp [bodySets]
@[simp] theorem bodyTrap_keeps (b _s) : (bodyTrap b _s).Keeps P := by simp [bodyTrap, WordRes.Keeps]
@[simp] theorem bodyBrk_keeps (_s) : (bodyBrk _s).Keeps P := by simp [bodyBrk, WordRes.Keeps]
@[simp] theorem bodyNop_keeps (_s) : (bodyNop _s).Keeps P := by simp [bodyNop, WordRes.Keeps]
@[simp] theorem bodyCpb_keeps (d a b g s) : (bodyCpb d a b g s).Keeps P := by simp [bodyCpb]
@[simp] theorem bodyCpw_keeps (g s) : (bodyCpw g s).Keeps P := by simp [bodyCpw]
@[simp] theorem bodyCpwLe_keeps (a g s) : (bodyCpwLe a g s).Keeps P := by simp [bodyCpwLe]
@[simp] theorem bodyCptG2s_keeps (d a x s) : (bodyCptG2s d a x s).Keeps P := by simp [bodyCptG2s]
@[simp] theorem bodyCptS2g_keeps (d a x s) : (bodyCptS2g d a x s).Keeps P := by simp [bodyCptS2g]
@[simp] theorem bodyCptS2gAtom_keeps (d a x s) : (bodyCptS2gAtom d a x s).Keeps P := by simp [bodyCptS2gAtom]
@[simp] theorem bodyCptG2sCons_keeps (d a x s) : (bodyCptG2sCons d a x s).Keeps P := by simp [bodyCptG2sCons]
@[simp] theorem bodyCptG2g_keeps (d a x s) : (bodyCptG2g d a x s).Keeps P := by simp [bodyCptG2g]
@[simp] theorem bodyCptGather_keeps (d a x s) : (bodyCptGather d a x s).Keeps P := by simp [bodyCptGather]
@[simp] theorem bodyCptCbk_keeps (d a x s) : (bodyCptCbk d a x s).Keeps P := by simp [bodyCptCbk]
@[simp] theorem bodyTwait_keeps (a x s) : (bodyTwait a x s).Keeps P := by simp [bodyTwait]
@[simp] theorem bodyTread_keeps (d x s) : (bodyTread d x s).Keeps P := by simp [bodyTread]
@[simp] theorem bodyTissued_keeps (d x s) : (bodyTissued d x s).Keeps P := by simp [bodyTissued]
@[simp] theorem bodyTstat_keeps (d x s) : (bodyTstat d x s).Keeps P := by simp [bodyTstat]
@[simp] theorem bodyTaskDeq_keeps (d s) : (bodyTaskDeq d s).Keeps P := by simp [bodyTaskDeq]
@[simp] theorem bodyTaskNself_keeps (d s) :
    (bodyTaskNself d s).Keeps P := by simp [bodyTaskNself, WordRes.Keeps, WordRes.regs]
@[simp] theorem bodyArenaAptr_keeps (d a s) : (bodyArenaAptr d a s).Keeps P := by
  unfold bodyArenaAptr
  split <;> simp [WordRes.Keeps, WordRes.regs]
@[simp] theorem bodyArenaAinfo_keeps (d a s) :
    (bodyArenaAinfo d a s).Keeps P := by simp [bodyArenaAinfo, WordRes.Keeps, WordRes.regs]
@[simp] theorem bodyArenaCheck_keeps (a b s) :
    (bodyArenaCheck a b s).Keeps P := by simp [bodyArenaCheck, WordRes.Keeps, WordRes.regs]
@[simp] theorem bodyShape_keeps (d a s) : (bodyShape d a s).Keeps P := by simp [bodyShape]
@[simp] theorem bodyMmaBf16_keeps (d a b p k s) : (bodyMmaBf16 d a b p k s).Keeps P := by simp [bodyMmaBf16]
@[simp] theorem bodyMmaE4m3_keeps (d a b p k s) : (bodyMmaE4m3 d a b p k s).Keeps P := by simp [bodyMmaE4m3]
@[simp] theorem bodyMmaE5m2_keeps (d a b p k s) : (bodyMmaE5m2 d a b p k s).Keeps P := by simp [bodyMmaE5m2]
@[simp] theorem bodyMmaE4m3e5m2_keeps (d a b p k s) : (bodyMmaE4m3e5m2 d a b p k s).Keeps P := by simp [bodyMmaE4m3e5m2]
@[simp] theorem bodyAccZero_keeps (d s) : (bodyAccZero d s).Keeps P := by
  unfold bodyAccZero
  refine tileWord_keeps _ _ _ _ fun r x h => ?_
  cases h
@[simp] theorem bodyAccChainB_keeps (d a s) : (bodyAccChainB d a s).Keeps P := by simp [bodyAccChainB]
@[simp] theorem bodyAccChainE_keeps (d s) : (bodyAccChainE d s).Keeps P := by
  unfold bodyAccChainE
  refine tileWord_keeps _ _ _ _ fun r x h => ?_
  cases h
@[simp] theorem bodyAccSetprom_keeps (a b s) : (bodyAccSetprom a b s).Keeps P := by simp [bodyAccSetprom]
@[simp] theorem bodyAccStF32_keeps (d a s) : (bodyAccStF32 d a s).Keeps P := by simp [bodyAccStF32]
@[simp] theorem bodyAccStBf16_keeps (d a s) : (bodyAccStBf16 d a s).Keeps P := by simp [bodyAccStBf16]
@[simp] theorem bodyAccLdF32_keeps (d a s) : (bodyAccLdF32 d a s).Keeps P := by simp [bodyAccLdF32]
@[simp] theorem bodyAccFlush_keeps (d s) : (bodyAccFlush d s).Keeps P := by
  unfold bodyAccFlush
  refine tileWord_keeps _ _ _ _ fun r x h => ?_
  cases h
@[simp] theorem bodyObjPush_keeps (d a b s) : (bodyObjPush d a b s).Keeps P := by simp [bodyObjPush]
@[simp] theorem bodyObjPop_keeps (d a b s) : (bodyObjPop d a b s).Keeps P := by simp [bodyObjPop]
@[simp] theorem bodyObjEnq_keeps (d a b s) : (bodyObjEnq d a b s).Keeps P := by simp [bodyObjEnq]
@[simp] theorem bodyObjDeq_keeps (d a b s) : (bodyObjDeq d a b s).Keeps P := by simp [bodyObjDeq]
@[simp] theorem bodyObjAdd_keeps (d a b s) : (bodyObjAdd d a b s).Keeps P := by simp [bodyObjAdd]
@[simp] theorem bodyObjArrive_keeps (d a b s) : (bodyObjArrive d a b s).Keeps P := by simp [bodyObjArrive]
@[simp] theorem bodyObjPeek_keeps (d a b s) : (bodyObjPeek d a b s).Keeps P := by simp [bodyObjPeek]
@[simp] theorem bodyObjHelp_keeps (d a b s) : (bodyObjHelp d a b s).Keeps P := by simp [bodyObjHelp]
@[simp] theorem bodyAmoAdd_keeps (d a b sc s) : (bodyAmoAdd d a b sc s).Keeps P := by simp [bodyAmoAdd]
@[simp] theorem bodyAmoAnd_keeps (d a b sc s) : (bodyAmoAnd d a b sc s).Keeps P := by simp [bodyAmoAnd]
@[simp] theorem bodyAmoOr_keeps (d a b sc s) : (bodyAmoOr d a b sc s).Keeps P := by simp [bodyAmoOr]
@[simp] theorem bodyAmoXor_keeps (d a b sc s) : (bodyAmoXor d a b sc s).Keeps P := by simp [bodyAmoXor]
@[simp] theorem bodyAmoMin_keeps (d a b sc s) : (bodyAmoMin d a b sc s).Keeps P := by simp [bodyAmoMin]
@[simp] theorem bodyAmoMax_keeps (d a b sc s) : (bodyAmoMax d a b sc s).Keeps P := by simp [bodyAmoMax]
@[simp] theorem bodyAmoMinu_keeps (d a b sc s) : (bodyAmoMinu d a b sc s).Keeps P := by simp [bodyAmoMinu]
@[simp] theorem bodyAmoMaxu_keeps (d a b sc s) : (bodyAmoMaxu d a b sc s).Keeps P := by simp [bodyAmoMaxu]
@[simp] theorem bodyAmoSwap_keeps (d a b sc s) : (bodyAmoSwap d a b sc s).Keeps P := by simp [bodyAmoSwap]
@[simp] theorem bodyAmoCas_keeps (d a b sc s) : (bodyAmoCas d a b sc s).Keeps P := by simp [bodyAmoCas]
@[simp] theorem bodyAmoAddD_keeps (d a b sc s) : (bodyAmoAddD d a b sc s).Keeps P := by simp [bodyAmoAddD]
@[simp] theorem bodyAmoSwapD_keeps (d a b sc s) : (bodyAmoSwapD d a b sc s).Keeps P := by simp [bodyAmoSwapD]
@[simp] theorem bodyAmoCasD_keeps (d a b sc s) : (bodyAmoCasD d a b sc s).Keeps P := by simp [bodyAmoCasD]
@[simp] theorem bodyAmoCasQ_keeps (d a b sc s) : (bodyAmoCasQ d a b sc s).Keeps P := by simp [bodyAmoCasQ]
@[simp] theorem bodyAmoAddAr_keeps (d a b sc s) : (bodyAmoAddAr d a b sc s).Keeps P := by simp [bodyAmoAddAr]
@[simp] theorem bodyAmoAndAr_keeps (d a b sc s) : (bodyAmoAndAr d a b sc s).Keeps P := by simp [bodyAmoAndAr]
@[simp] theorem bodyAmoOrAr_keeps (d a b sc s) : (bodyAmoOrAr d a b sc s).Keeps P := by simp [bodyAmoOrAr]
@[simp] theorem bodyAmoXorAr_keeps (d a b sc s) : (bodyAmoXorAr d a b sc s).Keeps P := by simp [bodyAmoXorAr]
@[simp] theorem bodyAmoMinAr_keeps (d a b sc s) : (bodyAmoMinAr d a b sc s).Keeps P := by simp [bodyAmoMinAr]
@[simp] theorem bodyAmoMaxAr_keeps (d a b sc s) : (bodyAmoMaxAr d a b sc s).Keeps P := by simp [bodyAmoMaxAr]
@[simp] theorem bodyAmoMinuAr_keeps (d a b sc s) : (bodyAmoMinuAr d a b sc s).Keeps P := by simp [bodyAmoMinuAr]
@[simp] theorem bodyAmoMaxuAr_keeps (d a b sc s) : (bodyAmoMaxuAr d a b sc s).Keeps P := by simp [bodyAmoMaxuAr]
@[simp] theorem bodyAmoSwapAr_keeps (d a b sc s) : (bodyAmoSwapAr d a b sc s).Keeps P := by simp [bodyAmoSwapAr]
@[simp] theorem bodyAmoCasAr_keeps (d a b sc s) : (bodyAmoCasAr d a b sc s).Keeps P := by simp [bodyAmoCasAr]
@[simp] theorem bodyAmoAddDAr_keeps (d a b sc s) : (bodyAmoAddDAr d a b sc s).Keeps P := by simp [bodyAmoAddDAr]
@[simp] theorem bodyAmoSwapDAr_keeps (d a b sc s) : (bodyAmoSwapDAr d a b sc s).Keeps P := by simp [bodyAmoSwapDAr]
@[simp] theorem bodyAmoCasDAr_keeps (d a b sc s) : (bodyAmoCasDAr d a b sc s).Keeps P := by simp [bodyAmoCasDAr]
@[simp] theorem bodyAmoCasQAr_keeps (d a b sc s) : (bodyAmoCasQAr d a b sc s).Keeps P := by simp [bodyAmoCasQAr]
@[simp] theorem bodyLdaW_keeps (d a sc s) : (bodyLdaW d a sc s).Keeps P := by simp [bodyLdaW]
@[simp] theorem bodyLdaD_keeps (d a sc s) : (bodyLdaD d a sc s).Keeps P := by simp [bodyLdaD]
@[simp] theorem bodyLdaB_keeps (d a sc s) : (bodyLdaB d a sc s).Keeps P := by simp [bodyLdaB]
@[simp] theorem bodyStrW_keeps (a b sc s) : (bodyStrW a b sc s).Keeps P := by simp [bodyStrW]
@[simp] theorem bodyStrD_keeps (a b sc s) : (bodyStrD a b sc s).Keeps P := by simp [bodyStrD]
@[simp] theorem bodyStrB_keeps (a b sc s) : (bodyStrB a b sc s).Keeps P := by simp [bodyStrB]
@[simp] theorem bodyFence_keeps (sc k _s) : (bodyFence sc k _s).Keeps P := by simp [bodyFence]
@[simp] theorem bodyFenceAcq_keeps (sc k _s) : (bodyFenceAcq sc k _s).Keeps P := by simp [bodyFenceAcq]
@[simp] theorem bodyFenceRel_keeps (sc k _s) : (bodyFenceRel sc k _s).Keeps P := by simp [bodyFenceRel]
@[simp] theorem bodyWbr_keeps (a b sc s) : (bodyWbr a b sc s).Keeps P := by simp [bodyWbr]
@[simp] theorem bodyInvr_keeps (a b sc s) : (bodyInvr a b sc s).Keeps P := by simp [bodyInvr]
@[simp] theorem bodyPref_keeps (a b sc s) : (bodyPref a b sc s).Keeps P := by simp [bodyPref]
@[simp] theorem bodyYadd_keeps (d a b s) : (bodyYadd d a b s).Keeps P := by simp [bodyYadd]
@[simp] theorem bodyYsub_keeps (d a b s) : (bodyYsub d a b s).Keeps P := by simp [bodyYsub]
@[simp] theorem bodyYmul_keeps (d a b s) : (bodyYmul d a b s).Keeps P := by simp [bodyYmul]
@[simp] theorem bodyYdiv_keeps (d a b s) : (bodyYdiv d a b s).Keeps P := by simp [bodyYdiv]
@[simp] theorem bodyYmin_keeps (d a b s) : (bodyYmin d a b s).Keeps P := by simp [bodyYmin]
@[simp] theorem bodyYmax_keeps (d a b s) : (bodyYmax d a b s).Keeps P := by simp [bodyYmax]
@[simp] theorem bodyYminm_keeps (d a b s) : (bodyYminm d a b s).Keeps P := by simp [bodyYminm]
@[simp] theorem bodyYmaxm_keeps (d a b s) : (bodyYmaxm d a b s).Keeps P := by simp [bodyYmaxm]
@[simp] theorem bodyYcopysign_keeps (d a b s) : (bodyYcopysign d a b s).Keeps P := by simp [bodyYcopysign]
@[simp] theorem bodyYrem_keeps (d a b s) : (bodyYrem d a b s).Keeps P := by simp [bodyYrem]
@[simp] theorem bodyYscale_keeps (d a b s) : (bodyYscale d a b s).Keeps P := by simp [bodyYscale]
@[simp] theorem bodyYfma_keeps (d a b s) : (bodyYfma d a b s).Keeps P := by simp [bodyYfma]
@[simp] theorem bodyYfms_keeps (d a b s) : (bodyYfms d a b s).Keeps P := by simp [bodyYfms]
@[simp] theorem bodyYfnma_keeps (d a b s) : (bodyYfnma d a b s).Keeps P := by simp [bodyYfnma]
@[simp] theorem bodyYmov_keeps (d a s) : (bodyYmov d a s).Keeps P := by simp [bodyYmov]
@[simp] theorem bodyYneg_keeps (d a s) : (bodyYneg d a s).Keeps P := by simp [bodyYneg]
@[simp] theorem bodyYabs_keeps (d a s) : (bodyYabs d a s).Keeps P := by simp [bodyYabs]
@[simp] theorem bodyYsqrt_keeps (d a s) : (bodyYsqrt d a s).Keeps P := by simp [bodyYsqrt]
@[simp] theorem bodyYrint_keeps (d a s) : (bodyYrint d a s).Keeps P := by simp [bodyYrint]
@[simp] theorem bodyYtrunc_keeps (d a s) : (bodyYtrunc d a s).Keeps P := by simp [bodyYtrunc]
@[simp] theorem bodyYlogb_keeps (d a s) : (bodyYlogb d a s).Keeps P := by simp [bodyYlogb]
@[simp] theorem bodyYclass_keeps (d a s) : (bodyYclass d a s).Keeps P := by simp [bodyYclass]
@[simp] theorem bodyYsig_keeps (d a s) : (bodyYsig d a s).Keeps P := by simp [bodyYsig]
@[simp] theorem bodyYmant_keeps (d a s) : (bodyYmant d a s).Keeps P := by simp [bodyYmant]
@[simp] theorem bodyYrecip_keeps (d a s) : (bodyYrecip d a s).Keeps P := by simp [bodyYrecip]
@[simp] theorem bodyYrsqrt_keeps (d a s) : (bodyYrsqrt d a s).Keeps P := by simp [bodyYrsqrt]
@[simp] theorem bodyYcmpEq_keeps (d a b s) : (bodyYcmpEq d a b s).Keeps P := by simp [bodyYcmpEq]
@[simp] theorem bodyYcmpLt_keeps (d a b s) : (bodyYcmpLt d a b s).Keeps P := by simp [bodyYcmpLt]
@[simp] theorem bodyYcmpLe_keeps (d a b s) : (bodyYcmpLe d a b s).Keeps P := by simp [bodyYcmpLe]
@[simp] theorem bodyYcmpUn_keeps (d a b s) : (bodyYcmpUn d a b s).Keeps P := by simp [bodyYcmpUn]
@[simp] theorem bodyYcmpEqs_keeps (d a b s) : (bodyYcmpEqs d a b s).Keeps P := by simp [bodyYcmpEqs]
@[simp] theorem bodyYcmpLts_keeps (d a b s) : (bodyYcmpLts d a b s).Keeps P := by simp [bodyYcmpLts]
@[simp] theorem bodyYcmpLes_keeps (d a b s) : (bodyYcmpLes d a b s).Keeps P := by simp [bodyYcmpLes]
@[simp] theorem bodyYcvtYW_keeps (d a s) : (bodyYcvtYW d a s).Keeps P := by simp [bodyYcvtYW]
@[simp] theorem bodyYcvtYUw_keeps (d a s) : (bodyYcvtYUw d a s).Keeps P := by simp [bodyYcvtYUw]
@[simp] theorem bodyYcvtYD_keeps (d a s) : (bodyYcvtYD d a s).Keeps P := by simp [bodyYcvtYD]
@[simp] theorem bodyYcvtYUd_keeps (d a s) : (bodyYcvtYUd d a s).Keeps P := by simp [bodyYcvtYUd]
@[simp] theorem bodyYcvtWY_keeps (d a s) : (bodyYcvtWY d a s).Keeps P := by simp [bodyYcvtWY]
@[simp] theorem bodyYcvtUwY_keeps (d a s) : (bodyYcvtUwY d a s).Keeps P := by simp [bodyYcvtUwY]
@[simp] theorem bodyYcvtDY_keeps (d a s) : (bodyYcvtDY d a s).Keeps P := by simp [bodyYcvtDY]
@[simp] theorem bodyYcvtUdY_keeps (d a s) : (bodyYcvtUdY d a s).Keeps P := by simp [bodyYcvtUdY]
@[simp] theorem bodySetprc_keeps (a s) : (bodySetprc a s).Keeps P := by
  unfold bodySetprc
  exact afterFlags_keeps _ _ (writePrc_keeps _)
@[simp] theorem bodyGetprc_keeps (d s) : (bodyGetprc d s).Keeps P := by
  unfold bodyGetprc
  exact afterFlags_keeps _ _ fun _ h => h
@[simp] theorem bodySetl_keeps (a s) : (bodySetl a s).Keeps P := by
  unfold bodySetl
  refine afterFlags_keeps _ _ ?_
  dsimp only
  split <;> simp [WordRes.Keeps, WordRes.regs]
@[simp] theorem bodySetrm_keeps (a s) : (bodySetrm a s).Keeps P := by
  unfold bodySetrm
  refine afterFlags_keeps _ _ ?_
  dsimp only
  split <;> simp [WordRes.Keeps, WordRes.regs]
@[simp] theorem bodyGetflags_keeps (d s) : (bodyGetflags d s).Keeps P := by
  unfold bodyGetflags
  exact afterFlags_keeps _ _ fun _ h => h
@[simp] theorem bodyClrflags_keeps (a s) : (bodyClrflags a s).Keeps P := by
  unfold bodyClrflags
  refine afterFlags_keeps _ _ ?_
  dsimp only
  split <;> simp [WordRes.Keeps, WordRes.regs]
@[simp] theorem bodyRnd_keeps (d s) : (bodyRnd d s).Keeps P := by
  unfold bodyRnd
  refine whenDrawn_keeps _ _ ?_
  intro t ht; simpa using ht
@[simp] theorem bodyShfl_keeps (d a b s) : (bodyShfl d a b s).Keeps P := by simp [bodyShfl]
@[simp] theorem bodyShflXor_keeps (d a b s) : (bodyShflXor d a b s).Keeps P := by simp [bodyShflXor]
@[simp] theorem bodyShflUp_keeps (d a b s) : (bodyShflUp d a b s).Keeps P := by simp [bodyShflUp]
@[simp] theorem bodyShflDown_keeps (d a b s) : (bodyShflDown d a b s).Keeps P := by simp [bodyShflDown]
@[simp] theorem bodyVoteAny_keeps (d a b s) : (bodyVoteAny d a b s).Keeps P := by simp [bodyVoteAny]
@[simp] theorem bodyVoteAll_keeps (d a b s) : (bodyVoteAll d a b s).Keeps P := by simp [bodyVoteAll]
@[simp] theorem bodyBallot_keeps (d a b s) : (bodyBallot d a b s).Keeps P := by simp [bodyBallot]
@[simp] theorem bodyReduxAdd_keeps (d a b s) : (bodyReduxAdd d a b s).Keeps P := by simp [bodyReduxAdd]
@[simp] theorem bodyReduxMin_keeps (d a b s) : (bodyReduxMin d a b s).Keeps P := by simp [bodyReduxMin]
@[simp] theorem bodyReduxMax_keeps (d a b s) : (bodyReduxMax d a b s).Keeps P := by simp [bodyReduxMax]
@[simp] theorem bodyReduxYadd_keeps (d a b s) : (bodyReduxYadd d a b s).Keeps P := by simp [bodyReduxYadd]
@[simp] theorem bodyMatchLanes_keeps (d a b s) : (bodyMatchLanes d a b s).Keeps P := by simp [bodyMatchLanes]
@[simp] theorem bodyPresent_keeps (d b s) : (bodyPresent d b s).Keeps P := by simp [bodyPresent]

def writesHome : Instr → Bool
  | .taskTnode _ _ => true
  | .taskCont _ _ => true
  | .taskTdep _ _ => true
  | .taskTsig _ => true
  | .taskEnq _ => true
  | .objInit _ _ _ => true
  | .redAdd _ _ _ => true
  | .redAnd _ _ _ => true
  | .redOr _ _ _ => true
  | .redXor _ _ _ => true
  | .redMin _ _ _ => true
  | .redMax _ _ _ => true
  | .redFaddF32 _ _ _ => true
  | .redFaddBf16 _ _ _ => true
  | .redAddD _ _ _ => true
  | _ => false

theorem bodyOf_keeps (i : Instr) (s : State) (h : writesHome i = true → (bodyOf i s).Keeps P) :
    (bodyOf i s).Keeps P := by
  cases i
  all_goals first
    | exact h rfl
    | exact True.intro
    | (unfold bodyOf; simp)

/-- Whatever a word does when it commits or is at work keeps memory in its canonical form. -/
theorem bodyOf_wf (i : Instr) (s : State) : (bodyOf i s).Keeps fun m => m.wf = true := by
  refine bodyOf_keeps i s fun h => ?_
  cases i
  case taskTnode d a => unfold bodyOf bodyTaskTnode; exact tnodeWord_wf _ _ _
  case taskCont a b => unfold bodyOf bodyTaskCont; exact contWord_wf _ _ _
  case taskTdep a b => exact afterRelease_keeps _ _ fun t ht => State.depend_wf _ _ _ ht
  case taskTsig a => exact afterRelease_keeps _ _ fun t ht => State.sendSignal_wf _ _ ht
  case taskEnq a => unfold bodyOf bodyTaskEnq; exact enqWord_wf _ _
  case objInit d a b => unfold bodyOf bodyObjInit; exact objInitWord_wf _ _ _ _
  case redAdd a b sc => exact redWord_wf _ _ _ _ _
  case redAnd a b sc => exact redWord_wf _ _ _ _ _
  case redOr a b sc => exact redWord_wf _ _ _ _ _
  case redXor a b sc => exact redWord_wf _ _ _ _ _
  case redMin a b sc => exact redWord_wf _ _ _ _ _
  case redMax a b sc => exact redWord_wf _ _ _ _ _
  case redFaddF32 a b sc => exact redWord_wf _ _ _ _ _
  case redFaddBf16 a b sc => exact redWord_wf _ _ _ _ _
  case redAddD a b sc => exact redWord_wf _ _ _ _ _
  all_goals cases h

end Sys2Proof.Machine
end

