-- ==== Sys2Proof/Laws/Chain.lean ====
section
/-!
SUPPORT. A chain of one word: its decoding at the PC, its issue for the one fibre of a bundle, and a partition's clock.
-/
namespace Sys2Proof.Machine

theorem pcOf_slot {pc : DWord} (hv : pcInvalid pc = false) : pcOf pc (pcSlot pc) = pc := by
  simp only [pcInvalid, Bool.or_eq_false_iff] at hv
  have h2 : pc.extractLsb' 2 2 = 0#2 := by simpa using hv.2
  unfold pcOf pcSlot
  apply BitVec.eq_of_getLsbD_eq
  intro j hj
  have hb2 : pc.getLsbD 2 = false := by
    have := congrArg (fun x => x.getLsbD 0) h2; simpa using this
  have hb3 : pc.getLsbD 3 = false := by
    have := congrArg (fun x => x.getLsbD 1) h2; simpa using this
  rw [BitVec.ofNat_toNat]
  simp only [BitVec.getLsbD_or, BitVec.getLsbD_and, BitVec.getLsbD_not, BitVec.getLsbD_setWidth, BitVec.getLsbD_extractLsb', hj, decide_true, Bool.true_and]
  by_cases h : j < 4
  · have : j = 0 ∨ j = 1 ∨ j = 2 ∨ j = 3 := by omega
    rcases this with rfl | rfl | rfl | rfl <;> simp_all
  · have e : (15#64).getLsbD j = false := by
      rw [BitVec.getLsbD_ofNat]; simp [hj]
      have : (15 : Nat) < 2 ^ j := by
        calc 15 < 2 ^ 4 := by decide
          _ ≤ 2 ^ j := Nat.pow_le_pow_right (by decide) (by omega)
      exact Nat.testBit_lt_two_pow this
    have h2 : ¬ j < 2 := by omega
    simp [e, h2]

theorem decodeChain_one {pc : DWord} {i : Instr} (hv : pcInvalid pc = false) {w0 w1 w2 tail : Word} (h3 : tail.extractLsb' 0 12 = 0#12)
    (hs : pcSlot pc < 3) (word : Nat → Word) (e0 : word 0 = w0) (e1 : word 1 = w1) (e2 : word 2 = w2)
    (hb : ∀ k < pcSlot pc, (word k).getLsbD 31 = false) (hc : (word (pcSlot pc)).getLsbD 31 = false)
    (hl : wordInfo (word (pcSlot pc)) = .inr i) (hm : isMbrWord (word (pcSlot pc)) = false) :
    decodeChain pc w0 w1 w2 tail = .chain [⟨pc, infoOf i, bodyOf i⟩] (pcNext pc) := by
  have hpc := pcOf_slot hv
  unfold decodeChain
  dsimp only
  have hcase : pcSlot pc = 0 ∨ pcSlot pc = 1 ∨ pcSlot pc = 2 := by omega
  have key : ∀ k w, pcSlot pc = k → word k = w → chainSlots w0 w1 w2 k = [(k, w)] → 
      (match refusedAt 3 ((chainSlots w0 w1 w2 k).filter fun (x : Nat × Word) => !isMbrWord x.2), levelFour (chainSlots w0 w1 w2 k), refusedAt 5 (chainSlots w0 w1 w2 k) with
        | some w, _, _ => Fetched.bad 3 w
        | none, some w, _ => .bad 4 w
        | none, none, some w => .bad 5 w
        | none, none, none =>
          .chain ((chainSlots w0 w1 w2 k).filterMap fun (x : Nat × Word) => match wordInfo x.2 with
            | .inr i => some (chainWord (pcOf pc x.1) x.2 i)
            | .inl _ => none) (pcNext (pcOf pc (k + (chainSlots w0 w1 w2 k).length - 1)))) =
      .chain [⟨pc, infoOf i, bodyOf i⟩] (pcNext pc) := by
    intro k w hk hw hch
    rw [hch]
    subst hk
    rw [hw] at hl hm hc
    have r3 : ∀ l, refusedAt l [(pcSlot pc, w)] = none := by
      intro l; simp [refusedAt, hl]
    have l4 : levelFour [(pcSlot pc, w)] = none := by
      unfold levelFour
      simp only [hm, wordC, hc, Bool.and_false, List.any_nil, Bool.or_self, Bool.false_eq_true, if_false]
      rfl
    have hf : ([(pcSlot pc, w)].filter fun x => !isMbrWord x.2) = [(pcSlot pc, w)] := by simp [hm]
    rw [hf, r3, r3, l4]
    simp only [List.filterMap_cons, List.filterMap_nil, hl, chainWord, wordC, hc, List.length_singleton, Nat.add_sub_cancel, hpc]
    rfl
  have hvt : ¬(tail.extractLsb' 0 12 ≠ 0#12 ∨ pcInvalid pc = true) := by simp [h3, hv]
  rcases hcase with h | h | h
  · rw [if_neg hvt, if_neg (by simp [h])]
    have c0 : wordC w0 = false := by unfold wordC; rw [← e0]; rw [h] at hc; exact hc
    rw [if_neg (by simp [isMbrPacket, c0])]
    rw [h]; exact key 0 w0 h e0 (by simp [chainSlots, c0])
  · have c0 : wordC w0 = false := by unfold wordC; rw [← e0]; exact hb 0 (by omega)
    have c1 : wordC w1 = false := by unfold wordC; rw [← e1]; rw [h] at hc; exact hc
    rw [if_neg hvt, if_neg (by simp [h, c0]), if_neg (by simp [h])]
    rw [h]; exact key 1 w1 h e1 (by simp [chainSlots, c1])
  · have c1 : wordC w1 = false := by unfold wordC; rw [← e1]; exact hb 1 (by omega)
    rw [if_neg hvt, if_neg (by simp [h, c1]), if_neg (by simp [h])]
    rw [h]; exact key 2 w2 h e2 (by simp [chainSlots])

theorem lane_finish {t : State} {id : FibId} {res : ChainRes} (hid : t.f.id = id) (hw : res.waits = false) (pc : DWord) :
    Issued.finish (Issued.lane ⟨t, [], []⟩ id pc res) = ((res.apply pc t).tick, [id]) := by
  cases res with
  | wait => cases hw
  | trap c d v => rfl
  | fault c d v ia => subst hid; rfl
  | hold k => rfl
  | go k => rfl

theorem together_one (x : FibId × ChainRes) : together [x] = [x] := by
  unfold together
  split
  · rename_i h
    have h : x.2.holds = true := by simpa using h
    simp [h]
  · rfl

theorem lanes_one {t : State} {id : FibId} {pc : DWord} {res : ChainRes} (hfoc : t.focus id = t) :
    Issued.lanes ⟨t, [], []⟩ pc [(id, res)] = Issued.lane ⟨t, [], []⟩ id pc res := by
  simp only [Issued.lanes, List.foldl_cons, List.foldl_nil, Issued.at_, hfoc]

theorem crewRes_one {t : State} {id : FibId} {ws : List ChainWord} {next : DWord} (hfoc : t.focus id = t) :
    crewRes ws next [id] ⟨t, [], []⟩ = [(id, evalChain ws next t)] := by
  unfold crewRes
  simp only [List.map_cons, List.map_nil, hfoc, List.all_cons, List.all_nil, Bool.and_true]
  by_cases hg : (evalChain ws next t).good = true
  · rw [if_pos hg]
  · rw [if_neg hg, if_neg hg]

theorem issueCrew_one {t : State} {id : FibId} {ws : List ChainWord} {next pc : DWord} (hfoc : t.focus id = t)
    (hw : (evalChain ws next t).waits = false) :
    issueCrew ws next pc [id] ⟨t, [], []⟩ = some (Issued.lane ⟨t, [], []⟩ id pc (evalChain ws next t)) := by
  unfold issueCrew
  simp only [crewRes_one hfoc, List.any_cons, List.any_nil, hw, Bool.or_self, Bool.false_eq_true, if_false, together_one,
    lanes_one hfoc]

theorem issueCrews_one {t : State} {id : FibId} {ws : List ChainWord} {next pc : DWord} (hfoc : t.focus id = t)
    (hw : (evalChain ws next t).waits = false) :
    issueCrews ws next pc [id] ⟨t, [], []⟩ = Issued.lane ⟨t, [], []⟩ id pc (evalChain ws next t) := by
  have hc : distinct ([id].map FibId.cid) = [id.cid] := rfl
  have hf : ([id].filter fun i => decide (i.cid = id.cid)) = [id] := by simp
  unfold issueCrews
  dsimp only
  rw [hc, List.map_cons, List.map_nil, hf, List.flatMap_cons, List.flatMap_nil, List.append_nil, crewRes_one hfoc,
    List.foldl_cons, List.foldl_nil]
  simp only [List.any_cons, List.any_nil, hw, Bool.or_self, Bool.false_eq_true, if_false, together_one, lanes_one hfoc,
    Option.bind_some, issueCrew_one hfoc hw, Option.getD_some, ite_self]

theorem issueColl_one {t : State} {id : FibId} {ws : List ChainWord} {next pc : DWord} (hfoc : t.focus id = t)
    (hw : (evalChain ws next t).waits = false) :
    issueColl ws next pc [id] ⟨t, [], []⟩ = Issued.lane ⟨t, [], []⟩ id pc (evalChain ws next t) := by
  unfold issueColl
  simp only [List.map_cons, List.map_nil, hfoc, List.any_cons, List.any_nil, hw, Bool.or_self, Bool.false_eq_true, if_false,
    together_one, lanes_one hfoc]

/-- No fibre of a bundle of one has a due trap: nothing is entered before the fetch. -/
theorem issueDue_one {t : State} {id : FibId} {pc : DWord} (hfoc : t.focus id = t) (hd : t.f.due = none) :
    (issueDue pc [id] ⟨t, [], []⟩).done = [] := by
  simp only [issueDue, List.foldl_cons, List.foldl_nil, Issued.at_, hfoc, hd]

theorem issuePlain_one {t : State} {id : FibId} {ws : List ChainWord} {next pc : DWord} (hfoc : t.focus id = t) :
    issuePlain ws next pc [id] ⟨t, [], []⟩ = Issued.lane ⟨t, [], []⟩ id pc (evalChain ws next t) := by
  simp only [issuePlain, List.foldl_cons, List.foldl_nil, Issued.at_, hfoc]

theorem issueBundle_one {r t v : State} {id : FibId} {i : Instr} (ht : State.focus { r with issue := [id] } id = t)
    (hv : t.fetched = v) (hfoc : v.focus id = v) (hid : v.f.id = id) (htf : t.focus id = t) (hd : t.f.due = none)
    (hchain : t.fetchChain = .chain [⟨t.r.pc, infoOf i, bodyOf i⟩] (nextAfter (infoOf i) t.r.pc))
    (hw : (evalChain [⟨t.r.pc, infoOf i, bodyOf i⟩] (nextAfter (infoOf i) t.r.pc) v).waits = false) :
    r.issueBundle [id] = (((evalChain [⟨t.r.pc, infoOf i, bodyOf i⟩] (nextAfter (infoOf i) t.r.pc) v).apply t.r.pc v).tick, [id]) := by
  unfold State.issueBundle
  have hs : sortOn FibId.fid [id] = [id] := rfl
  simp only [hs, ht, hchain, hv, issueDue_one htf hd, ne_eq, not_true_eq_false, if_false]
  have h1 : ([⟨t.r.pc, infoOf i, bodyOf i⟩] : List ChainWord).map ChainWord.info = [infoOf i] := rfl
  simp only [h1, List.any_cons, List.any_nil, Bool.or_false]
  generalize hws : ([⟨t.r.pc, infoOf i, bodyOf i⟩] : List ChainWord) = ws at hw ⊢
  generalize nextAfter (infoOf i) t.r.pc = next at hw ⊢
  split
  · rw [issueCrews_one hfoc hw]
    exact lane_finish hid hw _
  · split
    · rw [issueColl_one hfoc hw]
      exact lane_finish hid hw _
    · rw [issuePlain_one hfoc]
      exact lane_finish hid hw _

theorem issuePart_one {r : State} {core part : Nat} {b : Bundle} {id : FibId} {u : State} (hst : r.standing core part = [b])
    (hids : b.ids = [id]) (hib : r.issueBundle [id] = (u, [id])) :
    r.issuePart core part = (u.splitBundle core b [id]).onPart core part fun p =>
      { p with sen := if r.senior core part = some id then 0 else (r.part core part).sen } := by
  have hheld : heldIn [b] b = false := by simp [heldIn]
  have hready : ∃ x, r.readyBundles core part = [x] ∧ x.b = b ∧ x.res = (u, [id]) := by
    unfold State.readyBundles
    rw [hst]
    simp only [List.filter_cons, hheld, Bool.not_false, if_true, List.filter_nil, List.filterMap_cons, List.filterMap_nil, hids, hib]
    exact ⟨_, rfl, rfl, rfl⟩
  obtain ⟨x, hx, hb, hr⟩ := hready
  unfold State.issuePart
  rw [hx]
  have hch : chosen (r.part core part).sen (r.senior core part) [x] = some x := by
    unfold chosen; dsimp only
    split
    · next y hy =>
      split at hy
      · have := List.mem_of_find?_eq_some hy; simp at this; rw [this]
      · cases hy
    · rfl
  simp only [hch, hb, hr]
  congr 1
  funext p
  have : senAfter (r.part core part).sen (r.senior core part) [x] x =
      if r.senior core part = some id then 0 else (r.part core part).sen := by
    unfold senAfter
    cases hs : r.senior core part with
    | none => simp
    | some j =>
      by_cases hj : j = id
      · subst hj; simp [hr]
      · simp [hb, hids, hj, hr]
  rw [this]

theorem focus_off (s : State) (id : FibId) : (s.focus id).off = s.off := by
  unfold State.focus; split <;> rfl
theorem regroup_off (s : State) (c p : Nat) : (s.regroup c p).off = s.off := by
  unfold State.regroup State.onCore State.setCore; dsimp only; split <;> rfl

end Sys2Proof.Machine
end

