-- ==== Sys2Proof/Laws/Int.lean ====
section
/-!
SUPPORT. The integer operations of the machine, against the operations of bit vectors.
-/
namespace Sys2Proof.Machine

theorem shiftL_eq {w : Nat} (x : BitVec w) (n : Nat) : shiftL x n = x <<< n := by
  unfold shiftL
  split
  · apply BitVec.eq_of_toNat_eq
    simp [Nat.shiftLeft_eq]
  · exact (BitVec.shiftLeft_eq_zero (by omega)).symm

theorem shiftR_eq {w : Nat} (x : BitVec w) (n : Nat) : shiftR x n = x >>> n := by
  unfold shiftR
  split
  · apply BitVec.eq_of_toNat_eq
    have := x.isLt
    simp only [BitVec.toNat_ofNat, BitVec.toNat_ushiftRight, Nat.shiftRight_eq_div_pow]
    exact Nat.mod_eq_of_lt (Nat.lt_of_le_of_lt (Nat.div_le_self _ _) this)
  · exact (BitVec.ushiftRight_eq_zero (by omega)).symm

theorem minS_eq {w : Nat} (x y : BitVec w) : minS x y = if x.slt y then x else y := by
  simp [minS, BitVec.slt]
theorem maxS_eq {w : Nat} (x y : BitVec w) : maxS x y = if y.slt x then x else y := by
  simp [maxS, BitVec.slt]
theorem minU_eq {w : Nat} (x y : BitVec w) : minU x y = if x < y then x else y := by
  simp [minU, BitVec.lt_def]
theorem maxU_eq {w : Nat} (x y : BitVec w) : maxU x y = if y < x then x else y := by
  simp [maxU, BitVec.lt_def]

theorem shiftA_eq {w : Nat} (x : BitVec w) (n : Nat) : shiftA x n = x.sshiftRight n := by
  unfold shiftA
  split
  · rw [BitVec.sshiftRight, Int.shiftRight_eq_div_pow]; simp
  · apply BitVec.eq_of_getLsbD_eq
    intro i hi
    rw [BitVec.getLsbD_sshiftRight]
    have h1 : ¬ (n + i < w) := by omega
    have hneg : x.toInt < 0 ↔ x.msb = true := by
      rw [BitVec.msb_eq_toInt]; simp
    split
    · rename_i h; rw [hneg] at h
      rw [show BitVec.ofInt w (-1) = BitVec.allOnes w by rw [← BitVec.neg_one_eq_allOnes, BitVec.ofInt_neg]; rfl]
      simp [h, hi]
    · rename_i h; rw [hneg] at h
      simp [h, hi]

theorem rotL_eq {w : Nat} (x : BitVec w) (n : Nat) : rotL x n = x.rotateLeft n := by
  unfold rotL
  rw [BitVec.rotateLeft_def]
  congr 1
  · apply BitVec.eq_of_toNat_eq; simp [Nat.shiftLeft_eq]
  · apply BitVec.eq_of_toNat_eq
    have := x.isLt
    simp only [BitVec.toNat_ofNat, BitVec.toNat_ushiftRight, Nat.shiftRight_eq_div_pow]
    exact Nat.mod_eq_of_lt (Nat.lt_of_le_of_lt (Nat.div_le_self _ _) this)

theorem mulHigh_eq {w : Nat} (x y : BitVec w) :
    mulHigh x y = (x.signExtend (w + w) * y.signExtend (w + w)).extractLsb' w w := by
  unfold mulHigh
  have ex : ∀ z : BitVec w, z.signExtend (w + w) = BitVec.ofInt (w + w) z.toInt := by
    intro z; rfl
  rw [ex, ex, ← BitVec.ofInt_mul]
  generalize x.toInt * y.toInt = z
  apply BitVec.eq_of_toNat_eq
  have hp : (0 : Int) < 2 ^ w := Int.pow_pos (by omega)
  have hpp : (0 : Int) < 2 ^ w * 2 ^ w := Int.mul_pos hp hp
  have key : z / 2 ^ w % 2 ^ w = z % (2 ^ w * 2 ^ w) / 2 ^ w := by
    have h := Int.emod_add_mul_ediv z (2 ^ w * 2 ^ w)
    generalize z / (2 ^ w * 2 ^ w) = q at h
    have hm := Int.emod_nonneg z (b := 2 ^ w * 2 ^ w) (by omega)
    have hl := Int.emod_lt_of_pos z hpp
    generalize z % (2 ^ w * 2 ^ w) = r at h hm hl ⊢
    subst h
    rw [Int.mul_assoc, Int.add_mul_ediv_left _ _ (by omega), Int.add_mul_emod_self_left]
    exact Int.emod_eq_of_lt (Int.ediv_nonneg hm (by omega)) (Int.ediv_lt_of_lt_mul hp hl)
  have h1 := Int.emod_nonneg z (b := 2 ^ w * 2 ^ w) (by omega)
  have h3 := Int.emod_nonneg (z / 2 ^ w) (b := 2 ^ w) (by omega)
  have h4 := Int.emod_lt_of_pos (z / 2 ^ w) hp
  rw [key] at h3 h4
  simp only [BitVec.toNat_ofInt, BitVec.extractLsb'_toNat, Nat.shiftRight_eq_div_pow]
  have e1 : ((2 ^ w : Nat) : Int) = 2 ^ w := by push_cast; rfl
  have e2 : ((2 ^ (w + w) : Nat) : Int) = 2 ^ w * 2 ^ w := by rw [Nat.pow_add]; push_cast; rfl
  rw [e1, e2, key]
  have : ((z % (2 ^ w * 2 ^ w)).toNat / 2 ^ w : Nat) = (z % (2 ^ w * 2 ^ w) / 2 ^ w).toNat := by
    apply Int.ofNat_inj.mp
    push_cast
    rw [Int.toNat_of_nonneg h1, Int.toNat_of_nonneg h3]
  rw [this, Nat.mod_eq_of_lt]
  apply Int.ofNat_lt.mp
  rw [Int.toNat_of_nonneg h3, e1]
  exact h4
theorem mulHighU_eq {w : Nat} (x y : BitVec w) :
    mulHighU x y = (x.setWidth (w + w) * y.setWidth (w + w)).extractLsb' w w := by
  unfold mulHighU
  apply BitVec.eq_of_toNat_eq
  have hx := x.isLt
  have hy := y.isLt
  have h2 : x.toNat * y.toNat < 2 ^ (w + w) := by
    rw [Nat.pow_add]; exact Nat.mul_lt_mul'' hx hy
  have hx2 : x.toNat < 2 ^ (w + w) := Nat.lt_of_lt_of_le hx (Nat.pow_le_pow_right (by omega) (by omega))
  have hy2 : y.toNat < 2 ^ (w + w) := Nat.lt_of_lt_of_le hy (Nat.pow_le_pow_right (by omega) (by omega))
  simp [Nat.shiftRight_eq_div_pow, Nat.mod_eq_of_lt, hx2, hy2, h2]

theorem quotU_eq (x y : Word) : quotU x y = if y = 0#32 then BitVec.allOnes 32 else x / y := by
  unfold quotU
  split
  · rfl
  · apply BitVec.eq_of_toNat_eq
    have := x.isLt
    simp only [BitVec.toNat_ofNat, BitVec.toNat_udiv]
    exact Nat.mod_eq_of_lt (Nat.lt_of_le_of_lt (Nat.div_le_self _ _) this)
theorem remU_eq (x y : Word) : remU x y = if y = 0#32 then x else x % y := by
  unfold remU
  split
  · rfl
  · apply BitVec.eq_of_toNat_eq
    have := x.isLt
    simp only [BitVec.toNat_ofNat, BitVec.toNat_umod]
    exact Nat.mod_eq_of_lt (Nat.lt_of_le_of_lt (Nat.mod_le _ _) this)
theorem quotS_eq (x y : Word) : quotS x y = if y = 0#32 then BitVec.allOnes 32 else x.sdiv y := by
  unfold quotS
  split
  · rfl
  · apply BitVec.eq_of_toInt_eq
    rw [BitVec.toInt_sdiv, BitVec.toInt_ofInt]
theorem remS_eq (x y : Word) : remS x y = if y = 0#32 then x else x.srem y := by
  unfold remS
  split
  · rfl
  · rw [← BitVec.toInt_srem, BitVec.ofInt_toInt]
theorem clampS32_eq (x : Int) : clampS32 x = sat32 x := by
  unfold clampS32 sat32
  split
  · rw [show max (-2147483648) (min 2147483647 x) = -2147483648 by omega]; rfl
  · split
    · rw [show max (-2147483648) (min 2147483647 x) = 2147483647 by omega]; rfl
    · rw [show max (-2147483648) (min 2147483647 x) = x by omega]
theorem clampU32_add (x y : Nat) : clampU32 ((x : Int) + y) = satU32 (x + y) := by
  unfold clampU32 satU32
  rw [if_neg (by omega)]
  split
  · rw [show min 4294967295 (x + y) = 4294967295 by omega]
  · rw [show min 4294967295 (x + y) = x + y by omega]; rfl
theorem clampU32_sub (x y : Nat) (h : x < 2 ^ 32) : clampU32 ((x : Int) - y) = satU32 (x - y) := by
  unfold clampU32 satU32
  split
  · rw [show min 4294967295 (x - y) = 0 by omega]
  · rw [if_neg (by omega), show min 4294967295 (x - y) = x - y by omega,
      show (x : Int) - y = ((x - y : Nat) : Int) by omega, BitVec.ofInt_natCast]
theorem revBits_testBit : ∀ (w x i : Nat), (revBits w x).testBit i = (decide (i < w) && x.testBit (w - 1 - i))
  | 0, x, i => by simp [revBits]
  | w + 1, x, i => by
    have ih := revBits_testBit w (x / 2)
    have hlt : revBits w (x / 2) < 2 ^ w := by
      apply Nat.lt_pow_two_of_testBit
      intro j hj; rw [ih]; simp; omega
    unfold revBits
    rw [Nat.mul_comm, Nat.two_pow_add_eq_or_of_lt hlt, Nat.testBit_or, ih, Nat.testBit_two_pow_mul]
    by_cases h : i < w
    · simp [h, show ¬ (w ≤ i) by omega, show i < w + 1 by omega]
      rw [← Nat.testBit_succ]
      congr 1; omega
    · by_cases h2 : i = w
      · subst h2; simp
      · have : ¬ (i < w + 1) := by omega
        simp only [h, this, decide_false, Bool.false_and, Bool.or_false]
        simp only [Bool.and_eq_false_iff]
        right
        apply Nat.testBit_lt_two_pow
        calc x % 2 < 2 ^ 1 := by omega
          _ ≤ 2 ^ (i - w) := Nat.pow_le_pow_right (by omega) (by omega)
theorem revBits_eq {w : Nat} (x : BitVec w) : BitVec.ofNat w (revBits w x.toNat) = x.reverse := by
  apply BitVec.eq_of_getLsbD_eq
  intro i hi
  rw [BitVec.getLsbD_reverse, BitVec.getLsbD_ofNat, revBits_testBit]
  simp [hi, BitVec.getMsbD, BitVec.getLsbD]
theorem zext8_eq (x : Word) : (x.extractLsb' 0 8).setWidth 32 = x &&& 0xFF#32 := by
  apply BitVec.eq_of_toNat_eq
  have := Nat.and_two_pow_sub_one_eq_mod x.toNat 8
  simp at this ⊢
  omega
theorem zext16_eq (x : Word) : (x.extractLsb' 0 16).setWidth 32 = x &&& 0xFFFF#32 := by
  apply BitVec.eq_of_toNat_eq
  have := Nat.and_two_pow_sub_one_eq_mod x.toNat 16
  simp at this ⊢
  omega

theorem popCount_eq {w : Nat} (x : BitVec w) : popCount w x.toNat = onesIn x := by
  have go : ∀ (n y k : Nat), popCount n (y / 2 ^ k) = ((List.range' k n).filter fun i => y.testBit i).length := by
    intro n
    induction n with
    | zero => intro y k; simp [popCount]
    | succ n ih =>
      intro y k
      rw [popCount, Nat.div_div_eq_div_mul, ← Nat.pow_succ, ih, List.range'_succ, List.filter_cons]
      have : y / 2 ^ k % 2 = if y.testBit k then 1 else 0 := by
        rw [Nat.testBit_eq_decide_div_mod_eq]; simp; split <;> omega
      rw [this]; split <;> simp <;> omega
  have := go w x.toNat 0
  simp at this
  rw [this, onesIn, List.range_eq_range']; rfl
theorem trailZeros_eq {w : Nat} (x : BitVec w) : trailZeros w x.toNat = zerosBelow x := by
  have go : ∀ (n y k : Nat), trailZeros n (y / 2 ^ k) = ((List.range' k n).takeWhile fun i => !y.testBit i).length := by
    intro n
    induction n with
    | zero => intro y k; simp [trailZeros]
    | succ n ih =>
      intro y k
      rw [trailZeros, Nat.div_div_eq_div_mul, ← Nat.pow_succ, ih, List.range'_succ, List.takeWhile_cons]
      have : y / 2 ^ k % 2 = if y.testBit k then 1 else 0 := by
        rw [Nat.testBit_eq_decide_div_mod_eq]; simp; split <;> omega
      rw [this]; cases y.testBit k <;> simp <;> omega
  have := go w x.toNat 0
  simp at this
  rw [this, zerosBelow, List.range_eq_range']; rfl
theorem leadZeros_eq {w : Nat} (x : BitVec w) : leadZeros w x.toNat = zerosAbove x := by
  have go : ∀ (n y : Nat), y < 2 ^ n → leadZeros n y = ((List.range n).takeWhile fun i => !y.testBit (n - 1 - i)).length := by
    intro n
    induction n with
    | zero => intro y h; simp at h; subst h; rfl
    | succ n ih =>
      intro y h
      rw [List.range_succ_eq_map, List.takeWhile_cons]
      simp only [Nat.add_sub_cancel, Nat.sub_zero, List.takeWhile_map]
      by_cases hb : y.testBit n = true
      · have hy : 2 ^ n ≤ y := Nat.ge_two_pow_of_testBit hb
        have : y ≠ 0 := by have := Nat.two_pow_pos n; omega
        have hl : Nat.log2 y = n := (Nat.log2_eq_iff this).mpr ⟨hy, h⟩
        simp [leadZeros, this, hl, hb]
      · have hlt : y < 2 ^ n := by
          apply Nat.lt_of_not_le
          intro hy
          apply hb
          rw [Nat.testBit_eq_decide_div_mod_eq, decide_eq_true_iff, Nat.div_eq_of_lt_le (k := 1) (by omega) (by rw [Nat.pow_succ] at h; omega)]
        have := ih y hlt
        simp only [Bool.not_eq_true] at hb
        simp only [hb, Bool.not_false, if_true, List.length_cons, List.length_map, Function.comp_def]
        have e : ∀ i, n - (i + 1) = n - 1 - i := by omega
        have e2 : ((List.range n).takeWhile fun i => !y.testBit (n - (i + 1))) = (List.range n).takeWhile fun i => !y.testBit (n - 1 - i) := by
          congr 1; funext i; rw [e]
        simp only [Nat.succ_eq_add_one, e2]
        rw [← this]
        unfold leadZeros
        split
        · rfl
        · have := (Nat.log2_lt (by assumption)).mpr hlt; omega
  rw [go w x.toNat x.isLt, zerosAbove]; rfl
end Sys2Proof.Machine
end

