-- ==== Sys2Proof/Laws/Issue.lean ====
section
/-!
SUPPORT. The issue of one word alone: what it comes to when the word commits, traps, faults, waits or is at work.
-/
namespace Sys2Proof.Machine

theorem majOf_encode (c : Bool) (i : Instr) : majOf i = ((encode c i).extractLsb' 25 6).toNat := by
  unfold majOf encode
  congr 1
  ext j hj
  rw [BitVec.getElem_extractLsb', BitVec.getElem_extractLsb', BitVec.getLsbD_append, if_pos (by omega)]

theorem majOf_f3 {i : Instr} {maj d a b ea eb fn} (h : encode31 i = f3 maj d a b ea eb fn) : majOf i = maj.toNat := by
  rw [majOf_encode false, encode, h, f3_25_6]
theorem majOf_fi {i : Instr} {maj d a ea imm} (h : encode31 i = fi maj d a ea imm) : majOf i = maj.toNat := by
  rw [majOf_encode false, encode, h, fi_25_6]
theorem majOf_fl {i : Instr} {maj d imm} (h : encode31 i = fl maj d imm) : majOf i = maj.toNat := by
  rw [majOf_encode false, encode, h, fl_25_6]
theorem majOf_fm {i : Instr} {maj t a ea sz off} (h : encode31 i = fm maj t a ea sz off) : majOf i = maj.toNat := by
  rw [majOf_encode false, encode, h, fm_25_6]
theorem majOf_fb {i : Instr} {maj p n off} (h : encode31 i = fb maj p n off) : majOf i = maj.toNat := by
  rw [majOf_encode false, encode, h, fb_25_6]
theorem majOf_fs {i : Instr} {maj d a b p n fn} (h : encode31 i = fs maj d a b p n fn) : majOf i = maj.toNat := by
  rw [majOf_encode false, encode, h, fs_25_6]
theorem majOf_fx {i : Instr} {maj d a b xfn} (h : encode31 i = fx maj d a b xfn) : majOf i = maj.toNat := by
  rw [majOf_encode false, encode, h, fx_25_6]

/-- A word that writes PRC is no control-flow word. -/
theorem setsPrc_control (i : Instr) (h : (infoOf i).setsPrc = true) : (infoOf i).control = false := by
  unfold infoOf at h
  dsimp only at h
  split at h
  case h_6 => exact absurd h (by decide)
  all_goals
    show (decide (0x1C ≤ majOf _) && decide (majOf _ ≤ 0x22)) = false
    rw [majOf_fx rfl]
    rfl

/-- The last word of a chain has no slot above it, and the first none below. -/
theorem applyWords_one (r0 : Regs) (early : Option Nat) (x : Info) (k : State → State) (t : State) :
    applyWords r0 early [] [(x, k)] t = k t := by
  simp [applyWords, writtenBy]

/-- Whatever a word writes, alone in its chain it is applied once. -/
theorem applyWords_pick (i : Instr) (res : WordRes) (s t : State) :
    (let ws := [(infoOf i, res)]
     let pick := fun (p : Info → Bool) => (ws.filter fun w => p w.1).map fun w => (w.1, w.2.effect)
     applyWords s.r s.f.early [] (pick (·.setsPrc) ++ pick (fun i => !i.setsPrc && !i.control) ++ pick (·.control)) t) =
      res.effect t := by
  have hc := setsPrc_control i
  cases hp : (infoOf i).setsPrc <;> cases hq : (infoOf i).control <;> simp_all [applyWords_one]

/-- A word alone can be taken back where it is one of R312. -/
theorem canRestart_one (i : Instr) : canRestart [infoOf i] = (infoOf i).restarts := by
  cases h : (infoOf i).restarts <;> simp [canRestart, h]

/-- A word alone is issued with its chain. -/
theorem firstWord_one (r : Regs) (x : Info) (res : WordRes) : firstWord r [(x, res)] [(x, res)] = none := by
  have h : (x.converts && x.outside r) = false := by
    cases hc : x.converts with
    | false => rfl
    | true =>
      simp only [Info.converts, Bool.or_eq_true, beq_iff_eq] at hc
      rcases hc with hc | hc <;> simp [Info.outside, hc]
  cases res <;> simp [firstWord, h]

/-- The commit of one word alone. -/
theorem commitChain_one (i : Instr) (ctl : Ctl) (k : State → State) (s : State) (next : DWord) (left : Nat) :
    commitChain [(infoOf i, .commit ctl k)] next left s =
      (((k (s.onRegs fun r => { r with pc := next })).asChain s.f.nextSer (s.backTo i)).onRegs fun r =>
        { r with ydl := ydlOf left (ydlHint r.ydl) (ydlIdle r.ydl) }).onRegs fun r => r.goes next ctl := by
  have h := applyWords_pick i (.commit ctl k) s (s.onRegs fun r => { r with pc := next })
  unfold commitChain
  dsimp only at h ⊢
  rw [h]
  simp only [List.map_cons, List.map_nil, List.foldl_cons, List.foldl_nil, if_true, List.findSome?_cons, List.findSome?_nil, WordRes.ctl,
    WordRes.effect, State.asChain, State.backTo, canRestart_one]

/-- Without an object instruction that holds a ticket, and with nothing of its chain issued, a chain reads the registers as they
stand. -/
theorem State.atIssue_eq {s : State} (h : (s.f.obj.all fun r => r.xfn == 0) = true) (he : s.f.early = none) : s.atIssue = s := by
  unfold State.atIssue
  rw [he]
  cases ho : s.f.obj with
  | none => rfl
  | some r =>
    rw [ho] at h
    exact if_pos (by simpa using h)

theorem ready_go {i : Instr} {s : State} (h : CanIssue i s) : (infoOf i).ready s.g s.f = .go := by
  have hf := h.full
  have hw := h.free
  unfold Info.ready
  have hn : ((infoOf i).ops.find? fun o => o.reads && o.trap && isEmpty s.f.regs o) = none := by
    rw [List.find?_eq_none]
    intro o ho
    have := (List.any_eq_false.1 hf) o ho
    revert this
    cases o.reads <;> cases o.trap <;> simp
  rw [hn]
  have hf' : ((infoOf i).ops.any fun o => o.reads && isEmpty s.f.regs o) = false := hf
  simp [hf', hw]

theorem leftAfter_one (i : Instr) (s : State) (h : ydlLeft s.r.ydl ≠ 0) :
    leftAfter s.n.spec.ydef (ydlLeft s.r.ydl) [(infoOf i).deadline] = some (leftOf i s) := by
  unfold leftAfter leftOf
  rw [if_neg h]
  cases (infoOf i).deadline <;> simp [leftAfter]

/-- What the one word of a chain comes to when nothing of levels 1 to 6 stands in its way. -/
theorem evalChain_one {i : Instr} {body : State → WordRes} {s : State} (h : CanIssue i s) (next : DWord) :
    evalChain [⟨s.r.pc, infoOf i, body⟩] next s =
      match body s with
      | .wait => .wait
      | .illegal => (s.trapRes 0x02 0 (wordVal (infoOf i).word 7)).afterConv s.f
      | .trap code sub val => (s.trapRes code sub val).afterConv s.f
      | .fault code sub va ia => (ChainRes.fault code sub va ia).afterConv s.f
      | .hold k => .hold k
      | .release k => .hold k
      | .after code sub =>
        if s.r.trapRefused then (ChainRes.fault 0x46 code 0#64 0).afterConv s.f
        else if s.f.flagsPending then .wait
        else .go (commitChain [(infoOf i, .after code sub)] next (leftOf i s))
      | .commit ctl k => .go (commitChain [(infoOf i, .commit ctl k)] next (leftOf i s)) := by
  have hr := ready_go h
  have hw : ([(⟨s.r.pc, infoOf i, body⟩ : ChainWord)].find? fun w => !w.info.inWindow s.r) = none := by
    simp [h.window]
  have hl := leftAfter_one i s h.live
  simp only [evalChain, h.noTrapDue, h.noFaultMet, State.atIssue_eq h.noObject h.whole, judgeChain, hw]
  cases hb : body s with
  | after code sub =>
    by_cases ht : s.r.trapRefused = true
    · simp [hr, h.crew, resultAt, h.whole, ChainWord.result, hb, firstStop, ht]
    · by_cases hf : s.f.flagsPending = true <;>
        simp [hr, h.crew, resultAt, h.whole, ChainWord.result, hb, firstStop, ht, hf, hl, firstWord_one, commitRes, ChainRes.afterConv]
  | _ =>
    simp [hr, h.crew, resultAt, h.whole, ChainWord.result, hb, firstStop, hl, firstWord_one, commitRes, ChainRes.afterConv]

theorem issueOne_eq {i : Instr} {body : State → WordRes} {s : State} (h : CanIssue i s) :
    issueOne i body s =
      .next ((evalChain [⟨s.r.pc, infoOf i, body⟩] (nextAfter (infoOf i) s.r.pc) s).apply s.r.pc s).tick := by
  simp [issueOne, issueInfo, h.powered, h.fields]

/-- What a system fault of a chain comes to. -/
theorem faultRes_apply (s : State) (code sub : Nat) (va : DWord) (ia : Nat) :
    ((ChainRes.fault code sub va ia).afterConv s.f).apply s.r.pc s = s.faults code sub va ia := by
  unfold ChainRes.afterConv State.faults
  by_cases h : 0 < s.f.convPending <;> simp [h, ChainRes.apply]

/-- What a trap of a chain comes to. -/
theorem trapRes_apply (s : State) (code sub : Nat) (val : DWord) :
    ((s.trapRes code sub val).afterConv s.f).apply s.r.pc s = s.traps code sub val := by
  unfold State.trapRes State.traps State.trap
  by_cases ht : s.r.trapRefused = true <;> by_cases h : 0 < s.f.convPending <;>
    simp [ht, h, ChainRes.apply, ChainRes.afterConv]

/-- A word that may issue and that asks to commit does so: the next state is `committed`. -/
theorem issueOne_commit {i : Instr} {body : State → WordRes} {s : State} {ctl : Ctl} {k : State → State}
    (h : CanIssue i s) (hb : body s = .commit ctl k) : issueOne i body s = .next (s.committed i ctl k) := by
  rw [issueOne_eq h, evalChain_one h, hb]
  simp [ChainRes.apply, commitChain_one, State.committed]

/-- A word that may issue and that raises a trap takes it, or the fault 0x46 where the trap is refused (R31). -/
theorem issueOne_trap {i : Instr} {body : State → WordRes} {s : State} {code sub : Nat} {val : DWord}
    (h : CanIssue i s) (hb : body s = .trap code sub val) :
    issueOne i body s = .next (s.traps code sub val).tick := by
  rw [issueOne_eq h, evalChain_one h, hb]
  dsimp only
  rw [trapRes_apply]

/-- A word that may issue and that level 7 refuses raises trap 0x02 with itself in TVAL. -/
theorem issueOne_illegal {i : Instr} {body : State → WordRes} {s : State}
    (h : CanIssue i s) (hb : body s = .illegal) :
    issueOne i body s = .next (s.traps 0x02 0 (wordVal (infoOf i).word 7)).tick := by
  rw [issueOne_eq h, evalChain_one h, hb]
  dsimp only
  rw [trapRes_apply]

/-- A word that may issue and that raises a system fault. -/
theorem issueOne_fault {i : Instr} {body : State → WordRes} {s : State} {code sub ia : Nat} {va : DWord}
    (h : CanIssue i s) (hb : body s = .fault code sub va ia) :
    issueOne i body s = .next (s.faults code sub va ia).tick := by
  rw [issueOne_eq h, evalChain_one h, hb]
  dsimp only
  rw [faultRes_apply]

/-- A word that may issue and that waits: only the number of the issue moves on. -/
theorem issueOne_wait {i : Instr} {body : State → WordRes} {s : State}
    (h : CanIssue i s) (hb : body s = .wait) : issueOne i body s = .next s.tick := by
  rw [issueOne_eq h, evalChain_one h, hb]
  simp [ChainRes.apply]

/-- A word that may issue and that is at work without committing. -/
theorem issueOne_hold {i : Instr} {body : State → WordRes} {s : State} {k : State → State}
    (h : CanIssue i s) (hb : body s = .hold k) : issueOne i body s = .next (k s).tick := by
  rw [issueOne_eq h, evalChain_one h, hb]
  rfl

/-- A word that may issue and that begins the release before its own action. -/
theorem issueOne_release {i : Instr} {body : State → WordRes} {s : State} {k : State → State}
    (h : CanIssue i s) (hb : body s = .release k) : issueOne i body s = .next (k s).tick := by
  rw [issueOne_eq h, evalChain_one h, hb]
  rfl

/-- `brk` and `trap`: the word commits and its fibre enters the trap, with TEPC at the next word (R31, R138). -/
theorem issueOne_after {i : Instr} {body : State → WordRes} {s : State} {code sub : Nat}
    (h : CanIssue i s) (ht : s.r.trapRefused = false) (hf : s.f.flagsPending = false) (hb : body s = .after code sub) :
    issueOne i body s = .next (State.tick (((s.asChain s.f.nextSer (s.backTo i)).onRegs fun r =>
      { r with pc := nextAfter (infoOf i) s.r.pc, ydl := ydlOf (leftOf i s) (ydlHint r.ydl) (ydlIdle r.ydl) }).enterTrap
        (nextAfter (infoOf i) s.r.pc) code sub 0#64)) := by
  rw [issueOne_eq h, evalChain_one h, hb]
  simp only [ht, hf]
  have hp := applyWords_pick i (.after code sub) s (s.onRegs fun r => { r with pc := nextAfter (infoOf i) s.r.pc })
  simp only [Bool.false_eq_true, if_false, ChainRes.apply, ChainRes.afterConv]
  unfold commitChain
  dsimp only at hp ⊢
  rw [hp]
  simp only [List.map_cons, List.map_nil, canRestart_one]
  rfl

/-- Every word's meaning is the issue of what `bodyOf` says of it. -/
theorem exec_word (i : Instr) (h : isEvent i = false) (s : State) : exec i s = issueOne i (bodyOf i) s := by
  cases i <;> first | exact absurd (show true = false from h) (by decide) | rfl

/-! ### What `exec` answers for a word that may issue, by what its body asks for -/

variable {i : Instr} {s : State}

theorem exec_commit {ctl : Ctl} {k : State → State} (h : CanIssue i s) (he : isEvent i = false)
    (hb : bodyOf i s = .commit ctl k) : exec i s = .next (s.committed i ctl k) := by
  rw [exec_word i he, issueOne_commit h hb]

theorem exec_wrote {k : State → State} {f : Regs → Regs} (h : CanIssue i s) (he : isEvent i = false)
    (hb : bodyOf i s = .commit .seq k)
    (hk : ∀ pc : DWord, k (s.onRegs fun r => { r with pc := pc }) = (s.onRegs fun r => { r with pc := pc }).onRegs f) :
    exec i s = .next (s.wrote i f) := by
  rw [exec_commit h he hb, State.wrote, State.committed, State.committed, hk]

theorem exec_trap {code sub : Nat} {val : DWord} (h : CanIssue i s) (he : isEvent i = false)
    (hb : bodyOf i s = .trap code sub val) : exec i s = .next (s.traps code sub val).tick := by
  rw [exec_word i he, issueOne_trap h hb]

theorem exec_illegal (h : CanIssue i s) (he : isEvent i = false) (hb : bodyOf i s = .illegal)
    (hw : (infoOf i).word = encode false i) :
    exec i s = .next (s.traps 0x02 0 (wordVal (encode false i) 7)).tick := by
  rw [exec_word i he, issueOne_illegal h hb, hw]

theorem exec_fault {code sub ia : Nat} {va : DWord} (h : CanIssue i s) (he : isEvent i = false)
    (hb : bodyOf i s = .fault code sub va ia) :
    exec i s = .next (s.faults code sub va ia).tick := by
  rw [exec_word i he, issueOne_fault h hb]

theorem exec_wait (h : CanIssue i s) (he : isEvent i = false) (hb : bodyOf i s = .wait) :
    exec i s = .next s.tick := by
  rw [exec_word i he, issueOne_wait h hb]

theorem exec_release {k : State → State} (h : CanIssue i s) (he : isEvent i = false) (hb : bodyOf i s = .release k) :
    exec i s = .next (k s).tick := by
  rw [exec_word i he, issueOne_release h hb]

theorem exec_hold {k : State → State} (h : CanIssue i s) (he : isEvent i = false) (hb : bodyOf i s = .hold k) :
    exec i s = .next (k s).tick := by
  rw [exec_word i he, issueOne_hold h hb]

end Sys2Proof.Machine
end

