-- ==== Sys2Proof/Laws/IssueKeeps.lean ====
section
/-!
SUPPORT. A property of memory that every word of a chain keeps is kept by the issue of one word, of a bundle, by a clock of a
partition and by a forced issue.
-/
namespace Sys2Proof.Machine

theorem applyWords_keeps {P : Memory → Prop} (r : Regs) (early : Option Nat) (below : List Dest) (ws : List (Info × (State → State)))
    (hk : ∀ w ∈ ws, ∀ t, P t.mem → P (w.2 t).mem)
    (t : State) (h : P t.mem) : P (applyWords r early below ws t).mem := by
  induction ws generalizing t below with
  | nil => exact h
  | cons w rest ih =>
    unfold applyWords
    dsimp only
    refine ih _ (fun x hx => hk x (List.mem_cons_of_mem _ hx)) _ ?_
    have := fun u hu => hk w List.mem_cons_self u hu
    repeat' split
    all_goals first | exact this _ h | exact this (t.onRegs _) h

theorem WordRes.effect_keeps {P : Memory → Prop} (w : WordRes) (h : w.Keeps P) (t : State) (ht : P t.mem) :
    P (w.effect t).mem := by
  cases w <;> first | exact h t ht | exact ht

/-- A chain whose words keep a property of memory keeps it. -/
theorem commitChain_keeps {P : Memory → Prop} (ws : List (Info × WordRes)) (next : DWord) (left : Nat)
    (hk : ∀ w ∈ ws, w.2.Keeps P)
    (s : State) (h : P s.mem) : P (commitChain ws next left s).mem := by
  have he : ∀ w ∈ ws, ∀ t, P t.mem → P (w.2.effect t).mem := fun w hw t ht => w.2.effect_keeps (hk w hw) t ht
  unfold commitChain
  extract_lets pick t ctl r0 t1
  have ht : P t.mem := by
    refine applyWords_keeps _ _ _ _ (fun w hw t ht => ?_) _ h
    simp only [pick, List.mem_append, List.mem_map, List.mem_filter] at hw
    rcases hw with (⟨x, ⟨hx, -⟩, rfl⟩ | ⟨x, ⟨hx, -⟩, rfl⟩) | ⟨x, ⟨hx, -⟩, rfl⟩ <;> exact he x hx t ht
  split
  · exact ht
  · rw [State.enterTrap_mem]; exact ht

theorem firstStop_keeps {P : Memory → Prop} (s : State) (l : List WordRes) (x : ChainRes)
    (h : firstStop s l = some x) : x.Keeps P := by
  induction l with
  | nil => cases h
  | cons w r ih =>
    have trap : ∀ c u v, (s.trapRes c u v).Keeps P := by intros; unfold State.trapRes; split <;> exact True.intro
    cases w <;> unfold firstStop at h
    all_goals first
      | exact ih h
      | (cases h; exact trap _ _ _)
      | (cases h; exact True.intro)
      | (split at h
         · cases h; exact True.intro
         · exact ih h)

theorem ChainWord.result_keeps {P : Memory → Prop} (w : ChainWord) (s : State) (h : (w.body s).Keeps P) :
    (w.result s).Keeps P := by
  unfold ChainWord.result
  split
  · exact True.intro
  · exact True.intro
  · split
    · exact True.intro
    · exact h

theorem ChainRes.afterConv_keeps {P : Memory → Prop} (x : ChainRes) (b : Fibre) (h : x.Keeps P) :
    (x.afterConv b).Keeps P := by
  cases x <;> unfold ChainRes.afterConv <;> dsimp only
  case fault => split <;> exact True.intro
  all_goals exact h

theorem State.trapRes_keeps {P : Memory → Prop} (s : State) (code sub : Nat) (val : DWord) :
    (s.trapRes code sub val).Keeps P := by
  unfold State.trapRes; split <;> exact True.intro

theorem commitFirst_mem (i : Info) (start : Nat) (k : State → State) (t : State) : (commitFirst i start k t).mem = t.mem := by
  unfold commitFirst
  repeat' split
  all_goals rfl

theorem resultAt_keeps {P : Memory → Prop} (s : State) (w : ChainWord) (h : (w.body s).Keeps P) :
    (resultAt s w).Keeps P := by
  unfold resultAt
  split
  · split
    · exact fun t ht => by rw [commitFirst_mem]; exact ht
    · exact fun _ ht => ht
  · exact w.result_keeps s h

theorem State.issueFirst_mem (t : State) (k : State → State) : (t.issueFirst k).mem = (k t).mem := rfl

/-- The word of a chain that is issued before the others keeps what it keeps when it commits. -/
theorem firstWord_keeps {P : Memory → Prop} (r : Regs) (all ws : List (Info × WordRes)) (hk : ∀ w ∈ ws, w.2.Keeps P)
    {k : State → State} (e : firstWord r all ws = some k) (t : State) (h : P t.mem) : P (k t).mem := by
  induction ws with
  | nil => cases e
  | cons w rest ih =>
    have next := ih fun v hv => hk v (List.mem_cons_of_mem _ hv)
    obtain ⟨i, x⟩ := w
    have hx := hk _ List.mem_cons_self
    cases x <;> unfold firstWord at e
    case commit c k' =>
      split at e
      · cases e; exact hx t h
      · exact next e
    all_goals exact next e

theorem commitRes_keeps {P : Memory → Prop} (ws : List (Info × WordRes)) (next : DWord) (left : Nat) (b : Fibre)
    (hk : ∀ w ∈ ws, w.2.Keeps P) : (commitRes ws next left b).Keeps P := by
  unfold commitRes
  split
  · rename_i k hk'
    obtain ⟨x, hx, e⟩ := List.exists_of_findSome?_eq_some hk'
    have := hk x hx
    obtain ⟨i, w⟩ := x
    cases w <;> cases e <;> exact this
  · split
    · exact True.intro
    · exact commitChain_keeps _ _ _ hk

theorem judgeChain_keeps {P : Memory → Prop} (ws : List ChainWord) (next : DWord) (b : Fibre) (s : State)
    (h : ∀ w ∈ ws, (w.body s).Keeps P) : (judgeChain ws next b s).Keeps P := by
  unfold judgeChain
  split
  · exact State.trapRes_keeps _ _ _ _
  · split
    · exact True.intro
    · split
      · exact State.trapRes_keeps _ _ _ _
      · extract_lets res
        have hz : ∀ w ∈ res, w.2.Keeps P := by
          intro w hw
          obtain ⟨x, hx, e⟩ := List.mem_map.mp (List.of_mem_zip hw).2
          rw [← e]
          exact resultAt_keeps _ _ (h x hx)
        split
        · exact True.intro
        · split
          · refine firstStop_keeps _ _ _ ‹_›
          · split
            · exact True.intro
            · split
              · rename_i k _ hk
                exact fun t ht => by rw [State.issueFirst_mem]; exact firstWord_keeps _ _ _ hz hk t ht
              · exact commitRes_keeps _ _ _ _ hz
              · split
                · exact True.intro
                · exact commitRes_keeps _ _ _ _ hz

theorem evalChain_keeps {P : Memory → Prop} (ws : List ChainWord) (next : DWord) (s : State)
    (h : ∀ w ∈ ws, (w.body s.atIssue).Keeps P) :
    (evalChain ws next s).Keeps P := by
  unfold evalChain
  repeat' split
  all_goals first
    | exact True.intro
    | exact ChainRes.afterConv_keeps _ _ (judgeChain_keeps _ _ _ _ h)

theorem ChainRes.apply_keeps {P : Memory → Prop} (x : ChainRes) (first : DWord) (s : State) (hx : x.Keeps P)
    (h : P s.mem) :
    P (x.apply first s).mem := by
  cases x <;> unfold ChainRes.apply <;> dsimp only
  · exact h
  · simpa using h
  · simpa using h
  · exact hx s h
  · exact hx s h

/-- A word that issues alone keeps what its body keeps. -/
theorem issueInfo_keeps {P : Memory → Prop} (x : Info) (body : State → WordRes) (s : State)
    (hb : (body s.atIssue).Keeps P)
    (h : P s.mem) :
    P (issueInfo x body s).mem := by
  unfold issueInfo
  dsimp only
  split
  · exact ChainRes.apply_keeps _ _ _ (ChainRes.afterConv_keeps _ _ (State.trapRes_keeps _ _ _ _)) h
  · rw [State.tick_mem]
    exact ChainRes.apply_keeps _ _ _ (evalChain_keeps _ _ _ (by simpa using hb)) h

theorem decodeChain_bodies {pc : DWord} {w0 w1 w2 tail : Word} {ws : List ChainWord} {next : DWord}
    (h : decodeChain pc w0 w1 w2 tail = .chain ws next) : ∀ w ∈ ws, ∃ i, w.body = bodyOf i := by
  unfold decodeChain at h
  dsimp only at h
  split at h
  · cases h
  · split at h
    · cases h
    · split at h
      · split at h
        · cases h
        · cases h
          intro w hw
          rw [List.mem_singleton.mp hw]
          exact ⟨_, rfl⟩
        · cases h
      · split at h
        · cases h
        · cases h
        · cases h
        · cases h
          intro w hw
          obtain ⟨x, -, hx⟩ := List.mem_filterMap.mp hw
          split at hx
          · cases hx; exact ⟨_, rfl⟩
          · cases hx

/-- The words of a chain that is fetched are words that the decoder knows. -/
theorem State.fetchChain_bodies {s : State} {ws : List ChainWord} {next : DWord} (h : s.fetchChain = .chain ws next) :
    ∀ w ∈ ws, ∃ i, w.body = bodyOf i := by
  unfold State.fetchChain at h
  split at h
  · rename_i x hx
    subst h
    unfold State.fetchPacket State.fetchStep at hx
    dsimp only at hx
    repeat' split at hx
    all_goals cases hx
  · exact decodeChain_bodies h

theorem Issued.lane_keeps {P : Memory → Prop} (x : Issued) (id : FibId) (first : DWord) (res : ChainRes)
    (hr : res.Keeps P)
    (h : P x.st.mem) : P (x.lane id first res).st.mem := by
  cases res <;> unfold Issued.lane <;> dsimp only
  · exact h
  · simpa using h
  · exact h
  · exact hr _ h
  · exact hr _ h

theorem Issued.at_mem (x : Issued) (id : FibId) : (x.at_ id).st.mem = x.st.mem := by simp [Issued.at_]

theorem Issued.finish_mem (x : Issued) : x.finish.1.mem = x.st.mem := by simp [Issued.finish]

theorem foldl_issued {P : Memory → Prop} {α : Type} (f : Issued → α → Issued) (l : List α)
    (hf : ∀ a ∈ l, ∀ x : Issued, P x.st.mem → P (f x a).st.mem) (x : Issued) (h : P x.st.mem) : P (l.foldl f x).st.mem := by
  induction l generalizing x with
  | nil => exact h
  | cons a r ih => exact ih (fun b hb => hf b (List.mem_cons_of_mem _ hb)) _ (hf a List.mem_cons_self x h)

variable {P : Memory → Prop} {ws : List ChainWord}

theorem issuePlain_keeps (hk : ∀ w ∈ ws, ∀ s, (w.body s).Keeps P) (next pc : DWord) (ids : List FibId) (x : Issued)
    (h : P x.st.mem) :
    P (issuePlain ws next pc ids x).st.mem :=
  foldl_issued _ _ (fun _ _ y hy => Issued.lane_keeps _ _ _ _
    (evalChain_keeps _ _ _ fun w hw => hk w hw _) (by rw [Issued.at_mem]; exact hy)) _ h

/-- Every outcome of `together` is one of those before, or a wait. -/
theorem together_keeps {l : List (FibId × ChainRes)} (h : ∀ r ∈ l, r.2.Keeps P) : ∀ r ∈ together l, r.2.Keeps P := by
  intro r hr
  unfold together at hr
  split at hr
  · obtain ⟨q, hq, rfl⟩ := List.mem_map.mp hr
    split
    · exact True.intro
    · exact h q hq
  · exact h r hr

theorem Issued.lanes_keeps (x : Issued) (pc : DWord) (l : List (FibId × ChainRes)) (hl : ∀ r ∈ l, r.2.Keeps P) (h : P x.st.mem) :
    P (x.lanes pc l).st.mem :=
  foldl_issued _ _ (fun r hr y hy => Issued.lane_keeps _ _ _ _ (hl r hr) (by rw [Issued.at_mem]; exact hy)) _ h

theorem issueColl_keeps (hk : ∀ w ∈ ws, ∀ s, (w.body s).Keeps P) (next pc : DWord) (ids : List FibId) (x : Issued)
    (h : P x.st.mem) :
    P (issueColl ws next pc ids x).st.mem := by
  unfold issueColl
  dsimp only
  split
  · exact h
  · refine Issued.lanes_keeps _ _ _ (together_keeps fun q hq => ?_) h
    obtain ⟨id, -, rfl⟩ := List.mem_map.mp hq
    exact evalChain_keeps _ _ _ fun w hw => hk w hw _

theorem partialRes_keeps (ws : List ChainWord) (s : State) : (partialRes ws s).Keeps P :=
  ChainRes.afterConv_keeps _ _ (State.trapRes_keeps _ _ _ _)

theorem crewRes_keeps (hk : ∀ w ∈ ws, ∀ s, (w.body s).Keeps P) (next : DWord) (ids : List FibId) (x : Issued) :
    ∀ r ∈ crewRes ws next ids x, r.2.Keeps P := by
  unfold crewRes
  extract_lets res
  have hr : ∀ r ∈ res, r.2.Keeps P := by
    intro r hr
    obtain ⟨id, -, rfl⟩ := List.mem_map.mp hr
    exact evalChain_keeps _ _ _ fun w hw => hk w hw _
  split
  · exact hr
  · intro r h1
    obtain ⟨q, hq, rfl⟩ := List.mem_map.mp h1
    split
    · exact partialRes_keeps _ _
    · exact hr q hq

theorem issueCrew_keeps (hk : ∀ w ∈ ws, ∀ s, (w.body s).Keeps P) (next pc : DWord) (ids : List FibId) (x y : Issued)
    (e : issueCrew ws next pc ids x = some y) (h : P x.st.mem) : P y.st.mem := by
  unfold issueCrew at e
  dsimp only at e
  split at e
  · cases e
  · cases e
    exact Issued.lanes_keeps _ _ _ (together_keeps (crewRes_keeps hk _ _ _)) h

theorem issueCrews_keeps (hk : ∀ w ∈ ws, ∀ s, (w.body s).Keeps P) (next pc : DWord) (ids : List FibId) (x : Issued)
    (h : P x.st.mem) :
    P (issueCrews ws next pc ids x).st.mem := by
  unfold issueCrews
  extract_lets crews all
  split
  · exact h
  · split
    · refine Issued.lanes_keeps _ _ _ (together_keeps fun r hr => ?_) h
      obtain ⟨l, -, hl⟩ := List.mem_flatMap.mp hr
      exact crewRes_keeps hk _ _ _ r hl
    · have key : ∀ (l : List (List FibId)) (acc : Option Issued), (∀ y, acc = some y → P y.st.mem) →
          ∀ y, l.foldl (fun acc l => acc.bind fun y => issueCrew ws next pc l y) acc = some y → P y.st.mem := by
        intro l
        induction l with
        | nil => exact fun _ h => h
        | cons c r ih =>
          intro acc ha
          refine ih _ fun y hy => ?_
          obtain ⟨z, hz, e⟩ := Option.bind_eq_some_iff.mp hy
          exact issueCrew_keeps hk _ _ _ _ _ e (ha z hz)
      generalize hg : List.foldl _ (some x) crews = g
      cases g with
      | none => exact h
      | some y => exact key crews (some x) (fun z hz => by cases hz; exact h) y hg

theorem issueDue_keeps (pc : DWord) (ids : List FibId) (x : Issued) (h : P x.st.mem) : P (issueDue pc ids x).st.mem := by
  refine foldl_issued _ _ (fun _ _ y hy => ?_) _ h
  have hz := fun id => (Issued.at_mem y id).symm ▸ hy
  dsimp only
  split
  · split
    · exact hz _
    · exact Issued.lane_keeps _ _ _ _ True.intro (hz _)
  · exact hz _

theorem issueBad_keeps (level : Nat) (word : Word) (pc : DWord) (ids : List FibId) (x : Issued) (h : P x.st.mem) :
    P (issueBad level word pc ids x).st.mem := by
  refine foldl_issued _ _ (fun _ _ y hy => Issued.lane_keeps _ _ _ _ ?_ (by rw [Issued.at_mem]; exact hy)) _ h
  split
  · exact True.intro
  · exact ChainRes.afterConv_keeps _ _ (State.trapRes_keeps _ _ _ _)

/-- The issue of a bundle keeps a property of memory that every word keeps. -/
theorem State.issueBundle_keeps (hP : ∀ i s, (bodyOf i s).Keeps P) (s : State) (ids : List FibId) (h : P s.mem) :
    P (s.issueBundle ids).1.mem := by
  unfold State.issueBundle
  dsimp only
  split
  · exact h
  · have ht : ∀ id, P (State.focus { s with issue := ids } id).mem := fun id => by rw [State.focus_mem]; exact h
    have hf : ∀ id, P (State.focus { s with issue := ids } id).fetched.mem := fun id => by
      rw [State.fetched_mem]; exact ht id
    split
    · rw [Issued.finish_mem]; exact issueDue_keeps _ _ _ (ht _)
    split
    · exact h
    · split
      · exact h
      · rw [Issued.finish_mem]; exact ht _
    · rw [Issued.finish_mem]; exact issueBad_keeps _ _ _ _ _ (hf _)
    · rename_i ws next hc
      have hk : ∀ w ∈ ws, ∀ s, (w.body s).Keeps P := fun w hw s => by
        obtain ⟨i, hi⟩ := State.fetchChain_bodies hc w hw
        rw [hi]; exact hP i s
      split
      · rw [Issued.finish_mem]; exact issueCrews_keeps hk _ _ _ _ (hf _)
      · split
        · rw [Issued.finish_mem]; exact issueColl_keeps hk _ _ _ _ (hf _)
        · rw [Issued.finish_mem]; exact issuePlain_keeps hk _ _ _ _ (hf _)

theorem State.readyBundles_keeps (hP : ∀ i s, (bodyOf i s).Keeps P) (s : State) (core part : Nat) (h : P s.mem) :
    ∀ x ∈ s.readyBundles core part, P x.res.1.mem := by
  intro x hx
  unfold State.readyBundles at hx
  obtain ⟨b, -, hb⟩ := List.mem_filterMap.mp hx
  dsimp only at hb
  split at hb
  · cases hb
  · cases hb
    exact State.issueBundle_keeps hP s _ h

theorem firstReady_mem {l : List Ready1} {x : Ready1} (h : firstReady l = some x) : x ∈ l := by
  induction l generalizing x with
  | nil => cases h
  | cons a r ih =>
    unfold firstReady at h
    split at h
    · cases h; exact List.mem_cons_self
    · cases h
      split
      · exact List.mem_cons_of_mem _ (ih ‹_›)
      · exact List.mem_cons_self

theorem chosen_mem {sen : Nat} {i : Option FibId} {l : List Ready1} {x : Ready1}
    (h : chosen sen i l = some x) : x ∈ l := by
  unfold chosen at h
  dsimp only at h
  split at h
  · cases h
    rename_i hf
    split at hf
    · exact List.mem_of_find?_eq_some hf
    · cases hf
  · exact firstReady_mem h

/-- A clock of a partition keeps a property of memory that every word keeps. -/
theorem State.partClock_keeps (hP : ∀ i s, (bodyOf i s).Keeps P) (s : State) (core part : Nat) (h : P s.mem) :
    P (s.partClock core part).mem := by
  have issue : ∀ t : State, P t.mem → P (t.issuePart core part).mem := by
    intro t ht
    unfold State.issuePart
    dsimp only
    split
    · exact ht
    · rw [State.onPart_mem, State.splitBundle_mem]
      exact State.readyBundles_keeps hP t _ _ ht _ (chosen_mem ‹_›)
  unfold State.partClock
  dsimp only
  rw [State.onPart_mem]
  apply issue
  rw [State.fetchTries_mem]
  split
  · rw [State.regroup_mem]; exact h
  · exact h

theorem forcedIssue_keeps (hP : ∀ i s, (bodyOf i s).Keeps P) (s : State) (core part : Nat) (h : P s.mem) :
    P (forcedIssue s core part).mem := by
  unfold forcedIssue
  split
  · exact h
  · split
    · exact h
    · rw [State.onPart_mem, State.splitBundle_mem]
      exact State.readyBundles_keeps hP s _ _ h _ (List.mem_of_find?_eq_some ‹_›)

/-! ### A word that issues from a state of its own -/

/-- The one-state form of `Keeps`: what a word does from the states of `Q`. -/
def WordRes.From (Q : State → Prop) (P : Memory → Prop) : WordRes → Prop
  | .commit _ k => ∀ t : State, Q t → P (k t).mem
  | .hold k => ∀ t : State, Q t → P (k t).mem
  | .release k => ∀ t : State, Q t → P (k t).mem
  | _ => True

/-- The same of a chain. -/
def ChainRes.From (Q : State → Prop) (P : Memory → Prop) : ChainRes → Prop
  | .go k => ∀ t : State, Q t → P (k t).mem
  | .hold k => ∀ t : State, Q t → P (k t).mem
  | _ => True

variable {Q : State → Prop}
theorem WordRes.Keeps.from {x : WordRes} (h : x.Keeps P) (hq : ∀ t, Q t → P t.mem) : x.From Q P := by
  cases x <;> first | exact True.intro | exact fun t ht => h t (hq t ht)


/-- What a chain of one word writes of the current fibre leaves `Q` alone. -/
def FibreFree (Q : State → Prop) : Prop := ∀ (t : State) (k : Fibre → Fibre), Q t → Q { t with f := k t.f }

theorem FibreFree.onRegs (hr : FibreFree Q) (t : State) (f : Regs → Regs) (h : Q t) : Q (t.onRegs f) :=
  hr t (fun b => { b with regs := f b.regs }) h

theorem ChainRes.afterConv_from (x : ChainRes) (b : Fibre) (h : x.From Q P) : (x.afterConv b).From Q P := by
  cases x <;> unfold ChainRes.afterConv <;> dsimp only
  case fault => split <;> exact True.intro
  all_goals exact h

theorem State.trapRes_from (s : State) (code sub : Nat) (val : DWord) : (s.trapRes code sub val).From Q P := by
  unfold State.trapRes; split <;> exact True.intro

theorem commitChain_from {i : Instr} {w : WordRes} {next : DWord} {left : Nat} (hw : w.From Q P)
    (hq : ∀ t, Q t → P t.mem) (hr : FibreFree Q) (s : State) (h : Q s) :
    P (commitChain [(infoOf i, w)] next left s).mem := by
  have he : ∀ t, Q t → P (w.effect t).mem := by
    intro t ht
    cases w <;> first | exact hw t ht | exact hq t ht
  have key := applyWords_pick i w s (s.onRegs fun r => { r with pc := next })
  unfold commitChain
  dsimp only at key ⊢
  rw [key]
  have := he _ (hr.onRegs s (fun r => { r with pc := next }) h)
  split
  · exact this
  · rw [State.enterTrap_mem]; exact this

theorem firstStop_from (s : State) (w : WordRes) (x : ChainRes) (h : firstStop s [w] = some x) : x.From Q P := by
  have trap : ∀ c u v, (s.trapRes c u v).From Q P := by intros; unfold State.trapRes; split <;> exact True.intro
  cases w <;> simp only [firstStop] at h
  all_goals first
    | (cases h; done)
    | (cases h; exact trap _ _ _)
    | (cases h; exact True.intro)
    | (split at h
       · cases h; exact True.intro
       · cases h)

theorem result_from (w : ChainWord) (s : State) (h : (w.body s).From Q P) : (w.result s).From Q P := by
  unfold ChainWord.result
  split
  · exact True.intro
  · exact True.intro
  · split
    · exact True.intro
    · exact h

theorem resultAt_from (s : State) (w : ChainWord) (hq : ∀ t, Q t → P t.mem) (h : (w.body s).From Q P) :
    (resultAt s w).From Q P := by
  unfold resultAt
  split
  · split
    · exact fun t ht => by rw [commitFirst_mem]; exact hq t ht
    · exact fun t ht => hq t ht
  · exact result_from w s h

theorem commitRes_from {i : Instr} {w : WordRes} {next : DWord} {left : Nat} (b : Fibre) (hw : w.From Q P)
    (hq : ∀ t, Q t → P t.mem) (hr : FibreFree Q) : (commitRes [(infoOf i, w)] next left b).From Q P := by
  unfold commitRes
  split
  · rename_i k hk
    cases w <;> cases hk <;> exact hw
  · split
    · exact True.intro
    · exact fun t ht => commitChain_from hw hq hr t ht

theorem evalChain_from {i : Instr} {body : State → WordRes} (pc next : DWord) (s : State)
    (h : (body s.atIssue).From Q P) (hq : ∀ t, Q t → P t.mem) (hr : FibreFree Q) :
    (evalChain [⟨pc, infoOf i, body⟩] next s).From Q P := by
  have hres := resultAt_from (Q := Q) (P := P) s.atIssue ⟨pc, infoOf i, body⟩ hq h
  unfold evalChain
  split
  · split <;> exact True.intro
  split
  · exact True.intro
  · refine ChainRes.afterConv_from _ _ ?_
    unfold judgeChain
    simp only [List.map_cons, List.map_nil, List.zip_cons_cons, List.zip_nil_right, firstWord_one]
    generalize resultAt s.atIssue ⟨pc, infoOf i, body⟩ = w at hres ⊢
    split
    · exact State.trapRes_from _ _ _ _
    · split
      · exact True.intro
      · split
        · exact State.trapRes_from _ _ _ _
        · split
          · exact True.intro
          · split
            · exact firstStop_from _ _ _ ‹_›
            · split
              · exact True.intro
              · split
                · rename_i k hk; cases hk
                · exact commitRes_from _ hres hq hr
                · split
                  · exact True.intro
                  · exact commitRes_from _ hres hq hr

/-- A word that issues alone from a state of `Q`, which no write of a register leaves, keeps `P`. -/
theorem issueInfo_from {i : Instr} {body : State → WordRes} (s : State) (h : (body s.atIssue).From Q P)
    (hq : ∀ t, Q t → P t.mem) (hr : FibreFree Q) (hs : Q s) : P (issueInfo (infoOf i) body s).mem := by
  have hp := hq s hs
  unfold issueInfo
  dsimp only
  split
  · exact ChainRes.apply_keeps (P := P) _ _ _ (ChainRes.afterConv_keeps _ _ (State.trapRes_keeps _ _ _ _)) hp
  · rw [State.tick_mem]
    have := evalChain_from (i := i) s.r.pc (nextAfter (infoOf i) s.r.pc) s h hq hr
    generalize evalChain [⟨s.r.pc, infoOf i, body⟩] (nextAfter (infoOf i) s.r.pc) s = x at this ⊢
    cases x <;> unfold ChainRes.apply <;> dsimp only
    · exact hp
    · simpa using hp
    · simpa using hp
    · exact this s hs
    · exact this s hs

/-- A held RED that finds room in the hold buffer leaves memory alone. -/
theorem holdRed_mem (s : State) (pc : DWord) (op ia : Nat) (va : DWord) (d : List Byte)
    (h : s.holdCount s.c.num < Config.redHold) : (s.holdRed pc op ia va d).mem = s.mem := by
  have hf : s.holdFull s.c.num = false := by simp [State.holdFull]; omega
  have hk : ∀ t : State, t.mem = s.mem → t.holdFull t.c.num = false → (t.keepRed op ia va d).mem = s.mem := by
    intro t ht hn
    simp [State.keepRed, hn, ht]
  unfold State.holdRed
  simp only [hf, Bool.false_eq_true, if_false]
  split
  · simp
  · exact hk _ (by simp) hf

/-- A RED leaves memory alone where the hold buffer of a deterministic node is not full. -/
theorem redWord_from (s : State) (a b : Fld) (op : Nat) (sc : BitVec 3) :
    (redWord s a b op sc).From
      (fun t => t.mem = s.mem ∧ (s.n.spec.det = true → t.holdCount t.c.num < Config.redHold))
      (fun m => m = s.mem) := by
  unfold redWord
  extract_lets z data va
  split
  · exact WordRes.Keeps.from (globalWord_keeps _ _ _ _ _) fun t ht => ht.1
  · have hd : s.n.spec.det = true := by
      have h1 : ¬ (!s.n.spec.det) = true := by assumption
      simpa using h1
    split
    · exact True.intro
    · split
      · exact True.intro
      · split
        · exact WordRes.Keeps.from (busyWord_keeps _ _ True.intro) fun t ht => ht.1
        · exact True.intro
        · extract_lets hold
          have hh : hold.From (fun t => t.mem = s.mem ∧ (s.n.spec.det = true → t.holdCount t.c.num < Config.redHold))
              (fun m => m = s.mem) := fun t ht => by rw [holdRed_mem t _ _ _ _ _ (ht.2 hd)]; exact ht.1
          split
          · exact True.intro
          · split
            · unfold State.busyWord
              split
              · exact hh
              · exact fun t ht => by simpa using ht.1
            · exact hh

end Sys2Proof.Machine
end

