-- ==== Sys2Proof/Laws/Lists.lean ====
section
/-!
SUPPORT. Reading back what is stored in the lists of fibres, gangs, cores and nodes, beside the current ones.
-/
namespace Sys2Proof.Machine

theorem find?_upsert {α : Type} (p : α → Bool) (x : α) (l : List α) (hx : p x = true) : (upsert p x l).find? p = some x := by
  induction l with
  | nil => simp [upsert, hx]
  | cons y r ih =>
    by_cases hy : p y = true
    · simp [upsert, hy, hx]
    · simp [upsert, hy, ih]

theorem find?_upsert_other {α : Type} (p q : α → Bool) (x : α) (l : List α) (hx : q x = false)
    (hpq : ∀ y, p y = true → q y = false) : (upsert p x l).find? q = l.find? q := by
  induction l with
  | nil => simp [upsert, hx]
  | cons y r ih =>
    by_cases hy : p y = true
    · simp [upsert, hy, hx, hpq y hy]
    · by_cases hq : q y = true <;> simp [upsert, hy, hq, ih]

/-- A node that is found bears its NID. -/
theorem State.node?_nid {s : State} {nid : Nat} {n : Node} (h : s.node? nid = some n) : n.spec.nid = nid := by
  unfold State.node? at h
  split at h
  · split at h
    · cases h
    · cases h; assumption
  · simpa using List.find?_some h

theorem State.node?_setNode {s : State} (x : Node) (h : x.spec.nid ≠ 0) : (s.setNode x).node? x.spec.nid = some x := by
  by_cases hc : s.n.spec.nid = x.spec.nid
  · simp [State.setNode, State.node?, hc, h]
  · have := find?_upsert (fun y : Node => decide (y.spec.nid = x.spec.nid)) x s.nodes (by simp)
    simp [State.setNode, State.node?, hc, this]

/-- A gang that is found bears its identity. -/
theorem State.gang?_id {s : State} {nid gid : Nat} {g : Gang} (h : s.gang? nid gid = some g) : g.nid = nid ∧ g.gid = gid := by
  unfold State.gang? at h
  split at h
  · split at h
    · cases h
    · cases h; assumption
  · simpa using List.find?_some h

theorem State.gang?_setGang {s : State} (x : Gang) (h : x.nid ≠ 0) : (s.setGang x).gang? x.nid x.gid = some x := by
  by_cases hc : s.g.nid = x.nid ∧ s.g.gid = x.gid
  · simp [State.setGang, State.gang?, hc, h]
  · have := find?_upsert (fun y : Gang => decide (y.nid = x.nid ∧ y.gid = x.gid)) x s.gangs (by simp)
    simp only [State.setGang, State.gang?, hc, if_false]
    simpa using this

/-- A fibre that is found bears its identity. -/
theorem State.fibre?_id {s : State} {id : FibId} {b : Fibre} (h : s.fibre? id = some b) : b.id = id := by
  unfold State.fibre? at h
  split at h
  · split at h
    · cases h
    · cases h; assumption
  · simpa using List.find?_some h

theorem State.fibre?_setFibre {s : State} (x : Fibre) (h : x.life ≠ .absent) : (s.setFibre x).fibre? x.id = some x := by
  by_cases hc : s.f.id = x.id
  · simp [State.setFibre, State.fibre?, hc, h]
  · have := find?_upsert (fun y : Fibre => decide (y.id = x.id)) x s.fibres (by simp)
    simp [State.setFibre, State.fibre?, hc, this]

theorem State.core_setCore {s : State} (x : Core) : (s.setCore x).core x.num = x := by
  by_cases hc : s.c.num = x.num
  · simp [State.setCore, State.core, hc]
  · have := find?_upsert (fun y : Core => decide (y.num = x.num)) x s.cores (by simp)
    simp [State.setCore, State.core, hc, this]

end Sys2Proof.Machine
end

