-- ==== Sys2Proof/Laws/Regs.lean ====
section
/-!
SUPPORT. Reads after writes of the register stack: cells, runs of cells, predicates and y registers.
-/
namespace Sys2Proof.Machine

theorem Regs.setAt_cells (r : Regs) (pos : Nat) (v : Word) (b : Bool) :
    (r.setAt pos v b).cells = r.cells.set pos ⟨v, b⟩ := rfl

/-- A run of cells changes the cell list only. -/
theorem Regs.setRun_eq (r : Regs) (pos : Nat) (l : List Word) :
    r.setRun pos l = { r with cells := (r.setRun pos l).cells } := by
  induction l generalizing r pos with
  | nil => rfl
  | cons v rest ih => rw [Regs.setRun, ih]; rfl

/-- The cells after a run is written. -/
theorem Regs.setRun_cells (r : Regs) (pos : Nat) (l : List Word) (i : Nat) :
    (r.setRun pos l).cells[i]? =
      if pos ≤ i ∧ i < pos + l.length ∧ i < r.cells.length then (l[i - pos]?).map fun v => ⟨v, true⟩ else r.cells[i]? := by
  induction l generalizing r pos with
  | nil => simp only [Regs.setRun, List.length_nil]; rw [if_neg (by omega)]
  | cons v rest ih =>
    rw [Regs.setRun, ih]
    simp only [Regs.setAt_cells, List.length_set, List.length_cons, List.getElem?_set]
    by_cases h : pos + 1 ≤ i ∧ i < pos + 1 + rest.length ∧ i < r.cells.length
    · rw [if_pos h, if_pos (by omega)]
      obtain ⟨k, hk⟩ : ∃ k, i - pos = k + 1 := ⟨i - pos - 1, by omega⟩
      rw [hk, show i - (pos + 1) = k by omega, List.getElem?_cons_succ]
    · rw [if_neg h]
      by_cases hp : pos = i
      · subst hp
        by_cases hl : pos < r.cells.length
        · rw [if_pos rfl, if_pos hl, if_pos (by omega)]; simp
        · rw [if_pos rfl, if_neg hl, if_neg (by omega), List.getElem?_eq_none (by omega)]
      · rw [if_neg hp, if_neg (by omega)]

theorem Regs.setRun_length (r : Regs) (pos : Nat) (l : List Word) : (r.setRun pos l).cells.length = r.cells.length := by
  induction l generalizing r pos with
  | nil => rfl
  | cons v rest ih => rw [Regs.setRun, ih]; simp [Regs.setAt_cells]

/-- w[F] after a write to another cell or to itself. -/
theorem Regs.w_setW (r : Regs) (d f : Fld) (v : Word) (h : r.base + d.toNat < r.cells.length) :
    (r.setW d v).w f = if f = d then v else r.w f := by
  unfold Regs.w Regs.cell Regs.setW Regs.setAt
  simp only [List.getD_eq_getElem?_getD, List.getElem?_set]
  by_cases e : f = d
  · subst e; simp [h]
  · have : ¬(r.base + d.toNat = r.base + f.toNat) := fun x => e (BitVec.eq_of_toNat_eq (by omega))
    rw [if_neg this, if_neg e]

/-- Predicate 0 reads 1 whatever PW was set to (R16). -/
theorem Regs.p_zero_setPw (r : Regs) (v : BitVec 16) : (r.setPw v).p 0 = true := by
  simp [Regs.p, Regs.setPw]

end Sys2Proof.Machine
end

