-- ==== Sys2Proof/Laws/Sort.lean ====
section
/-!
SUPPORT. Sorting by a key and dropping repeats: the members stay, the keys rise.
-/
namespace Sys2Proof.Machine

theorem mem_insertOn {α : Type} (key : α → Nat) (x y : α) (l : List α) : y ∈ insertOn key x l ↔ y = x ∨ y ∈ l := by
  induction l with
  | nil => simp [insertOn]
  | cons z r ih =>
    simp only [insertOn]; split
    · simp [ih]; tauto
    · simp

theorem mem_foldl_insertOn {α : Type} (key : α → Nat) (y : α) (l acc : List α) :
    y ∈ l.foldl (fun acc x => insertOn key x acc) acc ↔ y ∈ l ∨ y ∈ acc := by
  induction l generalizing acc with
  | nil => simp
  | cons z r ih => simp [ih, mem_insertOn]; tauto

theorem mem_sortOn {α : Type} (key : α → Nat) (y : α) (l : List α) : y ∈ sortOn key l ↔ y ∈ l := by
  simp [sortOn, mem_foldl_insertOn]

theorem insertOn_sorted {α : Type} (key : α → Nat) (x : α) (l : List α) (h : l.Pairwise fun a b => key a ≤ key b) :
    (insertOn key x l).Pairwise fun a b => key a ≤ key b := by
  induction l with
  | nil => simp [insertOn]
  | cons z r ih =>
    rw [List.pairwise_cons] at h
    simp only [insertOn]; split
    · rw [List.pairwise_cons]
      refine ⟨fun a ha => ?_, ih h.2⟩
      rw [mem_insertOn] at ha
      rcases ha with rfl | ha
      · assumption
      · exact h.1 a ha
    · next hlt =>
      rw [List.pairwise_cons, List.pairwise_cons]
      refine ⟨fun a ha => ?_, h⟩
      rcases List.mem_cons.1 ha with rfl | ha
      · omega
      · have := h.1 a ha; omega

theorem sortOn_sorted {α : Type} (key : α → Nat) (l : List α) : (sortOn key l).Pairwise fun a b => key a ≤ key b := by
  have : ∀ (l acc : List α), (acc.Pairwise fun a b => key a ≤ key b) →
      (l.foldl (fun acc x => insertOn key x acc) acc).Pairwise fun a b => key a ≤ key b := by
    intro l
    induction l with
    | nil => intro acc h; exact h
    | cons x r ih => intro acc h; exact ih _ (insertOn_sorted key x acc h)
  exact this l [] (by simp)

/-- The head of a sorted list is one of its elements, and none has a smaller key. -/

theorem sortOn_head {α : Type} {key : α → Nat} {l : List α} {x : α} (h : (sortOn key l).head? = some x) :
    x ∈ l ∧ ∀ y ∈ l, key x ≤ key y := by
  have hs := sortOn_sorted key l
  have hm := fun y => mem_sortOn key y l
  cases hl : sortOn key l with
  | nil => simp [hl] at h
  | cons z r =>
    rw [hl] at h hs hm
    simp only [List.head?_cons, Option.some.injEq] at h
    subst h
    rw [List.pairwise_cons] at hs
    refine ⟨(hm z).1 (by simp), fun y hy => ?_⟩
    rcases List.mem_cons.1 ((hm y).2 hy) with rfl | hy
    · exact Nat.le_refl _
    · exact hs.1 y hy

theorem mem_distinct_foldl {α : Type} [BEq α] [LawfulBEq α] (y : α) (l acc : List α) :
    y ∈ l.foldl (fun acc x => if acc.contains x then acc else acc ++ [x]) acc ↔ y ∈ l ∨ y ∈ acc := by
  induction l generalizing acc with
  | nil => simp
  | cons z r ih =>
    simp only [List.foldl_cons, ih, List.mem_cons]
    split
    · next h =>
      have : z ∈ acc := by simpa using h
      constructor
      · tauto
      · rintro ((rfl | h) | h) <;> tauto
    · simp; tauto

theorem mem_distinct {α : Type} [BEq α] [LawfulBEq α] (y : α) (l : List α) : y ∈ distinct l ↔ y ∈ l := by
  rw [distinct, mem_distinct_foldl]; simp

theorem actAll_one (s : State) (x : FaultItem) : State.actAll s [x] = State.actOn s [x] := by
  simp [State.actAll, faultKeys, sortOn, insertOn, distinct]

/-- One fault that is no page fault is acted on at once (R408). -/
theorem raise_one (s : State) (x : FaultItem) (h : x.code ≠ 0x40) :
    s.raise [x] = State.actOn ((s.wordDone x.id).triesDone (.fetch x.id)) [x] := by
  simp [State.raise, batched, h, actAll_one]

/-- A page fault waits for the report of its crew (R410). -/
theorem raise_page (s : State) (x : FaultItem) (h : x.code = 0x40) :
    s.raise [x] = ((s.wordDone x.id).triesDone (.fetch x.id)).onFibre x.id fun b => { b with met := some x } := by
  simp [State.raise, State.actAll, batched, faultKeys, sortOn, distinct, h]

end Sys2Proof.Machine
end

