-- ==== Sys2Proof/Laws/Vpf.lean ====
section
/-!
SUPPORT. The Y pipe: a result is delivered, and a word that rounds, in the terms of `yDone`.
-/
namespace Sys2Proof.Machine

theorem yDeliver_eq (s : State) (y : YDone) : yDeliver s y.passes y.dest y.vals y.yval y.flags y.drew =
   if (y.drew && s.f.drawWaits) = true then .wait
   else if enabled s.r.prc y.flags = true then .trap 0x05 y.flags.toNat 0#64
   else .commit .seq (y.effect s) := by
  unfold yDeliver trapFlags
  split
  · rfl
  · split
    · rfl
    · split <;> rename_i h <;> unfold WordRes.regs <;> congr 1 <;> funext t <;> unfold YDone.effect
      · rw [if_pos h]
      · rw [if_neg h]

theorem yRound_core (s : State) (p : Nat) (d : Fld) (srcs : List Fld) (x : Exact) (e : Option (Int × Bool)) :
    yRound s p d x e =
      if s.r.lw < prcL s.r.prc then .trap 0x06 1 (BitVec.ofNat 64 (prcL s.r.prc + 256 * s.r.lw))
      else if (prcRM s.r.prc = .rsr && s.f.drawWaits) = true then .wait
      else if (s.shortOf x e && pxEnabled s.r.prc) = true then
        .trap 0x06 2 (BitVec.ofInt 64 ((e.map fun y => s.keptBits x y.1).getD 0))
      else let y := s.yDone d srcs p x e
        yDeliver s y.passes y.dest y.vals y.yval y.flags y.drew := by
  rcases x with ⟨v, fl, _ | m⟩ <;> rcases e with _ | ⟨e, b⟩ <;> unfold yRound State.shortOf <;>
    simp only [Option.isSome_some, Option.isSome_none, Bool.and_true, Bool.and_false, Bool.false_and] <;> rfl

end Sys2Proof.Machine
end

