-- ==== Sys2Proof/Laws/Words.lean ====
section
/-!
SUPPORT. What the decoder answers is a word of an ordinary packet: no event, no branch packet.
-/
namespace Sys2Proof.Machine

/-- An instruction of one word. -/
def isWord (i : Instr) : Bool :=
  match i with
  | .mbr .. => false
  | i => !isEvent i

theorem decInt3_isWord {w : Word} {i : Instr} (h : decInt3 w = .ok i) : isWord i = true := by
  unfold decInt3 at h
  repeat' split at h
  all_goals first | (cases h; rfl) | cases h
theorem decInt64_isWord {w : Word} {i : Instr} (h : decInt64 w = .ok i) : isWord i = true := by
  unfold decInt64 at h
  repeat' split at h
  all_goals first | (cases h; rfl) | cases h
theorem decInt1_isWord {w : Word} {i : Instr} (h : decInt1 w = .ok i) : isWord i = true := by
  unfold decInt1 at h
  repeat' split at h
  all_goals first | (cases h; rfl) | cases h
theorem decCmp_isWord {w : Word} {i : Instr} (h : decCmp w = .ok i) : isWord i = true := by
  unfold decCmp at h
  repeat' split at h
  all_goals first | (cases h; rfl) | cases h
theorem decSel_isWord {w : Word} {i : Instr} (h : decSel w = .ok i) : isWord i = true := by
  unfold decSel at h
  repeat' split at h
  all_goals first | (cases h; rfl) | cases h
theorem decPlog_isWord {w : Word} {i : Instr} (h : decPlog w = .ok i) : isWord i = true := by
  unfold decPlog at h
  repeat' split at h
  all_goals first | (cases h; rfl) | cases h
theorem decAddi_isWord {w : Word} {i : Instr} (h : decAddi w = .ok i) : isWord i = true := by
  unfold decAddi at h
  repeat' split at h
  all_goals first | (cases h; rfl) | cases h
theorem decAndi_isWord {w : Word} {i : Instr} (h : decAndi w = .ok i) : isWord i = true := by
  unfold decAndi at h
  repeat' split at h
  all_goals first | (cases h; rfl) | cases h
theorem decOri_isWord {w : Word} {i : Instr} (h : decOri w = .ok i) : isWord i = true := by
  unfold decOri at h
  repeat' split at h
  all_goals first | (cases h; rfl) | cases h
theorem decXori_isWord {w : Word} {i : Instr} (h : decXori w = .ok i) : isWord i = true := by
  unfold decXori at h
  repeat' split at h
  all_goals first | (cases h; rfl) | cases h
theorem decShifti_isWord {w : Word} {i : Instr} (h : decShifti w = .ok i) : isWord i = true := by
  unfold decShifti at h
  repeat' split at h
  all_goals first | (cases h; rfl) | cases h
theorem decCmpi_isWord {w : Word} {i : Instr} (h : decCmpi w = .ok i) : isWord i = true := by
  unfold decCmpi at h
  repeat' split at h
  all_goals first | (cases h; rfl) | cases h
theorem decLi_isWord {w : Word} {i : Instr} (h : decLi w = .ok i) : isWord i = true := by
  unfold decLi at h
  repeat' split at h
  all_goals first | (cases h; rfl) | cases h
theorem decLih_isWord {w : Word} {i : Instr} (h : decLih w = .ok i) : isWord i = true := by
  unfold decLih at h
  repeat' split at h
  all_goals first | (cases h; rfl) | cases h
theorem decLd_isWord {w : Word} {i : Instr} (h : decLd w = .ok i) : isWord i = true := by
  unfold decLd at h
  repeat' split at h
  all_goals first | (cases h; rfl) | cases h
theorem decSt_isWord {w : Word} {i : Instr} (h : decSt w = .ok i) : isWord i = true := by
  unfold decSt at h
  repeat' split at h
  all_goals first | (cases h; rfl) | cases h
theorem decLds_isWord {w : Word} {i : Instr} (h : decLds w = .ok i) : isWord i = true := by
  unfold decLds at h
  repeat' split at h
  all_goals first | (cases h; rfl) | cases h
theorem decSts_isWord {w : Word} {i : Instr} (h : decSts w = .ok i) : isWord i = true := by
  unfold decSts at h
  repeat' split at h
  all_goals first | (cases h; rfl) | cases h
theorem decLdy_isWord {w : Word} {i : Instr} (h : decLdy w = .ok i) : isWord i = true := by
  unfold decLdy at h
  repeat' split at h
  all_goals first | (cases h; rfl) | cases h
theorem decSty_isWord {w : Word} {i : Instr} (h : decSty w = .ok i) : isWord i = true := by
  unfold decSty at h
  repeat' split at h
  all_goals first | (cases h; rfl) | cases h
theorem decLdc_isWord {w : Word} {i : Instr} (h : decLdc w = .ok i) : isWord i = true := by
  unfold decLdc at h
  repeat' split at h
  all_goals first | (cases h; rfl) | cases h
theorem decStc_isWord {w : Word} {i : Instr} (h : decStc w = .ok i) : isWord i = true := by
  unfold decStc at h
  repeat' split at h
  all_goals first | (cases h; rfl) | cases h
theorem decLdf_isWord {w : Word} {i : Instr} (h : decLdf w = .ok i) : isWord i = true := by
  unfold decLdf at h
  repeat' split at h
  all_goals first | (cases h; rfl) | cases h
theorem decStf_isWord {w : Word} {i : Instr} (h : decStf w = .ok i) : isWord i = true := by
  unfold decStf at h
  repeat' split at h
  all_goals first | (cases h; rfl) | cases h
theorem decYop3_isWord {w : Word} {i : Instr} (h : decYop3 w = .ok i) : isWord i = true := by
  unfold decYop3 at h
  repeat' split at h
  all_goals first | (cases h; rfl) | cases h
theorem decYop1_isWord {w : Word} {i : Instr} (h : decYop1 w = .ok i) : isWord i = true := by
  unfold decYop1 at h
  repeat' split at h
  all_goals first | (cases h; rfl) | cases h
theorem decYcmp_isWord {w : Word} {i : Instr} (h : decYcmp w = .ok i) : isWord i = true := by
  unfold decYcmp at h
  repeat' split at h
  all_goals first | (cases h; rfl) | cases h
theorem decYcvt_isWord {w : Word} {i : Instr} (h : decYcvt w = .ok i) : isWord i = true := by
  unfold decYcvt at h
  repeat' split at h
  all_goals first | (cases h; rfl) | cases h
theorem decPrc_isWord {w : Word} {i : Instr} (h : decPrc w = .ok i) : isWord i = true := by
  unfold decPrc at h
  repeat' split at h
  all_goals first | (cases h; rfl) | cases h
theorem decBr_isWord {w : Word} {i : Instr} (h : decBr w = .ok i) : isWord i = true := by
  unfold decBr at h
  repeat' split at h
  all_goals first | (cases h; rfl) | cases h
theorem decCall_isWord {w : Word} {i : Instr} (h : decCall w = .ok i) : isWord i = true := by
  unfold decCall at h
  repeat' split at h
  all_goals first | (cases h; rfl) | cases h
theorem decJmpx_isWord {w : Word} {i : Instr} (h : decJmpx w = .ok i) : isWord i = true := by
  unfold decJmpx at h
  repeat' split at h
  all_goals first | (cases h; rfl) | cases h
theorem decEnter_isWord {w : Word} {i : Instr} (h : decEnter w = .ok i) : isWord i = true := by
  unfold decEnter at h
  repeat' split at h
  all_goals first | (cases h; rfl) | cases h
theorem decLoop_isWord {w : Word} {i : Instr} (h : decLoop w = .ok i) : isWord i = true := by
  unfold decLoop at h
  repeat' split at h
  all_goals first | (cases h; rfl) | cases h
theorem decFibr_isWord {w : Word} {i : Instr} (h : decFibr w = .ok i) : isWord i = true := by
  unfold decFibr at h
  repeat' split at h
  all_goals first | (cases h; rfl) | cases h
theorem decYield_isWord {w : Word} {i : Instr} (h : decYield w = .ok i) : isWord i = true := by
  unfold decYield at h
  repeat' split at h
  all_goals first | (cases h; rfl) | cases h
theorem decColl_isWord {w : Word} {i : Instr} (h : decColl w = .ok i) : isWord i = true := by
  unfold decColl at h
  repeat' split at h
  all_goals first | (cases h; rfl) | cases h
theorem decObj_isWord {w : Word} {i : Instr} (h : decObj w = .ok i) : isWord i = true := by
  unfold decObj at h
  repeat' split at h
  all_goals first | (cases h; rfl) | cases h
theorem decAmo_isWord {w : Word} {i : Instr} (h : decAmo w = .ok i) : isWord i = true := by
  unfold decAmo at h
  repeat' split at h
  all_goals first | (cases h; rfl) | cases h
theorem decAmoAr_isWord {w : Word} {i : Instr} (h : decAmoAr w = .ok i) : isWord i = true := by
  unfold decAmoAr at h
  repeat' split at h
  all_goals first | (cases h; rfl) | cases h
theorem decRed_isWord {w : Word} {i : Instr} (h : decRed w = .ok i) : isWord i = true := by
  unfold decRed at h
  repeat' split at h
  all_goals first | (cases h; rfl) | cases h
theorem decLdaStr_isWord {w : Word} {i : Instr} (h : decLdaStr w = .ok i) : isWord i = true := by
  unfold decLdaStr at h
  repeat' split at h
  all_goals first | (cases h; rfl) | cases h
theorem decFence_isWord {w : Word} {i : Instr} (h : decFence w = .ok i) : isWord i = true := by
  unfold decFence at h
  repeat' split at h
  all_goals first | (cases h; rfl) | cases h
theorem decCache_isWord {w : Word} {i : Instr} (h : decCache w = .ok i) : isWord i = true := by
  unfold decCache at h
  repeat' split at h
  all_goals first | (cases h; rfl) | cases h
theorem decCpb_isWord {w : Word} {i : Instr} (h : decCpb w = .ok i) : isWord i = true := by
  unfold decCpb at h
  repeat' split at h
  all_goals first | (cases h; rfl) | cases h
theorem decCpw_isWord {w : Word} {i : Instr} (h : decCpw w = .ok i) : isWord i = true := by
  unfold decCpw at h
  repeat' split at h
  all_goals first | (cases h; rfl) | cases h
theorem decCpt_isWord {w : Word} {i : Instr} (h : decCpt w = .ok i) : isWord i = true := by
  unfold decCpt at h
  repeat' split at h
  all_goals first | (cases h; rfl) | cases h
theorem decTctr_isWord {w : Word} {i : Instr} (h : decTctr w = .ok i) : isWord i = true := by
  unfold decTctr at h
  repeat' split at h
  all_goals first | (cases h; rfl) | cases h
theorem decShape_isWord {w : Word} {i : Instr} (h : decShape w = .ok i) : isWord i = true := by
  unfold decShape at h
  repeat' split at h
  all_goals first | (cases h; rfl) | cases h
theorem decMma_isWord {w : Word} {i : Instr} (h : decMma w = .ok i) : isWord i = true := by
  unfold decMma at h
  repeat' split at h
  all_goals first | (cases h; rfl) | cases h
theorem decAcc_isWord {w : Word} {i : Instr} (h : decAcc w = .ok i) : isWord i = true := by
  unfold decAcc at h
  repeat' split at h
  all_goals first | (cases h; rfl) | cases h
theorem decTask_isWord {w : Word} {i : Instr} (h : decTask w = .ok i) : isWord i = true := by
  unfold decTask at h
  repeat' split at h
  all_goals first | (cases h; rfl) | cases h
theorem decArena_isWord {w : Word} {i : Instr} (h : decArena w = .ok i) : isWord i = true := by
  unfold decArena at h
  repeat' split at h
  all_goals first | (cases h; rfl) | cases h
theorem decSys_isWord {w : Word} {i : Instr} (h : decSys w = .ok i) : isWord i = true := by
  unfold decSys at h
  repeat' split at h
  all_goals first | (cases h; rfl) | cases h

theorem decode_isWord {w : Word} {i : Instr} (h : decode w = .ok i) : isWord i = true := by
  unfold decode at h
  split at h
  · exact decInt3_isWord h
  · exact decInt64_isWord h
  · exact decInt1_isWord h
  · exact decCmp_isWord h
  · exact decSel_isWord h
  · exact decPlog_isWord h
  · exact decAddi_isWord h
  · exact decAndi_isWord h
  · exact decOri_isWord h
  · exact decXori_isWord h
  · exact decShifti_isWord h
  · exact decCmpi_isWord h
  · exact decLi_isWord h
  · exact decLih_isWord h
  · exact decLd_isWord h
  · exact decSt_isWord h
  · exact decLds_isWord h
  · exact decSts_isWord h
  · exact decLdy_isWord h
  · exact decSty_isWord h
  · exact decLdc_isWord h
  · exact decStc_isWord h
  · exact decLdf_isWord h
  · exact decStf_isWord h
  · exact decYop3_isWord h
  · exact decYop1_isWord h
  · exact decYcmp_isWord h
  · exact decYcvt_isWord h
  · exact decPrc_isWord h
  · exact decBr_isWord h
  · exact decCall_isWord h
  · exact decJmpx_isWord h
  · exact decEnter_isWord h
  · exact decLoop_isWord h
  · exact decFibr_isWord h
  · exact decYield_isWord h
  · exact decColl_isWord h
  · exact decObj_isWord h
  · exact decAmo_isWord h
  · exact decAmoAr_isWord h
  · exact decRed_isWord h
  · exact decLdaStr_isWord h
  · exact decFence_isWord h
  · exact decCache_isWord h
  · exact decCpb_isWord h
  · exact decCpw_isWord h
  · exact decCpt_isWord h
  · exact decTctr_isWord h
  · exact decShape_isWord h
  · exact decMma_isWord h
  · exact decAcc_isWord h
  · exact decTask_isWord h
  · exact decArena_isWord h
  · exact decSys_isWord h
  · cases h

theorem isWord_isEvent {i : Instr} (h : isWord i = true) : isEvent i = false := by
  unfold isWord at h
  split at h
  · cases h
  · simpa using h

end Sys2Proof.Machine
end

