-- ==== Sys2Proof/Laws/Wrote.lean ====
section
/-!
SUPPORT. A word that commits and changes registers only: what the rest of the state holds after it.
-/
namespace Sys2Proof.Machine

theorem dword_halves (v : DWord) : v.extractLsb' 32 32 ++ v.extractLsb' 0 32 = v := by
  apply BitVec.eq_of_getLsbD_eq
  intro j hj
  rw [BitVec.getLsbD_append]
  by_cases h : j < 32
  · simp [h]
  · have : j - 32 < 32 := by omega
    simp [h, this]
    congr 1; omega

theorem bit_ofNat (m k : Nat) : (BitVec.ofNat 16 (2 ^ m)).getLsbD k = (decide (k < 16) && decide (m = k)) := by
  rw [BitVec.getLsbD_ofNat, Nat.testBit_two_pow]

theorem arriveAt_rest (r : Regs) (pc : DWord) : { r.arriveAt pc with pc := r.pc, loops := r.loops } = r := by
  unfold Regs.arriveAt; split <;> rfl

theorem wrote_rest {i : Instr} {s : State} {k : Regs → Regs} :
  let t := s.wrote i k
  (∀ a, t.mem.read a = s.mem.read a) ∧ t.g = s.g ∧ t.c = s.c ∧ t.n = s.n ∧
    t.fibres = s.fibres ∧ t.gangs = s.gangs ∧ t.cores = s.cores ∧ t.nodes = s.nodes ∧ t.flight = s.flight ∧
    t.notes = s.notes ∧ t.f.acc = (s.f.based s.f.nextSer (s.backTo i)).acc ∧ t.f.dlv = (s.f.based s.f.nextSer (s.backTo i)).dlv ∧ t.f.life = s.f.life :=
  by simp [State.wrote, State.committed, State.asChain, State.tick, State.onRegs, Fibre.based]

theorem wrote_r {i : Instr} {s : State} {k : Regs → Regs} : (s.wrote i k).r =
  ({ k { s.r with pc := nextAfter (infoOf i) s.r.pc } with ydl := ydlOf (leftOf i s) (ydlHint (k { s.r with pc := nextAfter (infoOf i) s.r.pc }).ydl) (ydlIdle (k { s.r with pc := nextAfter (infoOf i) s.r.pc }).ydl) }).arriveAt (nextAfter (infoOf i) s.r.pc) := rfl

theorem arriveAt_cells (r : Regs) (pc : DWord) : (r.arriveAt pc).cells = r.cells ∧ (r.arriveAt pc).pw = r.pw ∧ (r.arriveAt pc).base = r.base := by
  unfold Regs.arriveAt; split <;> exact ⟨rfl, rfl, rfl⟩

theorem arriveAt_same (r : Regs) (pc p : DWord) (y : Word) (l : List LoopEntry) (c : List Cell) (w : BitVec 16) :
   { r.arriveAt pc with pc := p, ydl := y, loops := l, cells := c, pw := w } = { r with pc := p, ydl := y, loops := l, cells := c, pw := w } := by
  unfold Regs.arriveAt; split <;> rfl

theorem committed_congr {i : Instr} {s : State} {ctl : Ctl} {k k' : State → State} (h : ∀ pc : DWord, k (s.onRegs fun r => { r with pc := pc }) = k' (s.onRegs fun r => { r with pc := pc })) :
    s.committed i ctl k = s.committed i ctl k' := by
  unfold State.committed
  dsimp only
  rw [h]

end Sys2Proof.Machine
end

