-- ==== Sys2Proof/Tests/Slice0.lean ====
section
/-!
SUPPORT. Tests of the model, each about one step on a small state: ill-formed terms, words decoded, the premises of every
statement met (`meets_<statement>`), and results worked out by hand from the rules of spec/.
-/
open Sys2Proof Sys2Proof.Machine

set_option maxRecDepth 100000

namespace Sys2Proof.Tests

/-! ### Well formed (03 R62 to R65, R67, R70): one ill-formed term for each check -/

theorem test_wf_pair_odd : wf (.addD 1 0 2 false false) = false ∧ wf (.addD 62 0 2 false false) = true := by decide
theorem test_wf_quad : wf (.ldQ 2 0 false 0) = false ∧ wf (.ldQ 60 0 false 0) = true := by decide
theorem test_wf_eight : wf (.cptG2s 0 4 0) = false ∧ wf (.cptG2s 0 8 0) = true := by decide
theorem test_wf_y : wf (.yadd 16 0 0 false false) = false ∧ wf (.yadd 15 0 0 false false) = true := by decide
theorem test_wf_tile : wf (.accZero 16) = false ∧ wf (.accZero 15) = true := by decide
theorem test_wf_pred : wf (.pand 16 0 0) = false ∧ wf (.pand 1 16 0) = false ∧ wf (.pand 15 0 0) = true := by decide
theorem test_wf_p0_written : wf (.pand 0 1 2) = false := by decide
theorem test_wf_shift : wf (.shli 0 0 false 32) = false ∧ wf (.rotli 0 0 false 31) = true := by decide
theorem test_wf_enter : wf (.enter 0 17 24) = false ∧ wf (.enter 0 0 1) = false ∧ wf (.enter 0 0 238) = false ∧ wf (.enter 0 16 237) = true := by
  decide
theorem test_wf_loop : wf (.loop 0 0) = false ∧ wf (.loop 0 262144) = false ∧ wf (.loop 0 262143) = true := by decide
theorem test_wf_yield : wf (.yield 3 0) = false ∧ wf (.yield 2 0) = true := by decide
theorem test_wf_scope : wf (.amoAdd 0 0 0 6) = false ∧ wf (.fence 7 false) = false ∧ wf (.wbr 0 0 5) = true := by decide
theorem test_wf_br : wf (.br 0 false 1) = false ∧ faultLevel (.br 0 false 1) = some 3 ∧ wf (.br 1 false 1) = true := by decide
theorem test_wf_call : wf (.call 0 true 1) = false ∧ wf (.call 0 false 1) = true := by decide
theorem test_wf_mbr : wf (.mbr 0 1 0 0 0 false false false false 1 2 0 0) = false ∧ wf (.mbr 0 0 0 0 0 true false false false 1 0 0 0) = false ∧
    wf (.mbr 1 1 2 0 0 false false false false 1 2 0 0) = true := by decide

/-! ### Decoding: a word of every row of the opcode table but the branch packet's, from its match bits and its fields -/

theorem test_decode_01_1 :
    decode 0x832AC5C0 = .ok (.add 37#6 22#6 11#6 true false) ∧
    decode 0x032AC5C1 = .ok (.sub 37#6 22#6 11#6 true false) ∧
    decode 0x832AC5C2 = .ok (.mul 37#6 22#6 11#6 true false) ∧
    decode 0x032AC5C3 = .ok (.mulh 37#6 22#6 11#6 true false) ∧
    decode 0x832AC5C4 = .ok (.mulhu 37#6 22#6 11#6 true false) ∧
    decode 0x032AC5C5 = .ok (.div 37#6 22#6 11#6 true false) ∧
    decode 0x832AC5C6 = .ok (.divu 37#6 22#6 11#6 true false) ∧
    decode 0x032AC5C7 = .ok (.rem 37#6 22#6 11#6 true false) ∧
    decode 0x832AC5C8 = .ok (.remu 37#6 22#6 11#6 true false) ∧
    decode 0x032AC5C9 = .ok (.and 37#6 22#6 11#6 true false) ∧
    decode 0x832AC5CA = .ok (.or 37#6 22#6 11#6 true false) ∧
    decode 0x032AC5CB = .ok (.xor 37#6 22#6 11#6 true false) ∧
    decode 0x832AC5CC = .ok (.andn 37#6 22#6 11#6 true false) ∧
    decode 0x032AC5CD = .ok (.orn 37#6 22#6 11#6 true false) ∧
    decode 0x832AC5CE = .ok (.shl 37#6 22#6 11#6 true false) ∧
    decode 0x032AC5CF = .ok (.shr 37#6 22#6 11#6 true false) ∧
    decode 0x832AC5D0 = .ok (.sar 37#6 22#6 11#6 true false) ∧
    decode 0x032AC5D1 = .ok (.rotl 37#6 22#6 11#6 true false) ∧
    decode 0x832AC5D2 = .ok (.min 37#6 22#6 11#6 true false) ∧
    decode 0x032AC5D3 = .ok (.max 37#6 22#6 11#6 true false) :=
  ⟨rfl, rfl, rfl, rfl, rfl, rfl, rfl, rfl, rfl, rfl, rfl, rfl, rfl, rfl, rfl, rfl, rfl, rfl, rfl, rfl⟩

theorem test_decode_01_2 :
    decode 0x832AC5D4 = .ok (.minu 37#6 22#6 11#6 true false) ∧
    decode 0x032AC5D5 = .ok (.maxu 37#6 22#6 11#6 true false) ∧
    decode 0x832AC5D6 = .ok (.adds 37#6 22#6 11#6 true false) ∧
    decode 0x032AC5D7 = .ok (.subs 37#6 22#6 11#6 true false) ∧
    decode 0x832AC5D8 = .ok (.addus 37#6 22#6 11#6 true false) ∧
    decode 0x032AC5D9 = .ok (.subus 37#6 22#6 11#6 true false) ∧
    decode 0x832AC5DA = .ok (.lea1 37#6 22#6 11#6 true false) ∧
    decode 0x032AC5DB = .ok (.lea2 37#6 22#6 11#6 true false) ∧
    decode 0x832AC5DC = .ok (.lea3 37#6 22#6 11#6 true false) ∧
    decode 0x032AC5DD = .ok (.lea4 37#6 22#6 11#6 true false) :=
  ⟨rfl, rfl, rfl, rfl, rfl, rfl, rfl, rfl, rfl, rfl⟩

theorem test_decode_02 :
    decode 0x852AC5C0 = .ok (.addD 37#6 22#6 11#6 true false) ∧
    decode 0x052AC5C1 = .ok (.subD 37#6 22#6 11#6 true false) ∧
    decode 0x852AC5C2 = .ok (.mulD 37#6 22#6 11#6 true false) ∧
    decode 0x052AC5C3 = .ok (.mulhD 37#6 22#6 11#6 true false) ∧
    decode 0x852AC5C4 = .ok (.mulhuD 37#6 22#6 11#6 true false) ∧
    decode 0x052AC5C5 = .ok (.andD 37#6 22#6 11#6 true false) ∧
    decode 0x852AC5C6 = .ok (.orD 37#6 22#6 11#6 true false) ∧
    decode 0x052AC5C7 = .ok (.xorD 37#6 22#6 11#6 true false) ∧
    decode 0x852AC5C8 = .ok (.shlD 37#6 22#6 11#6 true false) ∧
    decode 0x052AC5C9 = .ok (.shrD 37#6 22#6 11#6 true false) ∧
    decode 0x852AC5CA = .ok (.sarD 37#6 22#6 11#6 true false) ∧
    decode 0x052AC5CB = .ok (.minD 37#6 22#6 11#6 true false) ∧
    decode 0x852AC5CC = .ok (.maxD 37#6 22#6 11#6 true false) ∧
    decode 0x052AC5CD = .ok (.minuD 37#6 22#6 11#6 true false) ∧
    decode 0x852AC5CE = .ok (.maxuD 37#6 22#6 11#6 true false) ∧
    decode 0x052AC5CF = .ok (.addwD 37#6 22#6 11#6 true false) ∧
    decode 0x852AC5D0 = .ok (.adduwD 37#6 22#6 11#6 true false) ∧
    decode 0x052AC5D1 = .ok (.mulwD 37#6 22#6 11#6 true false) ∧
    decode 0x852AC5D2 = .ok (.muluwD 37#6 22#6 11#6 true false) :=
  ⟨rfl, rfl, rfl, rfl, rfl, rfl, rfl, rfl, rfl, rfl, rfl, rfl, rfl, rfl, rfl, rfl, rfl, rfl, rfl⟩

theorem test_decode_03 :
    decode 0x072AC040 = .ok (.mov 37#6 22#6 true) ∧
    decode 0x872AC041 = .ok (.not 37#6 22#6 true) ∧
    decode 0x072AC042 = .ok (.neg 37#6 22#6 true) ∧
    decode 0x872AC043 = .ok (.abs 37#6 22#6 true) ∧
    decode 0x072AC044 = .ok (.clz 37#6 22#6 true) ∧
    decode 0x872AC045 = .ok (.ctz 37#6 22#6 true) ∧
    decode 0x072AC046 = .ok (.popc 37#6 22#6 true) ∧
    decode 0x872AC047 = .ok (.brev 37#6 22#6 true) ∧
    decode 0x072AC048 = .ok (.bswap 37#6 22#6 true) ∧
    decode 0x872AC049 = .ok (.sextb 37#6 22#6 true) ∧
    decode 0x072AC04A = .ok (.sexth 37#6 22#6 true) ∧
    decode 0x872AC04B = .ok (.zextb 37#6 22#6 true) ∧
    decode 0x072AC04C = .ok (.zexth 37#6 22#6 true) ∧
    decode 0x872AC04D = .ok (.movD 37#6 22#6 true) ∧
    decode 0x072AC04E = .ok (.clzD 37#6 22#6 true) ∧
    decode 0x872AC04F = .ok (.popcD 37#6 22#6 true) ∧
    decode 0x072AC050 = .ok (.sextD 37#6 22#6 true) ∧
    decode 0x872AC051 = .ok (.zextD 37#6 22#6 true) :=
  ⟨rfl, rfl, rfl, rfl, rfl, rfl, rfl, rfl, rfl, rfl, rfl, rfl, rfl, rfl, rfl, rfl, rfl, rfl⟩

theorem test_decode_04 :
    decode 0x092AC5C0 = .ok (.eq 37#6 22#6 11#6 true false) ∧
    decode 0x892AC5C1 = .ok (.ne 37#6 22#6 11#6 true false) ∧
    decode 0x092AC5C2 = .ok (.lt 37#6 22#6 11#6 true false) ∧
    decode 0x892AC5C3 = .ok (.le 37#6 22#6 11#6 true false) ∧
    decode 0x092AC5C4 = .ok (.ltu 37#6 22#6 11#6 true false) ∧
    decode 0x892AC5C5 = .ok (.leu 37#6 22#6 11#6 true false) ∧
    decode 0x092AC5C6 = .ok (.eqD 37#6 22#6 11#6 true false) ∧
    decode 0x892AC5C7 = .ok (.neD 37#6 22#6 11#6 true false) ∧
    decode 0x092AC5C8 = .ok (.ltD 37#6 22#6 11#6 true false) ∧
    decode 0x892AC5C9 = .ok (.leD 37#6 22#6 11#6 true false) ∧
    decode 0x092AC5CA = .ok (.ltuD 37#6 22#6 11#6 true false) ∧
    decode 0x892AC5CB = .ok (.leuD 37#6 22#6 11#6 true false) ∧
    decode 0x092AC5CC = .ok (.tst 37#6 22#6 11#6 true false) ∧
    decode 0x892AC5CD = .ok (.tstz 37#6 22#6 11#6 true false) :=
  ⟨rfl, rfl, rfl, rfl, rfl, rfl, rfl, rfl, rfl, rfl, rfl, rfl, rfl, rfl⟩

theorem test_decode_05 :
    decode 0x0B2AC5AC = .ok (.sel 37#6 22#6 11#6 5#4 true) ∧
    decode 0x8B2AC5AD = .ok (.selD 37#6 22#6 11#6 5#4 true) ∧
    decode 0x0B2AC5AE = .ok (.selY 37#6 22#6 11#6 5#4 true) :=
  ⟨rfl, rfl, rfl⟩

theorem test_decode_06 :
    decode 0x8D2AC580 = .ok (.pand 37#6 22#6 11#6) ∧
    decode 0x0D2AC581 = .ok (.por 37#6 22#6 11#6) ∧
    decode 0x8D2AC582 = .ok (.pxor 37#6 22#6 11#6) ∧
    decode 0x0D2AC583 = .ok (.pandn 37#6 22#6 11#6) ∧
    decode 0x8D2AC004 = .ok (.pnot 37#6 22#6) ∧
    decode 0x0D2AC005 = .ok (.pmov 37#6 22#6) ∧
    decode 0x8D280006 = .ok (.p2w 37#6) ∧
    decode 0x0C02C047 = .ok (.w2p 22#6 true) ∧
    decode 0x8D280008 = .ok (.pset 37#6) ∧
    decode 0x0D280009 = .ok (.pclr 37#6) :=
  ⟨rfl, rfl, rfl, rfl, rfl, rfl, rfl, rfl, rfl, rfl⟩

theorem test_decode_07 :
    decode 0x8F2AD805 = .ok (.addi 37#6 22#6 true 2053#12) :=
  rfl

theorem test_decode_08 :
    decode 0x112AD805 = .ok (.andi 37#6 22#6 true 2053#12) :=
  rfl

theorem test_decode_09 :
    decode 0x932AD805 = .ok (.ori 37#6 22#6 true 2053#12) :=
  rfl

theorem test_decode_0A :
    decode 0x152AD805 = .ok (.xori 37#6 22#6 true 2053#12) :=
  rfl

theorem test_decode_0B :
    decode 0x972AD015 = .ok (.shli 37#6 22#6 true 21#6) ∧
    decode 0x172AD415 = .ok (.shri 37#6 22#6 true 21#6) ∧
    decode 0x972AD815 = .ok (.sari 37#6 22#6 true 21#6) ∧
    decode 0x172ADC15 = .ok (.rotli 37#6 22#6 true 21#6) ∧
    decode 0x972AD215 = .ok (.shliD 37#6 22#6 true 21#6) ∧
    decode 0x172AD615 = .ok (.shriD 37#6 22#6 true 21#6) ∧
    decode 0x972ADA15 = .ok (.sariD 37#6 22#6 true 21#6) ∧
    decode 0x172ADE15 = .ok (.rotliD 37#6 22#6 true 21#6) :=
  ⟨rfl, rfl, rfl, rfl, rfl, rfl, rfl, rfl⟩

theorem test_decode_0C :
    decode 0x992AD105 = .ok (.cmpiEq 37#6 22#6 true 261#9) ∧
    decode 0x192AD305 = .ok (.cmpiNe 37#6 22#6 true 261#9) ∧
    decode 0x992AD505 = .ok (.cmpiLt 37#6 22#6 true 261#9) ∧
    decode 0x192AD705 = .ok (.cmpiLe 37#6 22#6 true 261#9) ∧
    decode 0x992AD905 = .ok (.cmpiLtu 37#6 22#6 true 261#9) ∧
    decode 0x192ADB05 = .ok (.cmpiLeu 37#6 22#6 true 261#9) ∧
    decode 0x992ADD05 = .ok (.cmpiGt 37#6 22#6 true 261#9) ∧
    decode 0x192ADF05 = .ok (.cmpiGe 37#6 22#6 true 261#9) :=
  ⟨rfl, rfl, rfl, rfl, rfl, rfl, rfl, rfl⟩

theorem test_decode_0D :
    decode 0x9B2C0005 = .ok (.li 37#6 262149#19) :=
  rfl

theorem test_decode_0E :
    decode 0x1D2C0005 = .ok (.lih 37#6 262149#19) :=
  rfl

theorem test_decode_0F :
    decode 0x9F2AD085 = .ok (.ldB 37#6 22#6 true 133#8) ∧
    decode 0x1F2AD185 = .ok (.ldBs 37#6 22#6 true 133#8) ∧
    decode 0x9F2AD285 = .ok (.ldH 37#6 22#6 true 133#8) ∧
    decode 0x1F2AD385 = .ok (.ldHs 37#6 22#6 true 133#8) ∧
    decode 0x9F2AD485 = .ok (.ldW 37#6 22#6 true 133#8) ∧
    decode 0x1F2AD585 = .ok (.ldD 37#6 22#6 true 133#8) ∧
    decode 0x9F2AD685 = .ok (.ldQ 37#6 22#6 true 133#8) :=
  ⟨rfl, rfl, rfl, rfl, rfl, rfl, rfl⟩

theorem test_decode_10 :
    decode 0x212AD085 = .ok (.stB 37#6 22#6 true 133#8) ∧
    decode 0xA12AD285 = .ok (.stH 37#6 22#6 true 133#8) ∧
    decode 0x212AD485 = .ok (.stW 37#6 22#6 true 133#8) ∧
    decode 0xA12AD585 = .ok (.stD 37#6 22#6 true 133#8) ∧
    decode 0x212AD685 = .ok (.stQ 37#6 22#6 true 133#8) :=
  ⟨rfl, rfl, rfl, rfl, rfl⟩

theorem test_decode_11 :
    decode 0xA32AD085 = .ok (.ldsB 37#6 22#6 true 133#8) ∧
    decode 0x232AD185 = .ok (.ldsBs 37#6 22#6 true 133#8) ∧
    decode 0xA32AD285 = .ok (.ldsH 37#6 22#6 true 133#8) ∧
    decode 0x232AD385 = .ok (.ldsHs 37#6 22#6 true 133#8) ∧
    decode 0xA32AD485 = .ok (.ldsW 37#6 22#6 true 133#8) ∧
    decode 0x232AD585 = .ok (.ldsD 37#6 22#6 true 133#8) ∧
    decode 0xA32AD685 = .ok (.ldsQ 37#6 22#6 true 133#8) :=
  ⟨rfl, rfl, rfl, rfl, rfl, rfl, rfl⟩

theorem test_decode_12 :
    decode 0x252AD085 = .ok (.stsB 37#6 22#6 true 133#8) ∧
    decode 0xA52AD285 = .ok (.stsH 37#6 22#6 true 133#8) ∧
    decode 0x252AD485 = .ok (.stsW 37#6 22#6 true 133#8) ∧
    decode 0xA52AD585 = .ok (.stsD 37#6 22#6 true 133#8) ∧
    decode 0x252AD685 = .ok (.stsQ 37#6 22#6 true 133#8) :=
  ⟨rfl, rfl, rfl, rfl, rfl⟩

theorem test_decode_13 :
    decode 0xA72AD985 = .ok (.ldy 37#6 22#6 true 9#4 133#8) :=
  rfl

theorem test_decode_14 :
    decode 0x292AD985 = .ok (.sty 37#6 22#6 true 9#4 133#8) :=
  rfl

theorem test_decode_15 :
    decode 0xAB2AD085 = .ok (.ldcFp32 37#6 22#6 true 133#8) ∧
    decode 0x2B2AD185 = .ok (.ldcBf16 37#6 22#6 true 133#8) ∧
    decode 0xAB2AD285 = .ok (.ldcFp16 37#6 22#6 true 133#8) ∧
    decode 0x2B2AD385 = .ok (.ldcE4m3 37#6 22#6 true 133#8) ∧
    decode 0xAB2AD485 = .ok (.ldcE5m2 37#6 22#6 true 133#8) ∧
    decode 0x2B2AD585 = .ok (.ldcInt32 37#6 22#6 true 133#8) ∧
    decode 0xAB2AD685 = .ok (.ldcUint32 37#6 22#6 true 133#8) ∧
    decode 0x2B2AD785 = .ok (.ldcInt8 37#6 22#6 true 133#8) ∧
    decode 0xAB2AD885 = .ok (.ldcUint8 37#6 22#6 true 133#8) :=
  ⟨rfl, rfl, rfl, rfl, rfl, rfl, rfl, rfl, rfl⟩

theorem test_decode_16 :
    decode 0x2D2AD085 = .ok (.stcFp32 37#6 22#6 true 133#8) ∧
    decode 0xAD2AD185 = .ok (.stcBf16 37#6 22#6 true 133#8) ∧
    decode 0x2D2AD285 = .ok (.stcFp16 37#6 22#6 true 133#8) ∧
    decode 0xAD2AD385 = .ok (.stcE4m3 37#6 22#6 true 133#8) ∧
    decode 0x2D2AD485 = .ok (.stcE5m2 37#6 22#6 true 133#8) ∧
    decode 0xAD2AD585 = .ok (.stcInt32 37#6 22#6 true 133#8) ∧
    decode 0x2D2AD685 = .ok (.stcUint32 37#6 22#6 true 133#8) ∧
    decode 0xAD2AD785 = .ok (.stcInt8 37#6 22#6 true 133#8) ∧
    decode 0x2D2AD885 = .ok (.stcUint8 37#6 22#6 true 133#8) :=
  ⟨rfl, rfl, rfl, rfl, rfl, rfl, rfl, rfl, rfl⟩

theorem test_decode_17 :
    decode 0x2F2AC5C0 = .ok (.yadd 37#6 22#6 11#6 true false) ∧
    decode 0xAF2AC5C1 = .ok (.ysub 37#6 22#6 11#6 true false) ∧
    decode 0x2F2AC5C2 = .ok (.ymul 37#6 22#6 11#6 true false) ∧
    decode 0xAF2AC5C3 = .ok (.ydiv 37#6 22#6 11#6 true false) ∧
    decode 0x2F2AC5C4 = .ok (.ymin 37#6 22#6 11#6 true false) ∧
    decode 0xAF2AC5C5 = .ok (.ymax 37#6 22#6 11#6 true false) ∧
    decode 0x2F2AC5C6 = .ok (.yminm 37#6 22#6 11#6 true false) ∧
    decode 0xAF2AC5C7 = .ok (.ymaxm 37#6 22#6 11#6 true false) ∧
    decode 0x2F2AC5C8 = .ok (.ycopysign 37#6 22#6 11#6 true false) ∧
    decode 0xAF2AC5C9 = .ok (.yrem 37#6 22#6 11#6 true false) ∧
    decode 0x2F2AC5CA = .ok (.yscale 37#6 22#6 11#6 true false) ∧
    decode 0xAF2AC5CB = .ok (.yfma 37#6 22#6 11#6 true false) ∧
    decode 0x2F2AC5CC = .ok (.yfms 37#6 22#6 11#6 true false) ∧
    decode 0xAF2AC5CD = .ok (.yfnma 37#6 22#6 11#6 true false) :=
  ⟨rfl, rfl, rfl, rfl, rfl, rfl, rfl, rfl, rfl, rfl, rfl, rfl, rfl, rfl⟩

theorem test_decode_18 :
    decode 0x312AC040 = .ok (.ymov 37#6 22#6 true) ∧
    decode 0xB12AC041 = .ok (.yneg 37#6 22#6 true) ∧
    decode 0x312AC042 = .ok (.yabs 37#6 22#6 true) ∧
    decode 0xB12AC043 = .ok (.ysqrt 37#6 22#6 true) ∧
    decode 0x312AC044 = .ok (.yrint 37#6 22#6 true) ∧
    decode 0xB12AC045 = .ok (.ytrunc 37#6 22#6 true) ∧
    decode 0x312AC046 = .ok (.ylogb 37#6 22#6 true) ∧
    decode 0xB12AC047 = .ok (.yclass 37#6 22#6 true) ∧
    decode 0x312AC048 = .ok (.ysig 37#6 22#6 true) ∧
    decode 0xB12AC049 = .ok (.ymant 37#6 22#6 true) ∧
    decode 0x312AC04A = .ok (.yrecip 37#6 22#6 true) ∧
    decode 0xB12AC04B = .ok (.yrsqrt 37#6 22#6 true) :=
  ⟨rfl, rfl, rfl, rfl, rfl, rfl, rfl, rfl, rfl, rfl, rfl, rfl⟩

theorem test_decode_19 :
    decode 0x332AC5C0 = .ok (.ycmpEq 37#6 22#6 11#6 true false) ∧
    decode 0xB32AC5C1 = .ok (.ycmpLt 37#6 22#6 11#6 true false) ∧
    decode 0x332AC5C2 = .ok (.ycmpLe 37#6 22#6 11#6 true false) ∧
    decode 0xB32AC5C3 = .ok (.ycmpUn 37#6 22#6 11#6 true false) ∧
    decode 0x332AC5C4 = .ok (.ycmpEqs 37#6 22#6 11#6 true false) ∧
    decode 0xB32AC5C5 = .ok (.ycmpLts 37#6 22#6 11#6 true false) ∧
    decode 0x332AC5C6 = .ok (.ycmpLes 37#6 22#6 11#6 true false) :=
  ⟨rfl, rfl, rfl, rfl, rfl, rfl, rfl⟩

theorem test_decode_1A :
    decode 0xB52AC040 = .ok (.ycvtYW 37#6 22#6 true) ∧
    decode 0x352AC041 = .ok (.ycvtYUw 37#6 22#6 true) ∧
    decode 0xB52AC042 = .ok (.ycvtYD 37#6 22#6 true) ∧
    decode 0x352AC043 = .ok (.ycvtYUd 37#6 22#6 true) ∧
    decode 0xB52AC044 = .ok (.ycvtWY 37#6 22#6 true) ∧
    decode 0x352AC045 = .ok (.ycvtUwY 37#6 22#6 true) ∧
    decode 0xB52AC046 = .ok (.ycvtDY 37#6 22#6 true) ∧
    decode 0x352AC047 = .ok (.ycvtUdY 37#6 22#6 true) :=
  ⟨rfl, rfl, rfl, rfl, rfl, rfl, rfl, rfl⟩

theorem test_decode_1B :
    decode 0xB602C000 = .ok (.setprc 22#6) ∧
    decode 0x37280001 = .ok (.getprc 37#6) ∧
    decode 0xB602C002 = .ok (.setl 22#6) ∧
    decode 0x3602C003 = .ok (.setrm 22#6) ∧
    decode 0xB7280004 = .ok (.getflags 37#6) ∧
    decode 0x3602C005 = .ok (.clrflags 22#6) ∧
    decode 0xB7280006 = .ok (.rnd 37#6) :=
  ⟨rfl, rfl, rfl, rfl, rfl, rfl, rfl⟩

theorem test_decode_1C :
    decode 0x38B80005 = .ok (.br 5#4 true 524293#20) ∧
    decode 0xB8080005 = .ok (.bra 524293#20) :=
  ⟨rfl, rfl⟩

theorem test_decode_1D :
    decode 0x3AB80005 = .ok (.call 5#4 true 524293#20) :=
  rfl

theorem test_decode_1E :
    decode 0xBC000000 = .ok .ret ∧
    decode 0x3C02C001 = .ok (.callr 22#6) ∧
    decode 0xBC02C002 = .ok (.jmpr 22#6) ∧
    decode 0x3C000003 = .ok .eret :=
  ⟨rfl, rfl, rfl, rfl⟩

theorem test_decode_1F :
    decode 0xBF2AC805 = .ok (.enter 37#6 22#6 2053#12) :=
  rfl

theorem test_decode_20 :
    decode 0x412C0005 = .ok (.loop 37#6 262149#19) :=
  rfl

theorem test_decode_23 :
    decode 0xC6000000 = .ok .endFibre ∧
    decode 0x472AC582 = .ok (.spawn 37#6 22#6 11#6) ∧
    decode 0xC7280003 = .ok (.fid 37#6) ∧
    decode 0x47280004 = .ok (.cid 37#6) ∧
    decode 0xC7280005 = .ok (.gid 37#6) ∧
    decode 0x47280006 = .ok (.stg 37#6) ∧
    decode 0xC7280007 = .ok (.nid 37#6) :=
  ⟨rfl, rfl, rfl, rfl, rfl, rfl, rfl⟩

theorem test_decode_24 :
    decode 0x48018005 = .ok (.yield 1#3 32773#16) :=
  rfl

theorem test_decode_25 :
    decode 0xCB2AC580 = .ok (.shfl 37#6 22#6 11#6) ∧
    decode 0x4B2AC581 = .ok (.shflXor 37#6 22#6 11#6) ∧
    decode 0xCB2AC582 = .ok (.shflUp 37#6 22#6 11#6) ∧
    decode 0x4B2AC583 = .ok (.shflDown 37#6 22#6 11#6) ∧
    decode 0xCB2AC584 = .ok (.voteAny 37#6 22#6 11#6) ∧
    decode 0x4B2AC585 = .ok (.voteAll 37#6 22#6 11#6) ∧
    decode 0xCB2AC586 = .ok (.ballot 37#6 22#6 11#6) ∧
    decode 0x4B2AC587 = .ok (.reduxAdd 37#6 22#6 11#6) ∧
    decode 0xCB2AC588 = .ok (.reduxMin 37#6 22#6 11#6) ∧
    decode 0x4B2AC589 = .ok (.reduxMax 37#6 22#6 11#6) ∧
    decode 0xCB2AC58A = .ok (.reduxYadd 37#6 22#6 11#6) ∧
    decode 0x4B2AC58B = .ok (.matchLanes 37#6 22#6 11#6) ∧
    decode 0xCB28058C = .ok (.present 37#6 11#6) :=
  ⟨rfl, rfl, rfl, rfl, rfl, rfl, rfl, rfl, rfl, rfl, rfl, rfl, rfl⟩

theorem test_decode_26 :
    decode 0x4D2AC580 = .ok (.objInit 37#6 22#6 11#6) ∧
    decode 0xCD2AC581 = .ok (.objPush 37#6 22#6 11#6) ∧
    decode 0x4D2AC582 = .ok (.objPop 37#6 22#6 11#6) ∧
    decode 0xCD2AC583 = .ok (.objEnq 37#6 22#6 11#6) ∧
    decode 0x4D2AC584 = .ok (.objDeq 37#6 22#6 11#6) ∧
    decode 0xCD2AC585 = .ok (.objAdd 37#6 22#6 11#6) ∧
    decode 0x4D2AC586 = .ok (.objArrive 37#6 22#6 11#6) ∧
    decode 0xCD2AC587 = .ok (.objPeek 37#6 22#6 11#6) ∧
    decode 0x4D2AC588 = .ok (.objHelp 37#6 22#6 11#6) :=
  ⟨rfl, rfl, rfl, rfl, rfl, rfl, rfl, rfl, rfl⟩

theorem test_decode_27 :
    decode 0xCF2AC5B0 = .ok (.amoAdd 37#6 22#6 11#6 3#3) ∧
    decode 0x4F2AC5B1 = .ok (.amoAnd 37#6 22#6 11#6 3#3) ∧
    decode 0xCF2AC5B2 = .ok (.amoOr 37#6 22#6 11#6 3#3) ∧
    decode 0x4F2AC5B3 = .ok (.amoXor 37#6 22#6 11#6 3#3) ∧
    decode 0xCF2AC5B4 = .ok (.amoMin 37#6 22#6 11#6 3#3) ∧
    decode 0x4F2AC5B5 = .ok (.amoMax 37#6 22#6 11#6 3#3) ∧
    decode 0xCF2AC5B6 = .ok (.amoMinu 37#6 22#6 11#6 3#3) ∧
    decode 0x4F2AC5B7 = .ok (.amoMaxu 37#6 22#6 11#6 3#3) ∧
    decode 0xCF2AC5B8 = .ok (.amoSwap 37#6 22#6 11#6 3#3) ∧
    decode 0x4F2AC5B9 = .ok (.amoCas 37#6 22#6 11#6 3#3) ∧
    decode 0xCF2AC5BA = .ok (.amoAddD 37#6 22#6 11#6 3#3) ∧
    decode 0x4F2AC5BB = .ok (.amoSwapD 37#6 22#6 11#6 3#3) ∧
    decode 0xCF2AC5BC = .ok (.amoCasD 37#6 22#6 11#6 3#3) ∧
    decode 0x4F2AC5BD = .ok (.amoCasQ 37#6 22#6 11#6 3#3) :=
  ⟨rfl, rfl, rfl, rfl, rfl, rfl, rfl, rfl, rfl, rfl, rfl, rfl, rfl, rfl⟩

theorem test_decode_28 :
    decode 0xD12AC5B0 = .ok (.amoAddAr 37#6 22#6 11#6 3#3) ∧
    decode 0x512AC5B1 = .ok (.amoAndAr 37#6 22#6 11#6 3#3) ∧
    decode 0xD12AC5B2 = .ok (.amoOrAr 37#6 22#6 11#6 3#3) ∧
    decode 0x512AC5B3 = .ok (.amoXorAr 37#6 22#6 11#6 3#3) ∧
    decode 0xD12AC5B4 = .ok (.amoMinAr 37#6 22#6 11#6 3#3) ∧
    decode 0x512AC5B5 = .ok (.amoMaxAr 37#6 22#6 11#6 3#3) ∧
    decode 0xD12AC5B6 = .ok (.amoMinuAr 37#6 22#6 11#6 3#3) ∧
    decode 0x512AC5B7 = .ok (.amoMaxuAr 37#6 22#6 11#6 3#3) ∧
    decode 0xD12AC5B8 = .ok (.amoSwapAr 37#6 22#6 11#6 3#3) ∧
    decode 0x512AC5B9 = .ok (.amoCasAr 37#6 22#6 11#6 3#3) ∧
    decode 0xD12AC5BA = .ok (.amoAddDAr 37#6 22#6 11#6 3#3) ∧
    decode 0x512AC5BB = .ok (.amoSwapDAr 37#6 22#6 11#6 3#3) ∧
    decode 0xD12AC5BC = .ok (.amoCasDAr 37#6 22#6 11#6 3#3) ∧
    decode 0x512AC5BD = .ok (.amoCasQAr 37#6 22#6 11#6 3#3) :=
  ⟨rfl, rfl, rfl, rfl, rfl, rfl, rfl, rfl, rfl, rfl, rfl, rfl, rfl, rfl⟩

theorem test_decode_29 :
    decode 0xD202C5B0 = .ok (.redAdd 22#6 11#6 3#3) ∧
    decode 0x5202C5B1 = .ok (.redAnd 22#6 11#6 3#3) ∧
    decode 0xD202C5B2 = .ok (.redOr 22#6 11#6 3#3) ∧
    decode 0x5202C5B3 = .ok (.redXor 22#6 11#6 3#3) ∧
    decode 0xD202C5B4 = .ok (.redMin 22#6 11#6 3#3) ∧
    decode 0x5202C5B5 = .ok (.redMax 22#6 11#6 3#3) ∧
    decode 0xD202C5B6 = .ok (.redFaddF32 22#6 11#6 3#3) ∧
    decode 0x5202C5B7 = .ok (.redFaddBf16 22#6 11#6 3#3) ∧
    decode 0xD202C5B8 = .ok (.redAddD 22#6 11#6 3#3) :=
  ⟨rfl, rfl, rfl, rfl, rfl, rfl, rfl, rfl, rfl⟩

theorem test_decode_2A :
    decode 0x552AC030 = .ok (.ldaW 37#6 22#6 3#3) ∧
    decode 0xD52AC031 = .ok (.ldaD 37#6 22#6 3#3) ∧
    decode 0x552AC032 = .ok (.ldaB 37#6 22#6 3#3) ∧
    decode 0xD402C5B8 = .ok (.strW 22#6 11#6 3#3) ∧
    decode 0x5402C5B9 = .ok (.strD 22#6 11#6 3#3) ∧
    decode 0xD402C5BA = .ok (.strB 22#6 11#6 3#3) :=
  ⟨rfl, rfl, rfl, rfl, rfl, rfl⟩

theorem test_decode_2B :
    decode 0x56000032 = .ok (.fence 3#3 true) ∧
    decode 0xD6000036 = .ok (.fenceAcq 3#3 true) ∧
    decode 0x5600003A = .ok (.fenceRel 3#3 true) :=
  ⟨rfl, rfl, rfl⟩

theorem test_decode_2C :
    decode 0xD802C5B0 = .ok (.wbr 22#6 11#6 3#3) ∧
    decode 0x5802C5B1 = .ok (.invr 22#6 11#6 3#3) ∧
    decode 0xD802C5B2 = .ok (.pref 22#6 11#6 3#3) :=
  ⟨rfl, rfl, rfl⟩

theorem test_decode_2D :
    decode 0xDB2AD085 = .ok (.ldf 37#6 22#6 true 133#8) ∧
    decode 0x5B2AD185 = .ok (.ldfCons 37#6 22#6 true 133#8) :=
  ⟨rfl, rfl⟩

theorem test_decode_2E :
    decode 0xDD2AD085 = .ok (.stf 37#6 22#6 true 133#8) :=
  rfl

theorem test_decode_2F :
    decode 0x5F2AC582 = .ok (.cpb 37#6 22#6 11#6 2#2) :=
  rfl

theorem test_decode_30 :
    decode 0xE0000002 = .ok (.cpw 2#2) ∧
    decode 0x6002C006 = .ok (.cpwLe 22#6 2#2) :=
  ⟨rfl, rfl⟩

theorem test_decode_31 :
    decode 0xE32AC050 = .ok (.cptG2s 37#6 22#6 5#3) ∧
    decode 0x632AC051 = .ok (.cptS2g 37#6 22#6 5#3) ∧
    decode 0xE32AC052 = .ok (.cptS2gAtom 37#6 22#6 5#3) ∧
    decode 0x632AC053 = .ok (.cptG2sCons 37#6 22#6 5#3) ∧
    decode 0xE32AC054 = .ok (.cptG2g 37#6 22#6 5#3) ∧
    decode 0x632AC055 = .ok (.cptGather 37#6 22#6 5#3) ∧
    decode 0xE32AC056 = .ok (.cptCbk 37#6 22#6 5#3) :=
  ⟨rfl, rfl, rfl, rfl, rfl, rfl, rfl⟩

theorem test_decode_32 :
    decode 0x6402C050 = .ok (.twait 22#6 5#3) ∧
    decode 0xE5280051 = .ok (.tread 37#6 5#3) ∧
    decode 0x65280052 = .ok (.tissued 37#6 5#3) ∧
    decode 0xE5280053 = .ok (.tstat 37#6 5#3) :=
  ⟨rfl, rfl, rfl, rfl⟩

theorem test_decode_33 :
    decode 0x672AC000 = .ok (.shape 37#6 22#6) :=
  rfl

theorem test_decode_34 :
    decode 0xE92AC5C9 = .ok (.mmaBf16 37#6 22#6 11#6 true 9#4) ∧
    decode 0x692AC5D9 = .ok (.mmaE4m3 37#6 22#6 11#6 true 9#4) ∧
    decode 0xE92AC5E9 = .ok (.mmaE5m2 37#6 22#6 11#6 true 9#4) ∧
    decode 0x692AC5F9 = .ok (.mmaE4m3e5m2 37#6 22#6 11#6 true 9#4) :=
  ⟨rfl, rfl, rfl, rfl⟩

theorem test_decode_35 :
    decode 0xEB280000 = .ok (.accZero 37#6) ∧
    decode 0x6B2AC001 = .ok (.accChainB 37#6 22#6) ∧
    decode 0xEB280002 = .ok (.accChainE 37#6) ∧
    decode 0x6A02C583 = .ok (.accSetprom 22#6 11#6) ∧
    decode 0xEB2AC004 = .ok (.accStF32 37#6 22#6) ∧
    decode 0x6B2AC005 = .ok (.accStBf16 37#6 22#6) ∧
    decode 0xEB2AC006 = .ok (.accLdF32 37#6 22#6) ∧
    decode 0x6B280007 = .ok (.accFlush 37#6) :=
  ⟨rfl, rfl, rfl, rfl, rfl, rfl, rfl, rfl⟩

theorem test_decode_36 :
    decode 0xED2AC000 = .ok (.taskTnode 37#6 22#6) ∧
    decode 0x6C02C581 = .ok (.taskTdep 22#6 11#6) ∧
    decode 0xEC02C002 = .ok (.taskTsig 22#6) ∧
    decode 0x6C02C003 = .ok (.taskEnq 22#6) ∧
    decode 0xED280004 = .ok (.taskDeq 37#6) ∧
    decode 0x6C02C585 = .ok (.taskCont 22#6 11#6) ∧
    decode 0xED280006 = .ok (.taskNself 37#6) :=
  ⟨rfl, rfl, rfl, rfl, rfl, rfl, rfl⟩

theorem test_decode_37 :
    decode 0x6F2AC000 = .ok (.arenaAptr 37#6 22#6) ∧
    decode 0xEF2AC001 = .ok (.arenaAinfo 37#6 22#6) ∧
    decode 0x6E02C582 = .ok (.arenaCheck 22#6 11#6) :=
  ⟨rfl, rfl, rfl⟩

theorem test_decode_38 :
    decode 0xF1280580 = .ok (.gets 37#6 11#6) ∧
    decode 0x7002C581 = .ok (.sets 22#6 11#6) ∧
    decode 0xF0000582 = .ok (.trap 11#6) ∧
    decode 0x70000003 = .ok .brk ∧
    decode 0xF0000004 = .ok .nop :=
  ⟨rfl, rfl, rfl, rfl, rfl⟩
/-! ### States -/

/-- Every condition of `CanIssue`, as one test. -/
def may (i : Instr) (s : State) : Bool :=
  !s.off && s.f.due.isNone && (s.f.obj.all fun r => r.xfn == 0) && s.f.early.isNone && s.f.met.isNone && (infoOf i).level.isNone &&
    (infoOf i).inWindow s.r && !((infoOf i).ops.any fun o => o.reads && isEmpty s.r o) && !(infoOf i).mustWait s.g s.f &&
    (s.crewCheck [infoOf i]).isNone && ydlLeft s.r.ydl != 0

theorem ok {i : Instr} {s : State} (h : may i s = true) : CanIssue i s := by
  simp only [may, Bool.and_eq_true, Bool.not_eq_true', bne_iff_ne, beq_iff_eq, Option.isNone_iff_eq_none] at h
  obtain ⟨⟨⟨⟨⟨⟨⟨⟨⟨⟨h1, h2⟩, h3⟩, h4⟩, h5⟩, h6⟩, h7⟩, h8⟩, h9⟩, h10⟩, h11⟩ := h
  exact ⟨h1, h2, h3, h4, h5, h6, h7, h8, h9, h10, h11⟩

/-- A one-fibre node whose fibre has these first cells and a stack of 64. -/
def world (cells : List Word) : State :=
  let s := State.reset.placeWord 32 0x70000004
  { s with f := { s.f with regs := Regs.fresh 64 1000 0x1040#64 cells } }

/-- Its first pair is 0x2000, an address of its node. -/
def w0 : State := world [0x2000#32, 0#32, 3#32, 4#32, 0xFFFFFFFF#32, 0x80000000#32, 1#32, 32#32]

/-- Changes the registers of the fibre. -/
def regs (s : State) (k : Regs → Regs) : State := { s with f := { s.f with regs := k s.f.regs } }

/-- A VPF register with the value 1. -/
def one : YReg := ⟨0x3FFF0000#32, [0x80000000#32], true⟩

/-- The same with four VPF registers of length 24. -/
def wy : State := regs w0 fun r => { r with lw := 24, ys := [one, one, YReg.zero 24, YReg.zero 24] }

/-- A window under one record of KIND `k`. -/
def under (k : Nat) : State := regs w0 fun r => { r with base := 8, frames := [⟨0x1041#64, 8, 0, 0, k, 8, []⟩] }


/-- A long result on its way, whose flags are pending. -/
def wPend : State := { w0 with f := { w0.f with dlv := [{ Deliv.blank with kind := .yop }] } }

/-- A handler at 0x2000. -/
def wTrap : State := regs w0 fun r => { r with tvec := 0x2000#64 }

/-- `n` crews with the contexts from `a`. -/
def crewList (a n : Nat) : List Crew := (List.range n).map fun j => ⟨j, 0, 1#32, a + j, 0, .running, .here⟩

/-- A gang of `k` crews, beside others that hold every other context of the core. -/
def crews (k : Nat) : State := { w0 with
  g := { w0.g with crews := crewList 0 k }
  gangs := [{ Gang.fresh 2 0 [.vector] with place := .resident 0, crews := crewList k (64 - k) }] }

/-- A signalling NaN under the enable of its flag. -/
def ySnan : State := regs wy fun r => { r with prc := 0xFC000018#32, ys := [⟨0x4#32, [0#32], true⟩, one, one, one] }

/-- w0 with another pair d[0]. -/
def at_ (a : Nat) : State := world [BitVec.ofNat 32 a, 0#32, 3#32, 4#32, 0xFFFFFFFF#32, 0x80000000#32, 1#32, 32#32]


/-! ### Premises met: words of one fibre -/

theorem meets_ResultWords : CanIssue (.add 1 2 3 true false) w0 ∧ cellResult (.add 1 2 3 true false) w0 = some (1#6, 7#32) ∧
    CanIssue (.addD 4 0 2 false false) w0 ∧ pairResult (.addD 4 0 2 false false) w0.r = some (4#6, 0x400002003#64) ∧
    CanIssue (.ltu 3 2 3 false false) w0 ∧ predResult (.ltu 3 2 3 false false) w0.r = some (3#6, true) :=
  ⟨ok (by decide), by decide, ok (by decide), by decide, ok (by decide), by decide⟩

/-- The last cell of the window, the last pair, and p0. -/
theorem meets_RegisterFrame : CanIssue (.li 7 1) w0 ∧ cellResult (.li 7 1) w0 = some (7#6, 1#32) ∧
    CanIssue (.movD 6 0 false) w0 ∧ pairResult (.movD 6 0 false) w0.r = some (6#6, 0x2000#64) ∧
    CanIssue (.pand 15 0 0) w0 ∧ predResult (.pand 15 0 0) w0.r = some (15#6, true) ∧
    w0.r.base + 7 < w0.r.cells.length :=
  ⟨ok (by decide), by decide, ok (by decide), by decide, ok (by decide), by decide, by decide⟩

/-- The premises of a word that rounds, but for those that a trap breaks. -/
def rounds (i : Instr) (s : State) (p : Fld → List Fld → Nat → Exact → Option (Int × Bool) → Bool) : Bool :=
  match yExact i s with
  | some (d, srcs, n, x, e) => p d srcs n x e
  | none => false

/-- The premises of `YDone.Clear`. -/
def clear (y : YDone) (s : State) : Bool :=
  (y.srcs.all fun f => (s.r.y f).valid s.r.lw) && !enabled s.r.prc y.flags && (!y.drew || !s.f.drawWaits)

theorem clear_ok {y : YDone} {s : State} (h : clear y s = true) : y.Clear s := by
  simp only [clear, Bool.and_eq_true, Bool.not_eq_true', List.all_eq_true, Bool.or_eq_true] at h
  exact ⟨h.1.1, h.1.2, fun hd => by rcases h.2 with h2 | h2 <;> simp_all⟩

theorem meets_YRoundWords : CanIssue (.yadd 2 0 1 false false) wy ∧ rounds (.yadd 2 0 1 false false) wy (fun d srcs n x e =>
    decide (prcL wy.r.prc ≤ wy.r.lw) && (!wy.shortOf x e || !pxEnabled wy.r.prc) && clear (wy.yDone d srcs n x e) wy) = true :=
  ⟨ok (by decide), by decide⟩

theorem meets_YScalarWords : CanIssue (.ycmpEq 1 0 1 false false) wy ∧
    ((yScalar (.ycmpEq 1 0 1 false false) wy).any fun y => clear y wy) = true := ⟨ok (by decide), by decide⟩

/-- A fibre with a header that breaks R19, one whose window is too short, one whose sum cancels under MIN with PX enabled,
and one that divides 1 by 0 with its flag enabled. -/
def yBad : State := regs wy fun r => r.setY 0 ⟨0#32, [0#32], true⟩
def yShort : State := regs wy fun r => { r with prc := 25#32 }
def yLoss : State := regs wy fun r => { r with prc := 0x80008018#32, ys := [one, ⟨0xBFFE0000#32, [0xFFFFFF00#32], true⟩, one, one] }
def yZero : State := regs wy fun r => { r with prc := 0xFC000018#32 }

theorem meets_YTraps : CanIssue (.yadd 2 0 1 false false) yBad ∧ (yBad.r.y 0).valid 24 = false ∧
    CanIssue (.yadd 2 0 1 false false) yShort ∧ yShort.r.lw < prcL yShort.r.prc ∧
    CanIssue (.yadd 2 0 1 false false) yLoss ∧ rounds (.yadd 2 0 1 false false) yLoss (fun _ srcs _ x e =>
      (srcs.all fun f => (yLoss.r.y f).valid 24) && yLoss.shortOf x e && pxEnabled yLoss.r.prc) = true ∧
    CanIssue (.ydiv 2 0 3 false false) yZero ∧ rounds (.ydiv 2 0 3 false false) yZero (fun d srcs n x e =>
      !yZero.shortOf x e && enabled yZero.r.prc (yZero.yDone d srcs n x e).flags) = true :=
  ⟨ok (by decide), by decide, ok (by decide), by decide, ok (by decide), by decide, ok (by decide), by decide⟩

/-- A word that sees flags, with and without one pending; a value of PRC that is refused; a register that `gets` refuses. -/
theorem meets_RegisterWords : CanIssue (.getprc 1) w0 ∧ (regEffect (.getprc 1) w0).isSome = true ∧
    waitsForFlags (.getprc 1) w0 = false ∧ prcRefuses (.getprc 1) w0 = false ∧
    CanIssue (.getprc 1) wPend ∧ waitsForFlags (.getprc 1) wPend = true ∧
    CanIssue (.setl 4) w0 ∧ waitsForFlags (.setl 4) w0 = false ∧ prcRefuses (.setl 4) w0 = true ∧
    CanIssue (.gets 1 63) w0 ∧ (regEffect (.gets 1 63) w0).isNone = true ∧
    CanIssue (.sets 1 63) w0 ∧ (regEffect (.sets 1 63) w0).isNone = true :=
  ⟨ok (by decide), by decide, by decide, by decide, ok (by decide), by decide, ok (by decide), by decide, by decide, ok (by decide),
    by decide, ok (by decide), by decide⟩

theorem meets_Branches : CanIssue (.br 1 true 5) w0 ∧ branchTo (.br 1 true 5) w0 = some (.taken 0x1090#64) ∧
    CanIssue (.jmpr 0) w0 ∧ branchTo (.jmpr 0) w0 = some (.taken 0x2000#64) ∧ CanIssue .nop w0 ∧ branchTo .nop w0 = some .seq :=
  ⟨ok (by decide), by decide, ok (by decide), by decide, ok (by decide), by decide⟩

/-- A loop of one packet at 0x1050: inside, at its end with two rounds and one round left, and past its end. -/
def rl (count : Word) : Regs := { w0.r with loops := [⟨0x1050#64, 0x1050#64, count, 0⟩] }

theorem meets_ArrivalAtLoops : ∃ e rest, (rl 2#32).loops = e :: rest ∧ e.base = (rl 2#32).base ∧
    ¬(e.start ≤ pcPacket 0x1060#64 ∧ pcPacket 0x1060#64 ≤ e.last) ∧ (e.start ≤ pcPacket 0x1050#64 ∧ pcPacket 0x1050#64 ≤ e.last) ∧
    pcSlot 0x1060#64 = 0 ∧ (0x1060#64 : DWord) = e.last + 16#64 ∧ e.count ≠ 1#32 ∧ (0x1051#64 : DWord) ≠ e.last + 16#64 ∧
    (rl 1#32).loops = [⟨0x1050#64, 0x1050#64, 1#32, 0⟩] :=
  ⟨_, _, rfl, rfl, by decide, by decide, by decide, by decide, by decide, by decide, rfl⟩

/-- The stack with so many cells that a call leaves exactly 12 free, and one fewer. -/
def quota (q : Nat) : State := regs w0 fun r => { r with cells := List.replicate q Cell.zero }

theorem meets_CallSlidesWindow : CanIssue (.call 0 false 5) (quota 24) ∧ callTarget (.call 0 false 5) (quota 24) = some 0x1090#64 ∧
    12 ≤ cellsAfterCall (quota 24).r ∧ CanIssue (.call 0 false 5) (quota 23) ∧ cellsAfterCall (quota 23).r < 12 :=
  ⟨ok (by decide), by decide, by decide, ok (by decide), by decide⟩

theorem meets_CalleeWindow : CanIssue (.call 0 false 5) (quota 24) ∧ callTarget (.call 0 false 5) (quota 24) = some 0x1090#64 ∧
    12 ≤ cellsAfterCall (quota 24).r ∧ 7 < 8 := ⟨ok (by decide), by decide, by decide, by decide⟩

theorem meets_EnterMakesWindow : CanIssue (.enter 7 0 24) (quota 20) ∧ 12 ≤ cellsAfterEnter (quota 20).r 8 0 24 ∧
    (quota 20).f.pendingFrom 8 0 = false ∧ CanIssue (.enter 7 0 24) (quota 19) ∧ cellsAfterEnter (quota 19).r 8 0 24 < 12 :=
  ⟨ok (by decide), by decide, by decide, ok (by decide), by decide⟩

theorem meets_RetPopsRecord : CanIssue .ret (under 0) ∧ (∃ fr rest, (under 0).r.frames = fr :: rest ∧ fr.kind ≠ 1 ∧
      (under 0).f.pendingFrom ((under 0).r.base - fr.delta) rest.length = false) ∧
    CanIssue .ret (under 1) ∧ (∃ fr rest, (under 1).r.frames = fr :: rest ∧ fr.kind = 1) ∧
    CanIssue .ret (regs w0 fun r => { r with sfc := 1 }) ∧
    CanIssue .ret w0 ∧ w0.r.frames = [] ∧ w0.r.sfc = 0 ∧ w0.f.pendingFrom 0 0 = false :=
  ⟨ok (by decide), ⟨_, _, rfl, by decide, by decide⟩, ok (by decide), ⟨_, _, rfl, by decide⟩, ok (by decide), ok (by decide), by decide,
    by decide, by decide⟩

/-- A handler's window that goes back to 0x1042. -/
def inTrap : State := regs (under 1) fun r => { r with tepc := 0x1042#64, tcause := 0x80000004#32 }

theorem meets_EretLeavesHandler : CanIssue .eret inTrap ∧ (∃ fr rest, inTrap.r.frames = fr :: rest ∧ fr.kind ≠ 0 ∧
      inTrap.f.pendingFrom (inTrap.r.base - fr.delta) rest.length = false) ∧ pcInvalid inTrap.r.tepc = false ∧
    inTrap.r.tcause.extractLsb' 8 8 = 0#8 ∧ CanIssue .eret (under 0) ∧ ∃ fr rest, (under 0).r.frames = fr :: rest ∧ fr.kind = 0 :=
  ⟨ok (by decide), ⟨_, _, rfl, by decide, by decide⟩, by decide, by decide, ok (by decide), ⟨_, _, rfl, rfl⟩⟩

/-- Four entries in the loop stack. -/
def full4 : State := regs w0 fun r => { r with loops := List.replicate 4 ⟨0#64, 0#64, 1#32, 0⟩ }

theorem meets_LoopPushesEntry : CanIssue (.loop 2 1) w0 ∧ w0.r.w 2 ≠ 0#32 ∧ w0.r.loops.length < 4 ∧ CanIssue (.loop 1 1) w0 ∧ w0.r.w 1 = 0#32 ∧
    CanIssue (.loop 2 1) full4 ∧ full4.r.w 2 ≠ 0#32 ∧ 4 ≤ full4.r.loops.length :=
  ⟨ok (by decide), by decide, by decide, ok (by decide), by decide, ok (by decide), by decide, by decide⟩

theorem meets_YieldWritesHint : CanIssue (.yield 2 0) w0 ∧ (2#3 : BitVec 3).toNat < 4 ∧ w0.n.spec.ydef < 65536 := ⟨ok (by decide), by decide, by decide⟩

theorem meets_EndFibre : CanIssue .endFibre w0 ∧ w0.g.nid = w0.f.id.nid ∧ w0.g.gid = w0.f.id.gid ∧ w0.g.nid ≠ 0 :=
  ⟨ok (by decide), by decide, by decide, by decide⟩

/-- An entry PC in a packet, a reserved field in it, an empty mask, no crew index and no context left. -/
theorem meets_SpawnMakesFibre : CanIssue (.spawn 6 0 0) w0 ∧ (w0.r.d 0).extractLsb' 0 4 = 0#4 ∧ (w0.spawnResult (w0.r.w 6)).getLsbD 31 = false ∧
    CanIssue (.spawn 1 0 0) w0 ∧ (w0.spawnResult (w0.r.w 1)).getLsbD 31 = true ∧ w0.r.w 1 = 0#32 ∧
    CanIssue (.spawn 6 2 0) w0 ∧ (w0.r.d 2).extractLsb' 0 4 ≠ 0#4 ∧
    CanIssue (.spawn 6 0 0) (crews 32) ∧ 32 ≤ (crews 32).g.crews.length ∧
    CanIssue (.spawn 6 0 0) (crews 31) ∧ (crews 31).freeContext (crews 31).c.num = none :=
  ⟨ok (by decide), by decide, by decide, ok (by decide), by decide, by decide, ok (by decide), by decide, ok (by decide), by decide,
    ok (by decide), by decide⟩

/-- A crew whose fibres hold the register part of the core but for one fibre's cells, and all of it. -/
def crowded (lanes : Word) : State := { w0 with
  n := { w0.n with spec := { w0.n.spec with quota := 4096 } }, g := { w0.g with crews := [⟨0, 0, lanes, 0, 0, .running, .here⟩] } }

theorem meets_SpawnMakesFibre_cells : (crowded 0x7FFFFFFF#32).freeContext 0 ≠ none ∧ ((crowded 0).c.split.getD (0, 0)).2 * 16384 = 32 * 4096 ∧
    (crowded 0x7FFFFFFF#32).regCells 0 = 31 * 4096 ∧ (crowded 0xFFFFFFFF#32).regCells 0 = 32 * 4096 ∧
    CanIssue (.spawn 6 0 0) (crowded 0x7FFFFFFF#32) ∧ onesIn ((crowded 0).r.w 6) = 1 ∧ CanIssue (.spawn 6 0 0) (crowded 0xFFFFFFFF#32) :=
  ⟨by decide, by decide, by decide, by decide, ok (by decide), by decide, ok (by decide)⟩

theorem meets_TrapWords : CanIssue (.trap 5) wTrap ∧ CanIssue .brk wTrap ∧ wTrap.r.trapRefused = false ∧ wTrap.f.flagsPending = false :=
  ⟨ok (by decide), ok (by decide), by decide, by decide⟩

theorem meets_TrapEntry : wTrap.r.trapRefused = false ∧ wTrap.f.flagsPending = false ∧ 0x10 < 256 ∧ 255 < 256 ∧ 7 < 8 ∧
    wTrap.r.base + wTrap.r.n + 8 ≤ wTrap.r.cells.length := by decide

theorem meets_DoubleTrap : inTrap.r.tcause.getLsbD 31 = true ∧ w0.r.tvec = 0#64 ∧
    (regs (quota 19) fun r => { r with tvec := 0x2000#64 }).r.wq < 12 ∧ CanIssue .brk w0 ∧ CanIssue (.trap 5) w0 :=
  ⟨by decide, by decide, by decide, ok (by decide), ok (by decide)⟩

/-- Level 3, level 5, an operand beyond the window, an empty source of each policy. -/
theorem meets_WordsThatStop : isEvent (.br 0 false 5) = false ∧ (infoOf (.br 0 false 5)).level = some 3 ∧
    (infoOf (.addD 1 0 0 false false)).level = some 5 ∧
    (infoOf (.add 8 0 0 false false)).level = none ∧ (infoOf (.add 8 0 0 false false)).inWindow w0.r = false ∧
    (let s := regs w0 fun r => r.setAt 2 0#32 false
     let i := Instr.add 1 2 3 true false
     ((infoOf i).ops.find? fun o => o.reads && o.trap && isEmpty s.r o).isSome = true ∧ s.crewCheck [infoOf i] = none ∧
       ((infoOf (.add 1 2 3 false false)).ops.any fun o => o.reads && isEmpty s.r o) = true) := by decide

/-! ### Premises met: words that access memory -/

/-- The access of a word is aligned and its address is taken. -/
def issuesAt (i : Instr) (s : State) : Bool :=
  match globalAccess i s with
  | some (a, va, len, al) => va % al == 0 && (match s.xlat s.n va len a.op.need with | .ok _ _ => true | .bad _ _ => false)
  | none => false

/-- The access of a word is aligned and its address is refused. -/
def refusedAt (i : Instr) (s : State) : Bool :=
  match globalAccess i s with
  | some (a, va, len, al) => va % al == 0 && (match s.xlat s.n va len a.op.need with | .ok _ _ => false | .bad _ _ => true)
  | none => false

/-- The last word of the range, one byte above its start, and the first word past it. -/
theorem meets_GlobalAccesses : CanIssue (.ldW 4 0 false 0) (at_ 0x1FFFFC) ∧ issuesAt (.ldW 4 0 false 0) (at_ 0x1FFFFC) = true ∧
    CanIssue (.stW 4 0 false 0) (at_ 0x1FFFFD) ∧ ((globalAccess (.stW 4 0 false 0) (at_ 0x1FFFFD)).any fun x => x.2.1 % (x.2.2.2 : Int) != 0) = true ∧
    CanIssue (.ldW 4 0 false 0) (at_ 0x200000) ∧ refusedAt (.ldW 4 0 false 0) (at_ 0x200000) = true :=
  ⟨ok (by decide), by decide, ok (by decide), by decide, ok (by decide), by decide⟩

theorem meets_ConvertingAccesses : CanIssue (.ldcFp32 2 0 false 0) wy ∧
    ((formatLoad (.ldcFp32 2 0 false 0) wy).any fun x => decide (prcL wy.r.prc ≤ wy.r.lw) && x.2.1 % (x.2.2 : Int) == 0 &&
      (match wy.xlat wy.n x.2.1 x.2.2 .load with | .ok _ _ => true | .bad _ _ => false)) = true ∧
    CanIssue (.ldcFp32 2 0 false 0) yShort ∧ (formatLoad (.ldcFp32 2 0 false 0) yShort).isSome = true ∧ yShort.r.lw < prcL yShort.r.prc ∧
    CanIssue (.sty 0 0 false 7 0) wy ∧
    ((roundedStore (.sty 0 0 false 7 0) wy).any fun x => (wy.r.y x.1).valid wy.r.lw && x.2.1 % (x.2.2.2 : Int) == 0 &&
      (match wy.xlat wy.n x.2.1 x.2.2.1.1.length .store with | .ok _ _ => true | .bad _ _ => false) &&
      !enabled wy.r.prc x.2.2.1.2) = true ∧
    CanIssue (.stcBf16 0 0 false 0) yBad ∧ ((roundedStore (.stcBf16 0 0 false 0) yBad).any fun x => !(yBad.r.y x.1).valid 24) = true :=
  ⟨ok (by decide), by decide, ok (by decide), by decide, by decide, ok (by decide), by decide, ok (by decide), by decide⟩

/-- wy with another address; in `ya`, with these bits of PRC. -/
def ya (a : Nat) (prc : Word) : State := regs (at_ a) fun r => { r with lw := 24, prc := prc, ys := [one, one, YReg.zero 24, YReg.zero 24] }

/-- A converting load and a rounded store at an odd address, and past the node's range; a load that draws while an earlier
`ldy` may draw; a store whose flag is enabled. -/
theorem meets_ConvertingAccesses_stops :
    CanIssue (.ldcFp32 2 0 false 0) (ya 0x2001 0x18#32) ∧
    ((formatLoad (.ldcFp32 2 0 false 0) (ya 0x2001 0x18#32)).any fun x => x.2.1 % (x.2.2 : Int) != 0) = true ∧
    CanIssue (.ldcFp32 2 0 false 0) (ya 0x200000 0x18#32) ∧
    ((formatLoad (.ldcFp32 2 0 false 0) (ya 0x200000 0x18#32)).any fun x => x.2.1 % (x.2.2 : Int) == 0 &&
      (match (ya 0x200000 0x18#32).xlat w0.n x.2.1 x.2.2 .load with | .ok _ _ => false | .bad _ _ => true)) = true ∧
    CanIssue (.stcBf16 0 0 false 0) (ya 0x2001 0x18#32) ∧
    ((roundedStore (.stcBf16 0 0 false 0) (ya 0x2001 0x18#32)).any fun x => x.2.1 % (x.2.2.2 : Int) != 0) = true ∧
    CanIssue (.stcBf16 0 0 false 0) (ya 0x200000 0x18#32) ∧
    ((roundedStore (.stcBf16 0 0 false 0) (ya 0x200000 0x18#32)).any fun x => x.2.1 % (x.2.2.2 : Int) == 0 &&
      (match (ya 0x200000 0x18#32).xlat w0.n x.2.1 x.2.2.1.1.length .store with | .ok _ _ => false | .bad _ _ => true)) = true ∧
    (let s := { ya 0x2000 0x518#32 with f := { (ya 0x2000 0x518#32).f with 
        acc := [{ newAccess (.ldy 7) 0#64 0 16 .none [] with ckpt := some (ya 0x2000 0x518#32).r }] } }
     CanIssue (.ldcFp32 2 0 false 0) s ∧ prcRM s.r.prc = .rsr ∧ s.f.drawWaits = true) ∧
    (let s := regs (ya 0x2000 0xFC000018#32) fun r => r.setY 0 ⟨0x3FFF0000#32, [0xFFFFFF00#32], true⟩
     CanIssue (.stcBf16 0 0 false 0) s ∧
      ((roundedStore (.stcBf16 0 0 false 0) s).any fun x => (s.r.y 0).valid 24 && enabled s.r.prc x.2.2.1.2) = true) :=
  ⟨ok (by decide), by decide, ok (by decide), by decide, ok (by decide), by decide, ok (by decide), by decide,
    ⟨ok (by decide), by decide, by decide⟩, ⟨ok (by decide), by decide⟩⟩

/-- The last cell of the region, an odd offset, the offset past the region, and the offset 2 to the 31st of a granule. -/
def spad (o : Nat) : State := world [BitVec.ofNat 32 o, 0xFFFFFFFF#32, 3#32, 4#32, 0#32, 0#32, 0#32, 0#32]

theorem meets_ScratchpadWords : (spad 0).n.spadBytes = 65536 ∧ CanIssue (.ldsW 4 0 false 0) (spad 65532) ∧
    ((spadLoad (.ldsW 4 0 false 0) (spad 65532)).any fun x => x.2.1.toNat % x.2.2.1 == 0 && ((spad 0).n.spadRun x.2.1 x.2.2.1).isSome) = true ∧
    ((spad 65532).f.acc.any Access.spad) = false ∧ ¬((spad 0).g.role 0 = .matrix ∧ (spad 0).g.mmaBefore (spad 0).g.mnext = true) ∧
    CanIssue (.stsW 4 0 false 0) (spad 65532) ∧
    ((spadStoreOf (.stsW 4 0 false 0) (spad 65532)).any fun x => x.2.1.toNat % x.2.2 == 0 && ((spad 0).n.spadRun x.2.1 x.2.2).isSome) = true ∧
    CanIssue (.strW 0 2 0) (spad 65532) ∧
    ((spadAccess (.strW 0 2 0) (spad 65532)).any fun x => x.2.1.toNat % x.2.2.1 == 0 && ((spad 0).n.spadRun x.2.1 x.2.2.1).isSome &&
      !x.2.2.2) = true ∧
    CanIssue (.ldf 4 0 false 0) (spad 65520) ∧
    ((spadAccess (.ldf 4 0 false 0) (spad 65520)).any fun x => x.2.1.toNat % x.2.2.1 == 0 && ((spad 0).n.spadRun x.2.1 x.2.2.1).isSome &&
      x.2.2.2 && !x.2.1.getLsbD 31) = true ∧
    CanIssue (.ldsW 4 0 false 0) (spad 65533) ∧ ((spadLoad (.ldsW 4 0 false 0) (spad 65533)).any fun x => x.2.1.toNat % x.2.2.1 != 0) = true ∧
    CanIssue (.ldsW 4 0 false 0) (spad 65536) ∧
    ((spadLoad (.ldsW 4 0 false 0) (spad 65536)).any fun x => x.2.1.toNat % x.2.2.1 == 0 && ((spad 0).n.spadRun x.2.1 x.2.2.1).isNone) = true :=
  ⟨by decide, ok (by decide), by decide, by decide, by decide, ok (by decide), by decide, ok (by decide), by decide, ok (by decide),
    by decide, ok (by decide), by decide, ok (by decide), by decide⟩

/-- An ordered access of the scratchpad, a release fence and an `mma` that hold a store back; a granule with bit 31 of its
offset set. -/
theorem meets_ScratchpadWords_held :
    (let s := { spad 0 with f := { (spad 0).f with acc := [{ newAccess .str 0#64 0 4 .none [] with spad := true }] } }
     CanIssue (.stsW 4 0 false 0) s ∧ s.f.acc.any Access.spad = true) ∧
    (let s := { spad 0 with f := { (spad 0).f with acc := [newAccess (.fence true false false) 0#64 0 0 .none []] } }
     CanIssue (.stsW 4 0 false 0) s ∧ s.f.releasing = true) ∧
    (let s := { spad 0 with g := { (spad 0).g with roles := [.matrix], mnext := 1, matq := [⟨0, 0#32, 1, false, .mma 0 0 false 0 0 [0]⟩] } }
     CanIssue (.stsW 4 0 false 0) s ∧ s.g.role s.f.stg = .matrix ∧ s.g.mmaBefore s.g.mnext = true) ∧
    (spad 0).f.releasing = false ∧
    (let s := world [0x80000000#32, 0xFFFFFFFF#32, 3#32, 4#32, 0#32, 0#32, 0#32, 0#32]
     CanIssue (.ldf 4 0 false 0) s ∧ ((spadAccess (.ldf 4 0 false 0) s).any fun x => x.2.1.toNat % x.2.2.1 == 0 && x.2.2.2 && x.2.1.getLsbD 31) = true) :=
  ⟨⟨ok (by decide), by decide⟩, ⟨ok (by decide), by decide⟩, ⟨ok (by decide), by decide, by decide⟩, by decide, ⟨ok (by decide), by decide⟩⟩

/-- A load and a store of 16 bytes at the end of the region, free and held. -/
theorem meets_ScratchpadWords_halves : CanIssue (.ldsQ 4 0 false 0) (spad 65520) ∧ CanIssue (.stsQ 4 0 false 0) (spad 65520) ∧
    (∀ i ∈ [Instr.ldsQ 4 0 false 0, .stsQ 4 0 false 0], (spadHalves i (spad 65520)).any (fun x => x.2.toNat % 16 == 0 &&
      ((spad 65520).n.spadRun x.2 16).isSome) = true) ∧
    (let s := { spad 65520 with f := { (spad 65520).f with acc := [{ newAccess .str 0#64 0 4 .none [] with spad := true }] } }
     CanIssue (.ldsQ 4 0 false 0) s ∧ (spadHalves (.ldsQ 4 0 false 0) s).isSome = true ∧ s.f.acc.any Access.spad = true) :=
  ⟨ok (by decide), ok (by decide), by decide, ⟨ok (by decide), by decide⟩⟩

/-- A length of 32, of 0, and a range outside the node's. -/
theorem meets_OrderingWords : CanIssue (.fenceRel 5 false) w0 ∧ (orderAccess (.fenceRel 5 false) w0).isSome = true ∧
    CanIssue (.wbr 0 7 2) w0 ∧ (orderAccess (.wbr 0 7 2) w0).isSome = true ∧ CanIssue (.invr 0 1 2) w0 ∧ (w0.r.w 1).toNat = 0 ∧
    CanIssue (.wbr 0 7 2) (at_ 0x200000) ∧ ((at_ 0x200000).r.w 7).toNat ≠ 0 ∧
    (match (at_ 0x200000).xlat (at_ 0x200000).n 0x200000 32 .load with | .bad _ _ => true | .ok _ _ => false) = true ∧
    CanIssue (.pref 0 7 1) w0 ∧ (w0.r.w 7).toNat ≠ 0 ∧ (1#3 : BitVec 3).toNat < 2 ∧ CanIssue (.pref 0 7 2) w0 ∧ 2 ≤ (2#3 : BitVec 3).toNat :=
  ⟨ok (by decide), by decide, ok (by decide), by decide, ok (by decide), by decide, ok (by decide), by decide, by decide, ok (by decide),
    by decide, by decide, ok (by decide), by decide⟩

/-- A state whose first page is being migrated, and one whose first page is absent. -/
def busyPages (s : State) : State := { s with mem := s.mem.writeBytes 0x200000 (leBytes 8 4) }
def noPage (s : State) : State := { s with mem := s.mem.writeBytes 0x200000 (leBytes 8 0) }

/-- A word of the fibre has met a busy walk of `va` eight times. -/
def tired (s : State) (va : Nat) : State := { s with tries := [(.word placedId va, 8)] }

/-- A deterministic node that holds `n` REDs. -/
def detAt (a n : Nat) : State :=
  let s := at_ a
  { s with
    n := { s.n with spec := { s.n.spec with det := true } }
    g := { s.g with held := List.replicate n ⟨0, 0, 0, 0, 0, [], none, false, 0, 0⟩ } }
def det (n : Nat) : State := detAt 0x2000 n

/-- A full buffer, and a spill area of two entries at `rsb`; the buffer's entries are the node's own, or another's. -/
def spilling (rsb : Nat) (own : Bool) : State :=
  let s := det (if own then 8192 else 0)
  { s with
    n := { s.n with spec := { s.n.spec with rsb := rsb, rsn := 2 } }
    gangs := if own then [] else [{ Gang.fresh 2 0 [.vector] with held := (det 8192).g.held }] }

/-- What the walk of an IA finds. -/
def met (s : State) (ia size : Nat) (need : Need) : Option (Nat × Nat × Nat) := (s.walkRun ia size need).1

theorem meets_HeldReds : CanIssue (.redAdd 0 2 0) (det 0) ∧ (det 0).n.spec.det = true ∧
    ((redOf (.redAdd 0 2 0) (det 0)).any fun x => x.2.1.toNat % x.2.2.1 == 0) = true ∧
    CanIssue (.redAdd 2 0 0) (det 0) ∧ ((redOf (.redAdd 2 0 0) (det 0)).any fun x => x.2.1.toNat % x.2.2.1 != 0) = true ∧
    CanIssue (.redAdd 0 2 0) (detAt 0x200000 0) ∧
    (match (detAt 0x200000 0).xlat (det 0).n 0x200000 4 .both with | .ok _ _ => false | .bad _ _ => true) = true ∧
    (match (det 0).xlat (det 0).n 0x2000 4 .both with | .ok ia _ => ia == 0x2000 | .bad _ _ => false) = true ∧
    met (det 0) 0x2000 4 .both = none ∧ (det 0).holdCount 0 < 8192 ∧
    CanIssue (.redAdd 0 2 0) (busyPages (det 0)) ∧ met (busyPages (det 0)) 0x2000 4 .both = some (0, 0, 0x2000) ∧
    (busyPages (det 0)).spent (.word placedId 0x2000) = false ∧
    CanIssue (.redAdd 0 2 0) (noPage (det 0)) ∧ met (noPage (det 0)) 0x2000 4 .both = some (0x40, 0, 0x2000) ∧
    CanIssue (.redAdd 0 2 0) (det 8192) ∧ (det 8192).holdCount 0 = 8192 ∧ (det 8192).n.spec.rsn = 0 :=
  ⟨ok (by decide), by decide, by decide, ok (by decide), by decide, ok (by decide), by decide, by decide, by decide, by decide,
    ok (by decide), by decide, by decide, ok (by decide), by decide, ok (by decide), by decide, by decide⟩

theorem meets_HeldReds_spill : CanIssue (.redAdd 0 2 0) (spilling 0x8000 true) ∧ (spilling 0x8000 true).holdCount 0 = 8192 ∧
    (spilling 0x8000 true).spillCount 1 0 < 2 ∧
    (match (spilling 0x8000 true).ownXlat (spilling 0x8000 true).n 0x8000 16 .both with | .ok ia _ => ia == 0x8000 | .bad _ _ => false) = true ∧
    met (spilling 0x8000 true) 0x8000 16 .both = none ∧ (det 2).oldestHeld 1 0 = some (0, 0) ∧
    CanIssue (.redAdd 0 2 0) (spilling 0x8000 false) ∧ (spilling 0x8000 false).holdCount 0 = 8192 ∧
    (spilling 0x8000 false).oldestHeld 1 0 = none ∧
    (match (spilling 0x200000 false).ownXlat (spilling 0 false).n 0x200000 16 .both with | .ok _ _ => false | .bad _ _ => true) = true :=
  ⟨ok (by decide), by decide, by decide, by decide, by decide, by decide, ok (by decide), by decide, by decide, by decide⟩

/-- A mask that names the fibre, and one that does not. -/
theorem meets_Collectives : CanIssue (.ballot 4 0 6) w0 ∧ (collective (.ballot 4 0 6) w0).isSome = true ∧ (w0.r.w 6).getLsbD w0.f.id.fid = true ∧
    CanIssue (.ballot 4 0 0) w0 ∧ (w0.r.w 0).getLsbD w0.f.id.fid = false ∧
    CanIssue (.reduxYadd 2 0 6) wy ∧ (wy.r.w 6).getLsbD wy.f.id.fid = true ∧ (wy.r.y 0).valid wy.r.lw = true ∧ prcL wy.r.prc ≤ wy.r.lw ∧
    clear (wy.reduxDone 2 0 6) wy = true ∧ CanIssue (.reduxYadd 2 0 0) wy ∧ (wy.r.w 0).getLsbD wy.f.id.fid = false ∧
    CanIssue (.reduxYadd 2 0 6) yBad ∧ (yBad.r.y 0).valid yBad.r.lw = false ∧
    CanIssue (.reduxYadd 2 0 6) yShort ∧ yShort.r.lw < prcL yShort.r.prc ∧
    CanIssue (.reduxYadd 2 0 6) ySnan ∧ (ySnan.r.y 0).valid 24 = true ∧ enabled ySnan.r.prc (ySnan.reduxDone 2 0 6).flags = true :=
  ⟨ok (by decide), by decide, by decide, ok (by decide), by decide, ok (by decide), by decide, by decide, by decide, by decide,
    ok (by decide), by decide, ok (by decide), by decide, ok (by decide), by decide, ok (by decide), by decide, by decide⟩

/-! ### Premises met: objects, engines, tasks -/

/-- A run of an object instruction. -/
def runOn (xfn : Nat) (va : Nat) (p : ObjPhase) : ObjRun := {
  xfn := xfn, va := BitVec.ofNat 64 va, operand := 0#32, ticket := 0, steps := 1, phase := p, result := 0#32, bound := none
  pos := 2, low := 0#32, high := 0#32, grp := 0, scope := 2, fence := none, mid := .idle, lines := [], halted := false }

/-- The address register of an object, a run under way. -/
def objAt (a : Nat) (r : Option ObjRun) : State :=
  let s := at_ a
  { s with f := { s.f with obj := r } }

/-- A node that sees the window of peer 5 at 2 GiB. -/
def seesPeer (s : State) : State :=
  { s with n := { s.n with spec := { s.n.spec with
      ranges := ⟨true, true, true, false, 0x80000000, 0x8FFFFFFF, 2 ^ 51 + 5 * 2 ^ 31 - 2 ^ 31⟩ :: s.n.spec.ranges } } }
def peer : State := seesPeer (at_ 0x80000000)

theorem meets_ObjectWords :
    CanIssue (.objPush 2 0 4) (objAt 0x2000 (some (runOn 1 0x2000 (.complete 5)))).asIssued ∧
    CanIssue (.objPush 2 0 4) (objAt 0x2000 (some (runOn 1 0x2000 .apply))).asIssued ∧
    CanIssue (.objPush 2 0 4) (objAt 0x2020 none) ∧ (0x2020#64 : DWord).toNat % 64 ≠ 0 ∧ CanIssue (.objPush 2 0 4) (objAt 0x2000 none) ∧
    (objAt 0x2000 none).objPeer ((objAt 0x2000 none).r.d 0) = false ∧ (objAt 0x2000 none).f.obj = none ∧
    CanIssue (.objPush 2 0 4) peer ∧ peer.objPeer (peer.r.d 0) = true ∧
    (objForm (.objHelp 2 0 0)).isSome = true ∧ CanIssue (.objHelp 2 0 0) w0 ∧ w0.r.w 2 ≠ 0#32 :=
  ⟨ok (by decide), ok (by decide), ok (by decide), by decide, ok (by decide), by decide, by decide, ok (by decide), by decide, by decide,
    ok (by decide), by decide⟩

/-- w[4] a header; the run of an `obj.init` after `steps` pieces. -/
def hdr (a : Nat) (w : Word) (steps : Option Nat) : State :=
  let s := world [BitVec.ofNat 32 a, 0#32, 0#32, 0#32, w, 0#32, 0#32, 0#32]
  { s with f := { s.f with obj := steps.map fun n => { runOn 0 a .announce with steps := n } } }

/-- The release that the run waits for is under way. -/
def releasing (s : State) : State := { s with f := { s.f with
  obj := s.f.obj.map fun r => { r with fence := some 0 }, acc := [newAccess (.fence true false false) 0#64 0 0 .none []] } }

/-- The header of `obj.init`: a counter at scope 2, and one of no kind; the object misaligned, in a peer's window, on an absent
page; nothing at work, its release under way, its last piece to be written, and all of them written. -/
theorem meets_ObjectWords_init : CanIssue (.objInit 2 0 4) (hdr 0x2020 0x23#32 none) ∧ CanIssue (.objInit 2 0 4) (hdr 0x2000 0x25#32 none) ∧
    (0x23#32 : Word).extractLsb' 0 4 = 3#4 ∧ (0x23#32 : Word).extractLsb' 4 3 = 2#3 ∧ (0x23#32 : Word).extractLsb' 7 9 = 0#9 ∧
    (0x23#32 : Word).extractLsb' 16 16 = 0#16 ∧
    CanIssue (.objInit 2 0 4) (seesPeer (world [0x80000000#32, 0#32, 0#32, 0#32, 0x23#32])) ∧
    (hdr 0x2000 0x23#32 none).objPeer 0x2000#64 = false ∧ (hdr 0x2000 0x23#32 none).initStop 0x2000 = none ∧
    CanIssue (.objInit 2 0 4) (hdr 0x2000 0x23#32 none) ∧ CanIssue (.objInit 2 0 4) (noPage (hdr 0x2000 0x23#32 none)) ∧
    (noPage (hdr 0x2000 0x23#32 none)).initStop 0x2000 = some (0x40, 0, 0x2000, 0x2000) ∧
    CanIssue (.objInit 2 0 4) (releasing (hdr 0x2000 0x23#32 (some 0))) ∧
    ((releasing (hdr 0x2000 0x23#32 (some 0))).f.acc.any fun e => some e.ser == some 0) = true ∧
    CanIssue (.objInit 2 0 4) (hdr 0x2000 0x23#32 (some 19)) ∧
    ((hdr 0x2000 0x23#32 (some 19)).site? placedId).any (fun y =>
      match ((hdr 0x2000 0x23#32 (some 19)).touch y ((hdr 0x2000 0x23#32 (some 19)).xlat y.node (0x2000 + 16 * 19) 16 .store)
        (0x2000 + 16 * 19) 16 .store).1 with | .ok _ _ => true | _ => false) = true ∧
    CanIssue (.objInit 2 0 4) (hdr 0x2000 0x23#32 (some 20)) :=
  ⟨ok (by decide), ok (by decide), by decide, by decide, by decide, by decide, ok (by decide), by decide, by decide, ok (by decide),
    ok (by decide), by decide, ok (by decide), by decide, ok (by decide), by decide, ok (by decide)⟩

/-- cpb of `len` bytes to offset `off` from w[0], its tag's counter at `bt`. -/
def cpb (a len off bt : Nat) : State := regs (world [BitVec.ofNat 32 a, 0#32, BitVec.ofNat 32 len, 0#32, BitVec.ofNat 32 off]) fun r =>
  { r with bt := [bt, 0, 0, 0] }

/-- 33 bytes, an odd offset, the offset past the region, 32 bytes at its end, 0 bytes, an address refused, a counter at 63. -/
theorem meets_FibreCopies : CanIssue (.cpb 2 0 4 0) (cpb 0x2000 33 0 0) ∧ CanIssue (.cpb 2 0 4 0) (cpb 0x2000 32 16 0) ∧
    CanIssue (.cpb 2 0 4 0) (cpb 0x2000 32 65536 0) ∧ (cpb 0x2000 32 65536 0).n.spadBytes < 65536 + 32 ∧
    CanIssue (.cpb 2 0 4 0) (cpb 0x2000 32 65504 62) ∧ 65504 + 32 ≤ (cpb 0 0 0 0).n.spadBytes ∧ CanIssue (.cpb 2 0 4 0) (cpb 0x2000 0 0 63) ∧
    (match (cpb 0x2000 32 0 0).xlat (cpb 0x2000 32 0 0).n 0x2000 32 .load with | .ok _ _ => true | .bad _ _ => false) = true ∧
    CanIssue (.cpb 2 0 4 0) (cpb 0x200000 32 0 0) ∧
    (match (cpb 0 0 0 0).xlat (cpb 0 0 0 0).n 0x200000 32 .load with | .ok _ _ => false | .bad _ _ => true) = true ∧
    CanIssue (.cpw 0) (cpb 0 0 0 0) ∧ CanIssue (.cpw 0) (cpb 0 0 0 1) ∧ CanIssue (.cpwLe 2 0) (cpb 0 1 0 1) ∧ CanIssue (.cpwLe 2 0) (cpb 0 0 0 1) :=
  ⟨ok (by decide), ok (by decide), ok (by decide), by decide, ok (by decide), by decide, ok (by decide), by decide, ok (by decide), by decide,
    ok (by decide), ok (by decide), ok (by decide), ok (by decide)⟩

/-- A copy operation that has not started. -/
def copyOp (seq form : Nat) (block : List Word) : CopyOp := {
  seq := seq, form := form, block := block, crew := 0, started := false, paged := false, stale := false, cbt := [], row := 0
  known := [], homes := [], attempt := 0, phase := .begin }

/-- A crew of one fibre in a stage of role `role`, with these cells, whose context 0 has `n` operations. -/
def engine (role : Role) (cells : List Word) (n : Nat) : State :=
  let s := world cells
  { s with
    n := { s.n with spec := { s.n.spec with roles := [role] } }
    g := { s.g with
      roles := [role], ctxs := ⟨n + 1, 1, 0x101#32, [], List.replicate n (copyOp 0 0 [])⟩ :: List.replicate 7 CopyCtx.fresh } }

/-- A block of one row of 16 bytes at `so`. -/
def block (so : Nat) (fmt : Nat) : List Word :=
  [0x2000#32, 0#32, BitVec.ofNat 32 so, 0x100001#32, 0#32, BitVec.ofNat 32 (16 * 65536 + fmt), 0#32, 0#32]

theorem meets_CopyWords : copyForm (.cptG2s 0 0 0) = some (0, 0, 0, 0) ∧
    CanIssue (.cptG2s 0 0 0) (engine .copy (block 0 0) 31) ∧ (engine .copy (block 0 0) 31).engineReady = true ∧
    (Block.of ((engine .copy (block 0 0) 31).lead.regs.run 0 8)).check 0 (engine .copy (block 0 0) 31).n.spadBytes = none ∧
    ((engine .copy (block 0 0) 31).g.ctxAt 0).ops.length < 32 ∧ CanIssue (.cptG2s 0 0 0) (engine .copy (block 0 0) 32) ∧
    32 ≤ ((engine .copy (block 0 0) 32).g.ctxAt 0).ops.length ∧
    (Block.of (block 0 8)).check 0 65536 = some (0x02, 0) ∧ (Block.of (block 8 0)).check 0 65536 = some (0x03, 8) ∧
    (Block.of (block 65536 0)).check 0 65536 = some (0x10, 65536) ∧ CanIssue (.cptG2s 0 0 0) (engine .copy (block 65536 0) 0) :=
  ⟨rfl, ok (by decide), by decide, by decide, by decide, ok (by decide), by decide, by decide, by decide, by decide, ok (by decide)⟩

/-- Numbers beyond what was issued, completed, and neither. -/
theorem meets_TimelineWords : CanIssue (.twait 0 0) (engine .copy [33#32, 0#32, 1#32, 0#32, 2#32, 0#32, 0#32, 0#32] 31) ∧
    (let s := engine .copy [33#32, 0#32, 1#32, 0#32, 2#32, 0#32, 0#32, 0#32] 31
     s.engineReady = true ∧ (s.g.ctxAt 0).issued < (s.lead.regs.d 0).toNat ∧ (s.lead.regs.d 2).toNat ≤ (s.g.ctxAt 0).completed ∧
      (s.g.ctxAt 0).completed < (s.lead.regs.d 4).toNat ∧ (s.lead.regs.d 4).toNat ≤ (s.g.ctxAt 0).issued ∧
      CanIssue (.twait 2 0) s ∧ CanIssue (.twait 4 0) s ∧ CanIssue (.tread 0 0) s ∧ CanIssue (.tissued 0 0) s ∧ CanIssue (.tstat 0 0) s) :=
  ⟨ok (by decide), by decide, by decide, by decide, by decide, by decide, ok (by decide), ok (by decide), ok (by decide), ok (by decide),
    ok (by decide)⟩

/-- A grant of 16 x 16 x 16 with 16 tiles, and `n` words in the queue. -/
def matrix (cells : List Word) (n : Nat) : State :=
  let s := engine .matrix cells 0
  { s with g := { s.g with
    shp := shpOf [16#32, 16#32, 16#32, 0#32] 16 16 16 16, tiles := List.replicate 16 (Tile.fresh 256)
    matq := List.replicate n ⟨0, 0#32, 1, false, .setprom⟩ } }

theorem meets_MatrixWords : (matrix [] 0).engineReady = true ∧
    CanIssue (.mmaBf16 15 0 2 false 0) (matrix [0#32, 0#32, 128#32] 31) ∧
    (matrixWord (.mmaBf16 15 0 2 false 0) (matrix [0#32, 0#32, 128#32] 31)).isSome = true ∧
    matrixStop (.mmaBf16 15 0 2 false 0) (matrix [0#32, 0#32, 128#32] 31) = none ∧ (matrix [] 31).g.matq.length < 32 ∧
    32 ≤ (matrix [] 32).g.matq.length ∧ CanIssue (.accZero 0) (matrix [] 32) ∧ matrixStop (.accZero 0) (matrix [] 32) = none ∧
    CanIssue (.mmaBf16 15 0 2 false 0) (matrix [0#32, 0#32, 64#32] 0) ∧
    matrixStop (.mmaBf16 15 0 2 false 0) (matrix [0#32, 0#32, 64#32] 0) = some (0x03, 64#32) ∧
    CanIssue (.shape 4 0) (matrix [16#32, 16#32, 16#32, 0#32] 0) ∧
    grantOf [16#32, 16#32, 16#32, 0#32] (matrix [] 0).freeAcc = some (16, 16, 16, 16) ∧ grantOf [17#32, 16#32, 16#32, 0#32] 65536 = none ∧
    CanIssue (.accSetprom 0 2) (matrix [64#32, 0#32, 1#32] 0) ∧ shpT (matrix [64#32, 0#32, 1#32] 0).g.shp ≠ 0 ∧
    CanIssue (.accSetprom 0 2) (matrix [65#32, 0#32, 1#32] 0) ∧
    CanIssue (.accSetprom 0 2) (engine .matrix [64#32, 0#32, 1#32] 0) ∧ shpT (engine .matrix [64#32, 0#32, 1#32] 0).g.shp = 0 :=
  ⟨by decide, ok (by decide), by decide, by decide, by decide, by decide, ok (by decide), by decide, ok (by decide), by decide,
    ok (by decide), by decide, by decide, ok (by decide), by decide, ok (by decide), ok (by decide), by decide⟩

/-! ### Premises met: tasks and arenas -/

/-- The state of a task word's release. -/
def rel (s : State) (r : Option (Nat × Option Bool)) : State := { s with f := { s.f with rel := r } }

/-- w0 with `k` entries of its node in the core's queue, its ring holding `used` of `size` entries. -/
def ring (k used size : Nat) : State := { w0 with
  c := { w0.c with queue := List.replicate k ⟨1, List.replicate 8 0#32⟩ }
  n := { w0.n with
    spec := { w0.n.spec with tqb := 0x8000, tqn := size }
    rings := [⟨0, 0, used⟩] } }

/-- The node's counter at `n`, waiting for its dependences. -/
def counting (n : Nat) : State := { w0 with n := { w0.n with counter := n, state := .waiting } }

/-- The four states of a release; a handle that names no node, and the node's own at each kind of counter; a ring of which the
page is being migrated. -/
theorem meets_TaskWords : CanIssue (.taskNself 0) w0 ∧ CanIssue (.taskEnq 0) w0 ∧ (taskAction (.taskEnq 0) w0).isSome = true ∧
    (taskAction (.taskTsig 0) w0).isSome = true ∧ (taskAction (.taskTdep 0 2) w0).isSome = true ∧ w0.f.rel = none ∧
    CanIssue (.taskEnq 0) (rel w0 (some (0, none))) ∧ CanIssue (.taskTsig 0) (rel w0 (some (0, some false))) ∧
    CanIssue (.taskTdep 0 2) (rel w0 (some (0, some true))) ∧ CanIssue (.taskEnq 0) (rel (busyPages (ring 32 31 32)) (some (0, some false))) ∧
    (rel (busyPages (ring 32 31 32)) (some (0, some false))).ringBusy = true ∧ (busyPages (ring 32 31 32)).spent (.word placedId ((ring 32 31 32).n.ringVa 0 31)) = false ∧
    w0.f.life = .live ∧ w0.current 0#64 = none ∧ (w0.current 1#64).any (fun n => n.counter == 0) = true ∧
    ((counting 2).current 1#64).any (fun n => n.counter == 2) = true ∧
    ((counting 1).current 1#64).any (fun n => n.counter == 1 && n.state == .waiting && n.failing.isNone) = true :=
  ⟨ok (by decide), ok (by decide), by decide, by decide, by decide, by decide, ok (by decide), ok (by decide), ok (by decide),
    ok (by decide), by decide, by decide, by decide, by decide, by decide, by decide, by decide⟩

/-- The last place of the core's queue; a full queue over a ring with its last place free, over a full ring, and over a ring
that the node cannot reach. -/
theorem meets_TaskWords_enqueue : ((ring 31 0 32).n.ring 0).rt = ((ring 31 0 32).n.ring 0).rh ∧ (ring 31 0 32).c.queue.length = 31 ∧
    (ring 32 31 32).c.queue.length = 32 ∧ ((ring 32 31 32).n.ring 0).used = 31 ∧
    (match (ring 32 31 32).ownXlat (ring 32 31 32).n ((ring 32 31 32).n.ringVa 0 31) 32 .both with
     | .ok ia _ => (met (ring 32 31 32) ia 32 .both).isNone
     | .bad _ _ => false) = true ∧
    ((ring 32 32 32).n.ring 0).used = (ring 32 32 32).n.spec.tqn ∧
    (let s := ring 32 31 32
     match s.ownXlat { s.n with spec := { s.n.spec with tqb := 0x200000 } } 0x200000 32 .both with | .ok _ _ => false | .bad _ _ => true) = true := by
  decide

/-- `task.deq` finds an entry on its own core; one in its own ring; one on core 1, or in its ring; and nothing at all. -/
theorem meets_TaskWords_dequeue : CanIssue (.taskDeq 0) (ring 1 0 32) ∧
    (((ring 1 0 32).core 0).queue.find? fun e => e.nid = 1).isSome = true ∧
    ((ring 0 1 32).core 0).queue = [] ∧ ((ring 0 1 32).n.ring 0).used = 1 ∧
    (let s := { ring 0 0 32 with cores := [{ Core.blank 1 with queue := [⟨1, List.replicate 8 0#32⟩] }] }
     (s.core 0).queue = [] ∧ (s.n.ring 0).used = 0 ∧ 1 < s.coreMap.length ∧ ((s.core 1).queue.find? fun e => e.nid = 1).isSome = true) ∧
    (let s := { ring 0 0 32 with n := { w0.n with rings := [⟨1, 0, 1⟩] } }
     (s.n.ring 0).used = 0 ∧ (s.core 1).queue = [] ∧ (s.n.ring 1).used = 1) ∧
    (let s := { ring 0 0 32 with coreMap := [0] }
     (s.core 0).queue = [] ∧ (s.n.ring 0).used = 0 ∧ s.coreMap.length = 1) :=
  ⟨ok (by decide), by decide, by decide, by decide, by decide, by decide, by decide⟩

/-- A node spec for NID `nid`, its extension block at 0x3000, its image at 0x1000. -/
def specBytes (nid : Nat) : List Byte :=
  leBytes 8 0x1000 ++ leBytes 4 nid ++ leBytes 4 1 ++ leBytes 1 0 ++ leBytes 1 1 ++ leBytes 2 2 ++ leBytes 4 1 ++ leBytes 4 1 ++
    leBytes 2 522 ++ leBytes 2 4 ++ leBytes 2 64 ++ leBytes 2 100 ++ List.replicate 44 0#8 ++ leBytes 8 0x3000

/-- The range register of the node, a ring of 32 entries, and the image's header. -/
def launchMem (m : Memory) (addr nid : Nat) : Memory :=
  ((((m.writeBytes addr (specBytes nid)).writeBytes 0x3000 (leBytes 8 15)).writeBytes 0x3010 (leBytes 8 0x1FFFFF)).writeBytes 0x3148
    (leBytes 4 32)).writeBytes 0x1008 (leBytes 4 4 ++ List.replicate 8 0#8 ++ leBytes 1 1)

/-- A fibre whose d[0] names a spec for `nid` at 0x2000. -/
def maker (nid : Nat) : State := { w0 with mem := launchMem w0.mem 0x2000 nid }

/-- What the spec at 0x2000 is judged. -/
def judged (s : State) : Judged :=
  match s.readMaker 0x2000#64 with
  | .ok l => s.judge false false l
  | _ => .busy

/-- The image of the spec on a page that is being migrated. -/
def headless : State := { maker 0 with
  mem := (((maker 0).mem.writeBytes 0x2000 (leBytes 8 0x400000)).writeBytes 0x3010 (leBytes 8 0x5FFFFF)).writeBytes 0x200010 (leBytes 8 4) }

/-- No launch context free. -/
def crowd : State := { maker 0 with
  nodes := (List.range 1023).map fun k => { Node.none with spec := { Node.none.spec with nid := k + 2 }, state := .running, ctx := k + 1 } }

theorem meets_MakingNodes : CanIssue (.taskTnode 2 0) (at_ 0x2040) ∧ (0x2040#64 : DWord).toNat % 128 ≠ 0 ∧
    CanIssue (.taskTnode 2 0) (at_ 0x200000) ∧
    (match (at_ 0x200000).xlat (at_ 0x200000).n 0x200000 128 .load with | .ok _ _ => false | .bad _ _ => true) = true ∧
    CanIssue (.taskTnode 2 0) (maker 0) ∧ (maker 0).f.rel = none ∧ (match (maker 0).readHome 0x2000 128 .load with | .ok _ => true | _ => false) = true ∧
    (match (noPage (maker 0)).readHome 0x2000 128 .load, (busyPages (maker 0)).readHome 0x2000 128 .load with
     | .fail code _ _, .busy _ => code == 0x40
     | _, _ => false) = true ∧
    (match (maker 0).xlat (maker 0).n 0x2000 128 .load with | .ok _ _ => true | .bad _ _ => false) = true ∧
    CanIssue (.taskTnode 2 0) (rel (maker 0) (some (0, none))) ∧ CanIssue (.taskTnode 2 0) (rel (maker 0) (some (0, some true))) ∧
    CanIssue (.taskTnode 2 0) (rel (maker 0) (some (0, some false))) ∧
    judged (maker 0) = .accept 0x1040#64 ∧ judged (maker 1) = .refuse 8 ∧ (maker 0).freeLaunch.isSome = true ∧
    0 < (maker 0).nextNid ∧ (maker 0).nextNid < 2 ^ 32 ∧
    CanIssue (.taskTnode 2 0) (rel (noPage (maker 0)) (some (0, some false))) ∧
    (match (noPage (maker 0)).readMaker 0x2000#64 with | .bad _ _ _ _ _ => true | _ => false) = true ∧
    CanIssue (.taskTnode 2 0) (rel (busyPages (maker 0)) (some (0, some false))) ∧
    (match (busyPages (maker 0)).readMaker 0x2000#64 with | .busy _ _ _ => true | _ => false) = true ∧
    (busyPages (maker 0)).spent (.word placedId 0x2000) = false ∧
    CanIssue (.taskTnode 2 0) (tired (rel (busyPages (maker 0)) (some (0, some false))) 0x2000) ∧
    (tired (maker 0) 0x2000).spent (.word placedId 0x2000) = true ∧
    CanIssue (.taskTnode 2 0) (rel headless (some (0, some false))) ∧ judged headless = .busy ∧
    headless.spent (.word placedId 0x400000) = false :=
  ⟨ok (by decide), by decide, ok (by decide), by decide, ok (by decide), by decide, by decide, by decide, by decide, ok (by decide), ok (by decide), ok (by decide),
    by decide, by decide, by decide, by decide, by decide, ok (by decide), by decide, ok (by decide), by decide, by decide, ok (by decide),
    by decide, ok (by decide), by decide, by decide⟩

theorem meets_MakingNodes_full : judged crowd = .accept 0x1040#64 ∧ crowd.freeLaunch = none ∧
    judged { maker 0 with nextNid := 2 ^ 32 } = .accept 0x1040#64 := by
  refine ⟨by decide, ?_, by decide⟩
  unfold State.freeLaunch
  rw [List.find?_eq_none]
  intro c hc h
  rw [List.all_eq_true] at h
  have hc : c < 1024 := List.mem_range.1 hc
  cases c with
  | zero => exact absurd (h crowd.n (by simp [State.allNodes, crowd, maker, w0, world, State.placeWord, placedSpec])) (by decide)
  | succ k =>
    have := h { Node.none with spec := { Node.none.spec with nid := k + 2 }, state := .running, ctx := k + 1 } (by
      unfold State.allNodes
      rw [List.mem_filter]
      refine ⟨List.mem_cons_of_mem _ (List.mem_filter.2 ⟨List.mem_map.2 ⟨k, List.mem_range.2 (by omega), rfl⟩, ?_⟩), by simp⟩
      simp [crowd, maker, w0, world, State.placeWord, placedSpec])
    simp [Node.alive, Node.live] at this

/-- A control word for a condition `c` and cell 0; the record's address `a`. -/
def cont (a : Nat) (c : Word) (r : Option (Nat × Option Bool)) : State := rel (world [BitVec.ofNat 32 a, 0#32, c]) r

/-- A control word that breaks a rule; a named cell that is empty; a record misaligned, refused, on a home no path leads to, on a
busy page; and the four states of the release. -/
theorem meets_Continuations : CanIssue (.taskCont 0 2) (cont 0x2000 0x100#32 none) ∧ contBad 0x100#32 8 = true ∧
    CanIssue (.taskCont 0 2) (regs (cont 0x2000 8#32 none) fun r => r.setAt 3 0#32 false) ∧ contBad 8#32 8 = false ∧
    CanIssue (.taskCont 0 2) (cont 0x2008 1#32 none) ∧ contBad 1#32 8 = false ∧
    CanIssue (.taskCont 0 2) (cont 0x200000 1#32 none) ∧
    (match w0.xlat w0.n 0x200000 80 .both with | .ok _ _ => false | .bad _ _ => true) = true ∧
    CanIssue (.taskCont 0 2) (cont 0x2000 1#32 none) ∧
    ((List.range 16).any fun k => (1#32 : Word).getLsbD k && !((cont 0x2000 1#32 none).r.cell k).full) = false ∧
    (match (cont 0x2000 1#32 none).xlat w0.n 0x2000 80 .both with | .ok ia _ => ia == 0x2000 | .bad _ _ => false) = true ∧
    (cont 0x2000 1#32 none).reaches 0 0x2000 = true ∧ met (cont 0x2000 1#32 none) 0x2000 80 .both = none ∧
    ({ w0 with fabric := { w0.fabric with sublinks := List.replicate 24 .failed } } : State).reaches 0 0x2000 = false ∧
    CanIssue (.taskCont 0 2) (busyPages (cont 0x2000 1#32 none)) ∧ met (busyPages (cont 0x2000 1#32 none)) 0x2000 80 .both = some (0, 0, 0x2000) ∧
    CanIssue (.taskCont 0 2) (cont 0x2000 1#32 (some (0, none))) ∧ CanIssue (.taskCont 0 2) (cont 0x2000 1#32 (some (0, some true))) ∧
    CanIssue (.taskCont 0 2) (cont 0x2000 1#32 (some (0, some false))) :=
  ⟨ok (by decide), by decide, ok (by decide), by decide, ok (by decide), by decide, ok (by decide), by decide, ok (by decide), by decide,
    by decide, by decide, by decide, by decide, ok (by decide), by decide, ok (by decide), ok (by decide), ok (by decide)⟩

/-- A live arena of the node in slot 3, at index 15. -/
def arenas : State :=
  let s := world [15#32, 0#32, 16#32, 14#32, 0#32, 0xA5003000#32]
  { s with
    arenas := [(3, ⟨0#8, .live, 0, 0, 1, 65536, 0x100000, 0xFFFFFFFF, false⟩)]
    n := { s.n with arenas := List.replicate 15 none ++ [some 3] } }

theorem meets_ArenaWords : CanIssue (.arenaAptr 4 0) arenas ∧ (arenas.r.w 0).toNat ≤ 15 ∧ arenas.n.arenas.getD 15 none = some 3 ∧
    (arenas.arena 3).state = .live ∧ (arenas.arena 3).nid = arenas.n.spec.nid ∧ CanIssue (.arenaAptr 4 2) arenas ∧ 15 < (arenas.r.w 2).toNat ∧
    CanIssue (.arenaAptr 4 3) arenas ∧ arenas.n.arenas.getD 14 none = none ∧ CanIssue (.arenaAinfo 0 4) arenas ∧
    CanIssue (.arenaCheck 4 0) arenas ∧ (arenas.r.d 4).extractLsb' 56 8 = 0xA5#8 ∧ ((arenas.r.d 4).extractLsb' 44 12).toNat = 3 :=
  ⟨ok (by decide), by decide, by decide, by decide, by decide, ok (by decide), by decide, ok (by decide), by decide, ok (by decide),
    ok (by decide), by decide, by decide⟩

/-! ### Premises met: what happens to accesses and fibres -/

/-- w0 with values on their way. -/
def late (v : Deliv) : State := { w0 with f := { w0.f with dlv := [v] } }

/-- A value of each kind on its way, a converting load that resolves to a value, and one whose bytes no y value has. -/
theorem meets_LateValues : w0.off = false ∧ (w0.fibre? placedId).isSome = true ∧
    ((late { Deliv.blank with kind := .yop }).fibre? placedId).any (fun b => (b.dlv.find? fun u => u.ser == 0 && u.kind == .yop).isSome) = true ∧
    ((late { Deliv.blank with kind := .redux }).fibre? placedId).any (fun b => (b.dlv.find? fun u => u.ser == 0 && u.kind == .redux).isSome) = true ∧
    ((late { Deliv.blank with kind := .load }).fibre? placedId).any (fun b => (b.dlv.find? fun u => u.ser == 0 && u.kind == .load).isSome) = true ∧
    (let v : Deliv := { Deliv.blank with kind := .conv (.ldc 0), bytes := leBytes 4 0x3F800000, ckpt := some wy.r }
     ((late v).node? 1).isSome = true ∧ v.converting = true ∧ (late v).f.olderConv 0 (fun _ => true) = false ∧
      (match resolveConv wy.r (.ldc 0) 0#64 (leBytes 4 0x3F800000) 0 with | .value _ _ _ => true | .trap _ _ _ => false) = true) ∧
    (match resolveConv wy.r (.ldy 7) 0#64 (List.replicate 16 0xFF#8) 0 with | .value _ _ _ => false | .trap _ _ _ => true) = true ∧
    (w0.f.rewind 0 wy.r).flagsPending = false := by decide

/-- A value that comes while its chain has not committed, and one that comes after. -/
theorem meets_LateValues_early :
    (let s := late { Deliv.blank with kind := .load }
     let b := { s.f with early := some 0 }
     b.early.any (fun start => decide (start ≤ 0)) = true ∧ b.ahead 0 = true ∧ s.f.ahead 0 = false) := by decide

/-- An access of w0 under way at IA 0x2000. -/
def acc (op : AccOp) (st : Stage) (scope : Nat) : Access :=
  { newAccess op 0x2000#64 0x2000 4 .none (leBytes 4 7) with stage := st, scope := scope }

/-- One of 16 bytes of which `done` has performed. -/
def wide (op : AccOp) (done : Option Bool) : Access :=
  { acc op .issued 0 with size := 16, data := List.replicate (if op = .store then 16 else 8) 7#8, half := some done }

/-- w0 with it, and with these lines in the core's L1. -/
def underWay (a : Access) (l1 : List L1Line) : State := { w0 with f := { w0.f with acc := [a] }, c := { w0.c with l1 := l1 } }

/-- The line of 0x2000, whole and clean. -/
def line : L1Line := ⟨64, List.replicate 128 9#8, 0#128, true, 0, true, false, (0, 0)⟩

/-- The premises of an attempt that `p` completes. -/
def tries (a : Access) (l1 : List L1Line) (p : State → Site → Bool) : Bool :=
  let s := underWay a l1
  match s.site? placedId with
  | some x => x.fib.entry? 0 == some a && s.mayPerform x a && p s x
  | none => false

/-- The walk of the access succeeds. -/
def walks (w : Need) (s : State) : Bool := (met s 0x2000 4 w).isNone

/-- The premises of a load, an AMO or a RED that misses and performs in the L1. -/
def misses (w : Need) (s : State) (x : Site) : Bool :=
  let t := (s.walkRun 0x2000 4 w).2
  s.reaches x.core 0x2000 && !s.missWaits x.core 0x2000 4 && walks w s && !t.badRun 0x2000 4 && !(t.core x.core).errRun 0x2000 4 &&
    (t.readL1 x.core 0x2000 4 x.node.ctx true .load).1.isSome

/-- A load that hits and one that misses; the halves of one of 16 bytes; a store that walks, its halves, and one whose page is
absent; an RMW in the L1, that hits and that misses, one at home, and one that no path leads to; a walk tried again. -/
theorem meets_Attempts : tries (acc (.load false) .issued 0) [line] (fun s x => !(s.core x.core).errRun 0x2000 4 && (s.core x.core).holds 0x2000 4) = true ∧
    tries (acc (.load false) .issued 0) [] (fun s x => !(s.core x.core).errRun 0x2000 4 && !(s.core x.core).holds 0x2000 4 && misses .load s x) = true ∧
    tries (wide (.load false) none) [line] (fun s x => !(s.core x.core).errRun 0x2000 16 && (s.core x.core).holds 0x2000 16) = true ∧
    tries (wide (.load false) (some true)) [line] (fun s x => !(s.core x.core).errRun 0x2000 8 && (s.core x.core).holds 0x2000 8) = true ∧
    tries (acc .store (.busy 1 false) 0) [] (fun s _ => walks .store s) = true ∧
    tries (wide .store none) [] (fun s _ => walks .store s) = true ∧ tries (wide .store (some false)) [] (fun s _ => walks .store s) = true ∧
    tries { acc .store .issued 0 with ia := 0x200000 } [] (fun s _ => met s 0x200000 4 .store == some (0x40, 0, 0x200000)) = true ∧
    tries (acc (.amo 0 false) .issued 1) [] (fun s x => !s.atHome (acc (.amo 0 false) .issued 1) && misses .both s x) = true ∧
    tries (acc (.red 0) .issued 1) [line] (fun s x => !s.atHome (acc (.red 0) .issued 1) && (s.core x.core).holds 0x2000 4 && walks .both s) = true ∧
    tries (acc (.red 0) .issued 2) [] (fun s x => s.atHome (acc (.red 0) .issued 2) && s.reaches x.core 0x2000 && walks .both s) = true ∧
    (let s := { underWay (acc (.amo 0 true) .issued 5) [] with fabric := { w0.fabric with sublinks := List.replicate 24 .failed } }
     (s.site? placedId).any fun x => s.mayPerform x (acc (.amo 0 true) .issued 5) && s.atHome (acc (.amo 0 true) .issued 5) &&
      !s.reaches x.core 0x2000) = true := by decide

/-- A 16-byte access of the scratchpad, whole and after its first half; a plain store that waits there. -/
theorem meets_Attempts_spad :
    (∀ op ∈ [AccOp.load false, .store], ∀ done ∈ [none, some true],
      tries { wide op done with spad := true, va := 0x20#64 } [] (fun _ x => (x.node.spadRun 0x20#32 16).isSome) = true) ∧
    tries { acc .store .issued 0 with spad := true, va := 0x20#64 } [] (fun _ x => (x.node.spadRun 0x20#32 4).isSome) = true := by
  decide

/-- A message of core 0 on its way. -/
def sent (op : FlightOp) (bs : List (Option Byte)) : State :=
  { underWay (acc (.amo 0 false) .sent 2) [] with flight := [⟨0, op, 0x2000, bs⟩] }

/-- Every sublink in a state. -/
def linked (x : LinkState) (s : State) : State := { s with fabric := { s.fabric with sublinks := List.replicate 24 x } }

/-- A clean and a dirty line; what no path can carry; a write-back, an access and a marker with nothing before them, and a
marker on a path that retrains. -/
theorem meets_HomeArrivals :
    ((underWay (acc .store .issued 0) [line]).core 0).line? 64 = some line ∧ line.dm = 0#128 ∧
    ((underWay (acc .store .issued 0) [{ line with dm := 1#128 }]).core 0).line? 64 = some { line with dm := 1#128 } ∧
    (linked .failed (sent (.writeBack 0 (0, 0) true) [some 5#8])).reaches 0 0x2000 = false ∧
    (let s := sent (.writeBack 0 (0, 0) true) [some 5#8]
     s.reaches 0 0x2000 = true ∧ s.pathUp 0 0x2000 = true ∧ (match (s.walk 0x2000 .store).1 with | .frame pa => pa == 0x2000 | _ => false) = true) ∧
    (let s := sent (.access placedId 0 (.amo 0 false)) [some 0#8, some 0#8, some 0#8, some 0#8]
     (s.fibre? placedId).any (fun b => (b.entry? 0).isSome) = true ∧ walks .both s = true ∧ s.badRun 0x2000 4 = false ∧
      (({ s.triesDone (.arrival placedId 0) with flight := [] } : State).homeBytes 0x2000 4).1.isSome = true) ∧
    (let s := { sent (.marker placedId 0 [2]) [] with f := { w0.f with acc := [{ acc (.fence true true false) .sent 3 with size := 0 }] } }
     [2].any (s.retraining (s.dieOf 0)) = false ∧ (State.site? { s with flight := [] } placedId).any (fun x => (x.fib.entry? 0).isSome) = true ∧
      [2].any ((linked (.retraining 1) s).retraining (s.dieOf 0)) = true ∧ s.f.life = .live ∧
      (s.fibre? placedId).any (fun b => (b.entry? 0).all fun a => !a.orphan) = true) := by decide

/-- A line with a store of 16 bytes half performed in it. -/
theorem meets_HomeArrivals_half :
    (let s := underWay (wide .store (some true)) [{ line with dm := 0xFF00#128 }]
     ((s.core 0).line? 64).isSome = true ∧ (s.fibresOn 0).any (fun b => b.acc.any fun a => a.rest.isSome) = true ∧
      (((s.finishLine 0 64).core 0).line? 64).any (fun l => l.dm == 0xFFFF#128 && !l.err) = true) := by decide

/-- A crew suspended by a page fault. -/
def stopped : State := { w0 with g := { w0.g with crews := [⟨0, 0, 1#32, 0, 0, .suspended 0x40, .here⟩] } }

theorem meets_FaultAnswers :
    (((underWay (acc .store (.faulted 0x42 0 0x2000) 0) []).fibre? placedId).any fun b => (b.entry? 0).any fun a => a.stage == .faulted 0x42 0 0x2000) = true ∧
    (let s := underWay (acc .store (.faulted 0x40 0 0x2000) 0) []
     let runs := ((s.gang? 1 0).bind fun g => g.crew? 0).any fun c => c.state == .running
     (sortOn (fun i => i.id.fid) ((s.crewAll 1 0 0).foldl (Batch.fibre runs ((s.crewAll 1 0 0).filterMap Fibre.met)) ⟨s.stopRuns 1 0 0, [], []⟩).items).length = 1) ∧
    (let s := { w0 with faultq := ⟨0x2000, 4, 0, 3, [⟨0x40, 0, [], 1, 0, 0, 1#32, 0#64, 0#64, 0⟩]⟩ }
     s.faultq.size ≠ 0 ∧ s.faultq.tail - s.faultq.head < s.faultq.size ∧
      (s.homeWrite (s.faultq.base + 256 * (s.faultq.tail % s.faultq.size)) (FaultRec.bytes ⟨0x40, 0, [], 1, 0, 0, 1#32, 0#64, 0#64, 0⟩)).1 = true) ∧
    (stopped.gang? 1 0).any (fun g => (g.crew? 0).any fun c => c.state == .suspended 0x40) = true ∧
    (w0.node? 1).any (fun n => n.failing.isNone && n.live) = true := by decide

theorem meets_SchedulerSteps : w0.off = false ∧ (w0.part 0 0).sen ≠ 63 ∧
    (let s := { w0 with f := { w0.f with backoff := some 16 } }
     (s.fibre? placedId).any (fun b => b.backoff == some 16) = true) ∧
    (let s := regs w0 fun r => { r with ydl := 0#32 }
     let t := State.focus { s with issue := [placedId] } placedId
     (s.gang? 1 0).any (fun g => g.canRun 0) = true ∧ (s.fibre? placedId).isSome = true ∧ t.f.life = .live ∧ t.watchdogDue = true ∧
      ydlLeft s.r.ydl = 0 ∧ s.f.convPending = 0 ∧ (infoOf (.li 0 1)).level = none ∧ (infoOf (.li 0 1)).inWindow s.r = true ∧
      (infoOf (.li 0 1)).mustWait s.g s.f = false ∧ s.crewCheck [infoOf (.li 0 1)] = none ∧ (cellResult (.li 0 1) s).isSome = true) := by decide

/-- A senior fibre whose counter stands at 63, in a bundle of its partition. -/
def senior : State := { w0 with c := { w0.c with
  parts := ⟨1, 63⟩ :: List.replicate 15 ⟨0, 0⟩, bundles := [⟨0, 1, 0, 0, 0x1040#64, [placedId]⟩] } }

theorem meets_SchedulerSteps_senior : (senior.part 0 0).sen = 63 ∧
    ((senior.readyBundles 0 0).find? fun x => (senior.senior 0 0).any fun i => x.b.ids.contains i).isSome = true := by decide

/-! ### Premises met: gangs and nodes -/

/-- A node of three gangs, ready to place its first, with the pool split of `placedSpec`; `split` of the core. -/
def ready (det : Bool) (split : Option (Nat × Nat)) : State :=
  let s := w0
  { s with
    n := { s.n with spec := { s.n.spec with gangs := 3, det := det, mapC := 4 }, state := .runnable, placed := 0 }
    g := Gang.fresh 0 0 [], f := Fibre.none, c := { s.c with split := split }, coreMap := [0, 1, 2, 3] }

/-- The only core of `ready` holds a gang of another node, with its crew in a state. -/
def taken (st : CrewState) : State := { ready false (some (24, 8)) with
  coreMap := [0], gangs := [{ Gang.fresh 2 0 [.vector] with place := .resident 0, crews := [⟨0, 0, 1#32, 0, 0, st, .here⟩] }] }

/-- A gang that is due and finds a core, in each mode; one that finds none saves a suspended gang, or drains the core; a
spawned crew whose spawner has nothing, an access, or a copy outstanding; a gang that drains. -/
theorem meets_GangStarts :
    ((ready false none).dueGang (ready false none).n 0).any (fun g => ((ready false none).choose (ready false none).n g).isSome) = true ∧
    ((ready true none).dueGang (ready true none).n 0).any (fun g => (ready true none).choose (ready true none).n g == some 0) = true ∧
    (let s := taken (.suspended 0x40)
     (s.dueGang s.n 0).any (fun g => (s.choose s.n g).isNone && (s.suspendedInWay s.n g).any fun l => l.map Gang.nid == [2]) = true) ∧
    (let s := taken .running
     (s.dueGang s.n 0).any (fun g => (s.choose s.n g).isNone && (s.suspendedInWay s.n g).isNone && s.drainCore s.n g == some 0) = true) ∧
    (let s := { w0 with g := { w0.g with crews := [⟨0, 0, 1#32, 0, 0, .starting placedId 5, .here⟩] } }
     (s.gang? 1 0).any (fun g => (g.crew? 0).any fun c => c.state == .starting placedId 5) = true) ∧
    (let s := { w0 with g := { w0.g with place := .draining 0 } }
     (s.gang? 1 0).any (fun g => g.place == .draining 0) = true) := by decide

/-- A second node whose next gang waits for the core, which the first gang leaves by a swap. -/
def waited : State := { (regs w0 fun r => { r with ydl := ydlOf 100 0 16 }) with
  nodes := [{ w0.n with spec := { w0.n.spec with nid := 2 }, ctx := 1, placed := 0 }], coreMap := [0] }

/-- A gang on a core; one that a waiting gang replaces; one that leaves, for a swap and not; and one that is saved, with a
dirty line of its node on its old core and with none. -/
theorem meets_GangSaves : w0.off = false ∧ (w0.node? 1).isSome = true ∧
    (w0.gang? 1 0).any (fun g => g.place == .resident 0 && g.leaving == none && (g.crew? 0).any fun c => c.place != .away) = true ∧
    (let gone := (waited.setGang { waited.g with place := .saved 0 true }).freeSplit 0
     (((gone.waitingGangs 0 (1, 0)).find? fun x => gone.admits x.1 x.2 0 && gone.coolEnough x.1 0).any fun x => x.2.nid == 2) = true ∧
      ydlIdle waited.r.ydl = 16) ∧
    ({ w0 with g := { w0.g with leaving := some (some (2, 0)) } } : State).gang? 1 0 = some { w0.g with leaving := some (some (2, 0)) } ∧
    ({ w0 with g := { w0.g with leaving := some none } } : State).gang? 1 0 = some { w0.g with leaving := some none } ∧
    (let s := { w0 with g := { w0.g with place := .saved 1 true } }
     (s.gang? 1 0).any (fun g => g.place == .saved 1 true && g.waits && s.firstOf s.n none 0 && (s.choose s.n g).any fun d => d != 1) = true ∧
      s.n.places = true ∧ ((s.core 1).l1.any fun l => l.dm != 0#128 && l.ctx == s.n.ctx) = false ∧ s.flight = [] ∧
      (({ s with cores := [{ Core.blank 1 with l1 := [{ line with dm := 1#128 }] }] } : State).core 1).l1.any
        (fun l => l.dm != 0#128 && l.ctx == s.n.ctx) = true) := by decide

/-- The page of the liveness table busy, and readable. -/
theorem meets_GangSaves_busy : ((busyPages w0).liveAt w0.n w0.f.regs.pc).busy = true ∧ (w0.liveAt w0.n w0.f.regs.pc).busy = false ∧
    w0.gangFibres 1 0 ≠ [] := by decide

/-- A launch queue of four entries whose first names a spec for `nid`. -/
def queued (nid : Nat) : State :=
  { w0 with mem := launchMem w0.mem 0x4000 nid, queues := ⟨0x4000, 4, 0, 1⟩ :: List.replicate 7 ⟨0, 0, 0, 0⟩ }

/-- What queue 0's entry is judged. -/
def served (s : State) : Judged :=
  match readLaunch (fun a size => (s.readIa a size).orSpent (s.spent (.launch 0 a))) true 0x4000 with
  | .ok l => s.judge true (s.spent (.launch 0 (headerKey (num l.sp 0 8)))) l
  | _ => .busy

/-- A spec that is accepted and one that is refused at the offset of its NID; a manifest; a signal to a node whose counter is
0, and to one that waits for it alone; a ring entry for the last place of the queue. -/
theorem meets_NodeSteps : served (queued 7) = .accept 0x1040#64 ∧ served (queued 0) = .refuse 8 ∧ (queued 7).freeLaunch.isSome = true ∧
    ((queued 7).queue 0).head ≠ ((queued 7).queue 0).tail ∧
    (match (queued 7).readIa 0x4000 128, (queued 7).readIa 0x2000 608 with | .ok _, .ok _ => true | _, _ => false) = true ∧
    (({ counting 1 with signals := [⟨1⟩] } : State).node? 1).any (fun n => n.counter == 1 && n.state == .waiting && n.failing.isNone) = true ∧
    (w0.node? 1).any (fun n => n.counter == 0) = true ∧
    (let s := ring 31 1 32
     (s.core 0).queue.length = 31 ∧
      (sortOn Node.ctx (s.allNodes.filter fun n => n.open_ && (n.ring 0).used != 0)).head? = some s.n ∧
      (match s.readOwn s.n .both (s.n.ringVa 0 (s.n.ring 0).rh) 32 with | .ok _ => true | _ => false) = true) := by decide

/-- An entry and a manifest on a busy page, and a header on one. -/
theorem meets_NodeSteps_busy :
    (match readLaunch (fun a size => ((busyPages (queued 7)).readIa a size).orSpent false) true 0x4000 with | .busy _ _ _ => true | _ => false) = true ∧
    (match (busyPages (queued 7)).readIa 0x2000 608 with | .busy _ => true | _ => false) = true ∧
    (let s := queued 7
     served { s with mem := ((s.mem.writeBytes 0x4000 (leBytes 8 0x400000)).writeBytes 0x3010 (leBytes 8 0x5FFFFF)).writeBytes 0x200010 (leBytes 8 4) } =
      .busy) := by decide

/-- A continuation at 0x2000, that a step has taken, waiting for a sequence number. -/
def holding (need : Nat) : Cont := ⟨0x2000#64, placedId, 1, 0, need, true⟩

/-- A continuation that is ready, one that is not, and one whose record is gone; a batch to apply, one that is empty, and one
to a home no path leads to. -/
theorem meets_NodeSteps_ends : w0.contReady (holding 0) = true ∧ w0.contReady (holding 1) = false ∧
    (match w0.readVa w0.n .load 0x2000 80 with | .ok _ => true | _ => false) = true ∧
    (match (noPage w0).readVa w0.n .load 0x2000 80 with | .fail code _ _ => code == 0x40 | _ => false) = true ∧
    (match w0.xlat w0.n 0x2000 80 .load with | .ok ia _ => ia == 0x2000 | .bad _ _ => false) = true ∧
    (let s := { det 0 with g := { Gang.fresh 1 0 [.vector] with place := .ended, held := [⟨0, 0, 0, 0, 0x2000, leBytes 4 1, none, false, 0, 0⟩] } }
     (s.node? 1).any (fun n => n.spec.det && n.failing.isNone && (s.nextBatch n).any fun g => g.held.length == 1) = true ∧
      s.inFlight 0 64 = false ∧ s.reaches 0 0x2000 = true ∧ s.pathUp 0 0x2000 = true ∧ met s 0x2000 4 .both = none ∧
      s.badRun 0x2000 4 = false ∧ (s.homeBytes 0x2000 4).1.isSome = true ∧ (linked .failed s).reaches 0 0x2000 = false) ∧
    (let s := { det 0 with g := { Gang.fresh 1 0 [.vector] with place := .ended } }
     (s.node? 1).any (fun n => (s.nextBatch n).any fun g => g.held == []) = true) := by decide

/-- An arena that dies. -/
def dying (dropped : Bool) : State := { w0 with arenas := [(3, ⟨1#8, .dying, 0, 0, 1, 65536, 0x100000, 0xFFFFFFFF, dropped⟩)] }

/-- The states of a node that ends. -/
def ending (closing : Bool) (st : NodeState) (failing : Option Nat) : State :=
  { w0 with
    f := Fibre.none, g := Gang.fresh 0 0 []
    n := { w0.n with closing := closing, state := st, failing := failing } }

theorem meets_NodeEnds :
    (({ w0 with n := { w0.n with born := false, state := .runnable } } : State).node? 1).any (fun n => !n.born && n.state == .runnable && n.failing.isNone) = true ∧
    (List.range Config.arenaSlots).find? (fun k => (w0.arena k).state = .free || (w0.arena k).state = .dead) = some 0 ∧
    (w0.roomFor ⟨1, 0, 0, false, 0⟩).isSome = true ∧
    ((dying false).arena 3).state = .dying ∧ ((dying true).arena 3).state = .dying ∧ ((dying true).arena 3).dropped = true ∧
    (dying false).arenaBusy 3 = false ∧ (dying true).ownerEnding 1 = false ∧
    (let s := ending false .running none
     (s.node? 1).any (fun n => !n.statusDue && !n.closing && n.live && s.nodeOver n) = true ∧
      ({ s with n := { s.n with statusDue := true } } : State).n.statusDue = true) ∧
    (let s := ending true .running none
     (s.node? 1).any (fun n => n.closing && n.live && s.endDrained n && n.failing.isNone) = true) ∧
    (let s := ending true .running (some 0x45)
     (s.node? 1).any (fun n => n.closing && n.live && s.endDrained n && n.failing == some 0x45) = true) ∧
    (let s := ending true .completed none
     (s.node? 1).any (fun n => n.closing && !n.live) = true ∧ ∀ x ∈ s.arenas, ¬(x.2.nid = 1 ∧ x.2.state = .dying)) := by decide

/-- An object at 0x2000 whose header is `next`, `applied` and `word3`, with a run of the fibre at work, and the record of
ticket 1. -/
def object (next applied word3 : Nat) (r : ObjRun) (rec : List Byte) : State :=
  let s := world [0x2000#32]
  { s with
    n := { s.n with spec := { s.n.spec with omb := 0x6000#64 } }
    mem := ((s.mem.writeBytes 0x2000 (leBytes 8 next ++ leBytes 8 applied)).writeBytes 0x2018 (leBytes 8 word3)).writeBytes 0x2060 rec
    f := { s.f with obj := some r } }

/-- The premises of a step on it: the header and the record of a ticket can be touched, and what `p` asks. -/
def stepping (s : State) (ticket : ObjHdr → Nat) (p : Site → ObjRun → ObjHdr → ObjRec → State → Bool) : Bool :=
  match s.site? placedId with
  | none => false
  | some x =>
    match x.fib.obj with
    | none => false
    | some r =>
      x.gang.runs 0 && !s.lowerLane x r && r.phase != .stopped &&
        match s.touch x (s.xlat x.node 0x2000 32 .both) 0x2000 32 .both with
        | (.ok hp _, t) =>
          let h := t.readHdr hp
          let va := 0x2000 + recOff (ticket h)
          match t.touch x (t.xlat x.node va 32 .both) va 32 .both with
          | (.ok rp _, u) => p x r h (u.readRec rp) u
          | _ => false
        | _ => false

/-- The mailbox of a fibre can be touched. -/
def box (x : Site) (u : State) (gfi : Nat) : Bool := 
  match (u.touch x (u.ownXlat x.node (mailboxVa x.node gfi) 8 .both) (mailboxVa x.node gfi) 8 .both).1 with
  | .ok _ _ => true
  | _ => false

/-- A run in a phase and the middle of a step, its release performed. -/
def going (xfn ticket steps : Nat) (p : ObjPhase) (m : ObjMid) : ObjRun :=
  { runOn xfn 0x2000 p with ticket := ticket, steps := steps, fence := some 7, mid := m }

/-- The record of ticket 1 of the fibre, announced. -/
def mine : List Byte := leBytes 8 (recW0 1 1 5 0 0)

/-- The first step of a run, of each phase; a refused announcement, one whose NEXT lags, and one to a free record; an
announcement whose record still stands, and one whose record does not. -/
theorem meets_ObjectSteps :
    stepping (object 1 0 0x23 (runOn 5 0x2000 .announce) []) ObjHdr.next (fun _ r _ _ _ => r.fence == none && r.mid == .idle) = true ∧
    stepping (object 1 0 0x23 (runOn 5 0x2000 .apply) []) ObjHdr.next (fun _ r _ _ _ => r.fence == none && r.mid == .idle) = true ∧
    stepping (object 1 0 0x23 (going 1 0 0 .announce .idle) []) ObjHdr.next (fun _ r h _ _ => !opFits h.kind r.xfn) = true ∧
    stepping (object 1 0 0x23 (going 5 0 0 .announce .idle) mine) ObjHdr.next (fun _ r h c _ => decide (h.next < h.applied + 8) &&
      opFits h.kind r.xfn && !h.reserved && c.state == 1 && c.ticket == h.next) = true ∧
    stepping (object 1 0 0x23 (going 5 0 0 .announce .idle) []) ObjHdr.next (fun x r h c u => decide (h.next < h.applied + 8) &&
      opFits h.kind r.xfn && !h.reserved && c.state == 0 && box x u placedId.gfi) = true ∧
    (let m := ObjMid.announcing 1 0 0 0x2000 0x2060 0x6000
     stepping (object 1 0 0x23 (going 5 0 0 .announce m) []) ObjHdr.next (fun _ _ _ c _ => c.w0 == 0 && c.w1 == 0 && c.state == 0) = true ∧
      stepping (object 1 0 0x23 (going 5 0 0 .announce m) mine) ObjHdr.next (fun _ _ _ c _ => c.w0 != 0) = true) := by decide

/-- A foreign ticket, an own one not applied, and one applied; the commit and the finish of ticket 1; an unfinished ticket below
the own one; `obj.help`; NEXT to be moved. -/
theorem meets_ObjectSteps_apply :
    stepping (object 1 0 0x23 (going 5 3 0 .apply .idle) []) (fun _ => 3) (fun _ r h _ _ => decide (h.next ≤ r.ticket)) = true ∧
    stepping (object 2 0 0x23 (going 5 1 0 .apply .idle) mine) (fun _ => 1) (fun _ r h c _ => decide (r.ticket < h.next) &&
      decide (h.applied < r.ticket) && c.ticket == 1 && c.cl == 0 && c.agid == 0) = true ∧
    stepping (object 2 1 0x23 (going 5 1 3 .apply .idle) mine) (fun _ => 1) (fun x r h c u => decide (r.ticket ≤ h.applied) &&
      box x u placedId.gfi && c.ticket == 1 && c.state == 1) = true ∧
    stepping (object 2 0 0x23 (going 5 1 1 .apply (.applying 1 0x2000 0x2060 0x6000 0 0 0x23 (recW0 1 1 5 0 0) 0 none)) mine) (fun _ => 1)
      (fun x _ h _ u => (u.commitStep 1 0x2000 0x2060 (objHdrOf 0 0 0 0x23) (recOf (recW0 1 1 5 0 0) 0) none).1 && h.slot 5 == none &&
        x.fib.acc == []) = true ∧
    stepping (object 2 1 0x23 (going 5 1 2 .apply (.finishing 1 0x2060 0x6000)) mine) (fun _ => 1) (fun _ r _ _ _ => r.ticket == 1) = true ∧
    stepping (object 3 1 0x23 (going 5 2 1 .apply .idle) mine) (fun _ => 2) (fun x r h _ u => decide (h.applied < r.ticket) &&
      (u.unfinished x r h 2).any fun y => y.1 == 1 && box x u (y.2.2.agid * 1024 + y.2.2.cl)) = true ∧
    stepping (object 2 0 0x23 (going 8 0 1 .apply .idle) mine) (fun _ => 1) (fun x _ h c u => c.ticket == h.applied + 1 && c.state == 1 &&
      h.slot c.op == none && box x u (c.agid * 1024 + c.cl)) = true ∧
    stepping (object 1 0 0x23 (going 5 1 1 .apply (.moving 1 0x2000)) mine) (fun _ => 1) (fun _ r _ _ u => u.mem.num 0x2000 8 == 1 &&
      !r.halted) = true := by decide

/-- A step whose lines are on their way to their homes, and one whose lines are there. -/
theorem meets_ObjectSteps_lines : (sent (.writeBack 0 (0, 0) true) [some 5#8]).inFlight 0 64 = true ∧ w0.inFlight 0 64 = false ∧
    w0.inFlight 0 65 = false := by decide

/-- One copy operation in context 0, at the row and phase that `k` gives it. -/
def copying (form : Nat) (k : CopyOp → CopyOp) : State :=
  { w0 with g := { w0.g with ctxs := ⟨1, 0, 0#32, [], [k (copyOp 1 form rowCopy)]⟩ :: List.replicate 7 CopyCtx.fresh } }
where
  /-- One row of 16 bytes from 0x2000, to offset 0 or to 0x3000; a version word at 0x3000. -/
  rowCopy : List Word := [0x2000#32, 0#32, 0#32, 0x100001#32, 16#32, 16#32, 0x3000#32, 0#32]

/-- The operation has started, and is in a phase. -/
def inPhase (row : Nat) (p : CopyPhase) (o : CopyOp) : CopyOp := { o with started := true, row := row, phase := p }

/-- What is asked of the one operation of context 0. -/
def theOp (s : State) (p : Gang → CopyOp → Bool) : Bool :=
  (s.gang? 1 0).any fun g => g.core? == some 0 && ((g.ctxAt 0).ops.find? fun o => o.seq = 1).any (p g)

/-- The checks of runs come to their end. -/
def passes (s : State) (o : CopyOp) (l : List Run) : Bool :=
  match (s.checkRuns s.n 0 o.known l).1 with | .ok ias => ias.length == l.length | _ => false

/-- An operation that has not started; one to move its only row, with every row moved, with its markers out and back; a stale
one; one that waits on a page. -/
theorem meets_EngineSteps_copy :
    theOp (copying formG2g id) (fun _ o => !o.started && (Block.of o.block).fmt != 7) = true ∧
    theOp (copying formG2g (inPhase 0 (.moving 0))) (fun g o => o.started && !o.paged && !o.stale &&
      decide (o.row < (Block.of o.block).parts o.form) &&
      passes (copying formG2g (inPhase 0 (.moving 0))) o ((Block.of o.block).partRuns o.form (g.indexList (Block.of o.block) o.form) o.row)) = true ∧
    theOp (copying formG2g (inPhase 1 (.moving 0))) (fun _ o => decide ((Block.of o.block).parts o.form ≤ o.row)) = true ∧
    theOp (copying formG2g (inPhase 1 (.flushing 0))) (fun g o => o.form != formAtom &&
      !(copying formG2g (inPhase 1 (.flushing 0))).marking g 0 1) = true ∧
    theOp (copying formG2s (inPhase 0 .begin)) (fun _ o => o.form != formAtom && o.form != formCons && o.phase == .begin) = true ∧
    theOp (copying formG2g fun o => { inPhase 0 .begin o with stale := true }) (fun _ o => o.started && !o.paged && o.stale) = true ∧
    theOp (copying formG2g fun o => { inPhase 0 .begin o with paged := true }) (fun _ o => o.paged) = true := by decide

/-- An `s2g.atom` that begins, that has looked, and whose markers are back; a `g2s.cons` at its first and its fifth attempt,
begun and moved. -/
theorem meets_EngineSteps_versions :
    (∀ p ∈ [CopyPhase.begin, .looked 0, .flushing 0], theOp (copying formAtom (inPhase 1 p)) (fun g o =>
      passes (copying formAtom (inPhase 1 p)) o [⟨(Block.of o.block).aux, 8, .both, true⟩] && !(copying formAtom (inPhase 1 p)).marking g 0 1) = true) ∧
    (copying formAtom (inPhase 0 .begin)).versionAt 0x3000 = 0 ∧
    (∀ p ∈ [CopyPhase.begin, .moving 0], ∀ k ∈ [0, 4], theOp (copying formCons fun o => { inPhase 1 p o with attempt := k }) (fun _ o =>
      passes (copying formCons (inPhase 1 p)) o [⟨(Block.of o.block).aux, 8, .load, true⟩] &&
        decide ((Block.of o.block).parts o.form ≤ o.row)) = true) := by decide

/-- A part of an `s2g.atom` whose home no path leads to, and the operation after it. -/
theorem meets_EngineSteps_torn :
    theOp (linked .failed (copying formAtom (inPhase 0 (.moving 0)))) (fun g o => o.form == formAtom &&
      decide (o.row < (Block.of o.block).parts o.form)) = true ∧
    (linked .failed (copying formAtom (inPhase 0 (.moving 0)))).reachesRun 0 0x3000 8 = false ∧
    theOp (copying formAtom (inPhase 0 .torn)) (fun g o => o.phase == .torn && !(copying formAtom (inPhase 0 .torn)).marking g 0 1) = true := by
  decide

/-- A matrix word at the head of the queue, under a chain that lets words be reordered or not. -/
def taking (w : MWord) (chain : Option Bool) : State :=
  let s := matrix [] 0
  { s with g := { s.g with matq := [⟨0, s.g.shp, 1, false, w⟩], tiles := [{ Tile.fresh 256 with chain := chain }] } }

/-- A copy of a fibre that may land; the turn of the core's only gang, and of another; a word that may be reordered, one that
may not, and one that is no `mma`. -/
theorem meets_EngineSteps :
    (let c : CpbOp := ⟨placedId, 0, 0, 0x2000#64, 0x2000, 32, 0, .issued⟩
     let s := { w0 with g := { w0.g with cpbs := [c] } }
     ((s.fibre? c.who).any fun b => b.holdsCopy c.ser) = false ∧ ((linesOf c.ia c.len).any fun ln => s.inFlight 0 ln) = false ∧
      s.reaches 0 0x2000 = true ∧ s.pathUp 0 0x2000 = true ∧
      (match s.walkRun c.ia c.len .load with
       | (none, t) => !t.badRun c.ia c.len && !(t.core 0).errRun c.ia c.len && (t.engineBytes 0 c.ia c.len).1.isSome
       | _ => false) = true) ∧
    (taking (.zero 0) none).matrixTurn 0 = some (taking (.zero 0) none).g.turnKey ∧ w0.matrixTurn 0 ≠ some w0.g.turnKey ∧
    ((taking (.mma 0 0 false 0 0 [1, 0]) (some true)).g.picked false 0 = some (0, 0)) ∧
    ((taking (.mma 0 0 false 0 0 [1, 0]) (some true)).g.picked false 2 = none) ∧
    ((taking (.zero 0) none).g.picked false 0 = none) ∧ ((taking (.mma 0 0 false 0 0 [0]) none).g.picked false 0 = none) := by decide

/-! ### Premises met: the package and the machine -/

/-- The links in a state. -/
def linkAt (x : LinkState) : State := { w0 with fabric := { w0.fabric with sublinks := List.replicate 24 x } }

/-- A path of peer 5 in a state, and every path of it failed but path 17. -/
def pathAt (x : LinkState) : State := { w0 with fabric := { w0.fabric with paths := [⟨5, 0, x⟩] } }
def lastPath : State := { w0 with fabric := { w0.fabric with
  paths := ⟨5, 17, .retraining 3⟩ :: (List.range 17).map fun k => ⟨5, k, .failed⟩ } }

/-- An export window of 4 KiB at 0x2000 with both permissions, or with none. -/
def exporting (p : Bool) : State := { w0 with fabric := { w0.fabric with exportBase := 0x2000, exportSize := 4096, exportR := p, exportW := p } }

theorem meets_LinksKeepBytes : (linkAt .up).fabric.sublinks.getD 23 .up = .up ∧ (linkAt (.retraining 3)).fabric.sublinks.getD 23 .up = .retraining 3 ∧
    (linkAt .failed).fabric.sublinks.getD 23 .up = .failed ∧ (w0.site? w0.f.id).isSome = true ∧ w0.f.life = .live ∧
    (pathAt .up).pathState 5 0 = .up ∧ (pathAt (.retraining 2)).pathState 5 0 = .retraining 2 ∧
    ((pathAt (.retraining 3)).setPath 5 0 .failed).pathless 5 = false ∧ lastPath.pathState 5 17 = .retraining 3 ∧
    (lastPath.setPath 5 17 .failed).pathless 5 = true ∧ 5 ∉ (lastPath.setPath 5 17 .failed).fabric.unreachable := by decide

/-- The last byte of the window, for each kind of access, and the first past it; a window without permissions. -/
theorem meets_LinksKeepBytes_peer : (exporting true).fabric.exportW = true ∧ 4095 + 1 ≤ (exporting true).fabric.exportSize ∧
    (exporting true).placed (0x2000 + 4095) 1 = true ∧
    (∀ need ∈ [Need.load, .store, .both], met (exporting true) (0x2000 + 4095) 1 need = none) ∧
    (exporting true).badRun (0x2000 + 4095) 1 = false ∧ ((exporting true).homeBytes (0x2000 + 4095) 1).1.isSome = true ∧
    (exporting true).placeOf (0x2000 + 4095) = .hbm 0 ∧ (exporting true).fabric.exportSize < 4096 + 1 ∧
    (exporting false).fabric.exportW = false ∧ (exporting false).fabric.exportR = false := by decide

/-- A packet of a peer that meets a busy walk. -/
theorem meets_LinksKeepBytes_busy : met (busyPages (exporting true)) 0x2000 4 .load = some (0, 0, 0x2000) ∧
    (busyPages (exporting true)).placed 0x2000 4 = true ∧ (busyPages (exporting true)).spent (.peer 5 0x2000) = false := by decide

/-- A core with a gang and one without; the last logical core, a spare of its die, and of another; device memory of each kind. -/
theorem meets_HostCommands : 255 < w0.coreMap.length ∧ w0.coreMap.getD 255 0 / 68 = 271 / 68 ∧ 271 ∉ w0.coreMap ∧
    (0, 271) ∉ w0.fabric.retired ∧ w0.coreMap.getD 0 0 / 68 = 64 / 68 ∧ 64 ∉ w0.coreMap ∧ w0.coreMap.getD 0 0 / 68 ≠ 271 / 68 ∧
    w0.gangsOn 255 = [] ∧ w0.gangsOn 0 ≠ [] ∧ (∀ g ∈ w0.gangsOn 0, ∀ n, w0.node? g.nid = some n → n.spec.det = false) ∧
    w0.coreMap.length ≤ 256 ∧ 63 ∈ w0.coreMap ∧
    w0.placeOf 0x2000 = .hbm 0 ∧ w0.placeOf (2 ^ 40) = .massif 0 ∧ w0.placed 0x2000 4 = true ∧ (∃ n ∈ w0.allNodes, n.alive = true) := by
  refine ⟨by decide, by decide, by decide, by decide, by decide, by decide, by decide, by decide, by decide, ?_, by decide, by decide,
    by decide, by decide, by decide, by decide⟩
  have h : (w0.gangsOn 0).all (fun g => (w0.node? g.nid).all fun n => !n.spec.det) = true := by decide
  intro g hg n hn
  have := List.all_eq_true.1 h g hg
  rw [hn] at this
  simpa using this

/-- A package with some units retired. -/
def without (l : List (Nat × Nat)) : State := { w0 with fabric := { w0.fabric with retired := l } }

/-- A channel and a sublink that may be recalibrated, the last of its kind and one that is retired; a port in service and one
retired; each lane rate. -/
theorem meets_HostCommands_units :
    ((191 < 192 ∧ (without []).fabric.retired.contains (3, 191) = false ∧ (without []).fabric.retired.contains (3, 0) = false) ∧
      (without [(3, 191)]).fabric.retired.contains (3, 191) = true) ∧
    ((without []).fabric.retired.contains (4, 23) = false ∧ w0.fabric.sublinks.getD 0 .failed = .up) ∧
    ((without ((List.range 23).map fun k => (4, k))).fabric.retired.contains (4, 22) = true ∧
      (without ((List.range 23).map fun k => (4, k))).fabric.retired.contains (4, 23) = false) ∧
    w0.fabric.portUp.getD 17 false = true ∧
    (({ w0 with fabric := { w0.fabric with portUp := w0.fabric.portUp.set 17 false } } : State).fabric.portUp.getD 17 false = false) ∧
    ({ w0 with fabric := { w0.fabric with portRate := List.replicate 18 1600 } } : State).fabric.portRate.getD (143 / 8) 0 = 1600 ∧
    (∀ n ∈ State.reset.allNodes, n.alive = false) ∧ State.reset.off = false := by decide

/-- A die with four spares, and one whose spares are retired. -/
theorem meets_HostCommands_retire : 0 < State.reset.coreMap.length ∧ State.reset.dieOf 0 = 0 ∧
    (∃ k < 68, 68 * State.reset.dieOf 0 + k ∉ State.reset.coreMap ∧ State.reset.fabric.retired.contains (0, 68 * State.reset.dieOf 0 + k) = false) ∧
    (let s : State := { State.reset with fabric := { State.reset.fabric with retired := [(0, 64), (0, 65), (0, 66), (0, 67)] } }
     ¬∃ k < 68, 68 * s.dieOf 0 + k ∉ s.coreMap ∧ s.fabric.retired.contains (0, 68 * s.dieOf 0 + k) = false) := by decide

/-- The last launch context; a sensor at 919 and at 920; a line without an error; a package that is off. -/
theorem meets_ManagementAndErrors : w0.off = false ∧ (1023 : Nat) < 1024 ∧ w0.sensors.length = 32 ∧
    ({ w0 with sensors := w0.sensors.set 31 ⟨920, true⟩ } : State).sensors[8 * 3 + 7]? = some ⟨920, true⟩ ∧
    0x2000 / 128 ∉ w0.bad ∧ w0.arenaAt (0x2000 / 128 * 128) = none ∧ ({ w0 with off := true } : State).off = true := by decide

theorem meets_EncodeDecode : WellFormed (.addD 62 0 2 true false) ∧ codes true (.addD 62 0 2 true false) ≠ [] ∧
    WellFormed (.mbr 3 1 2 3 15 false true false true 0xFFF 0x800 0x7FF 0) ∧
    codes false (.mbr 3 1 2 3 15 false true false true 0xFFF 0x800 0x7FF 0) ≠ [] := by decide

/-- A word of each kind that is refused: major 0, the words of the branch packet, and the majors from 57. -/
theorem meets_DecodeSamples : (0#32 : Word).extractLsb' 25 6 = 0#6 ∧ (0xC2000000#32 : Word).extractLsb' 25 6 = 0x21#6 ∧
    (0xC4000000#32 : Word).extractLsb' 25 6 = 0x22#6 ∧ 57 ≤ ((0x72000000#32 : Word).extractLsb' 25 6).toNat := by decide

theorem meets_FreshFibre : (List.replicate 8 5#32).length = 8 ∧ 8 ≤ 8 ∧ 65535 < 2 ^ 16 ∧
    (ready false none).n.newFibres 0 ≠ [] ∧ CanIssue (.spawn 6 0 0) w0 ∧ (w0.r.d 0).extractLsb' 0 4 = 0#4 ∧
    (w0.spawnResult (w0.r.w 6)).getLsbD 31 = false ∧ (w0.r.w 6).getLsbD 0 = true ∧ (w0.spawnResult (w0.r.w 6)).toNat ≠ w0.f.id.cid :=
  ⟨by decide, by decide, by decide, by decide, ok (by decide), by decide, by decide, by decide, by decide⟩

/-- A word alone at its PC, in the slot that the program counter names; and a branch packet. -/
def atWord (nbits w : Nat) : State := (State.reset.withFetchWord nbits w).focus placedId

theorem meets_StepRunsDecoded_chain :
    (match (atWord 32 0x0F081001).fetchPacket with
     | .inr bs =>
       let word := fun (k : Nat) => wordOfBytes ((bs.drop (4 * k)).take 4)
       !pcInvalid (atWord 32 0x0F081001).r.pc && (word 3).extractLsb' 0 12 == 0#12 && !(word 0).getLsbD 31 &&
         (match decode (word 0) with | .ok i => wf i && (infoOf i).maj != 0x21 | _ => false)
     | .inl _ => false) = true := by decide

/-- The branch packet of two pairs that is at PC's packet. -/
def mbrWords : Nat := 0xC2980040 + 2 ^ 32 * 0xC4FFF002 + 2 ^ 64 * 0x44000000

theorem meets_StepRunsDecoded_mbr :
    (match (atWord 96 mbrWords).fetchPacket with
     | .inr bs =>
       let word := fun (k : Nat) => wordOfBytes ((bs.drop (4 * k)).take 4)
       isMbrPacket (word 0) (word 1) (word 2) && (mbrBad (word 0) (word 1) (word 2)).isNone &&
         (match decodeMbr (word 0) (word 1) (word 2) with | .ok _ => true | _ => false)
     | .inl _ => false) = true := by decide

/-- The first step after a word is placed: the one bundle of the partition, and the chain that issues. -/
theorem meets_StepRunsDecoded :
    let s := State.reset.withFetchWord 32 0x0E081001
    let r := (if (s.part 0 0).clock % 4 = 0 then s.regroup 0 0 else s).fetchTries 0 0
    let t := State.focus { r with issue := [placedId] } placedId
    let v := t.fetched
    s.agenda = [] ∧ s.off = false ∧ s.turn % 2 = 0 ∧ turnCore s.turn = 0 ∧ turnPart s.turn = 0 ∧
      (r.standing 0 0).map Bundle.ids = [[placedId]] ∧ v.focus placedId = v ∧ v.f.id = placedId ∧ v.r.pc = t.r.pc ∧
      (match t.fetchChain with | .chain ws next => ws.length == 1 && !(evalChain ws next v).waits | _ => false) = true := by
  refine ⟨by decide, by decide, by decide, by decide, by decide, by decide, ?_, by decide, by decide, by decide⟩
  unfold State.focus
  rw [if_pos (by decide)]

theorem meets_StepCases : ({ w0 with agenda := [.endCommand 1] } : State).agenda = [.endCommand 1] ∧
    ({ w0 with off := true } : State).off = true ∧ w0.agenda = [] := ⟨rfl, rfl, rfl⟩

theorem meets_StepKeepsMemory : w0.mem.wf = true ∧ (match step w0 with | .next _ => true | _ => false) = true := by decide

theorem meets_WordsKeepMemory : isEvent (.li 0 1) = false ∧ (match exec (.li 0 1) w0 with | .next _ => true | _ => false) = true ∧
    (redOf (.redAdd 0 2 0) (det 0)).isSome = true ∧ (det 0).holdCount (det 0).c.num < Config.redHold ∧
    (match exec (.redAdd 0 2 0) (det 0) with | .next _ => true | _ => false) = true := by decide

theorem meets_MemoryWrites : 0x207F % 128 + 1 ≤ 128 ∧ (match (w0.walk 0x207F .store).1 with | .frame pa => pa == 0x207F | _ => false) = true ∧
    w0.mem.wf = true := by decide

/-! ### Single words: results by hand from the rules -/

/-- Whether a word answers a next state, with what `p` asks of it. -/
noncomputable def gives (i : Instr) (s : State) (p : State → Bool) : Bool :=
  match exec i s with
  | .next t => p t
  | _ => false

theorem test_add_wraps : gives (.add 4 4 6 false false) w0 (fun t => t.r.w 4 == 0#32 && t.r.pc == 0x1041#64) = true := by decide
theorem test_sub_source_is_destination : gives (.sub 2 3 2 false false) w0 (fun t => t.r.w 2 == 1#32) = true := by decide
theorem test_mulh_sign : gives (.mulh 1 4 2 false false) w0 (fun t => t.r.w 1 == 0xFFFFFFFF#32) = true := by decide
theorem test_mulhu : gives (.mulhu 1 4 2 false false) w0 (fun t => t.r.w 1 == 2#32) = true := by decide
theorem test_div_by_zero : gives (.div 4 2 1 false false) w0 (fun t => t.r.w 4 == 0xFFFFFFFF#32) = true := by decide
theorem test_rem_by_zero : gives (.rem 4 2 1 false false) w0 (fun t => t.r.w 4 == 3#32) = true := by decide
theorem test_div_overflow : gives (.div 6 5 4 false false) w0 (fun t => t.r.w 6 == 0x80000000#32) = true := by decide
theorem test_shl_by_32 : gives (.shl 1 2 7 false false) w0 (fun t => t.r.w 1 == 0#32) = true := by decide
theorem test_sar_by_32 : gives (.sar 1 5 7 false false) w0 (fun t => t.r.w 1 == 0xFFFFFFFF#32) = true := by decide
theorem test_rotl_by_32 : gives (.rotl 1 2 7 false false) w0 (fun t => t.r.w 1 == 3#32) = true := by decide
theorem test_adds_saturates : gives (.adds 1 5 5 false false) w0 (fun t => t.r.w 1 == 0x80000000#32) = true := by decide
theorem test_subus_saturates : gives (.subus 4 2 3 false false) w0 (fun t => t.r.w 4 == 0#32) = true := by decide
theorem test_addD_carries : gives (.addD 4 0 4 false false) w0 (fun t => t.r.d 4 == 0x80000001_00001FFF#64) = true := by decide
theorem test_addi_sign : gives (.addi 1 2 false 0xFFF) w0 (fun t => t.r.w 1 == 2#32) = true := by decide
theorem test_lih : gives (.lih 2 0x7FFFF) w0 (fun t => t.r.w 2 == 0xFFFFE003#32) = true := by decide
theorem test_clz : gives (.clz 1 2 false) w0 (fun t => t.r.w 1 == 30#32) = true := by decide
theorem test_brev : gives (.brev 1 2 false) w0 (fun t => t.r.w 1 == 0xC0000000#32) = true := by decide
theorem test_bswap : gives (.bswap 1 0 false) w0 (fun t => t.r.w 1 == 0x00200000#32) = true := by decide
theorem test_lt_signed : gives (.lt 3 4 2 false false) w0 (fun t => t.r.p 3) = true := by decide
theorem test_p0_reads_one : gives (.w2p 1 false) w0 (fun t => t.r.p 0 && t.r.pw == 1#16) = true := by decide
theorem test_br_taken : gives (.br 1 true 0xFFFFF) w0 (fun t => t.r.pc == 0x1030#64) = true := by decide
theorem test_call_slides : gives (.call 0 false 5) w0 (fun t => t.r.pc == 0x1090#64 && t.r.base == 0 && t.r.frames.length == 1) = true := by decide
theorem test_trap_enters : gives (.trap 5) wTrap (fun t => t.r.tcause == 0x8000050D#32 && t.r.tepc == 0x1041#64 && t.r.pc == 0x2000#64 &&
    t.r.base == 8) = true := by decide
theorem test_yadd_one_one : gives (.yadd 2 0 1 false false) wy (fun t => (t.f.dlv.any fun v => v.yval == some ⟨0x40000000#32, [0x80000000#32], true⟩) ||
    t.r.y 2 == ⟨0x40000000#32, [0x80000000#32], true⟩) = true := by decide
theorem test_ld_misaligned : gives (.ldW 4 0 false 0) (regs (at_ 0x2002) fun r => { r with tvec := 0x2000#64 }) (fun t =>
    t.r.tcause == 0x80000003#32 && t.r.tval == 0x2002#64) = true := by decide
theorem test_empty_waits : gives (.add 1 2 3 false false) (regs w0 fun r => r.setAt 2 0#32 false) (fun t => t.r.pc == 0x1040#64) = true := by decide
theorem test_ldw_reads_the_line : (let s := underWay { acc (.load false) .issued 0 with dest := .cells 4 1 [] } [line]
    gives (.walk placedId 0) s (fun t => t.f.acc == [] && t.f.dlv.map Deliv.vals == [[0x09090909#32]])) = true := by decide
theorem test_store_dirties_the_line : gives (.walk placedId 0) (underWay (acc .store .issued 0) []) (fun t =>
    t.mem == w0.mem && (t.c.l1.map fun l => (l.line, l.dm, l.whole)) == [(64, 0xF#128, false)]) = true := by decide
theorem test_write_back_lands : gives (.homeArrival 0) (sent (.writeBack 0 (0, 0) true) [some 5#8, none, some 6#8]) (fun t =>
    t.mem.read 0x2000 == 5#8 && t.mem.read 0x2001 == 0#8 && t.mem.read 0x2002 == 6#8 && t.flight == []) = true := by decide
theorem test_home_amo_adds : gives (.homeArrival 0) (sent (.access placedId 0 (.amo 0 false)) [some 0#8, some 0#8, some 0#8, some 0#8]) (fun t =>
    t.mem.read 0x2000 == 7#8) = true := by decide

/-- The first step after a word is placed runs that word: `li w1, 5` (03 R55, log 46). -/
theorem test_step_runs_the_word : (match step (State.reset.withFetchWord 32 0x1A080005) with
    | .next t => t.f.regs.w 1 == 5#32 && t.f.regs.pc == 0x1041#64
    | _ => false) = true := by decide

end Sys2Proof.Tests
end

section
/-!
PROOFS of what a write at a home leaves at every address (12 R238, R240): a read after each operation over memory, that
memory is fixed by what it reads, and the writes of a run inside one line.
-/
namespace Sys2Proof.Machine

/-! ### Reads of memory in canonical form -/

theorem Memory.wfFrom_cons {lo k : Nat} {v : Byte} {r : Memory} :
    Memory.wfFrom lo ((k, v) :: r) = true ↔ lo ≤ k ∧ v ≠ Config.blankByte ∧ Memory.wfFrom (k + 1) r = true := by
  simp [Memory.wfFrom, and_assoc]

/-- In canonical form the order of the entries does not show in a read: every address up to the head is blank in the tail. -/
theorem Memory.read_cons {j : Nat} {w : Byte} {r : Memory} (h : Memory.wfFrom (j + 1) r = true) (k : Nat) :
    Memory.read ((j, w) :: r) k = if k = j then w else r.read k := by
  rw [Memory.read]
  rcases Nat.lt_trichotomy k j with hlt | rfl | hgt
  · rw [if_pos hlt, if_neg (by omega), Memory.read_below h (by omega)]
  · simp
  · rw [if_neg (by omega), if_neg (by omega), if_neg (by omega)]

/-- A masked run replaces the bytes that it carries; every other byte reads as before. -/
theorem Memory.read_writeMasked {m : Memory} (a k : Nat) (bs : List (Option Byte)) (h : m.wf = true) :
    (m.writeMasked a bs).read k =
      if a ≤ k ∧ k < a + bs.length then (bs.getD (k - a) none).getD (m.read k) else m.read k := by
  induction bs generalizing m a with
  | nil => simp [Memory.writeMasked]
  | cons b r ih =>
    rcases Nat.lt_trichotomy k a with hlt | rfl | hgt
    · have hout : ¬ a ≤ k ∧ ¬ a + 1 ≤ k ∧ k ≠ a := by omega
      cases b <;> simp [Memory.writeMasked, ih, Memory.write_wf, Memory.read_write, h, hout]
    · cases b <;> simp [Memory.writeMasked, ih, Memory.write_wf, Memory.read_write, h]
    · obtain ⟨d, rfl⟩ : ∃ d, k = a + 1 + d := ⟨k - (a + 1), by omega⟩
      have hd : a + 1 + d - a = d + 1 := by omega
      have hne : a + 1 + d ≠ a := by omega
      have hin : (a ≤ a + 1 + d ∧ a + 1 + d < a + (r.length + 1)) ↔ d < r.length := by omega
      cases b <;> simp [Memory.writeMasked, ih, Memory.write_wf, Memory.read_write, h, hd, hne, hin]

/-- A run of bytes is the masked run that carries all of them. -/
theorem Memory.writeBytes_eq_writeMasked (m : Memory) (a : Nat) (bs : List Byte) :
    m.writeBytes a bs = m.writeMasked a (bs.map some) := by
  induction bs generalizing m a with
  | nil => rfl
  | cons b r ih => exact ih (m.write a b) (a + 1)

/-- A run's bytes are read at its addresses, and every other byte reads as before. -/
theorem Memory.read_writeBytes {m : Memory} (a k : Nat) (bs : List Byte) (h : m.wf = true) :
    (m.writeBytes a bs).read k = if a ≤ k ∧ k < a + bs.length then bs.getD (k - a) 0#8 else m.read k := by
  rw [Memory.writeBytes_eq_writeMasked, Memory.read_writeMasked a k _ h, List.length_map]
  split
  · next hk =>
    have hlt : k - a < bs.length := by omega
    simp [hlt]
  · rfl

theorem Memory.read_blank_from {m : Memory} {base : Nat} (lo hi k : Nat) (h : Memory.wfFrom base m = true) :
    (m.blank lo hi).read k = if lo ≤ k ∧ k < hi then Config.blankByte else m.read k := by
  induction m generalizing base with
  | nil => simp [Memory.blank, Memory.read]
  | cons c r ih =>
    obtain ⟨j, w⟩ := c
    obtain ⟨-, -, hr⟩ := Memory.wfFrom_cons.mp h
    rw [Memory.read_cons hr]
    by_cases hj : lo ≤ j ∧ j < hi
    · have hdrop : Memory.blank ((j, w) :: r) lo hi = Memory.blank r lo hi :=
        List.filter_cons_of_neg (by simpa using hj)
      rw [hdrop, ih hr]
      by_cases hk : k = j
      · subst hk; rw [if_pos hj, if_pos hj]
      · rw [if_neg hk]
    · have hkeep : Memory.blank ((j, w) :: r) lo hi = (j, w) :: Memory.blank r lo hi :=
        List.filter_cons_of_pos (by simp; omega)
      rw [hkeep, Memory.read_cons (Memory.blank_wfFrom lo hi hr), ih hr]
      by_cases hk : k = j
      · subst hk; rw [if_pos rfl, if_pos rfl, if_neg hj]
      · rw [if_neg hk, if_neg hk]

/-- A blanked range reads blank, and every byte outside it reads as before. -/
theorem Memory.read_blank {m : Memory} (lo hi k : Nat) (h : m.wf = true) :
    (m.blank lo hi).read k = if lo ≤ k ∧ k < hi then Config.blankByte else m.read k := Memory.read_blank_from lo hi k h

/-- An entry of a memory in canonical form shows in a read: its byte is not blank. -/
theorem Memory.read_head_ne_blank {lo k : Nat} {v : Byte} {r : Memory} (h : Memory.wfFrom lo ((k, v) :: r) = true) :
    Memory.read ((k, v) :: r) k ≠ Config.blankByte := by
  obtain ⟨-, hv, hr⟩ := Memory.wfFrom_cons.mp h
  rwa [Memory.read_cons hr, if_pos rfl]

/-- The heads of two memories that read the same: the byte at one head is not blank, so the other memory lists it too. -/
theorem Memory.head_le_of_read_eq {lo lo' j k : Nat} {v w : Byte} {r r' : Memory}
    (h : Memory.wfFrom lo ((j, v) :: r) = true) (h' : Memory.wfFrom lo' ((k, w) :: r') = true)
    (he : ∀ a, Memory.read ((j, v) :: r) a = Memory.read ((k, w) :: r') a) : k ≤ j := by
  by_contra hlt
  obtain ⟨-, hw, hr'⟩ := Memory.wfFrom_cons.mp h'
  have hk : Memory.wfFrom k ((k, w) :: r') = true := Memory.wfFrom_cons.mpr ⟨Nat.le_refl k, hw, hr'⟩
  exact Memory.read_head_ne_blank h ((he j).trans (Memory.read_below hk (by omega)))

theorem Memory.eq_of_read_eq_from {m1 m2 : Memory} {lo1 lo2 : Nat} (h1 : Memory.wfFrom lo1 m1 = true)
    (h2 : Memory.wfFrom lo2 m2 = true) (he : ∀ k, m1.read k = m2.read k) : m1 = m2 := by
  induction m1 generalizing m2 lo1 lo2 with
  | nil =>
    cases m2 with
    | nil => rfl
    | cons c r => exact absurd (he c.1).symm (Memory.read_head_ne_blank h2)
  | cons c r ih =>
    cases m2 with
    | nil => exact absurd (he c.1) (Memory.read_head_ne_blank h1)
    | cons c' r' =>
      obtain ⟨j, v⟩ := c
      obtain ⟨k, w⟩ := c'
      obtain rfl : j = k :=
        Nat.le_antisymm (Memory.head_le_of_read_eq h2 h1 fun a => (he a).symm) (Memory.head_le_of_read_eq h1 h2 he)
      obtain ⟨-, -, hr⟩ := Memory.wfFrom_cons.mp h1
      obtain ⟨-, -, hr'⟩ := Memory.wfFrom_cons.mp h2
      have hread : ∀ a, (if a = j then v else Memory.read r a) = if a = j then w else Memory.read r' a := fun a => by
        rw [← Memory.read_cons hr, ← Memory.read_cons hr', he a]
      have hvw : v = w := by simpa using hread j
      have htail : r = r' := ih hr hr' fun a => by
        by_cases ha : a = j
        · rw [Memory.read_below hr (by omega), Memory.read_below hr' (by omega)]
        · simpa [ha] using hread a
      rw [hvw, htail]

/-- The canonical form is unique: memory that reads the same everywhere is the same memory. -/
theorem Memory.eq_of_read_eq {m1 m2 : Memory} (h1 : m1.wf = true) (h2 : m2.wf = true)
    (he : ∀ k, m1.read k = m2.read k) : m1 = m2 := Memory.eq_of_read_eq_from h1 h2 he

/-! ### Writes of a run inside one line -/

theorem splitLines_of_within_line {ia size : Nat} (h0 : size ≠ 0) (h : ia % 128 + size ≤ 128) :
    splitLines ia size = [(ia / 128, ia % 128, size)] := by
  have hlast : (ia + size - 1) / 128 = ia / 128 := by omega
  have hlo : max ia (ia / 128 * 128) = ia := by omega
  have hhi : min (ia + size) (ia / 128 * 128 + 128) = ia + size := by omega
  have hoff : ia - ia / 128 * 128 = ia % 128 := by omega
  simp [splitLines, linesOf, lineOf, h0, hlast, hlo, hhi, hoff]

/-- A run inside one line is written where the walk of its first byte finds the frame. -/
theorem State.homeWrite_of_walk_frame {s t : State} {ia pa : Nat} {bs : List Byte} (h0 : bs ≠ [])
    (h : ia % 128 + bs.length ≤ 128) (hw : s.walk ia .store = (.frame pa, t)) :
    s.homeWrite ia bs = (true, { t with mem := s.mem.writeBytes pa bs }) := by
  have hia : ia / 128 * 128 + ia % 128 = ia := by omega
  simp [State.homeWrite, splitLines_of_within_line (by simpa using h0) h, hia, hw, State.walk_kept hw]

/-- A run inside one line that a core writes at its home is lost where no path leads there (23 R427); else the core's next
release covers that home (13 R263). -/
theorem State.engineWrite_of_within_line (s : State) (core nid gid cid : Nat) {ia : Nat} {bs : List Byte} (h0 : bs ≠ [])
    (h : ia % 128 + bs.length ≤ 128) :
    s.engineWrite core nid gid cid ia bs =
      if s.reaches core ia then (s.homeWrite ia bs).2.sentTo core ia else s.tell (.lostWrite ia nid gid cid) := by
  have hia : ia / 128 * 128 + ia % 128 = ia := by omega
  simp [State.engineWrite, splitLines_of_within_line (by simpa using h0) h, hia]

/-- Settles O9: the reads after each operation over memory by induction on the run or on the listed bytes, and the writes
at a home by the one piece into which a run inside one line is cut. -/
theorem memoryWrites : Obligations.MemoryWrites := by
  unfold Obligations.MemoryWrites
  refine ⟨?walk, fun _ a k bs h => Memory.read_writeBytes a k bs h, fun _ a k bs h => Memory.read_writeMasked a k bs h,
    fun _ lo hi k h => Memory.read_blank lo hi k h, fun _ _ h1 h2 he => Memory.eq_of_read_eq h1 h2 he,
    fun s core nid gid cid _ _ h0 h => s.engineWrite_of_within_line core nid gid cid h0 h⟩
  case walk =>
    intro s t ia pa bs h0 h hw
    obtain ⟨w, hframe⟩ := s.walk_frame ia .store
    rw [hw] at hframe
    exact ⟨State.homeWrite_of_walk_frame h0 h hw, w, hframe⟩

end Sys2Proof.Machine
end

section
/-!
PROOFS of the words that write cells, pairs, predicates and system registers (05 R105 to R118, R137, 06 R155): what each asks
for at issue, by the table of its result, and the frame of its commit.
-/
namespace Sys2Proof.Machine

/-! ### What a word asks for at issue, by the table that gives its result -/

/-- An event is no word of a chain: its body only waits. -/
theorem bodyOf_event {i : Instr} (s : State) (h : isEvent i = true) : bodyOf i s = .wait := by
  unfold isEvent at h
  split at h <;> cases h <;> rfl

/-- Whatever asks for something else than to wait is a word. -/
theorem isEvent_of_bodyOf {i : Instr} {s : State} {x : WordRes} (h : bodyOf i s = x) (hx : x ≠ .wait) :
    isEvent i = false := by
  by_contra hc
  exact hx (h ▸ bodyOf_event s (by simpa using hc))

theorem ite_condHolds {α : Type} (s : State) (p : BitVec 4) (n : Bool) (x y : α) :
    (if condHolds s p n then x else y) = if xor (s.r.p p.toNat) n then x else y := rfl

/-- A word with a cell result writes that cell (R107, R108, R110 to R113, R117, R118, R215): each operation of the model is that
of bit vectors which the table names. -/
theorem bodyOf_of_cellResult {i : Instr} {s : State} {d : Fld} {v : Word} (h : cellResult i s = some (d, v)) :
    bodyOf i s = .regs (s.putW d v) := by
  unfold cellResult at h
  dsimp only at h
  split at h <;> cases h <;> refine congrArg (fun v => WordRes.regs (s.putW _ v)) (?_ : _ = _)
  all_goals simp only [mulHigh_eq, mulHighU_eq, quotS_eq, remS_eq, quotU_eq, remU_eq, shiftL_eq, shiftR_eq, shiftA_eq, rotL_eq,
    minS_eq, maxS_eq, minU_eq, maxU_eq, clampS32_eq, clampU32_add, clampU32_sub, BitVec.isLt, leadZeros_eq, trailZeros_eq,
    popCount_eq, revBits_eq, zext8_eq, zext16_eq, ite_condHolds]

/-- A word with a pair result writes that pair (R109, R110, R112, R117). -/
theorem bodyOf_of_pairResult {i : Instr} {s : State} {d : Fld} {v : DWord} (h : pairResult i s.r = some (d, v)) :
    bodyOf i s = .regs (s.putD d v) := by
  unfold pairResult at h
  split at h <;> cases h <;> refine congrArg (fun v => WordRes.regs (s.putD _ v)) (?_ : _ = _)
  all_goals simp only [mulHigh_eq, mulHighU_eq, shiftL_eq, shiftR_eq, shiftA_eq, rotL_eq, minS_eq, maxS_eq, minU_eq, maxU_eq,
    ite_condHolds]

/-- A compare or a predicate word writes its predicate (R114, R116, R118). -/
theorem bodyOf_of_predResult {i : Instr} {s : State} {d : Fld} {v : Bool} (h : predResult i s.r = some (d, v)) :
    bodyOf i s = .regs (s.putP d.toNat v) := by
  unfold predResult at h
  split at h <;> cases h <;> rfl

/-- A word that asks to change registers commits with that change. -/
theorem exec_regs {i : Instr} {s : State} {k : State → State} {f : Regs → Regs} (h : CanIssue i s)
    (hb : bodyOf i s = .regs k)
    (hk : ∀ pc : DWord, k (s.onRegs fun r => { r with pc := pc }) = (s.onRegs fun r => { r with pc := pc }).onRegs f) :
    exec i s = .next (s.wrote i f) :=
  exec_wrote h (isEvent_of_bodyOf hb (by simp [WordRes.regs])) hb hk

theorem exec_of_cellResult {i : Instr} {s : State} {d : Fld} {v : Word} (h : CanIssue i s)
    (hv : cellResult i s = some (d, v)) : exec i s = .next (s.wrote i fun r => r.setW d v) :=
  exec_regs h (bodyOf_of_cellResult hv) fun _ => rfl

theorem exec_of_pairResult {i : Instr} {s : State} {d : Fld} {v : DWord} (h : CanIssue i s)
    (hv : pairResult i s.r = some (d, v)) : exec i s = .next (s.wrote i fun r => r.setD d v) :=
  exec_regs h (bodyOf_of_pairResult hv) fun _ => rfl

theorem exec_of_predResult {i : Instr} {s : State} {d : Fld} {v : Bool} (h : CanIssue i s)
    (hv : predResult i s.r = some (d, v)) : exec i s = .next (s.wrote i fun r => r.setP d.toNat v) :=
  exec_regs h (bodyOf_of_predResult hv) fun _ => rfl

/-! ### What a commit leaves of the registers, and reads after writes -/

/-- A predicate other than p0 after a write to one (R16). -/
theorem Regs.p_setP (r : Regs) (m : Nat) (v : Bool) {k : Nat} (h0 : 0 < k) (hk : k < 16) :
    (r.setP m v).p k = if k = m then v else r.p k := by
  have hone : (1#16).getLsbD k = false := by simpa [Nat.ne_of_lt h0] using bit_ofNat 0 k
  have hbit : (BitVec.ofNat 16 (2 ^ m)).getLsbD k = decide (k = m) := by simp only [bit_ofNat, hk, eq_comm, decide_true, Bool.true_and]
  unfold Regs.p Regs.setP Regs.setPw
  dsimp only
  cases v <;> simp only [BitVec.getLsbD_or, BitVec.getLsbD_and, BitVec.getLsbD_not, if_true, Bool.false_eq_true, if_false, hone,
    hbit, hk] <;> by_cases h : k = m <;> simp [h]

/-- A change of cells and predicates only leaves the rest of the registers, but for the PC, YDL and the loops. -/
theorem wrote_same {i : Instr} {s : State} {k : Regs → Regs} (hk : ∀ r, { k r with cells := r.cells, pw := r.pw } = r) :
    { (s.wrote i k).r with pc := s.r.pc, ydl := s.r.ydl, loops := s.r.loops, cells := s.r.cells, pw := s.r.pw } = s.r := by
  rw [wrote_r, arriveAt_same]
  exact congrArg (fun r : Regs => { r with pc := s.r.pc, ydl := s.r.ydl, loops := s.r.loops })
    (hk { s.r with pc := nextAfter (infoOf i) s.r.pc })

theorem wrote_cells {i : Instr} {s : State} {k : Regs → Regs} :
    (s.wrote i k).r.cells = (k { s.r with pc := nextAfter (infoOf i) s.r.pc }).cells := (arriveAt_cells _ _).1
theorem wrote_pw {i : Instr} {s : State} {k : Regs → Regs} :
    (s.wrote i k).r.pw = (k { s.r with pc := nextAfter (infoOf i) s.r.pc }).pw := (arriveAt_cells _ _).2.1
theorem wrote_base {i : Instr} {s : State} {k : Regs → Regs} :
    (s.wrote i k).r.base = (k { s.r with pc := nextAfter (infoOf i) s.r.pc }).base := (arriveAt_cells _ _).2.2
/-- A predicate after the commit is that after the change. -/
theorem wrote_p {i : Instr} {s : State} {k : Regs → Regs} (j : Nat) :
    (s.wrote i k).r.p j = (k { s.r with pc := nextAfter (infoOf i) s.r.pc }).p j :=
  congrArg (BitVec.getLsbD · j) wrote_pw
theorem wrote_cell {i : Instr} {s : State} {k : Regs → Regs} (j : Nat) :
    (s.wrote i k).r.cell j = (k { s.r with pc := nextAfter (infoOf i) s.r.pc }).cell j := by
  unfold Regs.cell
  rw [wrote_cells, wrote_base]

theorem wrote_d {i : Instr} {s : State} {k : Regs → Regs} (f : Fld) :
    (s.wrote i k).r.d f = (k { s.r with pc := nextAfter (infoOf i) s.r.pc }).d f := by
  unfold Regs.d
  rw [wrote_cell, wrote_cell]

/-- A cell of the window after a write to a cell of the window. -/
theorem Regs.cell_setAt (r : Regs) (p j : Nat) (v : Word) (b : Bool) (h : r.base + p < r.cells.length) :
    (r.setAt (r.base + p) v b).cell j = if j = p then ⟨v, b⟩ else r.cell j := by
  unfold Regs.cell Regs.setAt
  simp only [List.getD_eq_getElem?_getD, List.getElem?_set]
  by_cases hj : j = p
  · simp [hj, h]
  · simp [hj, Ne.symm hj]

theorem Regs.cell_setW_same (r : Regs) (d : Fld) (v : Word) (h : r.base + d.toNat < r.cells.length) :
    (r.setW d v).cell d.toNat = ⟨v, true⟩ := by
  rw [Regs.setW, Regs.cell_setAt _ _ _ _ _ h, if_pos rfl]

/-- A pair reads what was written to it. -/
theorem Regs.d_setD_same (r : Regs) (d : Fld) (v : DWord) (h : r.base + d.toNat + 1 < r.cells.length) :
    (r.setD d v).d d = v := by
  let low := r.setAt (r.base + d.toNat) (v.extractLsb' 0 32) true
  have hlow : low.cell d.toNat = ⟨v.extractLsb' 0 32, true⟩ := (Regs.cell_setAt r _ _ _ _ (by omega)).trans (if_pos rfl)
  have hset (j : Nat) : (r.setD d v).cell j = if j = d.toNat + 1 then ⟨v.extractLsb' 32 32, true⟩ else low.cell j :=
    Regs.cell_setAt low (d.toNat + 1) j _ _ (by rw [Regs.setAt_cells, List.length_set]; exact h)
  unfold Regs.d
  rw [hset, hset, if_pos rfl, if_neg (by omega), hlow]
  exact dword_halves v

/-- Settles O11: each such word is a `wrote` of its destination, and a read after that write is the value at the destination and
as before elsewhere. -/
theorem registerFrame : Obligations.RegisterFrame := by
  unfold Obligations.RegisterFrame
  intro i s h
  refine ⟨fun d v hv => ⟨_, exec_of_cellResult h hv, wrote_rest, wrote_same fun _ => rfl, wrote_pw, ?_, ?_⟩,
    fun d v hv => ⟨_, exec_of_pairResult h hv, wrote_rest, wrote_same fun _ => rfl, wrote_pw, ?_, ?_⟩,
    fun d v hv => ⟨_, exec_of_predResult h hv, wrote_rest, wrote_same fun _ => rfl, wrote_cells, ?_, ?_, ?_⟩⟩
  · intro hd
    have hc : (s.wrote i fun r => r.setW d v).r.cell d.toNat = ⟨v, true⟩ :=
      (wrote_cell _).trans (Regs.cell_setW_same _ d v hd)
    exact ⟨congrArg Cell.val hc, congrArg Cell.full hc⟩
  · intro k hk
    rw [wrote_cells]
    exact List.getElem?_set_ne hk.symm
  · intro hd
    rw [wrote_d]
    exact Regs.d_setD_same _ d v hd
  · intro k hk hk1
    rw [wrote_cells]
    exact (List.getElem?_set_ne hk1.symm).trans (List.getElem?_set_ne hk.symm)
  · intro h0 h16
    rw [wrote_p, Regs.p_setP _ _ _ h0 h16, if_pos rfl]
  · intro hd
    rw [wrote_p]
    exact Regs.p_zero_setPw ..
  · intro k hk h0 h16
    rw [wrote_p, Regs.p_setP _ _ _ h0 h16, if_neg hk]
    rfl

/-! ### The PRC group, `gets`, `sets`, `w2p` and `sel.y` -/

/-- A y register written in the window that stands. -/
theorem State.putY_apply (s : State) (f : Fld) (v : YReg) (k : Regs → Regs) (hk : (k s.r).frames = s.r.frames := by rfl) :
    s.putY f v (s.onRegs k) =
      (s.onRegs k).onRegs fun r => { r with ys := r.ys.set f.toNat { v with full := true } } := by
  simp [State.putY, State.onRegs, Regs.deliver, hk]

/-- `gets` and `sets` wait for the flags where they name PRC (R146). -/
theorem waitsForFlags_sysReg {i : Instr} {s : State} {d b : Fld} (hi : i = .gets d b ∨ i = .sets d b) :
    waitsForFlags i s = true ↔ b.toNat = 1 ∧ s.f.flagsPending = true := by
  have hw : waitsForFlags i s = (b == 1#6 && s.f.flagsPending) := by rcases hi with rfl | rfl <;> rfl
  simp [hw, ← BitVec.toNat_inj]

theorem bodyOf_gets {s : State} {d b : Fld} {v : Word} (hv : s.sysReg b.toNat = some v) :
    bodyOf (.gets d b) s = if waitsForFlags (.gets d b) s then .wait else .regs (s.putW d v) := by
  show getsWord s d b.toNat = _
  simp only [getsWord, hv, waitsForFlags_sysReg (.inl rfl)]

theorem bodyOf_sets {s : State} {a b : Fld} {k : Regs → Regs} (hk : setSys b.toNat (s.r.w a) = some k) :
    bodyOf (.sets a b) s = if waitsForFlags (.sets a b) s then .wait else .regs fun t => t.onRegs k := by
  show setsWord s a b.toNat = _
  simp only [setsWord, hk, waitsForFlags_sysReg (.inr rfl)]

theorem prcRefuses_setl (a : Fld) (s : State) :
    prcRefuses (.setl a) s = true ↔ (s.r.w a).toNat < 2 ∨ 237 < (s.r.w a).toNat := by
  show (decide (s.r.w a < 2#32) || decide (237#32 < s.r.w a)) = true ↔ _
  simp [BitVec.lt_def]

theorem prcRefuses_setrm (a : Fld) (s : State) : prcRefuses (.setrm a) s = true ↔ 5 < (s.r.w a).toNat :=
  decide_eq_true_iff

theorem prcRefuses_clrflags (a : Fld) (s : State) :
    prcRefuses (.clrflags a) s = true ↔ (s.r.w a).extractLsb' 6 26 ≠ 0#26 := bne_iff_ne

/-- A word of the PRC group, `gets`, `sets`, `w2p` or `sel.y` waits for the flags that it must see, is refused, or changes the
registers as the table says (06 R146, R155, 05 R117, R118, R137). -/
theorem bodyOf_of_regEffect {i : Instr} {s : State} {k : Regs → Regs} (h : regEffect i s = some k) :
    ∃ K : State → State, (∀ pc : DWord, K (s.onRegs fun r => { r with pc := pc }) = (s.onRegs fun r => { r with pc := pc }).onRegs k) ∧
      bodyOf i s = if waitsForFlags i s then .wait else if prcRefuses i s then .illegal else .regs K := by
  unfold regEffect at h
  split at h
  case h_1 d => -- getprc
    cases h
    exact ⟨s.putW d s.r.prc, fun _ => rfl, rfl⟩
  case h_2 d => -- getflags
    cases h
    exact ⟨s.putW d ((prcFlags s.r.prc).setWidth 32), fun _ => rfl, rfl⟩
  case h_3 d => -- rnd
    cases h
    exact ⟨fun t => (s.putW d s.drawn t).onRegs fun r => r.drew true, fun _ => rfl, rfl⟩
  case h_4 a => -- setprc
    cases h
    exact ⟨fun t => t.onRegs _, fun _ => rfl, rfl⟩
  case h_5 a => -- setl
    cases h
    refine ⟨fun t => t.onRegs _, fun _ => rfl, ?_⟩
    simp only [prcRefuses_setl]
    rfl
  case h_6 a => -- setrm
    cases h
    refine ⟨fun t => t.onRegs _, fun _ => rfl, ?_⟩
    simp only [prcRefuses_setrm]
    rfl
  case h_7 a => -- clrflags
    cases h
    refine ⟨fun t => t.onRegs _, fun _ => rfl, ?_⟩
    simp only [prcRefuses_clrflags]
    rfl
  case h_8 d b => -- gets
    obtain ⟨v, hv, rfl⟩ := Option.map_eq_some_iff.1 h
    exact ⟨s.putW d v, fun _ => rfl, bodyOf_gets hv⟩
  case h_9 a b => -- sets
    exact ⟨fun t => t.onRegs k, fun _ => rfl, bodyOf_sets h⟩
  case h_10 a ea => -- w2p
    cases h
    exact ⟨fun t => t.onRegs _, fun _ => rfl, rfl⟩
  case h_11 d a b p n => -- sel.y
    cases h
    exact ⟨s.putY d (if condHolds s p n then s.r.y a else s.r.y b), fun _ => State.putY_apply .., rfl⟩
  case h_12 => cases h

theorem isEvent_of_regEffect {i : Instr} {s : State} {k : Regs → Regs} (h : regEffect i s = some k) : isEvent i = false := by
  unfold regEffect at h
  split at h
  case h_12 => cases h
  all_goals rfl

/-- Only the words that write a whole PRC, a field of it or its flags can be refused for a value (R25, R155). -/
theorem regEffect_of_prcRefuses {i : Instr} {s : State} (h : prcRefuses i s = true) :
    (∃ k, regEffect i s = some k) ∧ (infoOf i).word = encode false i := by
  unfold prcRefuses at h
  split at h
  case h_5 => cases h
  all_goals exact ⟨⟨_, rfl⟩, rfl⟩

/-- A `gets` or `sets` of a selector or value that R27 does not allow is refused. -/
theorem bodyOf_gets_sets_refused {i : Instr} {s : State} {d b : Fld} (hi : i = .gets d b ∨ i = .sets d b)
    (h : regEffect i s = none) : bodyOf i s = .illegal := by
  rcases hi with rfl | rfl
  · have hv : s.sysReg b.toNat = none := Option.map_eq_none_iff.1 h
    show getsWord s d b.toNat = _
    rw [getsWord, hv]
  · have hv : setSys b.toNat (s.r.w d) = none := h
    show setsWord s d b.toNat = _
    rw [setsWord, hv]

/-- Settles O15: what the word asks for is decided by the flags that it must see, then by its value. -/
theorem registerWords : Obligations.RegisterWords := by
  unfold Obligations.RegisterWords
  refine ⟨fun i s k hc hk hw hp => ?_, fun i s hc => ⟨fun hw _ ⟨k, hk⟩ => ?_, fun hw hp => ?_, fun d b hi hn => ?_⟩⟩
  · obtain ⟨K, hK, hb⟩ := bodyOf_of_regEffect hk
    rw [hw, hp] at hb
    exact exec_regs hc hb hK
  · obtain ⟨K, -, hb⟩ := bodyOf_of_regEffect hk
    rw [hw] at hb
    exact exec_wait hc (isEvent_of_regEffect hk) hb
  · obtain ⟨⟨k, hk⟩, hword⟩ := regEffect_of_prcRefuses hp
    obtain ⟨K, -, hb⟩ := bodyOf_of_regEffect hk
    rw [hw, hp] at hb
    exact exec_illegal hc (isEvent_of_regEffect hk) hb hword
  · have hb := bodyOf_gets_sets_refused hi hn
    exact exec_illegal hc (isEvent_of_bodyOf hb nofun) hb (by rcases hi with rfl | rfl <;> rfl)

end Sys2Proof.Machine
end

section
/-!
PROOFS of the Y-pipe words that round (06 R142 to R150, R153): their checks in the order of R92, and their commit.
-/
namespace Sys2Proof.Machine

/-- `ysub` adds the subtrahend with its sign inverted, but a NaN keeps its own sign (R87). -/
theorem yAddSub_sub (s : State) (d a b : Fld) :
    yAddSub s true d a b = yForm s [a, b] (yRound s (passesC s) d (exactAdd (prcRM s.r.prc == .rdn) (s.yv a)
      (if (s.yv b).isNan then s.yv b else (s.yv b).negate)) (addendExp (s.yv a) (s.yv b))) := by
  unfold yAddSub
  cases (s.yv b).isNan <;> rfl

theorem yFromInt_signed {w : Nat} (s : State) (d : Fld) (x : BitVec w) :
    yFromInt s d x.toInt = yRound s (passesC s) d (unrounded (V.ofNK x.msb x.toInt.natAbs 0)) none := by
  rw [BitVec.msb_eq_toInt]
  rfl

theorem yFromInt_unsigned (s : State) (d : Fld) (n : Nat) :
    yFromInt s d (n : Int) = yRound s (passesC s) d (unrounded (V.ofNK false n 0)) none := by
  have h : ¬((n : Int) < 0) := by omega
  rw [yFromInt, decide_eq_false h, Int.natAbs_natCast]

/-- A word that rounds checks its y sources and then rounds the exact result of the table (R142). -/
theorem bodyOf_of_yExact {i : Instr} {s : State} {d : Fld} {srcs : List Fld} {passes : Nat} {x : Exact}
    {e : Option (Int × Bool)} (h : yExact i s = some (d, srcs, passes, x, e)) :
    bodyOf i s = yForm s srcs (yRound s passes d x e) := by
  unfold yExact at h
  dsimp only at h
  split at h
  all_goals cases h
  case h_2 => exact yAddSub_sub .. -- ysub
  case h_24 => exact yFromInt_signed .. -- ycvt of a signed cell
  case h_25 => exact yFromInt_unsigned .. -- ycvt of an unsigned cell
  case h_26 => exact yFromInt_signed .. -- ycvt of a signed pair
  case h_27 => exact yFromInt_unsigned .. -- ycvt of an unsigned pair
  all_goals rfl

theorem isEvent_of_yExact {i : Instr} {s : State} {x : Fld × List Fld × Nat × Exact × Option (Int × Bool)}
    (h : yExact i s = some x) : isEvent i = false := by
  unfold yExact at h
  dsimp only at h
  split at h <;> cases h <;> rfl

theorem yForm_bad {s : State} {srcs : List Fld} {f : Fld} (k : WordRes)
    (h : (srcs.find? fun f => !(s.r.y f).valid s.r.lw) = some f) :
    yForm s srcs k = .trap 0x0F 0 (BitVec.ofNat 64 (2 ^ 63 + f.toNat)) := by
  rw [yForm, badHeader, h]
  rfl

theorem yForm_good {s : State} {srcs : List Fld} (k : WordRes)
    (h : (srcs.find? fun f => !(s.r.y f).valid s.r.lw) = none) : yForm s srcs k = k := by
  rw [yForm, badHeader, h]

/-- `yRound` checks the length, its draw, the bits kept and the enabled flags, in this order, and then commits (R92, R142). -/
theorem yRound_eq (s : State) (passes : Nat) (d : Fld) (srcs : List Fld) (x : Exact) (e : Option (Int × Bool)) :
    yRound s passes d x e =
      if s.r.lw < prcL s.r.prc then .trap 0x06 1 (BitVec.ofNat 64 (prcL s.r.prc + 256 * s.r.lw))
      else if prcRM s.r.prc = .rsr ∧ s.f.drawWaits = true then .wait
      else if s.shortOf x e = true ∧ pxEnabled s.r.prc = true then
        .trap 0x06 2 (BitVec.ofInt 64 ((e.map fun y => s.keptBits x y.1).getD 0))
      else if enabled s.r.prc (s.yDone d srcs passes x e).flags = true then
        .trap 0x05 (s.yDone d srcs passes x e).flags.toNat 0#64
      else .commit .seq ((s.yDone d srcs passes x e).effect s) := by
  rw [yRound_core s passes d srcs x e]
  simp only [yDeliver_eq, Bool.and_eq_true, decide_eq_true_eq]
  have hdrew : (s.yDone d srcs passes x e).drew = true ↔ prcRM s.r.prc = .rsr := decide_eq_true_iff
  simp only [hdrew]
  split_ifs <;> rfl

/-- Settles O12: with sound headers, a precision that fits, and no trap or wait of its own, a rounding word delivers `yDone`. -/
theorem yRoundWords : Obligations.YRoundWords := by
  unfold Obligations.YRoundWords
  intro i s d srcs passes x e hc hx hlw hshort ⟨hsrc, hflags, hdraw⟩
  have hgood : (srcs.find? fun f => !(s.r.y f).valid s.r.lw) = none :=
    List.find?_eq_none.2 fun f hf => by simpa using hsrc f hf
  have hnodraw : ¬(prcRM s.r.prc = .rsr ∧ s.f.drawWaits = true) := fun ⟨hr, hd⟩ =>
    absurd (hdraw (decide_eq_true hr)) (by simp [hd])
  have hkept : ¬(s.shortOf x e = true ∧ pxEnabled s.r.prc = true) := fun ⟨hs, hp⟩ => absurd (hshort hs) (by simp [hp])
  refine exec_commit hc (isEvent_of_yExact hx) ?_
  rw [bodyOf_of_yExact hx, yForm_good _ hgood, yRound_eq s passes d srcs x e, if_neg (by omega), if_neg hnodraw, if_neg hkept,
    if_neg (by simp [hflags])]

/-- Settles O14: the checks of `yForm` come before those of `yRound`, which come in the order of R92. -/
theorem yTraps : Obligations.YTraps := by
  unfold Obligations.YTraps
  intro i s d srcs passes x e hc hx
  have he := isEvent_of_yExact hx
  have hb := bodyOf_of_yExact hx
  dsimp only
  split
  case h_1 f hf => exact exec_trap hc he (hb.trans (yForm_bad _ hf))
  case h_2 hf =>
    rw [yForm_good _ hf, yRound_eq s passes d srcs x e] at hb
    split_ifs at hb ⊢
    · exact exec_trap hc he hb
    · exact exec_wait hc he hb
    · exact exec_trap hc he hb
    · exact exec_trap hc he hb

end Sys2Proof.Machine
end

section
/-!
PROOFS of calls, `enter`, `ret`, `eret` and trap entry (05 R126 to R131, R138, 01 R21 to R32): all slide or restore the window.
-/
namespace Sys2Proof.Machine

/-! ### Control flow -/

/-- A packet-relative offset (R125). -/
theorem signExtend_shiftLeft_four {w : Nat} (o : BitVec w) : o.signExtend 64 <<< 4 = BitVec.ofInt 64 (16 * o.toInt) := by
  rw [BitVec.shiftLeft_eq_mul_twoPow, BitVec.ofInt_mul, BitVec.mul_comm]
  rfl

theorem target_eq (s : State) (o : BitVec 20) : target s o = packetAt s o.toInt := by
  rw [target, packetAt, signExtend_shiftLeft_four]
  rfl

/-- A call that slides the window is a `callTo` (R126, R127). -/
theorem bodyOf_of_callTarget {i : Instr} {s : State} {pc : DWord} (h : callTarget i s = some pc) :
    bodyOf i s = callTo s pc := by
  unfold callTarget at h
  split at h
  case h_1 p n o =>
    split_ifs at h with hp
    cases h
    show bodyCall p n o s = _
    rw [bodyCall, ite_condHolds, if_pos hp, target_eq]
  case h_2 a =>
    split_ifs at h with hp
    cases h
    exact if_neg hp
  case h_3 => cases h

theorem callTo_room {s : State} {pc : DWord} (h : 12 ≤ cellsAfterCall s.r) :
    callTo s pc = .commit (.goto pc) fun t => t.onRegs fun r => r.slideCall r.pc :=
  if_neg (by simpa [cellsAfterCall] using h)

theorem callTo_full {s : State} {pc : DWord} (h : cellsAfterCall s.r < 12) :
    callTo s pc = .trap 0x07 0 (s.r.spillVal (cellsAfterCall s.r)) := if_pos h

/-- Settles O18: a call is a `callTo`, which commits or traps by the cells that it would leave. -/
theorem callSlidesWindow : Obligations.CallSlidesWindow := by
  unfold Obligations.CallSlidesWindow
  intro i s pc hc ht
  constructor
  · intro hroom
    have hb := (bodyOf_of_callTarget ht).trans (callTo_room hroom)
    exact exec_commit hc (isEvent_of_bodyOf hb nofun) hb
  · intro hfull
    have hb := (bodyOf_of_callTarget ht).trans (callTo_full hfull)
    exact exec_trap hc (isEvent_of_bodyOf hb nofun) hb

/-! ### The slide of a window -/

/-- Zeroed cells change the cell list only. -/
theorem Regs.zeroCells_eq (r : Regs) (lo hi : Nat) : r.zeroCells lo hi = { r with cells := (r.zeroCells lo hi).cells } :=
  Regs.setRun_eq r lo _

theorem Regs.zeroCells_length (r : Regs) (lo hi : Nat) : (r.zeroCells lo hi).cells.length = r.cells.length :=
  Regs.setRun_length r lo _

theorem Regs.zeroCells_cells (r : Regs) (lo hi i : Nat) :
    (r.zeroCells lo hi).cells[i]? = if lo ≤ i ∧ i < hi ∧ i < r.cells.length then some Cell.zero else r.cells[i]? := by
  unfold Regs.zeroCells
  rw [Regs.setRun_cells, List.length_replicate]
  by_cases h : lo ≤ i ∧ i < hi ∧ i < r.cells.length
  · rw [if_pos h, if_pos (by omega), List.getElem?_replicate_of_lt (by omega)]
    rfl
  · rw [if_neg h, if_neg (by omega)]

/-- What a slide leaves but for the cells. -/
theorem Regs.slide_eq (r : Regs) (kind : Nat) (rpc : DWord) (delta keep : Nat) :
    r.slide kind rpc delta keep =
      { r with
        frames := { rpc := rpc, n := r.n, m := r.m, lw := r.lw, kind := kind, delta := delta, ys := r.ys } :: r.frames
        base := r.base + delta, n := 8, lw := 0, ys := [], cells := (r.slide kind rpc delta keep).cells } :=
  Regs.zeroCells_eq ..

theorem Regs.slide_length (r : Regs) (kind : Nat) (rpc : DWord) (delta keep : Nat) :
    (r.slide kind rpc delta keep).cells.length = r.cells.length := Regs.zeroCells_length ..

theorem Regs.slide_base (r : Regs) (kind : Nat) (rpc : DWord) (delta keep : Nat) :
    (r.slide kind rpc delta keep).base = r.base + delta := congrArg Regs.base (Regs.slide_eq ..)

theorem Regs.slide_cells_below (r : Regs) (kind : Nat) (rpc : DWord) {delta keep pos : Nat} (h : pos < r.base + delta + keep) :
    (r.slide kind rpc delta keep).cells[pos]? = r.cells[pos]? :=
  (Regs.zeroCells_cells ..).trans (if_neg (by omega))

/-- A cell of the new window: one of the first `keep` is the old window's, the others are zero and full. -/
theorem Regs.slide_cell (r : Regs) (kind : Nat) (rpc : DWord) {delta keep j : Nat} (hj : j < 8)
    (hfit : r.base + delta + 8 ≤ r.cells.length) :
    (r.slide kind rpc delta keep).cell j = if j < keep then r.cell (delta + j) else ⟨0#32, true⟩ := by
  unfold Regs.cell
  rw [List.getD_eq_getElem?_getD, Regs.slide_base]
  by_cases hk : j < keep
  · rw [if_pos hk, Regs.slide_cells_below _ _ _ (by omega), Nat.add_assoc, List.getD_eq_getElem?_getD]
  · rw [if_neg hk]
    have hz : (r.slide kind rpc delta keep).cells[r.base + delta + j]? = some Cell.zero :=
      (Regs.zeroCells_cells ..).trans (if_pos ⟨by omega, by omega, by dsimp only; omega⟩)
    rw [hz]
    rfl

theorem total_cons (x : Nat) (l : List Nat) : total (x :: l) = x + total l := by
  have h : ∀ (l : List Nat) (a : Nat), l.foldl (· + ·) a = a + l.foldl (· + ·) 0 := by
    intro l
    induction l with
    | nil => simp
    | cons y l ih => intro a; rw [List.foldl_cons, List.foldl_cons, ih, ih (0 + y)]; omega
  exact (h l (0 + x)).trans (by rw [Nat.zero_add]; rfl)

/-- A slide takes 4 cells for its record beside those by which the top moves (R17, R23). -/
theorem Regs.slide_wq (r : Regs) (kind : Nat) (rpc : DWord) (delta keep : Nat) :
    (r.slide kind rpc delta keep).wq = r.wq - 4 - ((delta : Int) + 8 - r.n) := by
  have hq := Regs.slide_length r kind rpc delta keep
  unfold Regs.wq Regs.quota
  rw [hq, Regs.slide_eq]
  simp only [Regs.top, Regs.down, Regs.m, yCost, List.length_nil, List.map_cons, total_cons, Frame.cost]
  push_cast
  omega

/-- After a slide the fields of the window are those of a fresh one over the old (R22). -/
theorem Regs.slide_window (r : Regs) (kind : Nat) (rpc : DWord) (delta keep : Nat) :
    let t := r.slide kind rpc delta keep
    t.base = r.base + delta ∧ t.n = 8 ∧ t.lw = 0 ∧ t.ys = [] ∧
      t.frames = { rpc := rpc, n := r.n, m := r.m, lw := r.lw, kind := kind, delta := delta, ys := r.ys } :: r.frames := by
  dsimp only
  rw [Regs.slide_eq]
  exact ⟨rfl, rfl, rfl, rfl, rfl⟩

theorem committed_goto_r (i : Instr) (pc : DWord) (f : Regs → Regs) (s : State) :
    (s.committed i (.goto pc) fun t => t.onRegs f).r =
      let r := f { s.r with pc := nextAfter (infoOf i) s.r.pc }
      { r with ydl := ydlOf (leftOf i s) (ydlHint r.ydl) (ydlIdle r.ydl), pc := pc } := rfl

/-- Settles O19: a call is a slide of kind 0 that keeps the last cells of the caller's window. -/
theorem calleeWindow : Obligations.CalleeWindow := by
  unfold Obligations.CalleeWindow
  intro i s pc j hc ht hroom hj
  refine ⟨_, (callSlidesWindow i s pc hc ht).1 hroom, ?_⟩
  have hwq : s.r.wq = s.r.cells.length - (s.r.base + s.r.n : Nat) - s.r.down := rfl
  unfold cellsAfterCall at hroom
  dsimp only
  rw [committed_goto_r]
  obtain ⟨hbase, hn, hlw, hys, hframes⟩ := Regs.slide_window { s.r with pc := nextAfter (infoOf i) s.r.pc } 0
    (nextAfter (infoOf i) s.r.pc) (s.r.n - min s.r.n 8) (min s.r.n 8)
  refine ⟨rfl, hbase.trans ?_, hn, congrArg List.length hys, hlw, ?_, hframes, ?_, fun pos hpos => ?_⟩
  · show s.r.base + (s.r.n - min s.r.n 8) = _
    omega
  · exact Regs.slide_cell _ 0 _ hj (by dsimp only; omega)
  · refine (Regs.slide_wq ..).trans ?_
    show s.r.wq - 4 - _ = _
    dsimp only
    omega
  · exact Regs.slide_cells_below _ 0 _ (by dsimp only; omega)

/-! ### `enter`, `ret`, `eret` -/

/-- The cells that `enterWord` counts are those of the window that it would make. -/
theorem enter_left (r : Regs) (n m lw : Nat) :
    (r.quota : Int) - (r.base + n) - (r.down - yCost r.m r.lw + yCost m lw) = cellsAfterEnter r n m lw := by
  simp only [cellsAfterEnter, Regs.quota, Regs.down, yCost]
  push_cast
  omega

theorem enterWord_eq (s : State) (n m v : Nat) :
    enterWord s n m v =
      let lw := if v = 0 then prcL s.r.prc else v
      let left := cellsAfterEnter s.r n m lw
      if left < 12 then .trap 0x07 0 (s.r.spillVal left)
      else if s.f.pendingFrom (s.r.base + min s.r.n n) s.r.frames.length then .wait
      else .regs fun t => (t.clip (t.r.base + min t.r.n n) t.r.frames.length).onRegs fun r => r.enter n m lw := by
  dsimp only
  rw [← enter_left]
  rfl

/-- Settles O20: `enter` traps for want of cells, and else makes the window once no write to what it drops is pending. -/
theorem enterMakesWindow : Obligations.EnterMakesWindow := by
  unfold Obligations.EnterMakesWindow
  intro d a v s hc
  have hb : bodyOf (.enter d a v) s = _ := enterWord_eq s (d.toNat + 1) a.toNat v.toNat
  dsimp only at hb ⊢
  constructor
  · intro hroom hpend
    rw [if_neg (by omega), if_neg (by simp [hpend])] at hb
    rw [exec_commit hc rfl hb]
    exact congrArg _ (committed_congr fun _ => rfl)
  · intro hfull
    exact exec_trap hc rfl (hb.trans (if_pos hfull))

/-- Settles O21: `retWord` looks at the youngest record, or at what is spilled where there is none. -/
theorem retPopsRecord : Obligations.RetPopsRecord := by
  unfold Obligations.RetPopsRecord
  intro s hc
  have hb : bodyOf .ret s = retWord s := rfl
  unfold retWord at hb
  refine ⟨fun fr rest hf hk hp => ?_, fun fr rest hf hk => ?_, fun hf hs => ?_, fun hf hs hp => ?_⟩
  · simp only [hf, hk, hp, if_false, Bool.false_eq_true] at hb
    rw [exec_commit hc rfl hb]
    exact congrArg _ (committed_congr fun _ => rfl)
  · simp only [hf, hk, if_true] at hb
    exact exec_illegal hc rfl hb rfl
  · simp only [hf] at hb
    exact exec_trap hc rfl (hb.trans (if_pos hs))
  · simp only [hf, hs, hp, ne_eq, not_true_eq_false, if_false, Bool.false_eq_true] at hb
    exact exec_commit hc rfl hb

/-- Without a count in TCAUSE `eret` moves no frames (R418). -/
theorem frameMove_none {s : State} (h : s.r.tcause.extractLsb' 8 8 = 0#8) : s.frameMove = .none := by
  unfold State.frameMove
  exact if_pos (Or.inl (by rw [h]; rfl))

/-- Settles O22: `eretWord` refuses outside a handler, and without frames to move restores the window below it. -/
theorem eretLeavesHandler : Obligations.EretLeavesHandler := by
  unfold Obligations.EretLeavesHandler
  intro s fr rest hc hf
  have hb : bodyOf .eret s = eretWord s := rfl
  unfold eretWord at hb
  simp only [hf] at hb
  constructor
  · intro hk hpc hm hp
    simp only [hk, hpc, hp, frameMove_none hm, or_self, if_false, Bool.false_eq_true] at hb
    rw [exec_commit hc rfl hb]
    refine congrArg _ (committed_congr fun _ => ?_)
    simp [State.moveFrames, State.wordDone, State.clip, State.onRegs, hf, Regs.trapReturn, Regs.unslide, Regs.leaveFrame]
  · intro hbad
    exact exec_illegal hc rfl (hb.trans (if_pos hbad)) rfl

/-! ### Trap entry -/

/-- What a chain that has committed keeps under way has the flags that it had (R146, R158). -/
theorem Fibre.flagsPending_based (b : Fibre) (start : Nat) (r0 : Option Regs) :
    (b.based start r0).flagsPending = b.flagsPending := by
  unfold Fibre.flagsPending Fibre.based
  rw [List.any_map, List.any_map]
  congr 2
  · funext a
    simp only [Function.comp]
    split
    · rfl
    · unfold Access.passed; split <;> rfl
  · funext v
    simp only [Function.comp]
    split <;> rfl

/-- A trap that is not refused, of a fibre without pending flags, is entered at once (R31, R146). -/
theorem trap_enters {s : State} {first tepc val : DWord} {code sub : Nat} (hr : s.r.trapRefused = false)
    (hf : s.f.flagsPending = false) :
    s.trap first tepc code sub val = { s with f := { s.f with
      due := none, early := none, acc := s.f.acc.map Access.passed, regs := s.r.trapEntry tepc code sub val } } := by
  rw [State.trap, if_neg (by simp [hr]), State.enterTrap, if_neg (by simp [hf])]

/-- What the issue logic knows of `trap` and `brk`: they act after their commit, and are system words (R138). -/
theorem trapWord_info {i : Instr} (s : State) {code sub : Nat}
    (hi : (∃ b : Fld, i = .trap b ∧ code = 0x0D ∧ sub = b.toNat) ∨ (i = .brk ∧ code = 0x0C ∧ sub = 0)) :
    bodyOf i s = .after code sub ∧ (infoOf i).maj = 0x38 ∧ (infoOf i).deadline = none := by
  rcases hi with ⟨b, rfl, rfl, rfl⟩ | ⟨rfl, rfl, rfl⟩
  · exact ⟨rfl, majOf_fx (i := .trap b) rfl, rfl⟩
  · exact ⟨rfl, majOf_fx (i := .brk) rfl, rfl⟩

/-- Settles O27: the word commits, and the flags that it leaves pending are those from before it. -/
theorem trapWords : Obligations.TrapWords := by
  unfold Obligations.TrapWords
  intro s i code sub hc hi hr hf
  obtain ⟨hb, hmaj, hdl⟩ := trapWord_info s hi
  have hnext : nextAfter (infoOf i) s.r.pc = pcNext s.r.pc := by rw [nextAfter, hmaj]; rfl
  have hback : s.backTo i = none := by rw [State.backTo, Info.restarts, hmaj]; rfl
  have hleft : leftOf i s = ydlLeft s.r.ydl - 1 := by rw [leftOf, hdl]
  rw [exec_word i (isEvent_of_bodyOf hb nofun), issueOne_after hc hr hf hb, hnext, hback, hleft, State.enterTrap]
  have hclear : (s.f.based s.f.nextSer none).flagsPending = false := (Fibre.flagsPending_based ..).trans hf
  exact congrArg (fun t => Host.Outcome.next (State.tick t)) (if_neg (ne_true_of_eq_false hclear))

theorem trapCause_eq {code sub : Nat} (hc : code < 256) (hs : sub < 256) :
    trapCause code sub = BitVec.ofNat 32 (2 ^ 31 + sub * 256 + code) := by
  have hor : 2 ^ 31 + (sub * 256 + code) = 2 ^ 31 ||| (sub * 256 + code) :=
    Nat.two_pow_add_eq_or_of_lt (i := 31) (by omega) 1
  rw [trapCause, Nat.mod_eq_of_lt hs, Nat.add_assoc, hor, BitVec.ofNat_or]
  rfl

/-- Trap entry is a slide of kind 1 past the whole window, beside TEPC, TCAUSE, TVAL and the PC (R31): the cells of the old
window stay, those of the new one are zero and full. -/
theorem Regs.trapEntry_eq (r : Regs) (tepc val : DWord) (code sub : Nat) (hfit : r.base + r.n + 8 ≤ r.cells.length) :
    ∃ cells, r.trapEntry tepc code sub val =
        { r with
          tepc := tepc, tcause := trapCause code sub, tval := val, pc := pcPacket r.tvec
          frames := ⟨0#64, r.n, r.m, r.lw, 1, r.n, r.ys⟩ :: r.frames
          base := r.base + r.n, n := 8, lw := 0, ys := [], cells := cells } ∧
      (∀ pos, pos < r.base + r.n → cells[pos]? = r.cells[pos]?) ∧
      ∀ j, j < 8 → cells.getD (r.base + r.n + j) Cell.zero = ⟨0#32, true⟩ := by
  let saved := { r with tepc := tepc, tcause := trapCause code sub, tval := val }
  refine ⟨(saved.slide 1 0#64 r.n 0).cells, ?_, fun pos h => Regs.slide_cells_below saved 1 _ h, fun j hj => ?_⟩
  · rw [Regs.trapEntry, Regs.slideTrap, Regs.slide_eq]
    rfl
  · have h := Regs.slide_cell saved 1 0#64 (keep := 0) hj hfit
    rwa [Regs.cell, Regs.slide_base] at h

/-- Settles O28: trap entry is a slide past the whole window, whose eight cells are new. -/
theorem trapEntry : Obligations.TrapEntry := by
  unfold Obligations.TrapEntry
  intro s first tepc val code sub j hr hf hc hs hj hfit
  obtain ⟨cells, he, hbelow, hzero⟩ := Regs.trapEntry_eq s.r tepc val code sub hfit
  dsimp only
  rw [trap_enters hr hf, he]
  exact ⟨rfl, trapCause_eq hc hs, rfl, rfl, rfl, rfl, rfl, rfl, rfl, hzero j hj, hbelow, rfl, rfl, rfl, rfl, rfl, rfl, rfl, rfl,
    rfl, rfl, rfl⟩

end Sys2Proof.Machine
end

section
/-!
PROOFS of the checks that stop a word before it acts (03 R63, R71, 01 R18).
-/
namespace Sys2Proof.Machine

/-! ### What stops a word before it acts -/

/-- With no trap due, no fault met, no object at work and nothing issued early, a word alone is judged on the state as it is. -/
theorem evalChain_judged {w : ChainWord} {next : DWord} {s : State} (hd : s.f.due = none) (hm : s.f.met = none)
    (ho : s.f.obj = none) (he : s.f.early = none) :
    evalChain [w] next s = (judgeChain [w] next s.f s).afterConv s.f := by
  have hat : s.atIssue = s := State.atIssue_eq (by rw [ho]; rfl) he
  simp only [evalChain, hd, hm, hat, Option.isSome_none, Bool.false_eq_true, if_false]

/-- Level 6 of R71 comes before all that a word waits for. -/
theorem judgeChain_outside {w : ChainWord} {next : DWord} {b : Fibre} {s : State} (h : w.info.inWindow s.r = false) :
    judgeChain [w] next b s = s.trapRes 0x02 0 (wordVal w.info.word 6) := by
  simp only [judgeChain, List.find?_cons, h, Bool.not_false]

/-- A word alone whose sources are empty waits, where no policy of theirs traps. -/
theorem judgeChain_waits {w : ChainWord} {next : DWord} {b : Fibre} {s : State} (hw : w.info.inWindow s.r = true)
    (h : w.info.ready s.g s.f = .wait) : judgeChain [w] next b s = .wait := by
  simp [judgeChain, hw, h]

/-- A word alone whose sources trap raises that trap, once its crew stands in the bundle. -/
theorem judgeChain_traps {w : ChainWord} {next : DWord} {b : Fibre} {s : State} {code : Nat} {val : DWord}
    (hw : w.info.inWindow s.r = true) (hc : s.crewCheck [w.info] = none) (he : s.f.early = none)
    (h : w.info.ready s.g s.f = .trap code val) : judgeChain [w] next b s = s.trapRes code 0 val := by
  simp [judgeChain, hw, hc, h, he, resultAt, ChainWord.result, firstStop]

/-- The first empty source whose policy traps is named (log 59). -/
theorem Info.ready_of_trap {x : Info} {g : Gang} {b : Fibre} {o : Opnd}
    (h : (x.ops.find? fun o => o.reads && o.trap && isEmpty b.regs o) = some o) :
    x.ready g b = .trap 0x04 (BitVec.ofNat 64 (o.f.toNat + if o.kind = .y then 64 else 0)) := by
  rw [Info.ready, h]

theorem Info.ready_of_empty {x : Info} {g : Gang} {b : Fibre} (h : (x.ops.any fun o => o.reads && isEmpty b.regs o) = true)
    (hn : ∀ o ∈ x.ops, (o.reads && o.trap && isEmpty b.regs o) = false) : x.ready g b = .wait := by
  have hf : (x.ops.find? fun o => o.reads && o.trap && isEmpty b.regs o) = none :=
    List.find?_eq_none.2 fun o ho => ne_true_of_eq_false (hn o ho)
  rw [Info.ready, hf]
  simp only [h, Bool.true_or, if_true]

/-- A word whose fields are refused traps at its level (R71). -/
theorem issueOne_refused {i : Instr} {body : State → WordRes} {s : State} {l : Nat} (hoff : s.off = false)
    (hl : (infoOf i).level = some l) :
    issueOne i body s = .next (s.traps (if l = 3 then 0x01 else 0x02) 0 (wordVal (infoOf i).word l)) := by
  simp only [issueOne, issueInfo, hoff, hl, Bool.false_eq_true, if_false, trapRes_apply]

/-- Settles O30: the checks of `issueInfo` and of `judgeChain` come in the order of R71. -/
theorem wordsThatStop : Obligations.WordsThatStop := by
  unfold Obligations.WordsThatStop
  intro i s hi hoff
  rw [exec_word i hi]
  refine ⟨fun l hl => issueOne_refused hoff hl, fun hl hd hm ho he => ?_⟩
  have hissue : issueOne i (bodyOf i) s = .next (((judgeChain [⟨s.r.pc, infoOf i, bodyOf i⟩] (nextAfter (infoOf i) s.r.pc) s.f
      s).afterConv s.f).apply s.r.pc s).tick := by
    simp only [issueOne, issueInfo, hoff, hl, Bool.false_eq_true, if_false, evalChain_judged hd hm ho he]
  rw [hissue]
  refine ⟨fun hw => ?_, fun hw => ⟨fun o hfind hcrew => ?_, fun hany hnone => ?_⟩⟩
  · rw [judgeChain_outside hw, trapRes_apply]
  · rw [judgeChain_traps hw hcrew he (Info.ready_of_trap hfind), trapRes_apply]
  · rw [judgeChain_waits hw (Info.ready_of_empty hany hnone)]
    rfl

end Sys2Proof.Machine
end

section
/-!
PROOFS of `spawn` and of the state of a new fibre (10 R213, R214, 01 R28).
-/
namespace Sys2Proof.Machine

/-! ### `spawn` and the fibres that it makes -/

theorem bodyOf_spawn {s : State} (d a b : Fld) (h : (s.r.d a).extractLsb' 0 4 = 0#4) :
    bodyOf (.spawn d a b) s = .regs fun t => t.spawn (s.r.w d) (s.r.d a) (s.r.run b 8) (s.r.base + d.toNat) :=
  if_neg (not_not_intro h)

theorem bodyOf_spawn_illegal {s : State} (d a b : Fld) (h : (s.r.d a).extractLsb' 0 4 ≠ 0#4) :
    bodyOf (.spawn d a b) s = .illegal := if_pos h

/-- A `spawn` that makes no crew writes its error code only (R213). -/
theorem State.spawn_error {s : State} {mask : Word} (pc : DWord) (cells : List Word) (pos : Nat)
    (h : (s.spawnResult mask).getLsbD 31 = true) :
    s.spawn mask pc cells pos = s.onRegs fun r => r.setAt pos (s.spawnResult mask) true := by
  unfold State.spawn
  dsimp only
  rw [if_pos h]

/-- The current fibre's new crew of fresh fibres, which waits for what the fibre has issued (R213, R214). -/
def State.withCrew (s : State) (mask : Word) (pc : DWord) (cells : List Word) : State :=
  let v := s.spawnResult mask
  ((List.range 32).filter fun l => mask.getLsbD l).foldl
    (fun u l => u.bear (Fibre.fresh { s.f.id with cid := v.toNat, fid := l } s.f.stg s.n.spec.quota s.n.spec.ydef pc cells))
    (s.addCrew s.f.id.nid s.f.id.gid s.c.num ⟨v.toNat, s.f.stg, mask, 0, 0, .starting s.f.id s.f.nextSer, .here⟩)

theorem State.spawn_crew {s : State} {mask : Word} (pc : DWord) (cells : List Word) (pos : Nat)
    (h : (s.spawnResult mask).getLsbD 31 = false) :
    s.spawn mask pc cells pos = (s.withCrew mask pc cells).onRegs fun r => r.setAt pos (s.spawnResult mask) true := by
  unfold State.spawn
  dsimp only
  rw [if_neg (ne_true_of_eq_false h)]
  rfl

/-- `spawn` commits with its new crew and the CID in w[D]. -/
theorem exec_spawn_crew {s : State} {d a b : Fld} (hc : CanIssue (.spawn d a b) s) (ha : (s.r.d a).extractLsb' 0 4 = 0#4)
    (hv : (s.spawnResult (s.r.w d)).getLsbD 31 = false) :
    exec (.spawn d a b) s = .next (s.committed (.spawn d a b) .seq fun t =>
      (t.withCrew (s.r.w d) (s.r.d a) (s.r.run b 8)).onRegs fun r =>
        r.setAt (s.r.base + d.toNat) (s.spawnResult (s.r.w d)) true) := by
  rw [exec_commit hc rfl (bodyOf_spawn d a b ha)]
  exact congrArg _ (committed_congr fun _ => State.spawn_crew _ _ _ hv)

/-- Fewer than 32 crews leave a CID below 32 unused. -/
theorem exists_unused_cid {crews : List Crew} (h : crews.length < 32) :
    ∃ c, (List.range 32).find? (fun c => crews.all fun x => x.cid ≠ c) = some c := by
  rw [← Option.isSome_iff_exists, Option.isSome_iff_ne_none]
  intro hnone
  have hsub : List.range 32 ⊆ crews.map Crew.cid := fun c hc => by
    simpa using (List.find?_eq_none.1 hnone) c hc
  have hle := (List.subperm_of_subset List.nodup_range hsub).length_le
  simp only [List.length_range, List.length_map] at hle
  omega

/-- With a lane to fill, a crew index, a context and the cells at hand, `spawn` takes the lowest unused CID (R213). -/
theorem spawnResult_lowest {s : State} {mask : Word} (hm : mask ≠ 0#32) (hl : s.g.crews.length < 32)
    (hc : s.freeContext s.c.num ≠ none)
    (hq : s.regCells s.c.num + popcount mask * s.n.spec.quota ≤ (s.c.split.getD (0, 0)).2 * Config.cellsPerUnit) :
    (s.spawnResult mask).toNat < 32 ∧ (∀ x ∈ s.g.crews, x.cid ≠ (s.spawnResult mask).toNat) ∧
      ∀ c < (s.spawnResult mask).toNat, ∃ x ∈ s.g.crews, x.cid = c := by
  obtain ⟨c, hfind⟩ := exists_unused_cid hl
  obtain ⟨hfree, hmem, hlow⟩ := List.find?_range_eq_some.1 hfind
  have hc32 : c < 32 := List.mem_range.1 hmem
  have hv : (s.spawnResult mask).toNat = c := by
    have hl' : ¬Config.crewsPerGang ≤ s.g.crews.length := Nat.not_le.2 hl
    unfold State.spawnResult
    rw [if_neg hm, if_neg hl', if_neg hc]
    dsimp only
    rw [if_neg (Nat.not_lt.2 hq), hfind, Option.getD_some, BitVec.toNat_ofNat]
    omega
  rw [hv]
  exact ⟨hc32, by simpa using hfree, fun j hj => by simpa using hlow j hj⟩

/-- Settles O26: the word's outcome is that of `spawnResult`, which finds an error in the order of R213 or the lowest CID. -/
theorem spawnMakesFibre : Obligations.SpawnMakesFibre := by
  unfold Obligations.SpawnMakesFibre
  intro d a b s hc
  dsimp only
  refine ⟨fun ha hv => ?_, fun ha hv => exec_spawn_crew hc ha hv, fun ha => ?_, fun hm => if_pos hm, fun hm hl => ?_,
    fun hm hl hx => ?_, fun hm hl hx => ⟨fun hq => ?_, fun hq => spawnResult_lowest hm hl hx hq⟩⟩
  · exact exec_regs hc (bodyOf_spawn d a b ha) fun _ => State.spawn_error _ _ _ hv
  · exact exec_illegal hc rfl (bodyOf_spawn_illegal d a b ha) rfl
  · exact (if_neg hm).trans (if_pos hl)
  · exact (if_neg hm).trans ((if_neg (Nat.not_le.2 hl)).trans (if_pos hx))
  · exact (if_neg hm).trans ((if_neg (Nat.not_le.2 hl)).trans ((if_neg hx).trans (if_pos hq)))

/-! ### The fibres of a new crew -/

theorem State.setFibre_f_id (s : State) (x : Fibre) : (s.setFibre x).f.id = s.f.id := by
  unfold State.setFibre
  split
  · next h => exact h.symm
  · rfl

/-- A fibre other than the one that is stored is found as before. -/
theorem State.fibre?_setFibre_ne {s : State} {x : Fibre} {id : FibId} (h : id ≠ x.id) :
    (s.setFibre x).fibre? id = s.fibre? id := by
  have hother : (upsert (fun y => decide (y.id = x.id)) x s.fibres).find? (fun y => decide (y.id = id)) =
      s.fibres.find? fun y => decide (y.id = id) :=
    find?_upsert_other _ _ x _ (by simpa using h.symm) fun y hy => by
      rw [of_decide_eq_true hy]
      simpa using h.symm
  unfold State.setFibre
  split
  · next hc =>
    unfold State.fibre?
    rw [if_neg (show ¬x.id = id from h.symm), if_neg (show ¬s.f.id = id from hc ▸ h.symm)]
  · unfold State.fibre?
    dsimp only
    rw [hother]

/-- A fibre of an identity stands in the state as a creation made it (R28). -/
def State.Born (s : State) (x : Fibre) : Prop :=
  ∃ y, s.fibre? x.id = some y ∧ y.life = x.life ∧ y.stg = x.stg ∧ y.regs = x.regs

theorem State.bear_f_id (s : State) (x : Fibre) : (s.bear x).f.id = s.f.id := by
  unfold State.bear
  split <;> exact State.setFibre_f_id ..

theorem State.bear_born {s : State} {x : Fibre} (h : x.life ≠ .absent) : (s.bear x).Born x := by
  unfold State.bear
  split
  · exact ⟨_, State.fibre?_setFibre x h, rfl, rfl, rfl⟩
  · next old _ =>
    exact ⟨_, State.fibre?_setFibre { x with acc := old.acc.filter Access.orphan, nextSer := old.nextSer } h, rfl, rfl, rfl⟩

/-- Another birth leaves a fibre that was born. -/
theorem State.Born.bear {s : State} {x z : Fibre} (h : s.Born x) (hne : x.id ≠ z.id) : (s.bear z).Born x := by
  obtain ⟨y, hy, hrest⟩ := h
  refine ⟨y, ?_, hrest⟩
  unfold State.bear
  split
  · exact (State.fibre?_setFibre_ne hne).trans hy
  · next old _ =>
    exact (State.fibre?_setFibre_ne (x := { z with acc := old.acc.filter Access.orphan, nextSer := old.nextSer }) hne).trans hy

theorem foldl_bear_f_id {s : State} (make : Nat → Fibre) (ls : List Nat) :
    (ls.foldl (fun u l => u.bear (make l)) s).f.id = s.f.id := by
  induction ls generalizing s with
  | nil => rfl
  | cons l ls ih => rw [List.foldl_cons, ih, State.bear_f_id]

theorem State.Born.foldl_bear {s : State} {make : Nat → Fibre} {l : Nat} {ls : List Nat} (h : s.Born (make l))
    (hlive : (make l).life ≠ .absent) (hne : ∀ k, k ≠ l → (make l).id ≠ (make k).id) :
    (ls.foldl (fun u l => u.bear (make l)) s).Born (make l) := by
  induction ls generalizing s with
  | nil => exact h
  | cons k ls ih =>
    refine ih ?_
    by_cases hk : k = l
    · subst hk
      exact State.bear_born hlive
    · exact h.bear (hne k hk)

/-- Of the lanes of a crew each fibre is born, since their identities differ. -/
theorem foldl_bear_born {s : State} {make : Nat → Fibre} {l : Nat} {ls : List Nat} (hl : l ∈ ls)
    (hlive : (make l).life ≠ .absent) (hne : ∀ k, k ≠ l → (make l).id ≠ (make k).id) :
    (ls.foldl (fun u l => u.bear (make l)) s).Born (make l) := by
  induction ls generalizing s with
  | nil => cases hl
  | cons k ls ih =>
    rcases List.mem_cons.1 hl with rfl | hl
    · exact (State.bear_born hlive).foldl_bear hlive hne
    · exact ih hl

theorem State.withCrew_f_id (s : State) (mask : Word) (pc : DWord) (cells : List Word) :
    (s.withCrew mask pc cells).f.id = s.f.id := by
  unfold State.withCrew
  dsimp only
  rw [foldl_bear_f_id]
  simp [State.addCrew]

/-- Every lane of the mask has its fresh fibre. -/
theorem State.withCrew_born (s : State) {mask : Word} (pc : DWord) (cells : List Word) {l : Nat} (hl : mask.getLsbD l = true) :
    (s.withCrew mask pc cells).Born
      (Fibre.fresh { s.f.id with cid := (s.spawnResult mask).toNat, fid := l } s.f.stg s.n.spec.quota s.n.spec.ydef pc cells) := by
  have hmem : l ∈ (List.range 32).filter fun l => mask.getLsbD l := by
    simpa [hl] using BitVec.lt_of_getLsbD hl
  exact foldl_bear_born (make := fun l => Fibre.fresh { s.f.id with cid := (s.spawnResult mask).toNat, fid := l } s.f.stg
    s.n.spec.quota s.n.spec.ydef pc cells) hmem nofun fun k hk h => hk (congrArg FibId.fid h).symm

/-- Two states that hold the same other fibres find the same, but for the current one. -/
theorem State.fibre?_congr {s t : State} {id : FibId} (hf : t.fibres = s.fibres) (hid : t.f.id = s.f.id) (hne : s.f.id ≠ id) :
    t.fibre? id = s.fibre? id := by
  unfold State.fibre?
  rw [hid, if_neg hne, if_neg hne, hf]

theorem State.fibre?_onRegs {s : State} {id : FibId} (k : Regs → Regs) (h : s.f.id ≠ id) :
    (s.onRegs k).fibre? id = s.fibre? id := State.fibre?_congr rfl rfl h

/-- A commit finds the other fibres as its effect left them. -/
theorem committed_fibre? {i : Instr} {ctl : Ctl} {k : State → State} {s : State} {id : FibId}
    (h : (k (s.onRegs fun r => { r with pc := nextAfter (infoOf i) s.r.pc })).f.id ≠ id) :
    (s.committed i ctl k).fibre? id = (k (s.onRegs fun r => { r with pc := nextAfter (infoOf i) s.r.pc })).fibre? id :=
  State.fibre?_congr rfl rfl h

/-! ### The registers of a fresh fibre -/

theorem ydl_of_default {ydef : Nat} (h : ydef < 2 ^ 16) :
    ydlLeft (BitVec.ofNat 32 ydef) = ydef ∧ ydlHint (BitVec.ofNat 32 ydef) = 0 ∧ ydlIdle (BitVec.ofNat 32 ydef) = 0 := by
  simp only [ydlLeft, ydlHint, ydlIdle, BitVec.extractLsb'_toNat, BitVec.toNat_ofNat, Nat.shiftRight_eq_div_pow]
  omega

theorem Regs.fresh_cell (q ydef : Nat) (pc : DWord) (first : List Word) {k : Nat} (h : k < first.length) :
    (Regs.fresh q ydef pc first).cell k = ⟨first[k], true⟩ := by
  simp [Regs.cell, Regs.fresh, List.getElem?_append_left, h]

theorem Regs.fresh_cells_full (q ydef : Nat) (pc : DWord) (first : List Word) :
    ∀ c ∈ (Regs.fresh q ydef pc first).cells, c.full = true := by
  intro c hc
  rcases List.mem_append.1 hc with hc | hc
  · obtain ⟨v, -, rfl⟩ := List.mem_map.1 hc
    rfl
  · rw [List.eq_of_mem_replicate hc]
    rfl

/-- A fibre of a launched gang is fresh, and is one of the crews and lanes of the launch (R28, R172). -/
theorem newFibres_fresh {n : Node} {gid : Nat} {b : Fibre} (h : b ∈ n.newFibres gid) :
    ∃ id stg, b = Fibre.fresh id stg n.spec.quota n.spec.ydef n.spec.entry (List.replicate 8 0#32) ∧ id.nid = n.spec.nid ∧
      id.gid = gid ∧ n.spec.lmask.getLsbD id.fid = true ∧ id.cid < n.spec.launchCrews.length := by
  obtain ⟨c, hc, hb⟩ := List.mem_flatMap.1 h
  obtain ⟨l, hl, rfl⟩ := List.mem_map.1 hb
  refine ⟨_, _, rfl, rfl, rfl, (List.mem_filter.1 hl).2, ?_⟩
  obtain ⟨k, hk, rfl⟩ := List.mem_map.1 hc
  simpa [Spec.launchCrews] using hk

/-- Settles O4: `Fibre.fresh` holds the reset values, and launches and spawns make their fibres by it. -/
theorem freshFibre : Obligations.FreshFibre := by
  unfold Obligations.FreshFibre
  refine ⟨fun id stg q ydef pc first hlen hq hydef => ?_, fun n gid b hb => newFibres_fresh hb,
    fun d a b s l hc ha hv hl hne => ?_⟩
  · obtain ⟨hleft, hhint, hidle⟩ := ydl_of_default hydef
    have hcells : (Regs.fresh q ydef pc first).cells.length = q := by
      simp [Regs.fresh]
      omega
    exact ⟨rfl, rfl, rfl, rfl, rfl, rfl, fun k hk => Regs.fresh_cell q ydef pc first hk, hcells,
      Regs.fresh_cells_full q ydef pc first, rfl, rfl, rfl, rfl, rfl, rfl, rfl, rfl, rfl, rfl, rfl, rfl, hleft, hhint, hidle,
      rfl, rfl, rfl, rfl⟩
  · let u := s.onRegs fun r => { r with pc := nextAfter (infoOf (.spawn d a b)) s.r.pc }
    obtain ⟨x, hx, hlife, hstg, hregs⟩ := State.withCrew_born u (s.r.d a) (s.r.run b 8) hl
    have hid : (u.withCrew (s.r.w d) (s.r.d a) (s.r.run b 8)).f.id ≠ { s.f.id with cid := (s.spawnResult (s.r.w d)).toNat, fid := l } := by
      rw [State.withCrew_f_id]
      exact fun h => hne (congrArg FibId.cid h).symm
    refine ⟨_, x, exec_spawn_crew hc ha hv, ?_, hlife, hstg, hregs⟩
    exact (committed_fibre? hid).trans ((State.fibre?_onRegs _ hid).trans hx)

end Sys2Proof.Machine
end

section
/-!
PROOFS of the decoder's statements (03 R55, R60 to R71).
-/
namespace Sys2Proof.Laws.RoundTrip

/-- The round trip of every instruction: one lemma for each constructor, in the table's order. -/
theorem statement (i : Instr) : Statement i :=
  i.rec (motive := Statement)
    add sub mul mulh mulhu div divu rem remu and or xor andn orn shl shr sar rotl min max minu maxu adds subs addus subus
    lea1 lea2 lea3 lea4 addD subD mulD mulhD mulhuD andD orD xorD shlD shrD sarD minD maxD minuD maxuD addwD adduwD mulwD
    muluwD mov not neg abs clz ctz popc brev bswap sextb sexth zextb zexth movD clzD popcD sextD zextD eq ne lt le ltu leu
    eqD neD ltD leD ltuD leuD tst tstz sel selD selY pand por pxor pandn pnot pmov p2w w2p pset pclr addi andi ori xori shli
    shri sari rotli shliD shriD sariD rotliD cmpiEq cmpiNe cmpiLt cmpiLe cmpiLtu cmpiLeu cmpiGt cmpiGe li lih ldB ldBs ldH
    ldHs ldW ldD ldQ stB stH stW stD stQ ldsB ldsBs ldsH ldsHs ldsW ldsD ldsQ stsB stsH stsW stsD stsQ ldy sty ldcFp32
    ldcBf16 ldcFp16 ldcE4m3 ldcE5m2 ldcInt32 ldcUint32 ldcInt8 ldcUint8 stcFp32 stcBf16 stcFp16 stcE4m3 stcE5m2 stcInt32
    stcUint32 stcInt8 stcUint8 ldf ldfCons stf yadd ysub ymul ydiv ymin ymax yminm ymaxm ycopysign yrem yscale yfma yfms
    yfnma ymov yneg yabs ysqrt yrint ytrunc ylogb yclass ysig ymant yrecip yrsqrt ycmpEq ycmpLt ycmpLe ycmpUn ycmpEqs
    ycmpLts ycmpLes ycvtYW ycvtYUw ycvtYD ycvtYUd ycvtWY ycvtUwY ycvtDY ycvtUdY setprc getprc setl setrm getflags clrflags
    rnd br bra call ret callr jmpr eret enter loop mbr endFibre spawn fid cid gid stg nid yield shfl shflXor shflUp shflDown
    voteAny voteAll ballot reduxAdd reduxMin reduxMax reduxYadd matchLanes present objInit objPush objPop objEnq objDeq
    objAdd objArrive objPeek objHelp amoAdd amoAnd amoOr amoXor amoMin amoMax amoMinu amoMaxu amoSwap amoCas amoAddD
    amoSwapD amoCasD amoCasQ amoAddAr amoAndAr amoOrAr amoXorAr amoMinAr amoMaxAr amoMinuAr amoMaxuAr amoSwapAr amoCasAr
    amoAddDAr amoSwapDAr amoCasDAr amoCasQAr redAdd redAnd redOr redXor redMin redMax redFaddF32 redFaddBf16 redAddD ldaW
    ldaD ldaB strW strD strB fence fenceAcq fenceRel wbr invr pref cpb cpw cpwLe cptG2s cptS2g cptS2gAtom cptG2sCons cptG2g
    cptGather cptCbk twait tread tissued tstat shape mmaBf16 mmaE4m3 mmaE5m2 mmaE4m3e5m2 accZero accChainB accChainE
    accSetprom accStF32 accStBf16 accLdF32 accFlush taskTnode taskTdep taskTsig taskEnq taskDeq taskCont taskNself arenaAptr
    arenaAinfo arenaCheck gets sets trap brk nop regroup seniorForcedIssue backoffExpiry watchdog yResultDelivery
    reduxYaddResult loadDataArrival convertingLoadResolve l1Eviction homeArrival flushMarkerAck walk walkRetry
    memorySideFault pageFaultReport faultRecordWrite resume fail endCommand launchQueueTailWrite nodeSpecAccept
    compareManifest preemptGang preemptCrew crewRestore gangSwap gangPlacement gangRestore gangRelease spawnedCrewStart
    nodeCompletion arenaDrained arenaBirth dependenceSignal taskQueueRefill continuationResume copyOpStart copyOpComplete
    copyPageResume cpbLanding matrixWordTake objAnnounceStep objApplyStep objFinishStep objCollect redBatchApply flitCrcFail
    dieSublinkRetrain dieSublinkFail networkPathRetrain networkPathFail transportResend peerPacketArrival walkInvalidate
    setMassifCachePart setPower firmwareUpdate substituteSpareCore retireRecalibrate replacePort attestationRequest
    setDeviceId managementRegisterWrite thermalTrip scrub deviceReset illegalInstruction sensorReading
    sublinkReturnToService pathReturnToService hostMainbandAccess unitRetirement

/-- Settles O1: each constructor's words decode to it. -/
theorem encodeDecode : Obligations.EncodeDecode := by
  unfold Obligations.EncodeDecode
  exact fun i c hwf hword => statement i c hwf hword

end Sys2Proof.Laws.RoundTrip
end

section
/-!
PROOFS of the decoder on fixed words and of the majors that it refuses (03 R55, R65 to R70).
-/
namespace Sys2Proof

open Machine

/-- The majors that R66 does not assign, and those of a branch packet's words, decode to nothing. -/
theorem decode_unassigned {w : Word}
    (h : wordMaj w = 0 ∨ wordMaj w = 0x21 ∨ wordMaj w = 0x22 ∨ 57 ≤ wordMaj w) : decode w = .illegal := by
  unfold wordMaj at h
  unfold decode
  split
  case h_55 => rfl
  all_goals omega

/-- Settles O2: the decoder's tables evaluate on each word; the refused majors are `decode_unassigned`. -/
theorem decodeSamples : Obligations.DecodeSamples := by
  unfold Obligations.DecodeSamples
  refine ⟨rfl, rfl, rfl, rfl, rfl, rfl, rfl, rfl, rfl, rfl, rfl, rfl, rfl, rfl, rfl, rfl, fun w h => ?_⟩
  exact decode_unassigned (by simpa [wordMaj, ← BitVec.toNat_inj] using h)

end Sys2Proof
end

section
/-!
PROOFS of what a step does (03 R71, 22 R439).
-/
namespace Sys2Proof.Machine

/-- A package that is powered down runs nothing but a device reset (R439): every other arm of `exec` asks for power first. -/
theorem exec_off {s : State} (hoff : s.off = true) {i : Instr} (hi : i ≠ .deviceReset) : exec i s = .fault .poweredDown := by
  cases i
  case deviceReset => exact absurd rfl hi
  all_goals exact if_pos hoff

/-- A device reset brings the package back (R237). -/
theorem exec_deviceReset_off (s : State) : ∃ t, exec .deviceReset s = .next t ∧ t.off = false :=
  ⟨resetDevice s, rfl, rfl⟩

/-- A step of a machine with an agenda is the head of it. -/
theorem step_cons {s : State} {e : Instr} {rest : List Instr} (h : s.agenda = e :: rest) :
    step s = nextTurn s.turn (exec e { s with agenda := rest }) := by
  rw [step, h]

/-- A step without an agenda: a clock, or an event of the device's own (log 4). -/
theorem step_of_no_agenda {s : State} (ha : s.agenda = []) (hoff : s.off = false) : step s = .next
    { (if s.turn % 2 = 0 then s.partClock (turnCore s.turn) (turnPart s.turn) else s.ownEvent) with turn := s.turn + 1 } := by
  simp only [step, ha, hoff, Bool.false_eq_true, if_false]
  split <;> rfl

/-- Settles O6: the branches of `step`, and `exec_off` for the package that is powered down. -/
theorem stepCases : Obligations.StepCases := by
  unfold Obligations.StepCases
  intro s
  refine ⟨fun e rest ha => ⟨fun t ht => ?_, fun x hx => ?_⟩, fun ha hoff => step_of_no_agenda ha hoff,
    fun hoff t ht => ?_, fun hoff i hi => exec_off hoff hi⟩
  · rw [step_cons ha, ht]
    rfl
  · rw [step_cons ha, hx]
    rfl
  · cases ha : s.agenda with
    | nil => simp [step, ha, hoff] at ht
    | cons e rest =>
      rw [step_cons ha] at ht
      by_cases he : e = .deviceReset
      · obtain ⟨u, hu, hon⟩ := exec_deviceReset_off { s with agenda := rest }
        rw [he, hu] at ht
        cases ht
        exact ⟨⟨rest, by rw [he]⟩, hon⟩
      · rw [exec_off (s := { s with agenda := rest }) hoff he] at ht
        cases ht

end Sys2Proof.Machine
end

section
/-!
PROOFS of a step that runs the instruction at the PC (03 R55 to R71, 08 R176 to R179).
-/
namespace Sys2Proof.Machine

/-! ### The chain at the PC -/

/-- A well-formed instruction is refused at no level below 6. -/
theorem faultLevel_of_wellFormed {i : Instr} (h : WellFormed i) : faultLevel i = none := Option.isNone_iff_eq_none.1 h

theorem wordInfo_of_decode {w : Word} {i : Instr} (hd : decode w = .ok i) (hwf : WellFormed i) : wordInfo w = .inr i := by
  simp only [wordInfo, hd, faultLevel_of_wellFormed hwf]

/-- The words of a branch packet decode to nothing by themselves (R65). -/
theorem isMbrWord_of_decode {w : Word} {i : Instr} (hd : decode w = .ok i) : isMbrWord w = false := by
  refine Bool.eq_false_iff.2 fun h => ?_
  have hmaj : wordMaj w = 0x21 ∨ wordMaj w = 0x22 := by simpa [isMbrWord] using h
  rw [decode_unassigned (.inr (hmaj.imp_right .inl))] at hd
  cases hd

theorem pcSlot_lt_three {pc : DWord} (h : pcInvalid pc = false) : pcSlot pc < 3 := by
  have hlt : pcSlot pc < 4 := (pc.extractLsb' 0 2).isLt
  have hne : pcSlot pc ≠ 3 := by
    simp only [pcInvalid, Bool.or_eq_false_iff] at h
    simpa using h.1
  omega

/-- A packet at hand is decoded (R59). -/
theorem State.fetchChain_of_packet {t : State} {bs : List Byte} (h : t.fetchPacket = .inr bs) :
    let word := fun (k : Nat) => wordOfBytes ((bs.drop (4 * k)).take 4)
    t.fetchChain = decodeChain t.r.pc (word 0) (word 1) (word 2) (word 3) := by
  unfold State.fetchChain
  rw [h]

/-- A branch packet that breaks no rule is a chain of its own (R65). -/
theorem decodeChain_mbr {pc : DWord} {w0 w1 w2 tail : Word} {i : Instr} (hpc : pcInvalid pc = false)
    (htail : tail.extractLsb' 0 12 = 0#12) (hslot : pcSlot pc = 0) (hm : isMbrPacket w0 w1 w2 = true)
    (hbad : mbrBad w0 w1 w2 = none) (hd : decodeMbr w0 w1 w2 = .ok i) :
    decodeChain pc w0 w1 w2 tail = .chain [⟨pc, infoOf i, bodyOf i⟩] (pcPacket pc + 16#64) := by
  simp [decodeChain, hslot, htail, hpc, hm, hbad, hd]

/-! ### Fetching leaves the power as it is -/

theorem foldl_off {α : Type} (f : State → α → State) (hf : ∀ s a, (f s a).off = s.off) (l : List α) (s : State) :
    (l.foldl f s).off = s.off := by
  induction l generalizing s with
  | nil => rfl
  | cons a r ih => rw [List.foldl_cons, ih, hf]

theorem foldl_snd_off {α β : Type} (f : β × State → α → β × State) (hf : ∀ p a, (f p a).2.off = p.2.off) (l : List α)
    (p : β × State) : (l.foldl f p).2.off = p.2.off := by
  induction l generalizing p with
  | nil => rfl
  | cons a r ih => rw [List.foldl_cons, ih, hf]

@[simp] theorem State.failNode_off (s : State) (nid code : Nat) : (s.failNode nid code).off = s.off := by
  unfold State.failNode
  repeat' split
  all_goals simp

@[simp] theorem State.lineLost_off (s : State) (core : Nat) (l : L1Line) : (s.lineLost core l).off = s.off := by
  unfold State.lineLost
  split <;> simp [State.nodeFault, State.nodeFails]

@[simp] theorem State.finishLine_off (s : State) (core ln : Nat) : (s.finishLine core ln).off = s.off := by
  unfold State.finishLine
  refine foldl_off _ (fun t b => foldl_off _ (fun u a => ?_) _ _) _ _
  split
  · split <;> simp
  · rfl

@[simp] theorem State.lineLeaves_off (s : State) (core ln : Nat) : (s.lineLeaves core ln).off = s.off := by
  unfold State.lineLeaves
  repeat' split
  all_goals simp [State.sentTo]

@[simp] theorem State.makeRoom_off (s : State) (core ln : Nat) : (s.makeRoom core ln).off = s.off := by
  unfold State.makeRoom
  dsimp only
  repeat' split
  all_goals simp [State.flushLine, State.writeBack]

@[simp] theorem State.fillL1_off (s : State) (core ln : Nat) (home : List Byte) (ctx : Nat) (tracked : Bool) :
    (s.fillL1 core ln home ctx tracked).off = s.off := by simp [State.fillL1]

theorem State.walk_off (s : State) (ia : Nat) (need : Need) : (s.walk ia need).2.off = s.off := by
  obtain ⟨v, hv⟩ := s.walk_frame ia need
  rw [hv]

theorem State.walkRun_off (s : State) (ia size : Nat) (need : Need) : (s.walkRun ia size need).2.off = s.off := by
  obtain ⟨v, hv⟩ := s.walkRun_frame ia size need
  rw [hv]

theorem State.homeLine_off (s : State) (ln : Nat) (need : Need) : (s.homeLine ln need).2.off = s.off := by
  have h := s.walk_off (ln * 128) need
  unfold State.homeLine
  split <;> simp_all

theorem State.readL1_off (s : State) (core ia size ctx : Nat) (tracked : Bool) (need : Need) :
    (s.readL1 core ia size ctx tracked need).2.off = s.off := by
  unfold State.readL1
  dsimp only
  rw [apply_ite Prod.snd, ite_self]
  refine foldl_snd_off _ (fun p x => ?_) _ _
  split
  · rfl
  · split
    · rfl
    · have h := p.2.homeLine_off x.1 need
      split <;> simp_all

/-- A fetch changes what its walk keeps and what its L1 holds. -/
theorem State.fetchStep_off (s : State) : s.fetchStep.2.off = s.off := by
  unfold State.fetchStep
  grind [State.walkRun_off, State.readL1_off]

@[simp] theorem State.fetched_off (s : State) : s.fetched.off = s.off :=
  (State.triesDone_off _ _).trans s.fetchStep_off

@[simp] theorem State.fetchTries_off (s : State) (core part : Nat) : (s.fetchTries core part).off = s.off := by
  refine foldl_off _ (fun t b => ?_) _ _
  split
  · rfl
  · split <;> simp

/-! ### Due traps -/

/-- A trap of a fibre alone in its bundle that is due is entered before anything is fetched (06 R146). -/
theorem State.issueBundle_due {r t : State} {id : FibId} {code sub : Nat} {val : DWord}
    (ht : State.focus { r with issue := [id] } id = t) (hfoc : t.focus id = t) (hdue : t.f.due = some (code, sub, val))
    (hflags : t.f.flagsPending = false) : r.issueBundle [id] = ((t.enterTrap t.r.pc code sub val).tick, [id]) := by
  have hissue : issueDue t.r.pc [id] ⟨t, [], []⟩ = ⟨t.enterTrap t.r.pc code sub val, [], [id]⟩ := by
    simp [issueDue, Issued.at_, hfoc, hdue, hflags, Issued.lane]
  have hsort : sortOn FibId.fid [id] = [id] := rfl
  unfold State.issueBundle
  simp only [hsort, ht, hissue, ne_eq, List.cons_ne_nil, not_false_eq_true, if_true]
  rfl

/-! ### One clock with one fibre -/

/-- What the issue of one word alone comes to is what `exec` makes of it. -/
theorem exec_of_evalChain {i : Instr} {s : State} (hword : isEvent i = false) (hwf : WellFormed i) (hoff : s.off = false) :
    exec i s = .next ((evalChain [⟨s.r.pc, infoOf i, bodyOf i⟩] (nextAfter (infoOf i) s.r.pc) s).apply s.r.pc s).tick := by
  have hlevel : (infoOf i).level = none := faultLevel_of_wellFormed hwf
  simp [exec_word i hword, issueOne, issueInfo, hoff, hlevel]

/-- Neither the regroup nor the fetches tried again touch the power. -/
theorem clockBegins_off (s : State) (core part : Nat) :
    ((if (s.part core part).clock % 4 = 0 then s.regroup core part else s).fetchTries core part).off = s.off := by
  rw [State.fetchTries_off]
  split <;> simp only [regroup_off]

/-- A clock in which the one standing fibre issues (R176 to R179). -/
theorem partClock_issues {s r u : State} {core part : Nat} {b : Bundle} {id : FibId}
    (hr : (if (s.part core part).clock % 4 = 0 then s.regroup core part else s).fetchTries core part = r)
    (hst : r.standing core part = [b]) (hids : b.ids = [id]) (hib : r.issueBundle [id] = (u, [id])) :
    s.partClock core part = State.onPart ((u.splitBundle core b [id]).onPart core part fun p =>
      { p with sen := if r.senior core part = some id then 0 else (r.part core part).sen }) core part fun p =>
        { p with clock := p.clock + 1 } := by
  simp only [State.partClock, hr, issuePart_one hst hids hib]

/-- Settles O5: the chain of one word is decoded, issued as `exec` runs it, and its clock is a step. -/
theorem stepRunsDecoded : Obligations.StepRunsDecoded := by
  unfold Obligations.StepRunsDecoded
  refine ⟨fun t bs i hpacket hpc => ?_, fun s id i b ha hoff hturn hword hwf => ?_⟩
  · intro slot word htail
    have hchain := State.fetchChain_of_packet hpacket
    refine ⟨fun hbefore hc hd hinst _ => ?_, fun hslot hm hbad hd => ?_⟩
    · rw [hchain]
      exact decodeChain_one hpc htail (pcSlot_lt_three hpc) word rfl rfl rfl hbefore hc (wordInfo_of_decode hd hinst)
        (isMbrWord_of_decode hd)
    · rw [hchain]
      exact decodeChain_mbr hpc htail hslot hm hbad hd
  · intro core part r t v goesOn hst hids hfoc
    refine ⟨fun hvfoc hvid hvpc hdue hchain hwaits => ?_, fun code sub val hdue hflags => ?_⟩
    · have hib := issueBundle_one (r := r) (t := t) (v := v) rfl rfl hvfoc hvid hfoc hdue hchain hwaits
      have hpower : v.off = false :=
        (State.fetched_off t).trans ((State.focus_off _ id).trans ((clockBegins_off s core part).trans hoff))
      rw [← hvpc] at hib
      refine ⟨_, exec_of_evalChain hword hwf hpower, ?_⟩
      rw [step_of_no_agenda ha hoff, if_pos hturn, partClock_issues rfl hst hids hib]
    · have hib := State.issueBundle_due (r := r) (t := t) rfl hfoc hdue hflags
      rw [step_of_no_agenda ha hoff, if_pos hturn, partClock_issues rfl hst hids hib]

end Sys2Proof.Machine
end

section
/-!
PROOFS of the scheduler's steps (03 R71, 08 R176, R179, R182, R183, 22 R405, R409).
-/
namespace Sys2Proof.Machine

/-! ### The bundles of a regroup (R176) -/

/-- A crew's fibres join one bundle or make a new one: nobody is lost. -/
theorem mem_joinBundle {i : FibId} {ids : List FibId} {bs : List (List FibId)} :
    i ∈ (joinBundle ids bs).flatten ↔ i ∈ ids ∨ i ∈ bs.flatten := by
  induction bs with
  | nil => simp [joinBundle]
  | cons b rest ih =>
    rw [joinBundle]
    split
    · simp only [List.flatten_cons, List.mem_append]
      tauto
    · simp only [List.flatten_cons, List.mem_append, ih]
      tauto

theorem mem_foldl_joinBundle {i : FibId} {groups bs : List (List FibId)} :
    i ∈ (groups.foldl (fun acc ids => joinBundle ids acc) bs).flatten ↔ i ∈ groups.flatten ∨ i ∈ bs.flatten := by
  induction groups generalizing bs with
  | nil => simp
  | cons ids rest ih =>
    rw [List.foldl_cons, ih, mem_joinBundle, List.flatten_cons, List.mem_append]
    tauto

/-- What the fibres of a bundle share: gang, stage and PC. -/
def Fibre.bundleKey (f : Fibre) : Nat × Nat × Nat × DWord := (f.id.nid, f.id.gid, f.stg, f.regs.pc)

/-- The fibres of one key, crew by crew, the oldest crew first. -/
def State.crewGroups (s : State) (fs : List Fibre) (k : Nat × Nat × Nat × DWord) : List (List FibId) :=
  let here := fs.filter fun f => f.bundleKey = k
  let crews := sortOn (fun c => s.ageOf ⟨k.1, k.2.1, c, 0⟩) (distinct (here.map fun f => f.id.cid))
  crews.map fun c => sortOn (fun (i : FibId) => i.fid) ((here.filter fun f => f.id.cid = c).map Fibre.id)

theorem State.mem_crewGroups {s : State} {fs : List Fibre} {k : Nat × Nat × Nat × DWord} {i : FibId} :
    i ∈ (s.crewGroups fs k).flatten ↔ ∃ f ∈ fs, f.bundleKey = k ∧ f.id = i := by
  have hgroup : ∀ c, i ∈ sortOn (fun (i : FibId) => i.fid)
      (((fs.filter fun f => f.bundleKey = k).filter fun f => f.id.cid = c).map Fibre.id) ↔
        ∃ f ∈ fs, f.bundleKey = k ∧ f.id.cid = c ∧ f.id = i := by
    intro c
    simp only [mem_sortOn, List.mem_map, List.mem_filter, decide_eq_true_eq, and_assoc]
  have hcrew : ∀ f ∈ fs, f.bundleKey = k → f.id.cid ∈ sortOn (fun c => s.ageOf ⟨k.1, k.2.1, c, 0⟩)
      (distinct ((fs.filter fun f => f.bundleKey = k).map fun f => f.id.cid)) := by
    intro f hf hk
    simp only [mem_sortOn, mem_distinct, List.mem_map, List.mem_filter, decide_eq_true_eq]
    exact ⟨f, ⟨hf, hk⟩, rfl⟩
  simp only [State.crewGroups, List.mem_flatten, List.mem_map]
  constructor
  · rintro ⟨_, ⟨c, -, rfl⟩, hi⟩
    obtain ⟨f, hf, hk, -, hid⟩ := (hgroup c).1 hi
    exact ⟨f, hf, hk, hid⟩
  · rintro ⟨f, hf, hk, hid⟩
    exact ⟨_, ⟨f.id.cid, hcrew f hf hk, rfl⟩, (hgroup f.id.cid).2 ⟨f, hf, hk, rfl, hid⟩⟩

/-- The bundles of a regroup: for each key, what the crews of its fibres have joined. -/
theorem State.mem_bundlesOf {s : State} {part : Nat} {fs : List Fibre} {b : Bundle} :
    b ∈ s.bundlesOf part fs ↔ ∃ k ∈ fs.map Fibre.bundleKey,
      ∃ ids ∈ (s.crewGroups fs k).foldl (fun acc ids => joinBundle ids acc) [], ⟨part, k.1, k.2.1, k.2.2.1, k.2.2.2, ids⟩ = b := by
  show b ∈ (distinct (fs.map Fibre.bundleKey)).flatMap _ ↔ _
  simp only [List.mem_flatMap, mem_distinct, List.mem_map]
  rfl

/-- A bundle that a regroup makes holds fibres of its partition's list, of one gang, stage and PC. -/
theorem State.bundlesOf_sound {s : State} {part : Nat} {fs : List Fibre} {b : Bundle} (h : b ∈ s.bundlesOf part fs) :
    b.part = part ∧ ∀ i ∈ b.ids, ∃ f ∈ fs, f.id = i ∧ f.id.nid = b.nid ∧ f.id.gid = b.gid ∧ f.stg = b.stg ∧ f.regs.pc = b.pc := by
  obtain ⟨k, -, ids, hids, rfl⟩ := State.mem_bundlesOf.1 h
  refine ⟨rfl, fun i hi => ?_⟩
  have hmem := mem_foldl_joinBundle.1 (List.mem_flatten.2 ⟨ids, hids, hi⟩)
  obtain ⟨f, hf, rfl, hid⟩ := State.mem_crewGroups.1 (hmem.resolve_right (by simp))
  exact ⟨f, hf, hid, rfl, rfl, rfl, rfl⟩

/-- Every fibre of the list stands in a bundle. -/
theorem State.bundlesOf_complete {s : State} {part : Nat} {fs : List Fibre} {f : Fibre} (hf : f ∈ fs) :
    ∃ b ∈ s.bundlesOf part fs, f.id ∈ b.ids := by
  have hmem := mem_foldl_joinBundle (bs := []).2 (.inl (s.mem_crewGroups.2 ⟨f, hf, rfl, rfl⟩))
  obtain ⟨ids, hids, hi⟩ := List.mem_flatten.1 hmem
  exact ⟨_, State.mem_bundlesOf.2 ⟨_, List.mem_map_of_mem hf, ids, hids, rfl⟩, hi⟩

/-! ### SEN (R179) -/

theorem senAfter_issued {sen : Nat} {i : FibId} {ready : List Ready1} {x : Ready1} (h : i ∈ x.res.2) :
    senAfter sen (some i) ready x = 0 := by simp [senAfter, h]

theorem senAfter_inside {sen : Nat} {i : FibId} {ready : List Ready1} {x : Ready1} (h : i ∉ x.res.2) (hb : i ∈ x.b.ids) :
    senAfter sen (some i) ready x = sen := by simp [senAfter, h, hb]

theorem senAfter_passed {sen : Nat} {i : FibId} {ready : List Ready1} {x : Ready1} (h : i ∉ x.res.2) (hb : i ∉ x.b.ids)
    (hr : ∃ y ∈ ready, i ∈ y.b.ids) : senAfter sen (some i) ready x = min 63 (sen + 1) := by simp [senAfter, h, hb, hr]

theorem senAfter_unready {sen : Nat} {i : FibId} {ready : List Ready1} {x : Ready1} (h : i ∉ x.res.2)
    (hr : ∀ y ∈ ready, i ∉ y.b.ids) : senAfter sen (some i) ready x = sen := by
  by_cases hb : i ∈ x.b.ids
  · exact senAfter_inside h hb
  · simpa [senAfter, h, hb] using fun y hy hi => absurd hi (hr y hy)

/-! ### Events of the scheduler -/

theorem forcedIssue_below {s : State} {core part : Nat} (h : (s.part core part).sen ≠ 63) : forcedIssue s core part = s :=
  if_pos h

theorem forcedIssue_found {s : State} {core part : Nat} {x : Ready1} (h : (s.part core part).sen = 63)
    (hx : (s.readyBundles core part).find? (fun x => (s.senior core part).any fun i => x.b.ids.contains i) = some x) :
    forcedIssue s core part = (x.res.1.splitBundle core x.b x.res.2).onPart core part fun p =>
      { p with sen := senAfter 63 (s.senior core part) [x] x } := by
  rw [forcedIssue, if_neg (not_not.2 h), hx]

theorem backoffEnds_some {s : State} {who : FibId} {b : Fibre} {k : Nat} (hb : s.fibre? who = some b)
    (hk : b.backoff = some k) :
    backoffEnds s who = if k < s.clockOf who then s.onFibre who fun f => { f with backoff := none } else s := by
  simp only [backoffEnds, hb, hk, Option.bind_some]
  by_cases h : k < s.clockOf who
  · rw [if_neg (by omega), if_pos h]
  · rw [if_pos (by omega), if_neg h]

theorem watchdog_fires {s : State} {who : FibId} {g : Gang} {b : Fibre} (hg : s.gang? who.nid who.gid = some g)
    (hrun : g.canRun who.cid = true) (hb : s.fibre? who = some b) :
    let t := State.focus { s with issue := [who] } who
    t.f.life = .live → t.watchdogDue = true →
      Sys2Proof.Machine.watchdog s who = t.raise [⟨who, t.r.pc, 0x45, 0, 0#64, 0⟩] := by
  intro t hlive hdue
  simp only [Sys2Proof.Machine.watchdog, hg, hrun, hb]
  simp [t, hlive, hdue]

/-- A refused word traps once no trap is due, no fault is met, and no converting load may discard it (R71, R146, R158). -/
theorem illegalWord_traps {s : State} (level : Nat) (word : Word) (hlive : s.f.life = .live) (hdue : s.f.due = none)
    (hmet : s.f.met = none) (hr : ¬(s.r.trapRefused = true ∧ 0 < s.f.convPending)) :
    illegalWord s level word = State.trap { s with f := { s.f with obj := none, rel := none, early := none } }
      s.r.pc s.r.pc (if level ≤ 4 then 0x01 else 0x02) 0 (wordVal word level) := by
  have hgo : ¬(s.f.life ≠ .live ∨ s.f.due.isSome ∨ s.f.met.isSome ∨ (s.r.trapRefused ∧ 0 < s.f.convPending)) := by
    simpa [hlive, hdue, hmet] using hr
  exact if_neg hgo

/-! ### LEFT at 0 where a word would commit (R182, R405) -/

/-- A word whose sources are full and that nothing of its fibre's holds back is ready. -/
theorem Info.ready_of_full {x : Info} {g : Gang} {b : Fibre} (hfull : (x.ops.any fun o => o.reads && isEmpty b.regs o) = false)
    (hfree : x.mustWait g b = false) : x.ready g b = .go := by
  have htrap : (x.ops.find? fun o => o.reads && o.trap && isEmpty b.regs o) = none := by
    refine List.find?_eq_none.2 fun o ho => ?_
    have h := List.any_eq_false.1 hfull o ho
    rw [Bool.and_right_comm, Bool.eq_false_of_not_eq_true h]
    exact Bool.false_ne_true
  simp [Info.ready, htrap, hfull, hfree]

/-- A word alone that would commit with LEFT 0 is the watchdog's. -/
theorem judgeChain_watchdog {w : ChainWord} {next : DWord} {b : Fibre} {s : State} {ctl : Ctl} {k : State → State}
    (hw : w.info.inWindow s.r = true) (hready : w.info.ready s.g s.f = .go) (hcrew : s.crewCheck [w.info] = none)
    (he : s.f.early = none) (hb : w.body s = .commit ctl k) (hleft : ydlLeft s.r.ydl = 0) :
    judgeChain [w] next b s = .fault 0x45 0 0#64 0 := by
  simp [judgeChain, hw, hready, hcrew, resultAt, he, ChainWord.result, hb, firstStop, leftAfter, hleft]

/-- The watchdog's fault of one fibre: a record, and its node fails (R405, R408, R420). -/
theorem raise_watchdog (s : State) (id : FibId) (pc : DWord) :
    s.raise [⟨id, pc, 0x45, 0, 0#64, 0⟩] = (State.report ((s.wordDone id).triesDone (.fetch id))
      ⟨0x45, 0, [], id.nid, id.gid, id.cid, BitVec.ofNat 32 (2 ^ id.fid), pc, 0#64, 0⟩).failNode id.nid 0x45 := by
  have hmask : laneMask [id.fid] = BitVec.ofNat 32 (2 ^ id.fid) := BitVec.zero_or
  rw [raise_one s _ (show 0x45 ≠ 0x40 by decide), ← hmask]
  rfl

/-- A word with a cell result that may issue but for LEFT raises system fault 0x45. -/
theorem exec_watchdog_of_cellResult {i : Instr} {s : State} {d : Fld} {v : Word} (hoff : s.off = false)
    (hdue : s.f.due = none) (hmet : s.f.met = none) (hobj : (s.f.obj.all fun r => r.xfn == 0) = true)
    (hearly : s.f.early = none) (hconv : s.f.convPending = 0) (hlevel : (infoOf i).level = none)
    (hwin : (infoOf i).inWindow s.r = true) (hfull : ((infoOf i).ops.any fun o => o.reads && isEmpty s.r o) = false)
    (hfree : (infoOf i).mustWait s.g s.f = false) (hcrew : s.crewCheck [infoOf i] = none) (hleft : ydlLeft s.r.ydl = 0)
    (hv : cellResult i s = some (d, v)) :
    exec i s = .next (s.raise [⟨s.f.id, s.r.pc, 0x45, 0, 0#64, 0⟩]).tick := by
  have hbody : bodyOf i s = .commit .seq (s.putW d v) := bodyOf_of_cellResult hv
  have hjudge : judgeChain [⟨s.r.pc, infoOf i, bodyOf i⟩] (nextAfter (infoOf i) s.r.pc) s.f s = .fault 0x45 0 0#64 0 :=
    judgeChain_watchdog hwin (Info.ready_of_full hfull hfree) hcrew hearly hbody hleft
  rw [exec_word i (isEvent_of_bodyOf hbody nofun)]
  simp [issueOne, issueInfo, hoff, hlevel, evalChain, hdue, hmet, State.atIssue_eq hobj hearly, hjudge, ChainRes.afterConv,
    hconv, ChainRes.apply]

/-- Settles O51: the bundles of a regroup by `mem_bundlesOf`, SEN by the cases of `senAfter`, the events by what they do with
power on, and the watchdog at a word by `judgeChain_watchdog`. -/
theorem schedulerSteps : Obligations.SchedulerSteps := by
  unfold Obligations.SchedulerSteps
  intro s
  refine ⟨fun hoff => ⟨fun core part => exec_regroup hoff core part,
    fun part l => ⟨fun b hb => State.bundlesOf_sound hb, fun f hf => State.bundlesOf_complete hf⟩,
    fun core part h => ?_, fun core part x h hx => ?_,
    fun sen i ready x => ⟨senAfter_issued, senAfter_inside, senAfter_passed, senAfter_unready⟩,
    fun who b k hb hk => ?_, fun who g b hg hrun hb => ?_, fun level word hlive hdue hmet hr => ?_⟩,
    fun i d v hoff hdue hmet hobj hearly hconv hlevel hwin hfull hfree hcrew hleft hv => ?_⟩
  · rw [exec_seniorForcedIssue hoff, forcedIssue_below h]
  · rw [exec_seniorForcedIssue hoff, forcedIssue_found h hx]
  · rw [exec_backoffExpiry hoff, backoffEnds_some hb hk]
  · intro t hlive hdue
    rw [exec_watchdog hoff, watchdog_fires hg hrun hb hlive hdue]
  · rw [exec_illegalInstruction hoff, illegalWord_traps level word hlive hdue hmet hr]
    rfl
  · rw [exec_watchdog_of_cellResult hoff hdue hmet hobj hearly hconv hlevel hwin hfull hfree hcrew hleft hv, raise_watchdog]

end Sys2Proof.Machine
end

section
/-!
PROOFS of the words with a cell, pair or predicate result and of the branches and `loop` (05 R107 to R118, R125 to R136, 10 R215).
-/
namespace Sys2Proof.Machine

/-- Settles O10: a word of one of the three tables asks for the write of its destination and nothing else. -/
theorem resultWords : Obligations.ResultWords := by
  unfold Obligations.ResultWords
  exact ⟨fun _ _ _ _ hc hv => exec_of_cellResult hc hv, fun _ _ _ _ hc hv => exec_of_pairResult hc hv,
    fun _ _ _ _ hc hv => exec_of_predResult hc hv⟩

/-! ### Branches (R125, R127, R136) -/

theorem pairTarget_eq (s : State) (o : BitVec 12) : pairTarget s o = packetAt s o.toInt := by
  rw [pairTarget, packetAt, signExtend_shiftLeft_four]
  rfl

/-- The pairs of a branch packet are tried in their order, up to the number that its word names (R136). -/
theorem find?_take_of_four {α : Type} (p : α → Bool) (n : Nat) (x1 x2 x3 x4 : α) :
    ([x1, x2, x3, x4].take (n + 1)).find? p =
      if p x1 then some x1 else if 1 ≤ n ∧ p x2 then some x2 else if 2 ≤ n ∧ p x3 then some x3
      else if 3 ≤ n ∧ p x4 then some x4 else none := by
  have hcons (x : α) (l : List α) : (x :: l).find? p = if p x then some x else l.find? p := by
    cases h : p x <;> simp [h]
  rcases n with _ | _ | _ | n <;> simp [hcons]

/-- A branch, `nop` or a call not taken commits, and changes nothing but where control goes. -/
theorem bodyOf_of_branchTo {i : Instr} {s : State} {ctl : Ctl} (h : branchTo i s = some ctl) :
    bodyOf i s = .commit ctl id := by
  cases i
  case br p n o =>
    cases h
    show bodyBr p n o s = _
    rw [bodyBr, ite_condHolds, target_eq, apply_ite (WordRes.commit · id)]
  case bra o =>
    cases h
    show bodyBra o s = _
    rw [bodyBra, target_eq]
  case jmpr a =>
    unfold branchTo at h
    dsimp only at h
    split_ifs at h with hpc
    cases h
    exact if_neg hpc
  case mbr np p1 p2 p3 p4 n1 n2 n3 n4 o1 o2 o3 o4 =>
    cases h
    show bodyMbr np p1 p2 p3 p4 n1 n2 n3 n4 o1 o2 o3 o4 s = _
    simp only [bodyMbr, pairTarget_eq, find?_take_of_four, condHolds]
    split_ifs <;> rfl
  case call p n o =>
    unfold branchTo at h
    dsimp only at h
    split_ifs at h with hp
    cases h
    exact if_neg hp
  case nop =>
    cases h
    rfl
  all_goals cases h

/-- Settles O16: such a word asks to commit with the identity. -/
theorem branches : Obligations.Branches := by
  unfold Obligations.Branches
  intro i s ctl hc hto
  have hb := bodyOf_of_branchTo hto
  exact exec_commit hc (isEvent_of_bodyOf hb nofun) hb

/-! ### Loops (R132 to R135) -/

/-- A taken branch that leaves the youngest loop goes on as if that loop were popped. -/
theorem Regs.goes_taken_outside {r : Regs} {pc : DWord} {e : LoopEntry} {rest : List LoopEntry} (next : DWord)
    (hl : r.loops = e :: rest) (hb : e.base = r.base) (h : ¬(e.start ≤ pcPacket pc ∧ pcPacket pc ≤ e.last)) :
    r.goes next (.taken pc) = { r with loops := rest }.goes next (.taken pc) := by
  rw [Regs.goes, Regs.goes, hl, leaveLoops, if_pos ⟨hb, h⟩]

/-- A taken branch inside the youngest loop leaves the loops. -/
theorem Regs.goes_taken_inside {r : Regs} {pc : DWord} {e : LoopEntry} {rest : List LoopEntry} (next : DWord)
    (hl : r.loops = e :: rest) (h : e.start ≤ pcPacket pc ∧ pcPacket pc ≤ e.last) :
    r.goes next (.taken pc) = { r with pc := pc } := by
  rw [Regs.goes, hl, leaveLoops, if_neg fun hout => hout.2 h, ← hl]

/-- The end action of a loop with runs left goes back to its start. -/
theorem Regs.goes_arrive_repeats {r : Regs} {pc : DWord} {e : LoopEntry} {rest : List LoopEntry} (next : DWord)
    (hl : r.loops = e :: rest) (hb : e.base = r.base) (hs : pcSlot pc = 0) (hend : pc = e.last + 16#64)
    (hn : e.count ≠ 1#32) :
    r.goes next (.arrive pc) = { r with pc := e.start, loops := { e with count := e.count - 1#32 } :: rest } := by
  have hcount : e.count - 1#32 ≠ 0#32 := fun h0 => hn (by bv_omega)
  rw [Regs.goes, Regs.arriveAt, if_pos hs, hl, endLoops, if_neg (by simp [hb, hend]), if_pos hcount]

/-- The end action of the last run pops the loop, and control arrives in the loops outside it. -/
theorem Regs.goes_arrive_ends {r : Regs} {pc : DWord} {e : LoopEntry} {rest : List LoopEntry} (next : DWord)
    (hl : r.loops = e :: rest) (hb : e.base = r.base) (hs : pcSlot pc = 0) (hend : pc = e.last + 16#64)
    (hn : e.count = 1#32) : r.goes next (.arrive pc) = { r with loops := rest }.goes next (.arrive pc) := by
  rw [Regs.goes, Regs.arriveAt, if_pos hs, hl, endLoops, if_neg (by simp [hb, hend]), if_neg (by simp [hn]), Regs.goes,
    Regs.arriveAt, if_pos hs]

/-- Elsewhere control arrives and the loops stay. -/
theorem Regs.goes_arrive_elsewhere {r : Regs} {pc : DWord} {e : LoopEntry} {rest : List LoopEntry} (next : DWord)
    (hl : r.loops = e :: rest) (hend : pc ≠ e.last + 16#64) : r.goes next (.arrive pc) = { r with pc := pc } := by
  have hstay : endLoops r.base pc r.loops = (pc, r.loops) := by rw [hl, endLoops, if_pos (Or.inr hend)]
  rw [Regs.goes, Regs.arriveAt, hstay, ite_self]

/-- Settles O17: the cases of `leaveLoops` and `endLoops` at the youngest entry. -/
theorem arrivalAtLoops : Obligations.ArrivalAtLoops := by
  unfold Obligations.ArrivalAtLoops
  intro r next pc e rest hl hb
  exact ⟨Regs.goes_taken_outside next hl hb, Regs.goes_taken_inside next hl, Regs.goes_arrive_repeats next hl hb,
    Regs.goes_arrive_ends next hl hb, Regs.goes_arrive_elsewhere next hl⟩

theorem packetAt_one (s : State) : packetAt s 1 = pcPacket s.r.pc + 16#64 := rfl

theorem packetAt_natCast (s : State) (o : BitVec 19) : packetAt s o.toNat = pcPacket s.r.pc + (o.setWidth 64 <<< 4) := by
  have ho := o.isLt
  rw [packetAt, pcPacket]
  congr 1
  apply BitVec.eq_of_toNat_eq
  simp [BitVec.toNat_ofInt, BitVec.toNat_shiftLeft]
  omega

/-- The packet behind the packet at an offset. -/
theorem packetAt_add_one (s : State) (o : Int) : packetAt s (o + 1) = packetAt s o + 16#64 := by
  rw [packetAt, packetAt, Int.mul_add, BitVec.ofInt_add, ← BitVec.add_assoc]
  rfl

/-- What `loop` asks for: it skips its body, traps, or pushes its entry (R132, R134). -/
theorem bodyOf_loop (d : Fld) (o : BitVec 19) (s : State) :
    bodyOf (.loop d o) s =
      if s.r.w d = 0#32 then .commit (.arrive (packetAt s (o.toNat + 1))) id
      else if 4 ≤ s.r.loops.length then .trap 0x09 0 ((s.r.w d).setWidth 64)
      else .commit .seq fun t => t.onRegs fun r =>
        { r with loops := ⟨packetAt s 1, packetAt s o.toNat, s.r.w d, r.base⟩ :: r.loops } := by
  show loopWord s d o = _
  rw [packetAt_add_one, packetAt_natCast, packetAt_one]
  rfl

/-- Settles O23: the three cases of `bodyOf_loop`. -/
theorem loopPushesEntry : Obligations.LoopPushesEntry := by
  unfold Obligations.LoopPushesEntry
  intro d o s hc
  have hb := bodyOf_loop d o s
  refine ⟨fun hw hl => ?_, fun hw => ?_, fun hw hl => ?_⟩
  · rw [if_neg hw, if_neg (by omega)] at hb
    exact exec_wrote hc rfl hb fun _ => rfl
  · rw [if_pos hw] at hb
    exact exec_commit hc rfl hb
  · rw [if_neg hw, if_pos hl] at hb
    exact exec_trap hc rfl hb

end Sys2Proof.Machine
end

section
/-!
PROOFS that the issue of a word changes no byte of memory (05 R120, R123, 12 R246), but for the words that write at a home.
-/
namespace Sys2Proof.Machine

theorem State.atIssue_n (s : State) : s.atIssue.n = s.n := by
  unfold State.atIssue
  repeat' split
  all_goals rfl

/-- A word that answers with a next state has issued there. -/
theorem issueInfo_of_exec {i : Instr} {s t : State} (hword : isEvent i = false) (h : exec i s = .next t) :
    t = issueInfo (infoOf i) (bodyOf i) s := by
  rw [exec_word i hword, issueOne] at h
  split at h
  · cases h
  · exact (Host.Outcome.next.inj h).symm

/-- Where its hold buffer has room, a RED leaves memory alone (R267). -/
theorem bodyOf_from_of_redOf {i : Instr} {s : State} (h : redOf i s ≠ none) :
    (bodyOf i s).From (fun t => t.mem = s.mem ∧ (s.n.spec.det = true → t.holdCount t.c.num < Config.redHold))
      (fun m => m = s.mem) := by
  unfold redOf at h
  dsimp only at h
  split at h
  case h_10 => exact absurd rfl h
  all_goals exact redWord_from ..

/-- A RED that is issued where its hold buffer has room leaves memory alone. -/
theorem issueInfo_mem_of_redOf {i : Instr} {s : State} (h : redOf i s.atIssue ≠ none)
    (hroom : s.n.spec.det = true → s.holdCount s.c.num < Config.redHold) :
    (issueInfo (infoOf i) (bodyOf i) s).mem = s.mem := by
  have hfree : FibreFree fun t => t.mem = s.atIssue.mem ∧ (s.atIssue.n.spec.det = true → t.holdCount t.c.num < Config.redHold) :=
    fun _ _ ht => ht
  refine (issueInfo_from s (bodyOf_from_of_redOf h) (fun _ ht => ht.1) hfree ⟨?_, ?_⟩).trans s.atIssue_mem
  · exact s.atIssue_mem.symm
  · rwa [State.atIssue_n]

/-- Of the words that may write at a home before they commit, the REDs are those beside the object and task words. -/
theorem redOf_of_writesHome {i : Instr} (s : State) (h : writesHome i = true) (hobj : ∀ d a b, i ≠ .objInit d a b)
    (hnode : ∀ d a, i ≠ .taskTnode d a) (hdep : ∀ a b, i ≠ .taskTdep a b) (hsig : ∀ a, i ≠ .taskTsig a)
    (henq : ∀ a, i ≠ .taskEnq a) (hcont : ∀ a b, i ≠ .taskCont a b) : redOf i s ≠ none := by
  unfold writesHome at h
  split at h
  case h_1 => exact absurd rfl (hnode _ _)
  case h_2 => exact absurd rfl (hcont _ _)
  case h_3 => exact absurd rfl (hdep _ _)
  case h_4 => exact absurd rfl (hsig _)
  case h_5 => exact absurd rfl (henq _)
  case h_6 => exact absurd rfl (hobj _ _ _)
  case h_16 => cases h
  all_goals exact Option.some_ne_none _

theorem redOf_atIssue (i : Instr) (s : State) : redOf i s.atIssue = none ↔ redOf i s = none := by
  unfold redOf
  dsimp only
  split <;> simp

/-- Settles O8: a RED leaves memory alone where it finds room, and every other word that is left keeps whatever memory is. -/
theorem wordsKeepMemory : Obligations.WordsKeepMemory := by
  unfold Obligations.WordsKeepMemory
  intro i s t hword hobj hnode hdep hsig henq hcont hroom hexec a
  refine congrArg (Memory.read · a) ?_
  rw [issueInfo_of_exec hword hexec]
  by_cases hred : redOf i s = none
  · refine issueInfo_keeps (P := fun m => m = s.mem) (infoOf i) (bodyOf i) s (bodyOf_keeps i s.atIssue fun hw => ?_) rfl
    exact absurd hred (redOf_of_writesHome s hw hobj hnode hdep hsig henq hcont)
  · exact issueInfo_mem_of_redOf (fun h => hred ((redOf_atIssue i s).1 h)) fun hdet => hroom hdet hred

end Sys2Proof.Machine
end

section
/-!
PROOFS of the words that access global memory or the scratchpad (05 R119 to R124, 06 R157, 15 R289 to R303, R309): each word's
form with its checks, and what the form asks for once they pass.
-/
namespace Sys2Proof.Machine

/-! ### Global accesses -/

theorem globalWord_misaligned {s : State} {a : Access} {va : Int} {size : Nat} {aligned : Bool}
    (h : aligned = true ∧ va % size ≠ 0) : globalWord s a va size aligned = .trap 0x03 0 (BitVec.ofInt 64 va) := if_pos h

theorem globalWord_refused {s : State} {a : Access} {va : Int} {size code ia : Nat} {aligned : Bool}
    (h : ¬(aligned = true ∧ va % size ≠ 0)) (hx : s.xlat s.n va size a.op.need = .bad code ia) :
    globalWord s a va size aligned = .fault code 0 (BitVec.ofInt 64 va) ia := by
  rw [globalWord, if_neg h, hx]

/-- An access that passes its checks takes its place in the fibre's program order (R122). -/
theorem globalWord_issues {s : State} {a : Access} {va : Int} {size ia : Nat} {aligned tracked : Bool}
    (h : ¬(aligned = true ∧ va % size ≠ 0)) (hx : s.xlat s.n va size a.op.need = .ok ia tracked) :
    globalWord s a va size aligned = .commit .seq (State.issues a va ia tracked) := by
  rw [globalWord, if_neg h, hx]
  rfl

/-- The commit gives an access that its word issues the number of its chain, whatever number it had (R158). -/
theorem committed_issues_base (i : Instr) (s : State) (a : Access) (base : Nat) (va : Int) (ia : Nat) (tracked : Bool) :
    s.committed i .seq (State.issues { a with base := base } va ia tracked) =
      s.committed i .seq (State.issues a va ia tracked) := by
  simp [State.committed, State.asChain, Fibre.based, State.issues]

/-- In throughput mode a RED is a global access (R298). -/
theorem redWord_throughput {s : State} (a b : Fld) (op : Nat) (scope : BitVec 3) (h : s.n.spec.det = false) :
    redWord s a b op scope =
      globalWord s { newAccess (.red op) 0#64 0 (redSize op) .none
        ((bytesOfCells (s.r.run b (if op = 8 then 2 else 1))).take (redSize op)) with scope := scope.toNat }
        (s.r.d a).toNat (redSize op) true :=
  if_pos (by simp [h])

/-- An `lda` or `str` whose pair does not name the scratchpad is a global access (R289, R290). -/
theorem orderedWord_global {s : State} {a : Fld} (acc : Access) (h : (s.r.d a).extractLsb' 32 32 ≠ 0xFFFFFFFF#32) :
    orderedWord s a acc = globalWord s acc (s.r.d a).toNat acc.size true := if_neg h

/-- An `lda` or `str` whose pair names the scratchpad accesses it (R290). -/
theorem orderedWord_spad {s : State} {a : Fld} (acc : Access) (h : (s.r.d a).extractLsb' 32 32 = 0xFFFFFFFF#32) :
    orderedWord s a acc = orderedSpad s acc ((s.r.d a).extractLsb' 0 32) := if_pos h

/-- A word with a global access is a `globalWord`; `ldy` checks two bytes and no alignment (log 13). -/
theorem bodyOf_of_globalAccess {i : Instr} {s : State} {a : Access} {va : Int} {len align : Nat}
    (h : globalAccess i s = some (a, va, len, align)) :
    ∃ base aligned, bodyOf i s = globalWord s { a with base := base } va len aligned ∧
      ((aligned = true ∧ va % len ≠ 0) ↔ va % align ≠ 0) := by
  unfold globalAccess at h
  dsimp only at h
  split at h
  case h_13 t a ea k o => -- ldy
    cases h
    exact ⟨s.f.nextSer, false, rfl, by simp⟩
  case h_42 | h_43 | h_44 | h_45 | h_46 | h_47 | h_48 | h_49 | h_50 => -- RED
    split_ifs at h with hdet
    cases h
    exact ⟨0, true, redWord_throughput _ _ _ _ (by simpa using hdet), by simp⟩
  case h_51 | h_52 | h_53 | h_54 | h_55 | h_56 => -- lda, str
    split_ifs at h with hspad
    cases h
    exact ⟨0, true, orderedWord_global _ hspad, by simp⟩
  case h_57 => cases h
  all_goals -- ld, st, AMO
    cases h
    exact ⟨0, true, rfl, by simp⟩

/-- Settles O31: the checks of `globalWord` in their order, and the entry that an access which passes them becomes. -/
theorem globalAccesses : Obligations.GlobalAccesses := by
  unfold Obligations.GlobalAccesses
  intro i s a va len align hc ha
  obtain ⟨base, aligned, hb, hal⟩ := bodyOf_of_globalAccess ha
  have hpass (h0 : va % align = 0) : ¬(aligned = true ∧ va % len ≠ 0) := fun h => hal.1 h h0
  refine ⟨fun h => ?_, fun h0 code ia hx => ?_, fun h0 ia tracked hx => ?_⟩
  · have hb := hb.trans (globalWord_misaligned (hal.2 h))
    exact exec_trap hc (isEvent_of_bodyOf hb nofun) hb
  · have hb := hb.trans (globalWord_refused (hpass h0) hx)
    exact exec_fault hc (isEvent_of_bodyOf hb nofun) hb
  · have hb := hb.trans (globalWord_issues (hpass h0) hx)
    rw [exec_commit hc (isEvent_of_bodyOf hb nofun) hb, committed_issues_base]

/-! ### Accesses of the scratchpad -/

theorem spadWord_misaligned {s : State} {o : Word} {size : Nat} (k : List Nat → WordRes) (h : o.toNat % size ≠ 0) :
    spadWord s o size k = .trap 0x03 0 (o.setWidth 64) := if_pos h

theorem spadWord_outside {s : State} {o : Word} {size : Nat} (k : List Nat → WordRes) (h : o.toNat % size = 0)
    (hr : s.n.spadRun o size = none) : spadWord s o size k = .trap 0x10 0 (o.setWidth 64) := by
  rw [spadWord, if_neg (not_not.2 h), hr]

/-- An access of the scratchpad inside its region waits for the pending ones of its fibre (R121). -/
theorem spadWord_inside {s : State} {o : Word} {size : Nat} {offs : List Nat} (k : List Nat → WordRes)
    (h : o.toNat % size = 0) (hr : s.n.spadRun o size = some offs) :
    spadWord s o size k = if s.f.acc.any Access.spad then .wait else k offs := by
  rw [spadWord, if_neg (not_not.2 h), hr]

theorem mmaReads_iff (s : State) :
    s.mmaReads = true ↔ s.g.role s.f.stg = .matrix ∧ s.g.mmaBefore s.g.mnext = true := by
  simp [State.mmaReads]

/-- A plain load of at most 8 bytes reads its bytes at issue (R120, R122). -/
theorem bodyOf_of_spadLoad {i : Instr} {s : State} {dest : Dest} {o : Word} {z : Nat} {sg : Bool}
    (h : spadLoad i s = some (dest, o, z, sg)) :
    bodyOf i s = spadWord s o z fun offs => .commit .seq fun t => t.sendLate
      { Deliv.blank with kind := .load, dest := dest, vals := loadCells sg (offs.map t.g.spad.read) } := by
  unfold spadLoad at h
  dsimp only at h
  split at h
  case h_7 => cases h
  all_goals
    cases h
    rfl

/-- A plain store of at most 8 bytes writes its bytes at once, once no release fence and no `mma` holds it back (R123, R303,
R332). -/
theorem bodyOf_of_spadStoreOf {i : Instr} {s : State} {bs : List Byte} {o : Word} {z : Nat}
    (h : spadStoreOf i s = some (bs, o, z)) :
    ∃ k : List Nat → State → State,
      bodyOf i s = spadWord s o z (fun offs =>
        if s.f.releasing = true ∨ s.mmaReads = true then .wait else .commit .seq (k offs)) ∧
      ∀ (offs : List Nat) (t : State), t.mmaReads = false → k offs t = { t with g := t.g.spadPut offs bs } := by
  unfold spadStoreOf at h
  dsimp only at h
  split at h
  case h_5 => cases h
  all_goals
    cases h
    exact ⟨_, rfl, fun offs t ht => if_neg (by simp [ht])⟩

/-- The two halves of an access of 16 bytes take their place in program order at their offset (R124). -/
theorem issues_spadHalves (a : Access) (o : Word) :
    State.issues { a with spad := true, half := some none } o.toNat o.toNat true = fun t =>
      t.issueAccess { a with va := o.setWidth 64, ia := o.toNat, tracked := true, spad := true, half := some none } := by
  have hva : BitVec.ofInt 64 (o.toNat : Int) = o.setWidth 64 := by rw [BitVec.ofInt_natCast, BitVec.ofNat_toNat]
  funext t
  rw [State.issues, hva]
  rfl

/-- `sts.q` is issued as an access (R124). -/
theorem stsWord_halves (s : State) (t a : Fld) (o : BitVec 8) :
    stsWord s t a o 16 = spadWord s (spadOffset s a o 16) 16 fun _ =>
      if s.f.releasing = true ∨ s.mmaReads = true then .wait
      else .commit .seq fun u => u.issueAccess { accessOf .store 16 .none (bytesOfCells (s.r.run t 4)) 0 with
        va := (spadOffset s a o 16).setWidth 64, ia := (spadOffset s a o 16).toNat, tracked := true, spad := true
        half := some none } := by
  unfold stsWord
  simp only [true_or, if_true]
  rfl

/-- A plain access of 16 bytes is issued as two halves, a store once no release fence and no `mma` holds it back (R124). -/
theorem bodyOf_of_spadHalves {i : Instr} {s : State} {a : Access} {o : Word} (h : spadHalves i s = some (a, o)) :
    bodyOf i s = spadWord s o 16 fun _ =>
      if a.op = .store ∧ (s.f.releasing = true ∨ s.mmaReads = true) then .wait
      else .commit .seq (State.issues { a with spad := true, half := some none } o.toNat o.toNat true) := by
  rw [issues_spadHalves]
  unfold spadHalves at h
  split at h
  case h_1 t b ea k => -- lds.q
    cases h
    exact congrArg (spadWord s _ 16) (funext fun _ => (if_neg fun hs => absurd hs.1 nofun).symm)
  case h_2 t b ea k => -- sts.q
    cases h
    exact (stsWord_halves s t b k).trans
      (congrArg (spadWord s _ 16) (funext fun _ => if_congr (and_iff_right rfl).symm rfl rfl))
  case h_3 => cases h

/-- An ordered or granule access checks its alignment and its range, with bit 31 of a granule's offset, and is attempted at
once (R290, R309). -/
theorem bodyOf_of_spadAccess {i : Instr} {s : State} {a : Access} {o : Word} {z : Nat} {high : Bool}
    (h : spadAccess i s = some (a, o, z, high)) :
    bodyOf i s =
      if o.toNat % z ≠ 0 then .trap 0x03 0 (o.setWidth 64)
      else if (high = true ∧ o.getLsbD 31 = true) ∨ (s.n.spadRun o z).isNone = true then .trap 0x10 0 (o.setWidth 64)
      else .commit .seq fun t => t.issueNow { a with spad := true, va := o.setWidth 64 } := by
  unfold spadAccess at h
  dsimp only at h
  split at h
  case h_7 | h_8 | h_9 => -- ldf, stf
    cases h
    simp only [true_and]
    rfl
  case h_10 => cases h
  all_goals -- lda, str
    split_ifs at h with hspad
    cases h
    simp only [Bool.false_eq_true, false_and, false_or]
    exact orderedWord_spad _ hspad

theorem isEvent_of_spadStoreOf {i : Instr} {s : State} {x : List Byte × Word × Nat} (h : spadStoreOf i s = some x) :
    isEvent i = false := by
  unfold spadStoreOf at h
  dsimp only at h
  split at h
  case h_5 => cases h
  all_goals rfl

theorem isEvent_of_spadHalves {i : Instr} {s : State} {x : Access × Word} (h : spadHalves i s = some x) :
    isEvent i = false := by
  unfold spadHalves at h
  split at h
  case h_3 => cases h
  all_goals rfl

/-- A word that only a wait can keep from its commit. -/
theorem exec_unless_held {i : Instr} {s : State} {held : Prop} [Decidable held] {k : State → State} (hc : CanIssue i s)
    (he : isEvent i = false) (hb : bodyOf i s = if held then .wait else .commit .seq k) :
    (¬held → exec i s = .next (s.committed i .seq k)) ∧ (held → exec i s = .next s.tick) :=
  ⟨fun h => exec_commit hc he (hb.trans (if_neg h)), fun h => exec_wait hc he (hb.trans (if_pos h))⟩

/-- A word of one of the four tables. -/
def SpadWord (i : Instr) (s : State) (o : Word) (z : Nat) : Prop :=
  (∃ dest sg, spadLoad i s = some (dest, o, z, sg)) ∨ (∃ bs, spadStoreOf i s = some (bs, o, z)) ∨
    (z = 16 ∧ ∃ a, spadHalves i s = some (a, o)) ∨ (∃ a high, spadAccess i s = some (a, o, z, high))

/-- A misaligned offset comes first (R121). -/
theorem bodyOf_of_spadWord_misaligned {i : Instr} {s : State} {o : Word} {z : Nat} (h : SpadWord i s o z)
    (h0 : o.toNat % z ≠ 0) : bodyOf i s = .trap 0x03 0 (o.setWidth 64) := by
  rcases h with ⟨dest, sg, h⟩ | ⟨bs, h⟩ | ⟨rfl, a, h⟩ | ⟨a, high, h⟩
  · exact (bodyOf_of_spadLoad h).trans (spadWord_misaligned _ h0)
  · obtain ⟨k, hb, -⟩ := bodyOf_of_spadStoreOf h
    exact hb.trans (spadWord_misaligned _ h0)
  · exact (bodyOf_of_spadHalves h).trans (spadWord_misaligned _ h0)
  · exact (bodyOf_of_spadAccess h).trans (if_pos h0)

/-- Then comes one outside the region and every tile window (R120). -/
theorem bodyOf_of_spadWord_outside {i : Instr} {s : State} {o : Word} {z : Nat} (h : SpadWord i s o z)
    (h0 : o.toNat % z = 0) (hr : s.n.spadRun o z = none) : bodyOf i s = .trap 0x10 0 (o.setWidth 64) := by
  rcases h with ⟨dest, sg, h⟩ | ⟨bs, h⟩ | ⟨rfl, a, h⟩ | ⟨a, high, h⟩
  · exact (bodyOf_of_spadLoad h).trans (spadWord_outside _ h0 hr)
  · obtain ⟨k, hb, -⟩ := bodyOf_of_spadStoreOf h
    exact hb.trans (spadWord_outside _ h0 hr)
  · exact (bodyOf_of_spadHalves h).trans (spadWord_outside _ h0 hr)
  · rw [bodyOf_of_spadAccess h, if_neg (not_not.2 h0), if_pos (.inr (Option.isNone_iff_eq_none.2 hr))]

/-- Settles O33: each table's form with its checks; what a word does with the state that issues it is fixed by its gang. -/
theorem scratchpadWords : Obligations.ScratchpadWords := by
  unfold Obligations.ScratchpadWords
  intro i s hc
  refine ⟨fun dest o z sg offs h h0 hr hfree => ?_, fun bs o z offs h h0 hr => ?_, fun a o h h0 hr => ?_,
    fun a o z high h h0 hr hhigh => ?_, fun a o z h h0 hbit => ?_, fun o z h => ?_⟩
  · have hb := (bodyOf_of_spadLoad h).trans (spadWord_inside _ h0 hr)
    rw [hfree] at hb
    rw [exec_commit hc (isEvent_of_bodyOf hb nofun) hb]
    exact congrArg Host.Outcome.next (committed_congr fun _ => rfl)
  · obtain ⟨k, hb, hk⟩ := bodyOf_of_spadStoreOf h
    rw [spadWord_inside _ h0 hr] at hb
    simp only [← ite_or, mmaReads_iff] at hb
    obtain ⟨hgo, hwait⟩ := exec_unless_held hc (isEvent_of_spadStoreOf h) hb
    refine ⟨fun hfree => (hgo hfree).trans (congrArg Host.Outcome.next (committed_congr fun pc => hk offs _ ?_)), hwait⟩
    exact Bool.eq_false_iff.2 fun hreads => hfree (.inr (.inr ((mmaReads_iff s).1 hreads)))
  · obtain ⟨offs, hr⟩ := Option.isSome_iff_exists.1 hr
    have hb := (bodyOf_of_spadHalves h).trans (spadWord_inside _ h0 hr)
    simp only [← ite_or, mmaReads_iff] at hb
    exact exec_unless_held hc (isEvent_of_spadHalves h) hb
  · have hpass : ¬((high = true ∧ o.getLsbD 31 = true) ∨ (s.n.spadRun o z).isNone = true) := by
      rintro (⟨hh, hbit⟩ | hnone)
      · exact Bool.eq_false_iff.1 (hhigh hh) hbit
      · exact absurd hr (by simp [Option.isNone_iff_eq_none.1 hnone])
    have hb := bodyOf_of_spadAccess h
    rw [if_neg (not_not.2 h0), if_neg hpass] at hb
    exact exec_commit hc (isEvent_of_bodyOf hb nofun) hb
  · have hb := bodyOf_of_spadAccess h
    rw [if_neg (not_not.2 h0), if_pos (.inl ⟨rfl, hbit⟩)] at hb
    exact exec_trap hc (isEvent_of_bodyOf hb nofun) hb
  · refine ⟨fun h0 => ?_, fun h0 hr => ?_⟩
    · have hb := bodyOf_of_spadWord_misaligned h h0
      exact exec_trap hc (isEvent_of_bodyOf hb nofun) hb
    · have hb := bodyOf_of_spadWord_outside h h0 hr
      exact exec_trap hc (isEvent_of_bodyOf hb nofun) hb

end Sys2Proof.Machine
end

section
/-!
PROOFS of what reaches a fibre late (05 R122, 06 R145, R146, R157, R158, 10 R220): a value, and what a converting load comes to.
-/
namespace Sys2Proof.Machine

/-! ### Late values -/

/-- The value of a serial number and kind reaches its fibre, once its chain has committed (R122, R145, R220). -/
theorem delivers_found {s : State} {who : FibId} {b : Fibre} {ser : Nat} {kind : DelivKind} {v : Deliv}
    (hb : s.fibre? who = some b) (hv : (b.dlv.find? fun u => u.ser == ser && u.kind == kind) = some v) :
    delivers s who ser kind = if b.ahead ser then s else s.setFibre (b.arrive v) := by
  simp only [delivers, hb, hv]

/-- Nothing of a value that has arrived is left on its way. -/
theorem ser_ne_of_mem_arrive {b : Fibre} {v u : Deliv} (h : u ∈ (b.arrive v).dlv) : u.ser ≠ v.ser := by
  obtain ⟨w, hw, rfl⟩ := List.mem_map.1 h
  have hser : w.ser ≠ v.ser := by simpa using (List.mem_filter.1 hw).2
  split <;> exact hser

/-- The states kept for the converting loads of later chains take the value too (R158). -/
theorem arrive_acc (b : Fibre) (v : Deliv) :
    (b.arrive v).acc = b.acc.map fun a => if v.ser < a.base then { a with ckpt := a.ckpt.map fun r => r.arrive v } else a :=
  List.map_congr_left fun _ _ => if_congr decide_eq_true_iff rfl rfl

/-! ### Converting loads that resolve -/

section
variable {s : State} {who : FibId} {b : Fibre} {n : Node} {ser : Nat} {v : Deliv} {op : AccOp} {r0 : Regs}

/-- No older converting load holds one back that does not round under RSR, or that has none ahead (log 15). -/
theorem not_held_by_draw (h : b.olderConv ser (fun _ => true) = false ∨ prcRM r0.prc ≠ .rsr) (p : AccOp → Bool) (q : Prop) :
    ¬(prcRM r0.prc = .rsr ∧ q ∧ b.olderConv ser p = true) := by
  rintro ⟨hrsr, -, hp⟩
  rcases h with h | h
  · exact absurd hp (Bool.eq_false_iff.1 (olderConv_false h))
  · exact h hrsr

variable (hb : s.fibre? who = some b) (hn : s.node? who.nid = some n)
  (hv : (b.dlv.find? fun u => u.ser == ser && u.converting) = some v) (hk : v.kind = .conv op) (hc : v.ckpt = some r0)
include hb hn hv hk hc

/-- A value of a converting load whose chain has committed arrives, and is drawn for where it is rounded under RSR. -/
theorem convResolve_value {y : YReg} {fl : Flags} {drew : Bool}
    (hr : resolveConv r0 op v.va v.bytes (rand32 n.spec.seed (BitVec.ofNat 64 who.gfi) r0.rndc).toNat = .value y fl drew)
    (hahead : b.ahead ser = false) (hold : b.olderConv ser (fun _ => true) = false ∨ prcRM r0.prc ≠ .rsr) :
    convResolve s who ser = s.setFibre
      (if drew then (b.arrive { v with yval := some y, flags := fl }).landed ser fun r => r.drew true
       else b.arrive { v with yval := some y, flags := fl }) := by
  simp only [convResolve, hb, hn, hv, hk, hc, if_neg (not_held_by_draw hold _ _), hr, hahead, Bool.false_eq_true, if_false]

/-- The oldest converting load that resolves to a trap enters it in the state of its issue, once no flag is pending. -/
theorem convResolve_trap {code sub : Nat} {val : DWord}
    (hr : resolveConv r0 op v.va v.bytes (rand32 n.spec.seed (BitVec.ofNat 64 who.gfi) r0.rndc).toNat = .trap code sub val)
    (hold : b.olderConv ser (fun _ => true) = false) (hflags : (b.rewind v.base r0).flagsPending = false) :
    convResolve s who ser = ((s.setFibre (b.rewind v.base r0)).focus who).trap r0.pc r0.pc code sub val := by
  simp only [convResolve, hb, hn, hv, hk, hc, if_neg (not_held_by_draw (.inl hold) _ _), hr, hold, hflags, Bool.false_eq_true,
    if_false]

end

/-- Settles O47: a delivery by what `arrive` leaves, and a converting load by what it comes to. -/
theorem lateValues : Obligations.LateValues := by
  unfold Obligations.LateValues
  intro who ser s b hoff hb
  refine ⟨fun i kind v hi hv => ?_, fun v => ⟨fun u => ser_ne_of_mem_arrive, rfl, arrive_acc b v⟩,
    fun n v op r0 hn hv hk hc => ⟨fun y fl drew hr hahead hold => ?_, fun code sub val hr hold hflags => ?_⟩⟩
  · have harrive := delivers_found hb hv
    rcases hi with ⟨rfl, rfl⟩ | ⟨rfl, rfl⟩ | ⟨rfl, rfl⟩
    · exact (exec_yResultDelivery hoff who ser).trans (congrArg _ harrive)
    · exact (exec_reduxYaddResult hoff who ser).trans (congrArg _ harrive)
    · exact (exec_loadDataArrival hoff who ser).trans (congrArg _ harrive)
  · rw [exec_convertingLoadResolve hoff, convResolve_value hb hn hv hk hc hr hahead hold]
  · rw [exec_convertingLoadResolve hoff, convResolve_trap hb hn hv hk hc hr hold hflags]
    rfl

end Sys2Proof.Machine
end

section
/-!
PROOFS of the Y-pipe words that write a cell, a pair or a predicate (06 R151, R152, R154).
-/
namespace Sys2Proof.Machine

/-- A word of the table checks its y sources and then delivers the table's result (R142). -/
theorem bodyOf_of_yScalar {i : Instr} {s : State} {y : YDone} (h : yScalar i s = some y) :
    bodyOf i s = yForm s y.srcs (yDeliver s y.passes y.dest y.vals y.yval y.flags y.drew) := by
  unfold yScalar at h
  split at h <;> cases h <;> rfl

/-- A result whose word meets no trap and no wait is committed (R142, R145). -/
theorem YDone.Clear.yForm_yDeliver {s : State} {y : YDone} (h : y.Clear s) :
    yForm s y.srcs (yDeliver s y.passes y.dest y.vals y.yval y.flags y.drew) = .commit .seq (y.effect s) := by
  have hgood : (y.srcs.find? fun f => !(s.r.y f).valid s.r.lw) = none :=
    List.find?_eq_none.2 fun f hf => by simpa using h.sources f hf
  have hnodraw : ¬(y.drew && s.f.drawWaits) = true := by simpa using h.draws
  rw [yForm_good _ hgood, yDeliver_eq, if_neg hnodraw, if_neg (by simp [h.flags])]

/-- Settles O13: such a word is a delivery behind its header checks, and all of these pass. -/
theorem yScalarWords : Obligations.YScalarWords := by
  unfold Obligations.YScalarWords
  intro i s y hc hy hclear
  have hb := (bodyOf_of_yScalar hy).trans hclear.yForm_yDeliver
  exact exec_commit hc (isEvent_of_bodyOf hb nofun) hb

end Sys2Proof.Machine
end

section
/-!
PROOFS of `ldc`, `sty` and `stc` (06 R159, R161, R450): their checks in order, and what they issue.
-/
namespace Sys2Proof.Machine

/-! ### `ldc` -/

section
variable {s : State} {t a : Fld} {o : BitVec 8} {fmt : Nat}

/-- The access that the table gives for an `ldc` of a format (R161). -/
def State.ldcAccess (s : State) (t : Fld) (fmt : Nat) : Access :=
  { accessOf (.ldc fmt) (convSize fmt) (.yreg s.r.frames.length t.toNat) [] 0 with ckpt := some s.r }

theorem ldcWord_short (h : s.r.lw < prcL s.r.prc) :
    ldcWord s t a o fmt = .trap 0x06 1 (BitVec.ofNat 64 (prcL s.r.prc + 256 * s.r.lw)) := if_pos h

theorem ldcWord_misaligned (hl : prcL s.r.prc ≤ s.r.lw) (h : s.r.va a o (convSize fmt) % convSize fmt ≠ 0) :
    ldcWord s t a o fmt = .trap 0x03 0 (BitVec.ofInt 64 (s.r.va a o (convSize fmt))) := by
  rw [ldcWord, if_neg (Nat.not_lt.2 hl)]
  dsimp only
  rw [globalWord_misaligned ⟨rfl, h⟩]

theorem ldcWord_refused {code ia : Nat} (hl : prcL s.r.prc ≤ s.r.lw) (h : s.r.va a o (convSize fmt) % convSize fmt = 0)
    (hx : s.xlat s.n (s.r.va a o (convSize fmt)) (convSize fmt) .load = .bad code ia) :
    ldcWord s t a o fmt = .fault code 0 (BitVec.ofInt 64 (s.r.va a o (convSize fmt))) ia := by
  rw [ldcWord, if_neg (Nat.not_lt.2 hl)]
  dsimp only
  rw [globalWord_refused (fun hm => hm.2 h) hx]

/-- An `ldc` that passes its checks is issued, but for one that draws while an earlier `ldy` may still draw (log 15). -/
theorem ldcWord_issues {ia : Nat} {tracked : Bool} (hl : prcL s.r.prc ≤ s.r.lw)
    (h : s.r.va a o (convSize fmt) % convSize fmt = 0)
    (hx : s.xlat s.n (s.r.va a o (convSize fmt)) (convSize fmt) .load = .ok ia tracked) :
    ldcWord s t a o fmt =
      if prcRM s.r.prc = .rsr ∧ s.f.drawWaits = true then .wait
      else .commit .seq fun u =>
        (State.issues { s.ldcAccess t fmt with base := s.f.nextSer } (s.r.va a o (convSize fmt)) ia tracked u).onRegs fun r =>
          r.drew (prcRM s.r.prc = .rsr) := by
  rw [ldcWord, if_neg (Nat.not_lt.2 hl)]
  dsimp only
  rw [globalWord_issues (fun hm => hm.2 h) hx]
  rfl

end

/-- A converting load of the table is a word, the `ldc` of a format. -/
theorem bodyOf_of_formatLoad {i : Instr} {s : State} {acc : Access} {va : Int} {z : Nat}
    (h : formatLoad i s = some (acc, va, z)) :
    isEvent i = false ∧ ∃ t a o fmt, bodyOf i s = ldcWord s t a o fmt ∧ acc = s.ldcAccess t fmt ∧
      va = s.r.va a o (convSize fmt) ∧ z = convSize fmt := by
  unfold formatLoad at h
  dsimp only at h
  split at h <;> cases h <;> exact ⟨rfl, _, _, _, _, rfl, rfl, rfl, rfl⟩

/-- What the registers take beside an access leaves the chain number that the commit gives it (R158). -/
theorem committed_issues_onRegs_base (i : Instr) (s : State) (a : Access) (base : Nat) (va : Int) (ia : Nat) (tracked : Bool)
    (f : Regs → Regs) :
    s.committed i .seq (fun t => (State.issues { a with base := base } va ia tracked t).onRegs f) =
      s.committed i .seq fun t => (State.issues a va ia tracked t).onRegs f := by
  simp [State.committed, State.asChain, Fibre.based, State.issues, State.onRegs]

/-! ### `sty` and `stc` -/

theorem length_leBytes (k x : Nat) : (leBytes k x).length = k := by
  induction k generalizing x with
  | zero => rfl
  | succ k ih => rw [leBytes, List.length_cons, ih]

/-- An `stc` writes as many bytes as its format has (R68). -/
theorem length_convEncode (fmt : Nat) (v : V) (rm : Rm) (u : Nat) : (convEncode fmt v rm u).1.length = convSize fmt := by
  unfold convEncode
  split <;> exact length_leBytes ..

section
variable {s : State} {va : Int} {aligned : Bool} {bs : List Byte} {fl : Flags}

theorem roundStore_misaligned (h : aligned = true ∧ va % bs.length ≠ 0) :
    roundStore s va aligned bs fl = .trap 0x03 0 (BitVec.ofInt 64 va) := by
  rw [roundStore, globalWord_misaligned h]

theorem roundStore_refused {code ia : Nat} (h : ¬(aligned = true ∧ va % bs.length ≠ 0))
    (hx : s.xlat s.n va bs.length .store = .bad code ia) :
    roundStore s va aligned bs fl = .fault code 0 (BitVec.ofInt 64 va) ia := by
  rw [roundStore, globalWord_refused h hx]

/-- A rounding store that passes the checks of its address traps for an enabled flag, and else is issued and sets its flags
(R450). -/
theorem roundStore_issues {ia : Nat} {tracked : Bool} (h : ¬(aligned = true ∧ va % bs.length ≠ 0))
    (hx : s.xlat s.n va bs.length .store = .ok ia tracked) :
    roundStore s va aligned bs fl =
      if enabled s.r.prc fl = true then .trap 0x05 fl.toNat 0#64
      else .commit .seq fun t =>
        (State.issues (accessOf .store bs.length .none bs 0) va ia tracked t).onRegs fun r =>
          (r.orFlags fl).drew (prcRM s.r.prc = .rsr) := by
  rw [roundStore, globalWord_issues h hx]
  rfl

end

/-- A rounding store of the table is a word that checks the header of its source and then stores the table's bytes (R20). -/
theorem bodyOf_of_roundedStore {i : Instr} {s : State} {f : Fld} {va : Int} {x : List Byte × Flags} {z : Nat}
    (h : roundedStore i s = some (f, va, x, z)) :
    isEvent i = false ∧ ∃ aligned, bodyOf i s = yForm s [f] (roundStore s va aligned x.1 x.2) ∧
      ((aligned = true ∧ va % x.1.length ≠ 0) ↔ va % z ≠ 0) := by
  unfold roundedStore at h
  dsimp only at h
  split at h
  case h_1 => -- sty
    cases h
    exact ⟨rfl, false, rfl, by simp⟩
  case h_11 => cases h
  all_goals -- stc
    cases h
    exact ⟨rfl, true, rfl, by simp [length_convEncode, convSize]⟩

theorem yForm_single_bad {s : State} {f : Fld} (k : WordRes) (h : (s.r.y f).valid s.r.lw = false) :
    yForm s [f] k = .trap 0x0F 0 (BitVec.ofNat 64 (2 ^ 63 + f.toNat)) :=
  yForm_bad k (List.find?_cons_of_pos (by simp [h]))

theorem yForm_single_good {s : State} {f : Fld} (k : WordRes) (h : (s.r.y f).valid s.r.lw = true) : yForm s [f] k = k :=
  yForm_good k (by simp [h])

/-! ### Both kinds of access -/

/-- Settles O32: the checks of `ldcWord` and of `roundStore` in their order, and what each issues once they pass. -/
theorem convertingAccesses : Obligations.ConvertingAccesses := by
  unfold Obligations.ConvertingAccesses
  intro i s hc
  refine ⟨fun acc va z hload => ?_, fun f va bs fl z hstore => ?_⟩
  · obtain ⟨he, t, a, o, fmt, hb, rfl, rfl, rfl⟩ := bodyOf_of_formatLoad hload
    refine ⟨fun hs => exec_trap hc he (hb.trans (ldcWord_short hs)), fun hl =>
      ⟨fun h => exec_trap hc he (hb.trans (ldcWord_misaligned hl h)), fun h =>
        ⟨fun code ia hx => exec_fault hc he (hb.trans (ldcWord_refused hl h hx)), fun ia tracked hx => ?_⟩⟩⟩
    have hb := hb.trans (ldcWord_issues hl h hx)
    refine ⟨fun hr hd => exec_wait hc he (hb.trans (if_pos ⟨hr, hd⟩)), fun hnodraw => ?_⟩
    have hb := hb.trans (if_neg fun ⟨hr, hd⟩ => by simp [hnodraw hr] at hd)
    rw [exec_commit hc he hb, committed_issues_onRegs_base]
  · obtain ⟨he, aligned, hb, hal⟩ := bodyOf_of_roundedStore hstore
    refine ⟨fun hv => exec_trap hc he (hb.trans (yForm_single_bad _ hv)), fun hv => ?_⟩
    have hb := hb.trans (yForm_single_good _ hv)
    refine ⟨fun h => exec_trap hc he (hb.trans (roundStore_misaligned (hal.2 h))), fun h => ?_⟩
    have hpass : ¬(aligned = true ∧ va % bs.length ≠ 0) := fun hm => hal.1 hm h
    refine ⟨fun code ia hx => exec_fault hc he (hb.trans (roundStore_refused hpass hx)), fun ia tracked hx => ?_⟩
    have hb := hb.trans (roundStore_issues hpass hx)
    exact ⟨fun hen => exec_trap hc he (hb.trans (if_pos hen)), fun hen =>
      exec_commit hc he (hb.trans (if_neg (by simp [hen])))⟩

end Sys2Proof.Machine
end

section
/-!
PROOFS of `yield` and `end` (10 R212, R216, 08 R174, R182, R183).
-/
namespace Sys2Proof.Machine

/-! ### `yield` -/

/-- The fields of YDL read back: HINT has two bits and IDLE five. -/
theorem ydl_ydlOf {left hint idle : Nat} (hh : hint < 4) (hi : idle < 32) :
    ydlLeft (ydlOf left hint idle) = left % 65536 ∧ ydlHint (ydlOf left hint idle) = hint ∧
      ydlIdle (ydlOf left hint idle) = idle := by
  simp only [ydlLeft, ydlHint, ydlIdle, ydlOf, BitVec.extractLsb'_toNat, BitVec.toNat_ofNat, Nat.shiftRight_eq_div_pow]
  omega

theorem Regs.arriveAt_ydl (r : Regs) (pc : DWord) : (r.arriveAt pc).ydl = r.ydl := by
  unfold Regs.arriveAt
  split <;> rfl

/-- A word that goes on in sequence leaves the HINT and IDLE of its effect, and LEFT by its deadline. -/
theorem committed_seq_ydl (i : Instr) (k : State → State) (s : State) :
    (s.committed i .seq k).r.ydl =
      let y := (k (s.onRegs fun r => { r with pc := nextAfter (infoOf i) s.r.pc })).r.ydl
      ydlOf (leftOf i s) (ydlHint y) (ydlIdle y) := Regs.arriveAt_ydl _ _

/-- What `yield` does to the fibre before LEFT is set (R182, R183). -/
def State.yielded (h : BitVec 3) (s t : State) : State :=
  { t with f := { t.f with
    regs := { t.r with ydl := ydlOf (ydlLeft t.r.ydl) h.toNat (if h = 0#3 then 0 else min (ydlIdle t.r.ydl + 1) 16) }
    backoff := if h = 2#3 then some ((s.c.parts.getD (s.partOf s.f.id.cid) ⟨0, 0⟩).clock + 16) else t.f.backoff } }

theorem exec_yield {h : BitVec 3} {d : BitVec 16} {s : State} (hc : CanIssue (.yield h d) s) :
    exec (.yield h d) s = .next (s.committed (.yield h d) .seq (s.yielded h)) := by
  have hzero : h.toNat = 0 ↔ h = 0#3 := (BitVec.toNat_inj (y := 0#3))
  have htwo : h.toNat = 2 ↔ h = 2#3 := (BitVec.toNat_inj (y := 2#3))
  rw [exec_commit hc rfl (show bodyOf (.yield h d) s = yieldWord s h.toNat from rfl)]
  refine congrArg _ (committed_congr fun pc => ?_)
  simp only [hzero, htwo, State.yielded]
  split <;> rfl

theorem leftOf_yield (h : BitVec 3) (d : BitVec 16) (s : State) :
    leftOf (.yield h d) s = if d = 0#16 then s.n.spec.ydef else d.toNat := by
  have hzero : d.toNat = 0 ↔ d = 0#16 := (BitVec.toNat_inj (y := 0#16))
  simp only [← hzero]
  rfl

/-- Settles O24: the commit of `yield` writes HINT and IDLE, and LEFT by its deadline. -/
theorem yieldWritesHint : Obligations.YieldWritesHint := by
  unfold Obligations.YieldWritesHint
  intro h d s hc
  refine ⟨exec_yield hc, fun hh hy => ⟨_, exec_yield hc, ?_⟩⟩
  have hidle : (if h = 0#3 then 0 else min (ydlIdle s.r.ydl + 1) 16) < 32 := by split <;> omega
  have hleft : leftOf (.yield h d) s % 65536 = if d = 0#16 then s.n.spec.ydef else d.toNat := by
    rw [leftOf_yield]
    split
    · exact Nat.mod_eq_of_lt hy
    · exact Nat.mod_eq_of_lt d.isLt
  have hydl := (committed_seq_ydl (.yield h d) (s.yielded h) s).trans
    (congrArg₂ (ydlOf _) (ydl_ydlOf hh hidle).2.1 (ydl_ydlOf hh hidle).2.2)
  obtain ⟨hl, hhint, hi⟩ := ydl_ydlOf (left := leftOf (.yield h d) s) hh hidle
  rw [hydl]
  exact ⟨hl.trans hleft, hhint, hi⟩

/-! ### `end` -/

/-- No other fibre of the current fibre's crew is live. -/
def State.lastOfCrew (s : State) : Bool :=
  s.fibres.all fun x => !(x.life == .live && decide (x.id ≠ s.f.id ∧ x.id.nid = s.f.id.nid ∧
    x.id.gid = s.f.id.gid ∧ x.id.cid = s.f.id.cid))

/-- A gang without a crew; the one whose last crew it was drains (R174). -/
def Gang.withoutCrew (g : Gang) (cid : Nat) : Gang :=
  let left := g.crews.filter fun c => c.cid ≠ cid
  { g with crews := left, place := if left = [] then (match g.place with | .resident c => .draining c | p => p) else g.place }

/-- A gang on a core that has lost its last crew drains there. -/
theorem Gang.withoutCrew_place_resident {g : Gang} {core : Nat} (h : g.place = .resident core) (cid : Nat) :
    (g.withoutCrew cid).place = if (g.withoutCrew cid).crews = [] then .draining core else .resident core := by
  unfold Gang.withoutCrew
  dsimp only
  rw [h]

theorem Gang.withoutCrew_place_elsewhere {g : Gang} (h : ∀ core, g.place ≠ .resident core) (cid : Nat) :
    (g.withoutCrew cid).place = g.place := by
  unfold Gang.withoutCrew
  cases hp : g.place with
  | resident core => exact absurd hp (h core)
  | _ => exact ite_self _

theorem sortOn_eq_nil {α : Type} {key : α → Nat} {l : List α} : sortOn key l = [] ↔ l = [] := by
  simp only [List.eq_nil_iff_forall_not_mem, mem_sortOn]

/-- Once the current fibre has ended, its crew has no live fibre if it was the last one. -/
theorem State.crewFibres_stop (s : State) (g : Gang) :
    State.crewFibres { s with f := s.f.stop, g := g } s.f.id.nid s.f.id.gid s.f.id.cid = [] ↔ s.lastOfCrew = true := by
  have hid : s.f.stop.id = s.f.id := rfl
  have hlife : s.f.stop.life = .ended := rfl
  simp only [State.crewFibres, sortOn_eq_nil, State.allFibres, State.lastOfCrew, List.filter_filter, List.filter_eq_nil_iff,
    List.all_eq_true, List.mem_cons, List.mem_filter, hid]
  constructor
  · intro h x hx
    by_cases hne : x.id = s.f.id
    · simp [hne]
    · have := h x (.inr ⟨hx, by simpa using hne⟩)
      grind
  · rintro h x (rfl | ⟨hx, hne⟩)
    · simp [hlife]
    · have := h x hx
      grind

/-- What `end` leaves of the current gang: its crew ends with its last live fibre (R174). -/
def State.gangAtEnd (s : State) : Gang :=
  if s.lastOfCrew = true then (s.g.orphanCopies s.f.id).withoutCrew s.f.id.cid else s.g.orphanCopies s.f.id

/-- `end` stops the fibre, and with the last live one of its crew the crew (R174, R212). -/
theorem State.endFibre_eq {s : State} (hn : s.g.nid = s.f.id.nid) (hg : s.g.gid = s.f.id.gid) (h0 : s.g.nid ≠ 0) :
    s.endFibre = { s with f := s.f.stop, g := s.gangAtEnd } := by
  have hgang : State.gang? { s with f := s.f.stop, g := s.g.orphanCopies s.f.id } s.f.id.nid s.f.id.gid =
      some (s.g.orphanCopies s.f.id) := by
    unfold State.gang?
    rw [if_pos ⟨hn, hg⟩, if_neg (hn ▸ h0)]
  unfold State.endFibre State.gangAtEnd
  dsimp only
  by_cases hl : s.lastOfCrew = true
  · rw [if_pos ((s.crewFibres_stop _).2 hl), if_pos hl, State.onGang, hgang]
    exact if_pos ⟨rfl, rfl⟩
  · rw [if_neg (mt (s.crewFibres_stop _).1 hl), if_neg hl]

theorem exec_endFibre {s : State} (hc : CanIssue .endFibre s) (hn : s.g.nid = s.f.id.nid) (hg : s.g.gid = s.f.id.gid)
    (h0 : s.g.nid ≠ 0) :
    exec .endFibre s = .next (s.committed .endFibre .gone fun t => { t with f := t.f.stop, g := s.gangAtEnd }) := by
  rw [exec_commit hc rfl (show bodyOf .endFibre s = .commit .gone State.endFibre from rfl)]
  exact congrArg _ (committed_congr fun _ => State.endFibre_eq (s := s.onRegs _) hn hg h0)

/-- Settles O25: `end` stops the fibre and leaves `State.gangAtEnd`. -/
theorem endFibre : Obligations.EndFibre := by
  unfold Obligations.EndFibre
  intro s hc hn hg h0
  refine ⟨_, exec_endFibre hc hn hg h0, rfl, rfl, rfl, rfl, ?_, rfl⟩
  show s.gangAtEnd.crews = (if s.lastOfCrew = true then _ else _) ∧
    s.gangAtEnd.place = match s.g.place with
      | .resident c => if s.lastOfCrew = true ∧ s.gangAtEnd.crews = [] then .draining c else .resident c
      | p => p
  by_cases hl : s.lastOfCrew = true
  · have hgang : s.gangAtEnd = (s.g.orphanCopies s.f.id).withoutCrew s.f.id.cid := if_pos hl
    rw [hgang, if_pos hl]
    refine ⟨rfl, ?_⟩
    cases hp : s.g.place with
    | resident core =>
      simp only [hl, true_and]
      exact Gang.withoutCrew_place_resident (g := s.g.orphanCopies s.f.id) hp _
    | _ => exact (Gang.withoutCrew_place_elsewhere (g := s.g.orphanCopies s.f.id) (fun _ h => nomatch hp.symm.trans h) _).trans hp
  · have hgang : s.gangAtEnd = s.g.orphanCopies s.f.id := if_neg hl
    rw [hgang, if_neg hl]
    refine ⟨rfl, ?_⟩
    show s.g.place = _
    cases s.g.place with
    | resident core => exact (if_neg fun h => hl h.1).symm
    | _ => rfl

end Sys2Proof.Machine
end

section
/-!
PROOFS that gangs and crews start and end (08 R172, R174, R186, R190, R191, 10 R214, 22 R413).
-/
namespace Sys2Proof.Machine

/-! ### Where a gang is placed (R190, R191) -/

section
variable {s : State} {n : Node} {g : Gang} {core : Nat}

/-- In deterministic mode a gang goes to the core of its GID or to none. -/
theorem State.choose_det (hdet : n.spec.det = true) (h : s.choose n g = some core) :
    core = n.fixedCore g.gid ∧ s.admits n g core = true := by
  unfold State.choose at h
  rw [if_pos hdet] at h
  split at h
  · next ha => exact Option.some.inj h ▸ ⟨rfl, ha⟩
  · cases h

/-- In throughput mode a gang goes to the first of the eligible cores in the order of R190. -/
theorem State.choose_throughput (hdet : n.spec.det = false) (h : s.choose n g = some core) :
    core ∈ s.coreNums.filter (fun c => s.admits n g c && s.coolEnough n c) ∧
      ∀ d ∈ s.coreNums.filter (fun c => s.admits n g c && s.coolEnough n c), s.coolness core ≤ s.coolness d := by
  unfold State.choose at h
  rw [if_neg (ne_true_of_eq_false hdet)] at h
  exact sortOn_head h

theorem State.mem_coreNums {c : Nat} : c ∈ s.coreNums ↔ c < s.coreMap.length := List.mem_range

theorem State.choose_spec (h : s.choose n g = some core) :
    s.admits n g core = true ∧ (n.spec.det = true → core = g.gid % max 1 n.spec.mapC) ∧
      (n.spec.det = false → core < s.coreMap.length ∧ s.coolEnough n core = true ∧
        ∀ d < s.coreMap.length, s.admits n g d = true → s.coolEnough n d = true → s.coolness core ≤ s.coolness d) := by
  cases hdet : n.spec.det with
  | true =>
    obtain ⟨hcore, hadm⟩ := State.choose_det hdet h
    exact ⟨hadm, fun _ => hcore, nofun⟩
  | false =>
    obtain ⟨hmem, hfirst⟩ := State.choose_throughput hdet h
    simp only [List.mem_filter, State.mem_coreNums, Bool.and_eq_true] at hmem hfirst
    obtain ⟨hlt, hadm, hcool⟩ := hmem
    exact ⟨hadm, nofun, fun _ => ⟨hlt, hcool, fun d hd ha hc => hfirst d ⟨hd, ha, hc⟩⟩⟩

/-- The suspended gangs that make way stand on one core, which then admits the waiting gang (R413). -/
theorem State.suspendedInWay_spec {l : List Gang} (h : s.suspendedInWay n g = some l) :
    ∃ core, (∀ x ∈ l, x ∈ s.allGangs ∧ x.suspended = true ∧ x.place = .resident core) ∧
      (s.without core l).admits n g core = true := by
  obtain ⟨core, -, hl⟩ := List.mem_flatMap.1 (sortOn_head h).1
  obtain ⟨hl, hadm⟩ := List.mem_filter.1 (List.mem_ite_nil_right.1 hl).2
  refine ⟨core, fun x hx => ?_, hadm⟩
  have hmem : x ∈ s.allGangs.filter fun x => x.place == .resident core && x.suspended := by
    rcases List.mem_append.1 hl with hone | htake
    · obtain ⟨y, hy, rfl⟩ := List.mem_map.1 hone
      exact List.mem_singleton.1 hx ▸ hy
    · obtain ⟨k, -, rfl⟩ := List.mem_map.1 htake
      exact List.mem_of_mem_take hx
  obtain ⟨hall, hstands⟩ := List.mem_filter.1 hmem
  rw [Bool.and_eq_true, beq_iff_eq] at hstands
  exact ⟨hall, hstands.2, hstands.1⟩

/-! ### Events of the dispatcher -/

theorem placeGang_starts {nid gid : Nat} (hn : s.node? nid = some n) (hg : s.dueGang n gid = some g)
    (hc : s.choose n g = some core) : placeGang s nid gid = s.start n g core := by
  unfold placeGang
  simp only [hn, hg, hc]

theorem placeGang_makesWay {nid gid : Nat} (hn : s.node? nid = some n) (hg : s.dueGang n gid = some g)
    (hc : s.choose n g = none) : placeGang s nid gid = s.makeWay n g := by
  unfold placeGang
  simp only [hn, hg, hc]

theorem State.makeWay_saves {l : List Gang} (h : s.suspendedInWay n g = some l) :
    s.makeWay n g = (l.filter fun x => x.leaving == none).foldl (fun t x => t.stopGang x none) s := by
  unfold State.makeWay
  simp only [h]

theorem State.makeWay_drains (hl : s.suspendedInWay n g = none) (hc : s.drainCore n g = some core) :
    s.makeWay n g = s.onCore core fun c => { c with drainFor := some n.spec.split } := by
  unfold State.makeWay
  simp only [hl, hc]

/-- A spawned crew starts unless its spawner still has an earlier copy or access under way (R214). -/
theorem startCrew_starting {nid gid cid ser : Nat} {c : Crew} {who : FibId} (hg : s.gang? nid gid = some g)
    (hc : g.crew? cid = some c) (hst : c.state = .starting who ser) :
    startCrew s nid gid cid =
      if ((g.cpbs.any fun x => decide (x.who = who) && decide (x.ser < ser)) ||
          (s.fibre? who).any fun b => b.acc.any fun a => decide (a.ser < ser) && !a.pastL1) = true then s
      else s.onCrew nid gid cid fun c => { c with state := .running } := by
  unfold startCrew
  simp only [hg, hc, hst, Option.bind_some, Option.any_some, Gang.cpbsOf, List.any_filter, Bool.or_eq_true]

/-- A gang that drains is released once what it had accepted is complete, but for the faults of a node that fails (R174). -/
theorem releaseGang_draining {nid gid : Nat} (hg : s.gang? nid gid = some g) (hp : g.place = .draining core) :
    let fails := (s.node? nid).any fun n => n.failing.isSome
    releaseGang s nid gid =
      if (∀ c ∈ g.cpbs, fails = true ∧ c.stage.faulty = true) ∧ g.matq = [] ∧ (∀ c ∈ g.ctxs, c.ops = []) ∧
          ∀ b ∈ s.gangAll nid gid, b.obj = none ∧ ∀ a ∈ b.acc, fails = true ∧ a.stage.faulty = true then
        State.freeSplit ((s.setGang { Gang.fresh nid gid g.roles with
          place := .ended, held := g.held, cont := g.cont }).onCore core fun c =>
            { c with bundles := dropFromBundles (fun i => decide (i.nid = nid ∧ i.gid = gid)) c.bundles }) core
      else s := by
  intro fails
  unfold releaseGang
  simp only [hg, hp]
  exact if_congr (by simp [fails, and_assoc]) rfl rfl

end

/-- Settles O52: each event of the dispatcher is the case of its operation that its premises name. -/
theorem gangStarts : Obligations.GangStarts := by
  unfold Obligations.GangStarts
  intro s
  refine ⟨fun n g core => State.choose_spec, fun n g l => State.suspendedInWay_spec, fun hoff => ⟨fun nid gid n g hn hdue =>
    ⟨fun core hc => ?_, fun l hc hl => ?_, fun core hc hl hd => ?_⟩, fun nid gid cid g c who ser hg hc hst => ?_,
    fun nid gid g core hg hp => ?_⟩⟩
  · exact (exec_gangPlacement hoff nid gid).trans (congrArg _ (placeGang_starts hn hdue hc))
  · rw [exec_gangPlacement hoff, placeGang_makesWay hn hdue hc, State.makeWay_saves hl]
  · rw [exec_gangPlacement hoff, placeGang_makesWay hn hdue hc, State.makeWay_drains hl hd]
  · rw [exec_spawnedCrewStart hoff, startCrew_starting hg hc hst]
  · rw [exec_gangRelease hoff]
    exact congrArg _ (releaseGang_draining hg hp)

end Sys2Proof.Machine
end

section
/-!
PROOFS that gangs and crews are saved, swapped and restored (08 R184, 22 R407, R413 to R416, R449).
-/
namespace Sys2Proof.Machine

section
variable {s : State} {nid gid core : Nat} {n : Node} {g : Gang}

/-! ### Saving a gang (R407, R413) -/

/-- A resident gang that has stopped stays where it is until it is quiet and the liveness entries are read; then it is saved,
and a gang that it leaves for takes its place. -/
def State.savedOnceQuiet (s : State) (n : Node) (g : Gang) (core : Nat) (w : Option (Nat × Nat)) : State :=
  if !s.gangQuiet g then s
  else if !s.livesRead n (s.gangFibres g.nid g.gid) then s.livesAgain n (s.gangFibres g.nid g.gid)
  else if w.isSome then (s.saveGang n g core true).fillCore core (g.nid, g.gid)
  else s.saveGang n g core false

theorem preempt_stops (hn : s.node? nid = some n) (hg : s.gang? nid gid = some g) (hp : g.place = .resident core)
    (hl : g.leaving = none) : preempt s nid gid = (s.stopGang g none).savedOnceQuiet n g core none := by
  obtain ⟨rfl, rfl⟩ := State.gang?_id hg
  unfold preempt State.savedOnceQuiet
  simp only [hn, hg, hp, hl, Option.getD_none, Option.isSome_none, if_true, Bool.false_eq_true, if_false]

theorem preempt_leaving {w : Option (Nat × Nat)} (hn : s.node? nid = some n) (hg : s.gang? nid gid = some g)
    (hp : g.place = .resident core) (hl : g.leaving = some w) : preempt s nid gid = s.savedOnceQuiet n g core w := by
  obtain ⟨rfl, rfl⟩ := State.gang?_id hg
  unfold preempt State.savedOnceQuiet
  simp only [hn, hg, hp, hl, Option.getD_some, reduceCtorEq, if_false]
  cases w with
  | none => simp only [Option.isSome_none, Bool.false_eq_true, if_false]
  | some x => simp only [Option.isSome_some, if_true]

/-! ### Swaps (R184) -/

/-- The first gang that waits, for no core admits it, that the core could take once `g` has left it, and for which no other
gang leaves yet (R184). -/
def State.swapsFor (s : State) (g : Gang) (core nid gid : Nat) : Option (Node × Gang) :=
  let gone := (s.setGang { g with place := .saved core true }).freeSplit core
  (gone.waitingGangs core (nid, gid)).find? fun x => (s.choose x.1 x.2).isNone &&
    gone.admits x.1 x.2 core && (x.1.spec.det || gone.coolEnough x.1 core) &&
      !(s.allGangs.any fun y => y.leaving == some (some (x.2.nid, x.2.gid)))

theorem swapGang_none (hn : s.node? nid = some n) (hg : s.gang? nid gid = some g) (hp : g.place = .resident core)
    (hw : s.swapsFor g core nid gid = none) : swapGang s nid gid = s := by
  unfold State.swapsFor at hw
  unfold swapGang State.madeFor
  simp only [hn, hg, hp] at hw ⊢
  rw [hw]

theorem swapGang_some {w : Node × Gang} (hn : s.node? nid = some n) (hg : s.gang? nid gid = some g)
    (hp : g.place = .resident core) (hl : g.leaving = none) (hw : s.swapsFor g core nid gid = some w) :
    swapGang s nid gid =
      if n.spec.det = false ∧ n.failing = none ∧ ∀ b ∈ s.gangFibres nid gid, ydlIdle b.regs.ydl = 16 then
        preempt (s.stopGang g (some (w.2.nid, w.2.gid))) nid gid
      else s := by
  unfold State.swapsFor at hw
  unfold swapGang State.madeFor
  simp only [hn, hg, hp, hl] at hw ⊢
  rw [hw]
  exact if_congr (by simp [and_assoc]) rfl rfl

/-! ### One crew (R449) -/

theorem preemptOne_stops {cid : Nat} {c : Crew} (hn : s.node? nid = some n) (hg : s.gang? nid gid = some g)
    (hp : g.place = .resident core) (hc : g.crew? cid = some c) (hl : g.leaving = none) (ha : c.place ≠ .away) :
    let his := fun (i : FibId) => decide (i.nid = nid ∧ i.gid = gid ∧ i.cid = cid)
    let t := (s.stopRuns nid gid cid).onCrew nid gid cid fun c => { c with place := .leaving }
    let fs := t.crewFibres nid gid cid
    preemptOne s nid gid cid =
      if ¬((∀ b ∈ fs, t.quiet b = true) ∧ ∀ x ∈ g.cpbs, his x.who = false) then t
      else if !t.livesRead n fs then t.livesAgain n fs
      else (((t.savesFibres n his).livesDone n fs).onCrew nid gid cid fun c => { c with place := .away }).onCore core
        fun c => { c with bundles := dropFromBundles his c.bundles } := by
  intro his t fs
  unfold preemptOne
  simp only [hn, hg, hp, hc, hl]
  rw [if_neg (by simpa using ha)]
  exact if_congr (by simp [his, t, fs, imp_iff_not_or]) rfl rfl

theorem restoreCrew_resident {cid : Nat} (hg : s.gang? nid gid = some g) (hp : g.place = .resident core) :
    restoreCrew s nid gid cid =
      (s.onCrew nid gid cid fun c => if c.place = .away then { c with place := .here } else c).mapFibres
        (fun i => decide (i.nid = nid ∧ i.gid = gid ∧ i.cid = cid) && g.runs cid) Fibre.resumed := by
  unfold restoreCrew
  simp only [hg, hp]

/-! ### Restoring (R274, R415) -/

theorem restoreGang_saved {old dest : Nat} {swap : Bool} (hn : s.node? nid = some n) (hg : s.gang? nid gid = some g)
    (hp : g.place = .saved old swap) (hplaces : n.places = true) (hwaits : g.waits = true)
    (hfirst : s.firstOf n none gid = true) (hc : s.choose n g = some dest) :
    restoreGang s nid gid = s.restoreOn n g dest old swap := by
  unfold restoreGang
  simp [hn, hg, hp, hplaces, hwaits, hfirst, hc]

/-- A core holds dirty bytes of a node. -/
def State.dirtyOn (s : State) (n : Node) (core : Nat) : Bool :=
  (s.core core).l1.any fun l => l.dm != 0#128 && l.ctx == n.ctx

/-- No write-back of a node has left a core and is still on its way. -/
def State.noWriteBack (s : State) (n : Node) (core : Nat) : Prop :=
  ∀ x ∈ s.flight, ∀ crew tracked, ¬(x.core = core ∧ x.op = .writeBack n.ctx crew tracked)

theorem State.restoreOn_dirty {old dest : Nat} (swap : Bool) (hne : old ≠ dest) (hd : s.dirtyOn n old = true) :
    s.restoreOn n g dest old swap = s.writeBackAll old fun l => l.ctx = n.ctx := if_pos ⟨hne, hd⟩

theorem State.restoreOn_clean {old dest : Nat} {swap : Bool}
    (h : old ≠ dest → s.dirtyOn n old = false ∧ s.noWriteBack n old) :
    s.restoreOn n g dest old swap =
      let u := (if old = dest then s.admitted n g dest else (s.admitted n g dest).dropAllClean dest).resumeFibres g
      if swap then u.mapFibres (fun i => decide (i.nid = g.nid ∧ i.gid = g.gid)) Fibre.wake else u := by
  unfold State.restoreOn
  dsimp only
  by_cases he : old = dest
  · simp [he]
  · obtain ⟨hd, hw⟩ := h he
    rw [if_neg fun hx => ne_true_of_eq_false hd hx.2, if_neg]
    rintro ⟨-, hx⟩
    obtain ⟨x, hmem, hx⟩ := List.any_eq_true.1 hx
    cases hop : x.op with
    | writeBack ctx crew tracked =>
      simp only [hop, Bool.and_eq_true, decide_eq_true_eq, beq_iff_eq] at hx
      exact hw x hmem crew tracked ⟨hx.1, hx.2 ▸ hop⟩
    | _ => simp [hop] at hx

end

/-- Settles O53: each event is the case of its operation that its premises name; what leaves is what `State.saveGang` saves. -/
theorem gangSaves : Obligations.GangSaves := by
  unfold Obligations.GangSaves
  intro s nid gid n g core hoff hn hg
  obtain ⟨rfl, rfl⟩ := State.gang?_id hg
  intro mine live size read again done leave
  have hread : ∀ u l, read u l = u.livesRead n l := fun _ _ => rfl
  have hagain : ∀ u l, again u l = u.livesAgain n l := fun _ _ => rfl
  have hleave : ∀ u swap, leave u swap = u.saveGang n g core swap := fun _ _ => rfl
  refine ⟨fun hp => ⟨fun hl => ⟨?_, ?_⟩, fun w hl => ?_, fun cid c hc hl ha => ?_, fun cid => ?_⟩,
    fun old swap dest hp hplaces hwaits hfirst hc => ⟨fun hne hd => ?_, fun hclean => ?_⟩⟩
  · rw [exec_preemptGang hoff, preempt_stops hn hg hp hl]
    simp only [hread, hagain, hleave, State.savedOnceQuiet, Option.isSome_none, Bool.false_eq_true, if_false]
  · rw [exec_gangSwap hoff]
    cases hw : s.swapsFor g core g.nid g.gid with
    | none =>
      rw [swapGang_none hn hg hp hw]
      unfold State.swapsFor at hw
      dsimp only at hw ⊢
      rw [hw]
    | some w =>
      rw [swapGang_some hn hg hp hl hw]
      unfold State.swapsFor at hw
      dsimp only at hw ⊢
      rw [hw]
  · rw [exec_preemptGang hoff, preempt_leaving hn hg hp hl, hread, hagain, hleave, hleave, State.savedOnceQuiet]
  · exact (exec_preemptCrew hoff _ _ _).trans (congrArg _ (preemptOne_stops hn hg hp hc hl ha))
  · rw [exec_crewRestore hoff, restoreCrew_resident hg hp]
  · rw [exec_gangRestore hoff, restoreGang_saved hn hg hp hplaces hwaits hfirst hc, State.restoreOn_dirty swap hne hd]
  · rw [exec_gangRestore hoff, restoreGang_saved hn hg hp hplaces hwaits hfirst hc, State.restoreOn_clean hclean]
    rfl

end Sys2Proof.Machine
end

section
/-!
PROOFS of the host's commands (08 R189, 12 R241, R247, 23 R431, R436 to R438, R441, R442).
-/
namespace Sys2Proof.Machine

section
variable {s : State}

/-! ### Settings: the cache part, the power limit, firmware, the device ID -/

theorem cachePartSet_eq (s : State) (die col mib : Nat) :
    cachePartSet s die col mib =
      if mib ∈ [0, 16, 32, 48, 64] ∧ die < 4 ∧ col < 8 ∧ ∀ n ∈ s.allNodes, n.state ≠ .running then
        { s with cachePart := s.cachePart.set (8 * die + col) mib }
      else s.deny 247 := by
  unfold cachePartSet
  rw [← ite_not]
  exact if_congr (by simp; intros; omega) rfl rfl

theorem powerSet_eq (s : State) (watts : Nat) :
    powerSet s watts = if 1600 ≤ watts ∧ watts ≤ 2400 ∧ watts % 50 = 0 then s.onFabric fun f => { f with power := watts }
      else s.deny 438 := by
  unfold powerSet
  rw [← ite_not]
  exact if_congr (by omega) rfl rfl

theorem firmwareSet_eq (s : State) (engine digest : Nat) (signed : Bool) :
    firmwareSet s engine digest signed =
      if signed = true ∧ engine < s.fabric.firmware.length ∧ ∀ n ∈ s.allNodes, ¬(n.alive = true ∧ n.spec.det = true) then
        s.onFabric fun f => { f with firmware := f.firmware.set engine (digest % 2 ^ 512) }
      else s.deny 437 := by
  unfold firmwareSet
  rw [← ite_not]
  exact if_congr (by simp) rfl rfl

theorem deviceIdSet_eq (s : State) (id : Nat) :
    deviceIdSet s id = if id < 2 ^ 19 ∧ ∀ n ∈ s.allNodes, n.alive = false then s.onFabric fun f => { f with deviceId := id }
      else s.deny 442 := by
  unfold deviceIdSet
  rw [← ite_not]
  exact if_congr (by simp) rfl rfl

/-! ### A spare for a core (R2, R437) -/

theorem State.isRetired_eq (s : State) (kind index : Nat) :
    s.isRetired kind index = s.fabric.retired.contains (kind, index) := rfl

/-- A physical core that a die still has to spare for a logical core. -/
def State.SpareFor (s : State) (core spare : Nat) : Prop :=
  core < s.coreMap.length ∧ spare < 272 ∧ spare / 68 = s.dieOf core ∧ spare ∉ s.coreMap ∧ s.isRetired 0 spare = false

/-- A gang on a core belongs to a deterministic node. -/
def State.detOn (s : State) (core : Nat) : Bool := (s.gangsOn core).any fun g => (s.node? g.nid).any fun n => n.spec.det

theorem State.detOn_eq_false {core : Nat}
    (h : ∀ g ∈ s.gangsOn core, ∀ n, s.node? g.nid = some n → n.spec.det = false) : s.detOn core = false := by
  unfold State.detOn
  rw [List.any_eq_false]
  intro g hg
  rw [Option.any_eq_true]
  rintro ⟨n, hn, hdet⟩
  simp [h g hg n hn] at hdet

theorem State.detOn_eq_true {core : Nat} {g : Gang} {n : Node} (hg : g ∈ s.gangsOn core) (hn : s.node? g.nid = some n)
    (hdet : n.spec.det = true) : s.detOn core = true :=
  List.any_eq_true.2 ⟨g, hg, (Option.any_eq_true _ _).2 ⟨n, hn, hdet⟩⟩

theorem spareCore_refused {core spare : Nat} (h : s.detOn core = true ∨ ¬s.SpareFor core spare) :
    spareCore s core spare = s.deny 437 := by
  unfold spareCore
  refine if_pos ?_
  rcases h with hdet | hspare
  · exact .inr (.inl hdet)
  · rcases Nat.lt_or_ge core s.coreMap.length with hlen | hlen
    · refine .inr (.inr (by_contra fun hno => hspare ?_))
      simp only [Bool.not_eq_true', Bool.not_eq_false, Bool.and_eq_true, decide_eq_true_eq, beq_iff_eq,
        List.contains_eq_mem, decide_eq_false_iff_not] at hno
      obtain ⟨⟨⟨hlt, hfree⟩, hin⟩, hdie⟩ := hno
      exact ⟨hlen, hlt, hdie, hfree, hin⟩
    · exact .inl hlen

theorem spareCore_takes {core spare : Nat} (hs : s.SpareFor core spare) (he : s.gangsOn core = []) :
    spareCore s core spare = s.takeSpare core spare := by
  obtain ⟨hlen, hlt, hdie, hfree, hin⟩ := hs
  unfold spareCore
  simp [he, hlt, hdie, hfree, hin, hlen]

theorem spareCore_waits {core spare : Nat} (hs : s.SpareFor core spare) (he : s.gangsOn core ≠ [])
    (hdet : s.detOn core = false) :
    spareCore s core spare = ((s.gangsOn core).foldl (fun t g =>
        if g.leaving.isNone && g.place == .resident core then t.stopGang g none else t) s).onCore core
      fun c => { c with spare := some spare } := by
  obtain ⟨hlen, hlt, hdie, hfree, hin⟩ := hs
  unfold State.detOn at hdet
  unfold spareCore
  simp [hdet, he, hlt, hdie, hfree, hin, hlen]

/-! ### Channels and sublinks that return (R437) -/

/-- A channel that is in service, and not the only one. -/
def State.ChannelCalibrates (s : State) (index : Nat) : Prop :=
  index < 192 ∧ s.isRetired 3 index = false ∧ ∃ k < 192, k ≠ index ∧ s.isRetired 3 k = false

/-- A sublink that is not retired, while another one is up. -/
def State.SublinkCalibrates (s : State) (index : Nat) : Prop :=
  index < 24 ∧ s.isRetired 4 index = false ∧
    ∃ k < 24, k ≠ index ∧ s.isRetired 4 k = false ∧ s.fabric.sublinks.getD k .failed = .up

theorem State.channelCalibrates_iff (s : State) (index : Nat) :
    (!s.isRetired 3 index && decide (index < 192) && (List.range 192).any fun i => i != index && !s.isRetired 3 i) = true ↔
      s.ChannelCalibrates index := by
  simp [State.ChannelCalibrates]
  tauto

theorem recalibrate_channel {index : Nat} (h : s.ChannelCalibrates index) : recalibrate s 0 index = s :=
  if_pos ((s.channelCalibrates_iff index).2 h)

theorem recalibrate_channel_refused {index : Nat} (h : ¬s.ChannelCalibrates index) : recalibrate s 0 index = s.deny 437 :=
  if_neg (mt (s.channelCalibrates_iff index).1 h)

theorem recalibrate_sublink {index : Nat} (h : s.SublinkCalibrates index) :
    recalibrate s 1 index = s.onFabric fun f => { f with sublinks := f.sublinks.set index .up } := by
  obtain ⟨hlt, hin, k, hk, hne, hkin, hup⟩ := h
  have hother : ((List.range 24).any fun i => i != index && !s.isRetired 4 i && s.fabric.sublinks.getD i .failed == .up) = true :=
    List.any_eq_true.2 ⟨k, List.mem_range.2 hk, by simp [hne, hkin, hup, -List.getD_eq_getElem?_getD]⟩
  unfold recalibrate State.setSublink
  rw [if_neg (by decide), if_pos (by simp [hlt, hin]), if_pos hother, if_pos (Nat.mod_lt index (by decide)), Nat.div_add_mod]

theorem recalibrate_sublink_refused {index : Nat} (h : ¬s.SublinkCalibrates index) : recalibrate s 1 index = s.deny 437 := by
  unfold recalibrate
  rw [if_neg (by decide)]
  split
  · next hin =>
    obtain ⟨-, hlt, hin⟩ := hin
    refine if_neg fun hother => h ?_
    obtain ⟨k, hk, hup⟩ := List.any_eq_true.1 hother
    simp only [Bool.and_eq_true, bne_iff_ne, Bool.not_eq_true', beq_iff_eq] at hup hin
    exact ⟨hlt, hin, k, List.mem_range.1 hk, hup.1.1, hup.1.2, hup.2⟩
  · rfl

/-! ### Ports and other units -/

theorem portReplace_out {port rate : Nat} (hp : port < 18) (hr : rate = 800 ∨ rate = 1600)
    (hup : s.fabric.portUp.getD port false = true) : portReplace s port rate = s.portOut port := by
  unfold portReplace
  rw [if_neg (by simp only [Config.ports]; omega), if_pos hup]

/-- What the links know once a port is back, but for the peers that are reached again. -/
def Fabric.portBack (f : Fabric) (port rate : Nat) : Fabric :=
  { f with
    portRate := f.portRate.set port rate, portUp := f.portUp.set port true
    retired := f.retired.filter fun x => x ≠ (5, port), paths := f.paths.filter fun p => p.path ≠ port }

theorem portReplace_back {port rate : Nat} (hp : port < 18) (hr : rate = 800 ∨ rate = 1600)
    (hup : s.fabric.portUp.getD port false = false) :
    portReplace s port rate =
      let t := s.onFabric fun f => f.portBack port rate
      t.onFabric fun f => { f with unreachable := f.unreachable.filter t.pathless } := by
  unfold portReplace
  rw [if_neg (by simp only [Config.ports]; omega), if_neg (by simpa using hup)]
  rfl

/-- A die has a physical core left to stand for another (R2). -/
theorem State.spareLeft_iff (s : State) (die : Nat) :
    s.spareLeft die = true ↔ ∃ k < 68, 68 * die + k ∉ s.coreMap ∧ s.isRetired 0 (68 * die + k) = false := by
  simp [State.spareLeft]

theorem dropAt_eq {α : Type} (k : Nat) (l : List α) : dropAt k l = l.take k ++ l.drop (k + 1) := by
  induction l generalizing k with
  | nil => cases k <;> rfl
  | cons x r ih => cases k with
    | zero => rfl
    | succ k => exact congrArg (x :: ·) (ih k)

theorem retire_core {index : Nat} (hlen : index < s.coreMap.length) (hlive : ∀ n ∈ s.allNodes, n.alive = false)
    (hspare : s.spareLeft (s.dieOf index) = false) : (retire s 0 index).coreMap = dropAt index s.coreMap := by
  unfold retire
  rw [if_pos rfl, if_neg (by simp [hlen, hspare]; exact hlive)]

theorem retire_core_refused {index : Nat} (h : (∃ n ∈ s.allNodes, n.alive = true) ∨ s.coreMap.length ≤ index ∨
    s.spareLeft (s.dieOf index) = true) : retire s 0 index = s.deny 436 := by
  unfold retire
  rw [if_pos rfl]
  refine if_pos ?_
  rcases h with hlive | hlen | hspare
  · exact .inr (.inl (List.any_eq_true.2 hlive))
  · exact .inl hlen
  · exact .inr (.inr hspare)

/-- What the links know once a lane of a port is out of service: the port falls back to half its rate. -/
def Fabric.laneOut (f : Fabric) (index : Nat) : Fabric :=
  let rate := f.portRate.getD (index / 8) 0
  { f with portRate := f.portRate.set (index / 8) (if rate = 1600 then 800 else if rate = 800 then 400 else rate) }

theorem retire_lane {index : Nat} (h : index < 144) : retire s 1 index = s.retireUnit 1 index fun f => f.laneOut index := by
  unfold retire
  rw [if_neg (by decide), if_pos ⟨rfl, h⟩]
  rfl

theorem retire_module {index : Nat} (h : index < 8) :
    retire s 2 index = s.retireUnit 2 index fun f => { f with moduleUp := f.moduleUp.set index false } := by
  unfold retire
  rw [if_neg (by decide), if_neg (by omega), if_pos ⟨rfl, h⟩]

theorem retire_channel {index : Nat} (h : index < 192) : retire s 3 index = s.retireUnit 3 index id := by
  unfold retire
  rw [if_neg (by decide), if_neg (by omega), if_neg (by omega), if_pos ⟨rfl, h⟩]

theorem retire_sublink {index : Nat} (h : index < 24) : retire s 4 index = s.retireUnit 4 index id := by
  unfold retire
  rw [if_neg (by decide), if_neg (by omega), if_neg (by omega), if_neg (by omega), if_pos ⟨rfl, h⟩]

theorem retire_port {index : Nat} (h : index < 18) : retire s 5 index = s.portOut index := by
  unfold retire
  rw [if_neg (by decide), if_neg (by omega), if_neg (by omega), if_neg (by omega), if_neg (by omega), if_pos ⟨rfl, h⟩]

/-! ### Reports and the host's access to memory (R431, R441) -/

theorem hostAccess_write {ia len : Nat} {data : List Byte}
    (hm : (∃ x, s.placeOf ia = .hbm x) ∨ ∃ x, s.placeOf ia = .massif x) (hd : data ≠ []) (hp : s.placed ia data.length = true) :
    hostAccess s true ia len data = { s with mem := s.mem.writeBytes ia data } := by
  unfold hostAccess
  rcases hm with ⟨x, hx⟩ | ⟨x, hx⟩ <;> simp [hx, hd, hp]

theorem hostAccess_read {ia len : Nat} {data : List Byte}
    (hm : (∃ x, s.placeOf ia = .hbm x) ∨ ∃ x, s.placeOf ia = .massif x) (hl : len ≠ 0) (hp : s.placed ia len = true) :
    hostAccess s false ia len data = s.tell (.readData ia (s.mem.bytes ia len)) := by
  unfold hostAccess
  rcases hm with ⟨x, hx⟩ | ⟨x, hx⟩ <;> simp [hx, hl, hp]

/-- An attestation report: device ID, firmware digests and their digest, then the settings, and the nonce last (R441). -/
theorem attest_report (s : State) (nonce : Nat) : ∃ report,
    attest s nonce = s.tell (.attestation report (Config.attestationSignature report)) ∧
      report.head? = some s.fabric.deviceId ∧ report.getLast? = some (nonce % 2 ^ 512) ∧
      s.fabric.firmware ++ [firmwareDigest s.fabric.firmware] <+: report.drop 1 := by
  refine ⟨_, rfl, rfl, List.getLast?_concat, ?_⟩
  simp [-Nat.reducePow]

end

/-- Settles O59: each command is its operation, in the case where its rule allows it and in the one where it does not. -/
theorem hostCommands : Obligations.HostCommands := by
  unfold Obligations.HostCommands
  intro s hoff deny fab gone retires
  refine ⟨fun u lo hi => exec_walkInvalidate hoff u lo hi, fun die col mib => ?_, fun watts => ?_,
    fun engine digest signed => ?_, fun core spare => ⟨fun hlen hlt hdie hfree hin => ⟨fun he => ?_, fun he hdet => ?_,
      fun g hg n hn hdet => ?_⟩, fun h => ?_⟩, fun index => ⟨fun h => ?_, fun h => ?_, fun h => ?_, fun h => ?_⟩,
    fun port rate hp hr => ⟨fun hup => ?_, fun hup => ?_⟩, fun nonce => ?_, fun devId => ?_, fun ia data bytes len hm =>
      ⟨fun hd hpl => ?_, fun hl hpl hb => ?_⟩, fun k => rfl, fun index => ⟨fun h => ?_, fun h => ?_, fun h => ?_, fun h => ?_,
        fun h => ?_, fun hlen hlive hspare => ?_, fun h => ?_⟩⟩
  · rw [exec_setMassifCachePart hoff, cachePartSet_eq]; rfl
  · rw [exec_setPower hoff, powerSet_eq]; rfl
  · rw [exec_firmwareUpdate hoff, firmwareSet_eq]; rfl
  · rw [exec_substituteSpareCore hoff, spareCore_takes ⟨hlen, hlt, hdie, hfree, hin⟩ he]; rfl
  · rw [exec_substituteSpareCore hoff, spareCore_waits ⟨hlen, hlt, hdie, hfree, hin⟩ he (State.detOn_eq_false hdet)]
  · rw [exec_substituteSpareCore hoff, spareCore_refused (.inl (State.detOn_eq_true hg hn hdet))]
    rfl
  · rw [exec_substituteSpareCore hoff, spareCore_refused (.inr ?_)]
    · rfl
    · rintro ⟨hlen, -, hdie, hfree, -⟩
      rcases h with h | h | h
      · omega
      · exact hfree h
      · exact h hdie
  · exact (exec_retireRecalibrate hoff 0 index).trans (congrArg _ (recalibrate_channel h))
  · exact (exec_retireRecalibrate hoff 1 index).trans (congrArg _ (recalibrate_sublink h))
  · exact (exec_retireRecalibrate hoff 0 index).trans (congrArg _ (recalibrate_channel_refused h))
  · exact (exec_retireRecalibrate hoff 1 index).trans (congrArg _ (recalibrate_sublink_refused h))
  · exact (exec_replacePort hoff port rate).trans (congrArg _ (portReplace_out hp hr hup))
  · exact (exec_replacePort hoff port rate).trans (congrArg _ (portReplace_back hp hr hup))
  · obtain ⟨report, hr, hrest⟩ := attest_report s nonce
    exact ⟨report, (exec_attestationRequest hoff nonce).trans (congrArg _ hr), hrest⟩
  · rw [exec_setDeviceId hoff, deviceIdSet_eq]; rfl
  · rw [exec_hostMainbandAccess hoff, hostAccess_write hm hd hpl]
  · rw [exec_hostMainbandAccess hoff, hostAccess_read hm hl hpl, hb]; rfl
  · exact (exec_unitRetirement hoff 1 index).trans (congrArg _ (retire_lane h))
  · exact (exec_unitRetirement hoff 2 index).trans (congrArg _ (retire_module h))
  · exact (exec_unitRetirement hoff 3 index).trans (congrArg _ (retire_channel h))
  · exact (exec_unitRetirement hoff 4 index).trans (congrArg _ (retire_sublink h))
  · exact (exec_unitRetirement hoff 5 index).trans (congrArg _ (retire_port h))
  · have hnone := eq_false_of_ne_true (mt (s.spareLeft_iff _).1 hspare)
    exact ⟨_, exec_unitRetirement hoff 0 index, (retire_core hlen hlive hnone).trans (dropAt_eq _ _)⟩
  · have hor := h.imp_right (Or.imp_right (s.spareLeft_iff _).2)
    exact (exec_unitRetirement hoff 0 index).trans (congrArg _ (retire_core_refused hor))

end Sys2Proof.Machine
end

section
/-!
PROOFS of the management registers, sensors, errors, the trip and the reset (08 R189, 12 R237, R253, 22 R414, 23 R431, R439, R440).
-/
namespace Sys2Proof.Machine

section
variable {s : State}

/-! ### Management registers (R431, log 44) -/

theorem mgmtWrite_refused {reg v : Nat} (h : mgmtOk reg v = false) : mgmtWrite s reg v = s.deny 431 := by
  unfold mgmtWrite
  rw [h]
  rfl

theorem mgmtWrite_root {reg v : Nat} (h : reg < 16) :
    mgmtWrite s reg v = { s with walkers := s.walkers.modify reg fun w => { w with root := v } } := by
  have hok : mgmtOk reg v = true := if_pos h
  unfold mgmtWrite
  rw [hok, if_neg (by decide), if_pos h]

theorem mgmtWrite_qbase {q v : Nat} (hq : q < 8) (hv : v % 128 = 0) :
    mgmtWrite s (16 + 2 * q) v = { s with queues := s.queues.modify q fun x => { x with qbase := v } } := by
  have hreg : ¬16 + 2 * q < 16 := by omega
  have hlt : 16 + 2 * q < 32 := by omega
  have heven : (16 + 2 * q) % 2 = 0 := by omega
  have hq' : (16 + 2 * q - 16) / 2 = q := by omega
  have hok : mgmtOk (16 + 2 * q) v = true := by
    unfold mgmtOk
    rw [if_neg hreg, if_pos hlt, if_pos heven, hv]
    rfl
  unfold mgmtWrite
  rw [hok, if_neg (by decide), if_neg hreg, if_pos hlt, hq']
  simp only [heven, if_true]

theorem mgmtWrite_faultQueueBase {v : Nat} (hv : v % 256 = 0) :
    mgmtWrite s 32 v = { s with faultq := { s.faultq with base := v } } := by
  have hok : mgmtOk 32 v = true := beq_iff_eq.2 hv
  unfold mgmtWrite
  rw [hok]
  rfl

theorem mgmtWrite_windowPermissions {v : Nat} (hv : v < 4) :
    mgmtWrite s 37 v = s.onFabric fun f => { f with exportR := v % 2 == 1, exportW := v / 2 == 1 } := by
  have hok : mgmtOk 37 v = true := decide_eq_true hv
  unfold mgmtWrite
  rw [hok]
  rfl

/-- The registers of the save areas take any value. -/
theorem mgmtOk_saveArea {reg : Nat} (v : Nat) (h : 64 ≤ reg) : mgmtOk reg v = true := by
  unfold mgmtOk
  rw [if_neg (by omega), if_neg (by omega)]
  split
  case h_5 => rfl
  all_goals omega

/-- A launch context's save area is kept under its number (R414). -/
theorem mgmtWrite_saveArea {reg : Nat} (v : Nat) (h : 64 ≤ reg) (hlt : reg < 64 + 1024) :
    mgmtWrite s reg v =
      s.onFabric fun f => { f with saveAreas := upsert (fun x => x.1 = reg - 64) (reg - 64, v) f.saveAreas } := by
  unfold mgmtWrite
  rw [mgmtOk_saveArea v h, if_neg (by decide), if_neg (by omega), if_neg (by omega)]
  split
  case h_7 => exact if_pos ⟨h, hlt⟩
  all_goals omega

/-! ### Sensors and the trip (R189, R439) -/

theorem tripped_eq {die col : Nat} {x : Sensor} (hx : s.sensors[8 * die + col]? = some x) (hd : die < 4) (hc : col < 8) :
    tripped s die col = if x.valid = true ∧ 920 ≤ x.temp then s.tripsAt die col else s := by
  unfold tripped
  rw [List.getD_eq_getElem?_getD, hx]
  exact if_congr (by simp [hd, hc]) rfl rfl

theorem sensorSet_eq {die col temp : Nat} {valid : Bool} (hd : die < 4) (hc : col < 8) (hl : s.sensors.length = 32) :
    sensorSet s die col temp valid =
      let t := { s with sensors := s.sensors.set (8 * die + col) ⟨if valid then min temp 0xFFF else 0xFFF, valid⟩ }
      if valid = true ∧ 920 ≤ temp then t.tripsAt die col else t := by
  unfold sensorSet
  rw [if_pos ⟨hd, hc⟩, tripped_eq (List.getElem?_set_self (by omega)) hd hc]
  exact if_congr (by cases valid <;> simp) rfl rfl

/-! ### Errors that scrubbing finds (R253, R440) -/

theorem scrubbed_memory {line : Nat} (hb : line ∉ s.bad) (ha : s.arenaAt (line * 128) = none) :
    scrubbed s 0 line true = State.tell { s with bad := line :: s.bad } (.badMemory (line * 128)) := by
  unfold scrubbed
  simp [hb, ha]

end

/-- Settles O60: each event is its operation, in the case that its premises name. -/
theorem managementAndErrors : Obligations.ManagementAndErrors := by
  unfold Obligations.ManagementAndErrors
  intro s trip
  refine ⟨fun hoff => ⟨fun reg v => ?_, fun die col temp valid hd hc hl => ?_, fun kind place => ?_, fun line hb ha => ?_,
    fun place => ?_, fun die col x hx hd hc => ?_⟩, fun hoff die col => ?_,
    ⟨_, rfl, rfl, rfl, rfl, rfl, rfl, rfl, rfl, rfl, rfl, rfl, rfl, rfl, rfl, rfl, rfl, rfl, rfl, rfl⟩⟩
  · simp only [exec_managementRegisterWrite hoff]
    refine ⟨fun h => ?_, fun q hq hv => ?_, fun hv => ?_, fun hv => ?_, ?_, ?_, fun hv => ?_, fun ctx hctx => ?_⟩
    · rw [mgmtWrite_root h]
    · rw [mgmtWrite_qbase hq hv]
    · rw [mgmtWrite_refused (by simpa [mgmtOk] using hv)]
      rfl
    · rw [mgmtWrite_faultQueueBase hv]
    · rfl
    · rfl
    · rw [mgmtWrite_windowPermissions hv]
      rfl
    · have hreg := mgmtWrite_saveArea (s := s) v (Nat.le_add_right 64 ctx) (Nat.add_lt_add_left hctx 64)
      rw [Nat.add_sub_cancel_left] at hreg
      exact ⟨_, congrArg _ hreg, rfl, find?_upsert _ _ _ (decide_eq_true rfl)⟩
  · rw [exec_sensorReading hoff, sensorSet_eq hd hc hl]
    rfl
  · exact exec_scrub hoff kind place false
  · rw [exec_scrub hoff, scrubbed_memory hb ha]
    rfl
  · exact exec_scrub hoff 3 place true
  · rw [exec_thermalTrip hoff, tripped_eq hx hd hc]
    rfl
  · exact exec_off hoff nofun

end Sys2Proof.Machine
end

section
/-!
PROOFS about the object words and `obj.init` (09 R195 to R197, 10 R221 to R226).
-/
namespace Sys2Proof.Machine

/-! ### A word whose run is at work reads its registers as at issue (R57, R222) -/

/-- w[D] and w[D+1] as they were when the word of a run was issued. -/
def ObjRun.restore (x : ObjRun) (g : Regs) : Regs := (g.setAt x.pos x.low true).setAt (x.pos + 1) x.high true

section
variable {i : Instr} {s : State} {x : ObjRun}

theorem State.asIssued_early (s : State) : s.asIssued.f.early = s.f.early := by
  unfold State.asIssued State.atIssue
  repeat' split
  all_goals rfl

theorem State.atIssue_of_run (ho : s.f.obj = some x) (hx : x.xfn ≠ 0) (he : s.f.early = none) :
    s.atIssue = s.onRegs x.restore := by
  unfold State.atIssue
  rw [ho, he]
  exact if_neg hx

theorem State.atIssue_obj (s : State) : s.atIssue.f.obj = s.f.obj := by
  unfold State.atIssue
  repeat' split
  all_goals rfl

/-- A word alone that nothing of levels 1 to 6 stops, and that asks to commit, does. -/
theorem judgeChain_commits {w : ChainWord} {next : DWord} {b : Fibre} {t : State} {left : Nat} {ctl : Ctl} {k : State → State}
    (hwin : w.info.inWindow t.r = true) (hready : w.info.ready t.g t.f = .go) (hcrew : t.crewCheck [w.info] = none)
    (he : t.f.early = none) (hleft : leftAfter t.n.spec.ydef (ydlLeft t.r.ydl) [w.info.deadline] = some left)
    (hb : w.body t = .commit ctl k) :
    judgeChain [w] next b t = .go (commitChain [(w.info, .commit ctl k)] next left) := by
  simp [judgeChain, hwin, hready, hcrew, resultAt, he, ChainWord.result, hb, firstStop, hleft, firstWord_one, commitRes]

/-- A word alone that nothing of levels 1 to 6 stops, and that asks to wait, waits. -/
theorem judgeChain_bodyWaits {w : ChainWord} {next : DWord} {b : Fibre} {t : State} (hwin : w.info.inWindow t.r = true)
    (hready : w.info.ready t.g t.f = .go) (hcrew : t.crewCheck [w.info] = none) (he : t.f.early = none)
    (hb : w.body t = .wait) : judgeChain [w] next b t = .wait := by
  simp [judgeChain, hwin, hready, hcrew, resultAt, he, ChainWord.result, hb]

theorem crewCheck_of_role_none (s : State) (h : (infoOf i).role = none) : s.crewCheck [infoOf i] = none := by
  simp [State.crewCheck, h]

/-- A word whose run is at work is judged on its registers as at issue, and acts on those that stand. -/
theorem exec_atWork (ho : s.f.obj = some x) (hx : x.xfn ≠ 0) (hc : CanIssue i s.asIssued) (hw : isEvent i = false) :
    exec i s = .next (((judgeChain [⟨s.r.pc, infoOf i, bodyOf i⟩] (nextAfter (infoOf i) s.r.pc) s.f s.atIssue).afterConv
      s.f).apply s.r.pc s).tick := by
  have he : s.f.early = none := s.asIssued_early.symm.trans hc.whole
  have hc' : CanIssue i { s.onRegs x.restore with f := { (s.onRegs x.restore).f with obj := none } } :=
    State.atIssue_of_run ho hx he ▸ hc
  have hoff : s.off = false := hc'.powered
  have hdue : s.f.due = none := hc'.noTrapDue
  have hmet : s.f.met = none := hc'.noFaultMet
  rw [exec_word i hw, issueOne, hoff, if_neg Bool.false_ne_true, issueInfo, hc.fields]
  simp only [evalChain, hdue, hmet, Option.isSome_none, Bool.false_eq_true, if_false]

variable (ho : s.f.obj = some x) (hx : x.xfn ≠ 0) (hc : CanIssue i s.asIssued) (hr : (infoOf i).role = none)
  (hw : isEvent i = false)
include ho hx hc hr hw

theorem exec_atWork_commit {ctl : Ctl} {k : State → State} (hb : bodyOf i s.atIssue = .commit ctl k) :
    exec i s = .next (s.committed i ctl k) := by
  have hat : s.atIssue = s.onRegs x.restore := State.atIssue_of_run ho hx (s.asIssued_early.symm.trans hc.whole)
  have hleft : leftOf i s.atIssue = leftOf i s := by rw [hat]; rfl
  rw [exec_atWork ho hx hc hw, judgeChain_commits (t := s.atIssue) hc.window (ready_go hc) (crewCheck_of_role_none _ hr) hc.whole
    (leftAfter_one i s.atIssue hc.live) hb, hleft]
  simp only [ChainRes.afterConv, ChainRes.apply, commitChain_one, State.committed]

theorem exec_atWork_wait (hb : bodyOf i s.atIssue = .wait) : exec i s = .next s.tick := by
  rw [exec_atWork ho hx hc hw, judgeChain_bodyWaits (t := s.atIssue) hc.window (ready_go hc) (crewCheck_of_role_none _ hr)
    hc.whole hb]
  rfl

end

/-! ### Object words but `obj.init` (R221 to R224, R226) -/

/-- An object word is a word of no role, whose body is `objWord` with its XFN. -/
theorem objForm_spec {i : Instr} {xfn : Nat} {d a b : Fld} (h : objForm i = some (xfn, d, a, b)) :
    isEvent i = false ∧ (infoOf i).role = none ∧ ∀ s, bodyOf i s = objWord s d a b xfn := by
  have hrole : ∀ {j : Instr} {fn : BitVec 7}, (infoOf j).maj = majOf j → encode31 j = fx 0x26#6 d a b fn →
      (infoOf j).role = none := fun hm he => by
    unfold Info.role
    rw [hm, majOf_fx he]
    rfl
  unfold objForm at h
  split at h
  case h_9 => cases h
  all_goals
    cases h
    exact ⟨rfl, hrole rfl rfl, fun _ => rfl⟩

/-- The completion of a run is `objEnds`: the table of R223, OSTEP, and the acquire of R210. -/
theorem State.objDone_eq_objEnds (t : State) (x : ObjRun) (status : Nat) : t.objDone x status = State.objEnds x status t := by
  have hlow : (if status = 5 then x.low else if x.xfn = 8 ∨ status = 4 then 0#32 else BitVec.ofNat 32 x.ticket) =
      (objPair x status).1 := by
    unfold objPair
    split <;> grind
  have hhigh : (if status = 5 then x.high else if x.xfn = 8 ∨ status = 0 then x.result
      else if decide (status ≤ 2) = true then 0#32 else x.high) = (objPair x status).2 := by
    unfold objPair
    split <;> grind
  unfold State.objDone State.objEnds objCells ostepOf
  dsimp only
  rw [hlow, hhigh]
  simp only [decide_eq_true_eq]

section
variable {s : State} {d a b : Fld} {xfn : Nat}

theorem objWord_complete {x : ObjRun} {status : Nat} (ho : s.f.obj = some x) (hp : x.phase = .complete status) :
    objWord s d a b xfn = .commit .seq (State.objEnds x status) := by
  unfold objWord
  simp only [ho, hp, State.objDone_eq_objEnds]
  rfl

theorem objWord_atWork {x : ObjRun} (ho : s.f.obj = some x) (hp : ∀ status, x.phase ≠ .complete status) :
    objWord s d a b xfn = .wait := by
  unfold objWord
  simp only [ho]

theorem objWord_misaligned (ho : s.f.obj = none) (h : (s.r.d a).toNat % 64 ≠ 0) :
    objWord s d a b xfn = .trap 0x03 0 (s.r.d a) := by
  unfold objWord
  simp only [ho]
  exact if_pos h

theorem objWord_refused (ho : s.f.obj = none) (h : (s.r.d a).toNat % 64 = 0)
    (hr : s.objPeer (s.r.d a) = true ∨ (xfn = 8 ∧ s.r.w d ≠ 0#32)) :
    objWord s d a b xfn = .commit .seq (State.objEnds (s.objRunOf xfn d a b) 5) := by
  unfold objWord
  simp only [ho, State.objDone_eq_objEnds]
  exact (if_neg (not_not_intro h)).trans (if_pos hr)

theorem objWord_starts (ho : s.f.obj = none) (h : (s.r.d a).toNat % 64 = 0)
    (hr : ¬(s.objPeer (s.r.d a) = true ∨ (xfn = 8 ∧ s.r.w d ≠ 0#32))) :
    let run := s.objRunOf xfn d a b
    objWord s d a b xfn = .hold fun u =>
      State.onRegs { u with f := { u.f with obj := some run } } fun g => g.emptyRun (run.pos + 1) 1 := by
  unfold objWord
  simp only [ho]
  exact (if_neg (not_not_intro h)).trans (if_neg hr)

end

theorem State.site?_fibre? {s : State} {id : FibId} {x : Site} (h : s.site? id = some x) : s.fibre? id = some x.fib := by
  unfold State.site? at h
  split at h
  · next hf _ _ =>
    obtain ⟨core, -, rfl⟩ := Option.map_eq_some_iff.1 h
    exact hf
  · cases h

theorem State.site?_id {s : State} {id : FibId} {x : Site} (h : s.site? id = some x) : x.fib.id = id :=
  State.fibre?_id (State.site?_fibre? h)

/-! ### `obj.init` (R225) -/

/-- The rules of R196 and R225 for the operand of `obj.init` and word 2 of the header. -/
def InitOperandOk (word2 : DWord) (w : Word) : Prop :=
  let kind := (w.extractLsb' 0 4).toNat
  let scope := (w.extractLsb' 4 3).toNat
  let cap := (w.extractLsb' 16 16).toNat
  1 ≤ kind ∧ kind ≤ 4 ∧ 1 ≤ scope ∧ scope ≤ 5 ∧ w.extractLsb' 7 9 = 0#9 ∧ (kind = 3 ↔ cap = 0) ∧
    (kind ≤ 2 → word2.toNat % 8 = 0) ∧ (kind = 4 → word2 = 0#64)

/-- Word 3 of the header that `obj.init` writes (R196). -/
def initWord3 (w : Word) : Nat :=
  (w.extractLsb' 0 4).toNat + 16 * (w.extractLsb' 4 3).toNat + 2 ^ 32 * (w.extractLsb' 16 16).toNat

theorem initHeader_breaks_iff (word2 : DWord) (w : Word) :
    let kind := (w.extractLsb' 0 4).toNat
    let scope := (w.extractLsb' 4 3).toNat
    let cap := (w.extractLsb' 16 16).toNat
    (kind = 0 ∨ 4 < kind ∨ scope = 0 ∨ 5 < scope ∨ w.extractLsb' 7 9 ≠ 0#9 ∨ (kind = 3 ↔ cap ≠ 0) ∨
      (kind ≤ 2 ∧ word2.toNat % 8 ≠ 0) ∨ (kind = 4 ∧ word2 ≠ 0#64)) ↔ ¬InitOperandOk word2 w := by
  unfold InitOperandOk
  grind

theorem initHeader_broken {word2 : DWord} {w : Word} (h : ¬InitOperandOk word2 w) : initHeader word2 w = none :=
  if_pos ((initHeader_breaks_iff word2 w).2 h)

theorem initHeader_ok {word2 : DWord} {w : Word} (h : InitOperandOk word2 w) :
    initHeader word2 w = some (word2.toNat, initWord3 w) :=
  if_neg fun hb => (initHeader_breaks_iff word2 w).1 hb h

theorem initWord3_scope (w : Word) : initWord3 w / 16 % 8 = (w.extractLsb' 4 3).toNat := by
  have hkind : (w.extractLsb' 0 4).toNat < 16 := (w.extractLsb' 0 4).isLt
  have hscope : (w.extractLsb' 4 3).toNat < 8 := (w.extractLsb' 4 3).isLt
  unfold initWord3
  omega

section
variable {s : State} {d a b : Fld}

theorem objInitWord_misaligned (h : (s.r.d a).toNat % 64 ≠ 0) : objInitWord s d a b = .trap 0x03 0 (s.r.d a) := if_pos h

theorem objInitWord_broken (ha : (s.r.d a).toNat % 64 = 0) (h : ¬InitOperandOk (s.r.d d) (s.r.w b)) :
    objInitWord s d a b = .illegal := by
  simp only [objInitWord, ha, initHeader_broken h, ne_eq, not_true_eq_false, if_false]

variable (ha : (s.r.d a).toNat % 64 = 0) (hok : InitOperandOk (s.r.d d) (s.r.w b))
include ha hok

theorem objInitWord_peer (hp : s.objPeer (s.r.d a) = true) :
    objInitWord s d a b = .regs fun t => t.onRegs fun r => { r.setP 15 false with ostep := ostepOf 0 5 } := by
  simp only [objInitWord, ha, initHeader_ok hok, hp, ne_eq, not_true_eq_false, if_false, if_true]

variable (hp : s.objPeer (s.r.d a) = false)
include hp

theorem objInitWord_starts (ho : s.f.obj = none) (h : s.initStop (s.r.d a).toNat = none) :
    objInitWord s d a b = .hold fun u =>
      let t := u.wordDone u.f.id
      { t with
        f := t.f.releaseAt ((s.r.w b).extractLsb' 4 3).toNat (if u.g.role u.f.stg = .matrix then u.g.mnext else 0)
          (runOf s 0 0 (s.r.d a) 0#32 0#32) } := by
  simp only [objInitWord, ha, initHeader_ok hok, hp, ho, h, initWord3_scope, ne_eq, not_true_eq_false, if_false,
    Bool.false_eq_true]

theorem objInitWord_faults {code sub v e : Nat} (ho : s.f.obj = none)
    (h : s.initStop (s.r.d a).toNat = some (code, sub, v, e)) (hcode : code ≠ 0) :
    objInitWord s d a b = .fault code sub (BitVec.ofNat 64 v) e := by
  simp only [objInitWord, ha, initHeader_ok hok, hp, ho, h, ne_eq, not_true_eq_false, if_false, Bool.false_eq_true]

theorem objInitWord_busy {sub v e : Nat} (ho : s.f.obj = none) (h : s.initStop (s.r.d a).toNat = some (0, sub, v, e))
    (hs : s.spent (.word s.f.id v) = false) :
    objInitWord s d a b = .hold fun t => t.tryAgain (.word t.f.id v) := by
  simp only [objInitWord, ha, initHeader_ok hok, hp, ho, h, State.busyWord, hs, ne_eq, not_true_eq_false, if_false,
    Bool.false_eq_true]

variable {x : ObjRun} (ho : s.f.obj = some x)
include ho

theorem objInitWord_releasing (h : (s.f.acc.any fun e => some e.ser == x.fence) = true) :
    objInitWord s d a b = .wait := by
  simp only [objInitWord, ha, initHeader_ok hok, hp, ho, h, ne_eq, not_true_eq_false, if_false, if_true, Bool.false_eq_true]

variable (h : (s.f.acc.any fun e => some e.ser == x.fence) = false)
include h

theorem objInitWord_writes (hn : x.steps < 20) :
    objInitWord s d a b = .hold fun u => u.initPiece x (initBytes (s.r.d d).toNat (initWord3 (s.r.w b))) := by
  simp only [objInitWord, ha, initHeader_ok hok, hp, ho, h, hn, ne_eq, not_true_eq_false, if_false, if_true,
    Bool.false_eq_true]

theorem objInitWord_done (hn : 20 ≤ x.steps) :
    objInitWord s d a b = .regs fun u =>
      let v := (u.triesDone (.step u.f.id)).onRegs fun g => { g.setP 15 true with ostep := ostepOf 1 0 }
      { v with f := { v.f with obj := none } } := by
  simp only [objInitWord, ha, initHeader_ok hok, hp, ho, h, Nat.not_lt.2 hn, ne_eq, not_true_eq_false, if_false,
    Bool.false_eq_true]

end

/-- A piece whose home can be touched is written there (R202, R225). -/
theorem State.initPiece_of_touch {s t : State} {x : ObjRun} {y : Site} {pa ia : Nat} {bs : List Byte}
    (hy : s.site? s.f.id = some y)
    (ht : (let v := x.va.toNat + 16 * x.steps
      s.touch y (s.xlat y.node v 16 .store) v 16 .store = (.ok pa ia, t))) :
    s.initPiece x bs =
      (let u := t.onFibre s.f.id fun b =>
         { b with obj := b.obj.map fun q => { q with lines := distinct (q.lines ++ linesOf ia 16) } }
       State.onRun { u with mem := t.mem.writeBytes pa ((bs.drop (16 * x.steps)).take 16) } s.f.id fun q =>
         { q with steps := x.steps + 1 }) := by
  dsimp only at ht
  simp only [State.initPiece, hy, State.touchVa, State.touching, ht, State.site?_id hy, State.onFibre_mem]

/-- Settles O38: an object word is `objWord`, judged on its registers as at issue once it has a run, and `obj.init` is
`objInitWord`; each answers in the case that its premises name. -/
theorem objectWords : Obligations.ObjectWords := by
  unfold Obligations.ObjectWords
  refine ⟨fun i s xfn d a b hform => ?_, fun d a b s hc => ?_⟩
  · obtain ⟨hw, hr, hbody⟩ := objForm_spec hform
    refine ⟨fun x ho hx hc => ⟨fun status hp => ?_, fun hp => ?_⟩,
      fun ho hc => ⟨fun ha => ?_, fun ha href => ?_, fun ha href => ?_⟩⟩
    · exact exec_atWork_commit ho hx hc hr hw ((hbody _).trans (objWord_complete (s.atIssue_obj.trans ho) hp))
    · exact exec_atWork_wait ho hx hc hr hw ((hbody _).trans (objWord_atWork (s.atIssue_obj.trans ho) hp))
    · exact exec_trap hc hw ((hbody s).trans (objWord_misaligned ho ha))
    · exact exec_commit hc hw ((hbody s).trans (objWord_refused ho ha href))
    · exact exec_hold hc hw ((hbody s).trans (objWord_starts ho ha href))
  · intro i va w kind scope cap ok bytes
    refine ⟨fun ha => ?_, fun ha hok => ?_, fun ha hok hp => ?_, fun ha hok hp =>
      ⟨fun ho => ⟨fun h => ?_, fun code sub v e h hcode => ?_, fun sub v e h hs => ?_⟩,
        fun x ho => ⟨fun h => ?_, fun h hn y t pa ia hy ht => ?_, fun h hn => ?_⟩⟩⟩
    · exact exec_trap hc rfl (objInitWord_misaligned ha)
    · exact exec_illegal hc rfl (objInitWord_broken ha hok) rfl
    · exact exec_regs hc (objInitWord_peer ha hok hp) fun _ => rfl
    · exact ⟨runOf s 0 0 va 0#32 0#32, rfl, rfl, rfl, exec_hold hc rfl (objInitWord_starts ha hok hp ho h)⟩
    · exact exec_fault hc rfl (objInitWord_faults ha hok hp ho h hcode)
    · exact exec_hold hc rfl (objInitWord_busy ha hok hp ho h hs)
    · exact exec_wait hc rfl (objInitWord_releasing ha hok hp ho h)
    · rw [exec_hold hc rfl (objInitWord_writes ha hok hp ho h hn), State.initPiece_of_touch hy ht]
      rfl
    · exact exec_commit hc rfl (objInitWord_done ha hok hp ho h hn)

end Sys2Proof.Machine
end

section
/-!
PROOFS about the steps of the object sequencer (09 R197, R201 to R210, 10 R226).
-/
namespace Sys2Proof.Machine

/-! ### Touching homes (R202) -/

section
variable {s t : State} {x : Site} {r : ObjRun}

theorem State.touching_of_looks {tr : Xlat} {va size pa : Nat} (h : s.Looks x tr va size pa t) (k : State → Nat → State) :
    s.touching x tr va size .both k = k t pa := by
  obtain ⟨ia, u, hu, rfl⟩ := h
  simp only [State.touching, hu]

theorem State.atHeader_of_looks {hp : Nat} (h : s.LooksVa x r.va.toNat 32 hp t) (k : State → Nat → State) :
    s.atHeader x r k = k t hp :=
  State.touching_of_looks h k

theorem State.atRecord_of_looks {u rp : Nat} (h : s.LooksVa x (r.va.toNat + (64 + 32 * (u % 8))) 32 rp t)
    (k : State → Nat → State) : s.atRecord x r u k = k t rp :=
  State.touching_of_looks h k

theorem State.atBox_of_looks {gfi mp : Nat} (h : s.LooksBox x gfi mp t) (k : State → Nat → State) :
    s.atBox x gfi k = k t mp :=
  State.touching_of_looks h k

/-! ### When the sequencer acts (R202, R210, R222) -/

/-- The run of a fibre is at work, its crew runs, and its lane's turn has come (R222). -/
structure State.Acts (s : State) (who : FibId) (x : Site) (r : ObjRun) : Prop where
  site : s.site? who = some x
  obj : x.fib.obj = some r
  object : r.xfn ≠ 0
  works : r.phase ≠ .stopped
  runs : x.gang.runs who.cid = true
  turn : s.lowerLane x r = false

/-- The release of the run at its object's SCOPE has been performed (R210). -/
def Site.Released (x : Site) (r : ObjRun) : Prop := ∃ ser, r.fence = some ser ∧ ∀ a ∈ x.fib.acc, a.ser ≠ ser

variable {who : FibId}

theorem State.objStep_tail (hx : s.site? who = some x) (hr : x.fib.obj = some r) (hm : r.mid.tail = true)
    (k : State → Site → ObjRun → State) : s.objStep who k = k s x r := by
  simp only [State.objStep, hx, hr, hm, if_true]

theorem State.Acts.not_idle (h : s.Acts who x r) :
    ¬(r.xfn = 0 ∨ r.phase = .stopped ∨ (!x.gang.runs who.cid) = true ∨ s.lowerLane x r = true) := by
  simp [h.object, h.works, h.runs, h.turn]

/-- The first thing that the sequencer does for a run is to read the object's SCOPE, at which the run releases. -/
theorem State.objStep_unreleased (h : s.Acts who x r) (hm : r.mid.tail = false) (hf : r.fence = none) {hp : Nat}
    (ht : s.LooksVa x r.va.toNat 32 hp t) (k : State → Site → ObjRun → State) :
    s.objStep who k = (t.triesDone (.step who)).onFibre who fun b => b.releaseAt (t.mem.num (hp + 24) 8 / 16 % 8)
      (if x.gang.role x.fib.stg = .matrix then x.gang.mnext else 0) r := by
  simp only [State.objStep, h.site, h.obj, hm, Bool.false_eq_true, if_false, if_neg h.not_idle, hf,
    State.atHeader_of_looks ht]
  rfl

theorem State.objStep_released (h : s.Acts who x r) (hm : r.mid.tail = false) (hf : x.Released r)
    (k : State → Site → ObjRun → State) : s.objStep who k = k s x r := by
  obtain ⟨ser, hser, hacc⟩ := hf
  have hdone : (x.fib.acc.any fun a => a.ser == ser) = false := by simpa using hacc
  simp only [State.objStep, h.site, h.obj, hm, Bool.false_eq_true, if_false, if_neg h.not_idle, hser, hdone]

/-! ### Writes at homes and counting (R202, R209, R262, R263) -/

theorem State.stepWrites_inFlight (s : State) (x : Site) (r : ObjRun) (k : State → State)
    (h : ∃ ln ∈ r.lines, (r.lines.foldl (fun u ln => u.flushLine x.core ln) s).inFlight x.core ln = true) :
    s.stepWrites x r k = r.lines.foldl (fun u ln => u.flushLine x.core ln) s :=
  if_pos (List.any_eq_true.2 h)

theorem State.stepWrites_landed (s : State) (x : Site) (r : ObjRun) (k : State → State)
    (h : ∀ ln ∈ r.lines, (r.lines.foldl (fun u ln => u.flushLine x.core ln) s).inFlight x.core ln = false) :
    s.stepWrites x r k = k (r.lines.foldl (fun u ln => u.sentTo x.core (ln * 128))
      (r.lines.foldl (fun u ln => u.flushLine x.core ln) s)) :=
  if_neg fun hany => by
    obtain ⟨ln, hmem, hln⟩ := List.any_eq_true.1 hany
    exact Bool.false_ne_true ((h ln hmem).symm.trans hln)

theorem ObjRun.counted_of_complete {q : ObjRun} {status : Nat} (h : q.phase = .complete status) :
    q.counted = { q with steps := q.steps + 1 } := by
  simp only [ObjRun.counted, h]

/-- The eighteenth step completes a run (R209). -/
theorem ObjRun.counted_of_incomplete {q : ObjRun} (h : ∀ status, q.phase ≠ .complete status) :
    q.counted = { q with
      steps := q.steps + 1
      phase := if q.steps + 1 < 18 then q.phase else .complete (if q.xfn = 8 ∨ q.ticket = 0 then 4 else 3) } := by
  by_cases hs : q.steps + 1 < 18 <;> simp only [ObjRun.counted, Config.objSteps, hs, if_true, if_false]

theorem State.countStep_of_running {b : Fibre} (k : ObjRun → ObjRun) (hb : s.fibre? x.fib.id = some b) (hr : b.obj = some r)
    (hh : r.halted = false) :
    s.countStep x k =
      (s.triesDone (.step x.fib.id)).setFibre { b with obj := some (k { r with mid := .idle, lines := [] }).counted } := by
  have hb' : (s.triesDone (.step x.fib.id)).fibre? x.fib.id = some b := hb
  simp only [State.countStep, State.onFibre, hb', hr, hh, Bool.not_false, if_true]

theorem State.stepEnds_of_object (s : State) (x : Site) (h : r.xfn ≠ 8) : s.stepEnds x r = s.countStep x id := if_neg h

/-! ### Announce steps (R203) -/

section
variable (h : s.Acts who x r)
include h

theorem announceEvent_reads (hf : x.Released r) (hm : r.mid = .idle) (hp : r.phase = .announce) :
    announceEvent s who = s.beginAnnounce x r := by
  unfold announceEvent
  rw [State.objStep_released h (by rw [hm]; rfl) hf]
  simp only [hm, hp, if_true]

theorem announceEvent_installs (hf : x.Released r) {v w0 w1 hp rp mp : Nat} (hm : r.mid = .announcing v w0 w1 hp rp mp) :
    announceEvent s who = s.stepWrites x r fun u => u.install x r v w0 w1 hp rp mp := by
  unfold announceEvent
  rw [State.objStep_released h (by rw [hm]; rfl) hf]
  simp only [hm]

end

theorem announceEvent_moves (hx : s.site? who = some x) (hr : x.fib.obj = some r) {v hp : Nat} (hm : r.mid = .moving v hp) :
    announceEvent s who = s.stepWrites x r fun u =>
      State.countStep (if u.mem.num hp 8 = v then u.putNum hp 8 (v + 1) else u) x id := by
  unfold announceEvent
  rw [State.objStep_tail hx hr (by rw [hm]; rfl)]
  simp only [hm]

section
variable {u : State} {hp rp : Nat} (ht : s.LooksVa x r.va.toNat 32 hp t)
  (hu : t.LooksVa x (r.va.toNat + (64 + 32 * ((t.readHdr hp).next % 8))) 32 rp u)
include ht hu

theorem State.beginAnnounce_refused
    (h : 0xFFFFFFFF ≤ (t.readHdr hp).next ∨ opFits (t.readHdr hp).kind r.xfn = false ∨ (t.readHdr hp).reserved = true) :
    s.beginAnnounce x r = u.countStep x fun q => { q with phase := .complete 5 } := by
  simp only [State.beginAnnounce, State.atHeader_of_looks ht, State.atRecord_of_looks hu]
  exact if_pos (by simpa using h)

variable (hnext : (t.readHdr hp).next < 0xFFFFFFFF) (hop : opFits (t.readHdr hp).kind r.xfn = true)
  (hres : (t.readHdr hp).reserved = false) (hroom : (t.readHdr hp).next < (t.readHdr hp).applied + 8)
  (hfree : ¬((u.readRec rp).state = 1 ∧ (u.readRec rp).ticket + 8 = (t.readHdr hp).next))
include hnext hop hres hroom hfree

theorem State.beginAnnounce_eq :
    s.beginAnnounce x r =
      if ((u.readRec rp).state = 1 ∨ (u.readRec rp).state = 2) ∧ (u.readRec rp).ticket = (t.readHdr hp).next then
        u.setMid x.fib.id (.moving (t.readHdr hp).next hp)
      else u.atBox x x.fib.id.gfi fun v mp =>
        v.setMid x.fib.id (.announcing (t.readHdr hp).next (u.readRec rp).w0 (u.readRec rp).w1 hp rp mp) := by
  simp only [State.beginAnnounce, State.atHeader_of_looks ht, State.atRecord_of_looks hu]
  rw [if_neg (by simp [hop, hres, hnext]), if_neg (not_or.2 ⟨Nat.not_le.2 hroom, hfree⟩)]

end

/-! ### Apply steps (R204, R208) -/

section
variable (h : s.Acts who x r) (hf : x.Released r)
include h hf

theorem applyEvent_first (hm : r.mid = .idle) (hp : r.phase = .apply) (h8 : r.xfn ≠ 8) (h0 : r.steps = 0) :
    applyEvent s who = s.ownTicket x r fun u hp _ =>
      if r.ticket ≤ (u.readHdr hp).applied then u else u.beginApply x r hp := by
  unfold applyEvent
  rw [State.objStep_released h (by rw [hm]; rfl) hf]
  simp only [hm, hp, h8, h0, ne_eq, not_true_eq_false, if_false, if_true]

theorem applyEvent_later (hm : r.mid = .idle) (hp : r.phase = .apply) (h8 : r.xfn ≠ 8) (h0 : r.steps ≠ 0) :
    applyEvent s who = s.atHeader x r fun u hp =>
      if r.ticket ≤ (u.readHdr hp).applied then u else u.beginApply x r hp := by
  unfold applyEvent
  rw [State.objStep_released h (by rw [hm]; rfl) hf]
  simp only [hm, hp, h8, h0, ne_eq, not_true_eq_false, if_false]

theorem applyEvent_helps (hm : r.mid = .idle) (hp : r.phase = .apply) (h8 : r.xfn = 8) :
    applyEvent s who = s.helpStep x r := by
  unfold applyEvent
  rw [State.objStep_released h (by rw [hm]; rfl) hf]
  simp only [hm, hp, h8, ne_eq, not_true_eq_false, if_false, if_true]

theorem applyEvent_commits {v hp rp mp w1 w2 w3 r0 r1 : Nat} {slot : Option (Nat × Nat)}
    (hm : r.mid = .applying v hp rp mp w1 w2 w3 r0 r1 slot) (h8 : r.xfn ≠ 8) :
    applyEvent s who = s.stepWrites x r fun u =>
      let y := u.commitStep v hp rp (objHdrOf 0 w1 w2 w3) (recOf r0 r1) slot
      if y.1 then y.2.setMid x.fib.id (.finishing v rp mp) else y.2.countStep x id := by
  unfold applyEvent
  rw [State.objStep_released h (by rw [hm]; rfl) hf]
  simp only [hm, State.afterCommit, State.stepEnds_of_object _ _ h8]

end

theorem foreignTicket_iff {id : FibId} {h : ObjHdr} {c : ObjRec} {v : Nat} :
    foreignTicket id h c v = true ↔
      h.next ≤ v ∨ (c.ticket = v ∧ (c.cl ≠ id.cid * 32 + id.fid ∨ c.agid ≠ id.gid)) := by
  simp [foreignTicket, clOf]

section
variable {u : State} {hp rp : Nat} (ht : s.LooksVa x r.va.toNat 32 hp t)
  (hu : t.LooksVa x (r.va.toNat + (64 + 32 * (r.ticket % 8))) 32 rp u)
include ht hu

theorem State.ownTicket_foreign (h0 : r.steps = 0)
    (h : foreignTicket x.fib.id (u.readHdr hp) (u.readRec rp) r.ticket = true) (k : State → Nat → Nat → State) :
    s.ownTicket x r k = u.countStep x fun q => { q with phase := .complete 5 } := by
  simp only [State.ownTicket, State.atHeader_of_looks ht, State.atRecord_of_looks hu]
  exact if_pos ⟨h0, h⟩

theorem State.ownTicket_own
    (h : r.steps = 0 → ¬foreignTicket x.fib.id (u.readHdr hp) (u.readRec rp) r.ticket = true)
    (k : State → Nat → Nat → State) : s.ownTicket x r k = k u hp rp := by
  simp only [State.ownTicket, State.atHeader_of_looks ht, State.atRecord_of_looks hu]
  exact if_neg (not_and.2 h)

end

/-- An apply step whose ticket touches no element slot ends its reads with the record and the announcer's mailbox (R204). -/
theorem State.beginApply_reads {u : State} {hp rp mp : Nat} (hslot : (s.readHdr hp).slot (t.readRec rp).op = none)
    (ht : s.LooksVa x (r.va.toNat + (64 + 32 * (((s.readHdr hp).applied + 1) % 8))) 32 rp t)
    (hc : (t.readRec rp).ticket = (s.readHdr hp).applied + 1) (h1 : (t.readRec rp).state = 1)
    (hu : t.LooksBox x ((t.readRec rp).agid * 1024 + (t.readRec rp).cl) mp u) :
    s.beginApply x r hp = u.setMid x.fib.id (.applying ((s.readHdr hp).applied + 1) hp rp mp (s.readHdr hp).word1
      (s.readHdr hp).word2 (s.readHdr hp).word3 (t.readRec rp).w0 (t.readRec rp).w1 none) := by
  simp only [State.beginApply, State.atRecord_of_looks ht, hc, h1, ne_eq, not_true_eq_false, or_self, if_false]
  rw [State.atBox_of_looks hu, hslot]

/-! ### Finish steps and the collection of the own ticket (R205, R206) -/

theorem finishEvent_reads (h : s.Acts who x r) (hf : x.Released r) (hm : r.mid = .idle) (hph : r.phase = .apply)
    (h8 : r.xfn ≠ 8) (h0 : r.steps ≠ 0) {hp v rp : Nat} {c : ObjRec} (ht : s.LooksVa x r.va.toNat 32 hp t)
    (happ : (t.readHdr hp).applied < r.ticket) (hu : t.unfinished x r (t.readHdr hp) r.ticket = some (v, rp, c)) :
    finishEvent s who = t.beginFinish x v rp c := by
  unfold finishEvent
  rw [State.objStep_released h (by rw [hm]; rfl) hf]
  simp only [hm, hph, h8, h0, State.atHeader_of_looks ht, Nat.not_le.2 happ, hu, ne_eq, not_true_eq_false, not_false_eq_true,
    false_and, and_false, or_self, if_false]

theorem finishEvent_finishes (hx : s.site? who = some x) (hr : x.fib.obj = some r) {v rp mp : Nat}
    (hm : r.mid = .finishing v rp mp) (h8 : r.xfn ≠ 8) :
    finishEvent s who = s.stepWrites x r fun u =>
      let t := u.finishAt r.va.toNat v rp mp
      if v = r.ticket then t.countStep x fun q => q.collect (t.collected rp mp v) else t.countStep x id := by
  unfold finishEvent
  rw [State.objStep_tail hx hr (by rw [hm]; rfl)]
  simp only [hm, h8, State.stepEnds_of_object _ _ h8, ne_eq, not_false_eq_true, true_and]

theorem collectEvent_reads (h : s.Acts who x r) (hf : x.Released r) (hm : r.mid = .idle) (hp : r.phase = .apply)
    (h8 : r.xfn ≠ 8) :
    collectEvent s who = s.ownTicket x r fun s hp rp =>
      if (s.readHdr hp).applied < r.ticket then s
      else s.atBox x who.gfi fun s mp =>
        if (s.readRec rp).ticket = r.ticket ∧ (s.readRec rp).state = 1 then s.setMid who (.finishing r.ticket rp mp)
        else s.countStep x fun q => q.collect (s.collected rp mp r.ticket) := by
  unfold collectEvent
  rw [State.objStep_released h (by rw [hm]; rfl) hf]
  simp only [hm, hp, h8, ne_eq, not_true_eq_false, or_self, if_false]

/-! ### `obj.help` (R226, log 57) -/

theorem State.helpStep_of_looks {hp : Nat} (ht : s.LooksVa x r.va.toNat 32 hp t) :
    let h := t.readHdr hp
    let bound := r.bound.getD h.next
    s.helpStep x r =
      if bound ≤ h.applied + 1 then
        t.atRecords x r (fun u => if r.bound.isNone || u.allDone x r h bound then u.helped x r bound else u) (ringBelow bound)
      else if r.bound.isNone then t.helped x r bound
      else t.beginApply x r hp :=
  State.atHeader_of_looks ht _

end

/-! ### Effects and commits (R201, R204) -/

theorem State.commitStep_no_slot (s : State) (u hp rp : Nat) (h : ObjHdr) (c : ObjRec) :
    let e := h.effect c.op c.operand 0
    let t := if rwOlder (s.mem.num (rp + 16) 8) u then s.putNum (rp + 16) 16 (rwOf e.result e.status u) else s
    s.commitStep u hp rp h c none =
      if t.mem.num (hp + 8) 8 = h.word1 ∧ t.mem.num (hp + 16) 8 = h.word2 then
        (true, t.putNum (hp + 8) 16 (u + 2 ^ 32 * e.lo + 2 ^ 48 * e.hi + 2 ^ 64 * e.word2))
      else (false, t) := rfl

section
variable {h : ObjHdr} (b v : Nat)

theorem ObjHdr.effect_push (hk : h.kind = 1) (hlo : h.lo < h.cap) :
    h.effect 1 b v = ⟨h.lo + 1, h.hi, h.word2, true, h.lo, 0⟩ := by
  simp [ObjHdr.effect, opFits, hk, hlo]

theorem ObjHdr.effect_pop (hk : h.kind = 1) (hlo : 0 < h.lo) : h.effect 2 b v = ⟨h.lo - 1, h.hi, h.word2, false, v, 0⟩ := by
  simp [ObjHdr.effect, opFits, hk, Nat.pos_iff_ne_zero.1 hlo]

theorem ObjHdr.effect_enqueue (hk : h.kind = 2) (hhi : h.hi < h.cap) :
    h.effect 3 b v = ⟨h.lo, h.hi + 1, h.word2, true, (h.lo + h.hi) % h.cap, 0⟩ := by
  simp [ObjHdr.effect, opFits, hk, hhi]

theorem ObjHdr.effect_dequeue (hk : h.kind = 2) (hcap : h.cap ≠ 0) (hhi : 0 < h.hi) :
    h.effect 4 b v = ⟨(h.lo + 1) % h.cap, h.hi - 1, h.word2, false, v, 0⟩ := by
  simp [ObjHdr.effect, opFits, hk, hcap, Nat.pos_iff_ne_zero.1 hhi]

theorem ObjHdr.effect_add (hk : h.kind = 3) :
    h.effect 5 b v =
      ⟨h.lo, h.hi, (h.word2 + ((BitVec.ofNat 32 b).signExtend 64).toNat) % 2 ^ 64, false, h.word2 % 2 ^ 32, 0⟩ := by
  simp [ObjHdr.effect, opFits, hk]

/-- The last arrival begins the next phase. -/
theorem ObjHdr.effect_arrive_last (hk : h.kind = 4) (hlo : h.lo + 1 = h.cap) :
    h.effect 6 b v = ⟨0, (h.hi + 1) % 65536, h.word2, false, h.hi, 0⟩ := by
  simp [ObjHdr.effect, opFits, hk, hlo]

end

/-- Settles O56: with the addresses of a step touched, each event is the case of its part of the step that its premises
name; the effects are those of `ObjHdr.effect`. -/
theorem objectSteps : Obligations.ObjectSteps := by
  unfold Obligations.ObjectSteps
  refine ⟨fun s who x r hoff hx hr h0 hst hruns hlow => ?_,
    fun s who x r hoff hx hr => ⟨fun t hp hm => ?_, fun u rp mp hm h8 => ?_⟩,
    fun s x r k => ⟨s.stepWrites_inFlight x r k, s.stepWrites_landed x r k⟩,
    fun s x r hp rp mp t u hslot ht hc h1 hu => State.beginApply_reads hslot ht hc h1 hu,
    fun s u hp rp h c => s.commitStep_no_slot u hp rp h c, fun s x b r k hb hr hh => ?_,
    fun h b v => ⟨ObjHdr.effect_push b v, ObjHdr.effect_pop b v, ObjHdr.effect_enqueue b v, ObjHdr.effect_dequeue b v,
      ObjHdr.effect_add b v, ObjHdr.effect_arrive_last b v⟩⟩
  · have h : s.Acts who x r := ⟨hx, hr, h0, hst, hruns, hlow⟩
    obtain rfl : x.fib.id = who := State.site?_id hx
    refine ⟨fun hp t hm hf ht i hi => ?_, fun ser hser hacc => ?_⟩
    · have hnt : r.mid.tail = false := by rw [hm]; rfl
      rcases hi with ⟨rfl, -⟩ | ⟨rfl | rfl, -⟩
      · exact (exec_objAnnounceStep hoff _).trans (congrArg _ (State.objStep_unreleased h hnt hf ht _))
      · exact (exec_objApplyStep hoff _).trans (congrArg _ (State.objStep_unreleased h hnt hf ht _))
      · exact (exec_objCollect hoff _).trans (congrArg _ (State.objStep_unreleased h hnt hf ht _))
    · have hf : x.Released r := ⟨ser, hser, hacc⟩
      simp only [exec_objAnnounceStep hoff, exec_objApplyStep hoff, exec_objFinishStep hoff, exec_objCollect hoff]
      refine ⟨fun hp rp t u hm hph ht hu =>
          ⟨fun href => ?_, fun hnext hop hres hroom hfree => ⟨fun hc ht' => ?_, fun hc mp v hv => ?_⟩⟩,
        fun t w0 w1 hp rp mp hm => ?_, fun hp rp t u hm hph h8 ht hu =>
          ⟨fun hs hfor => ?_, fun hs hfor happ => ?_, fun hown happ mp v hv => ?_⟩,
        fun hp t hm hph h8 hs ht happ => ?_, fun u hp rp mp w1 w2 w3 r0 r1 slot hm h8 => ?_,
        fun hp t u rp c mp v hm hph h8 hs ht happ hu hv => ?_, fun hp t hm hph h8 ht => ?_⟩
      · rw [announceEvent_reads h hf hm hph, State.beginAnnounce_refused ht hu href]
      · rw [announceEvent_reads h hf hm hph, State.beginAnnounce_eq ht hu hnext hop hres hroom hfree, if_pos ⟨hc, ht'⟩]
      · rw [announceEvent_reads h hf hm hph, State.beginAnnounce_eq ht hu hnext hop hres hroom hfree, if_neg hc,
          State.atBox_of_looks hv]
      · rw [announceEvent_installs h hf hm]
        rfl
      · rintro i (rfl | rfl)
        · rw [exec_objApplyStep hoff, applyEvent_first h hf hm hph h8 hs,
            State.ownTicket_foreign ht hu hs (foreignTicket_iff.2 hfor)]
        · rw [exec_objCollect hoff, collectEvent_reads h hf hm hph h8,
            State.ownTicket_foreign ht hu hs (foreignTicket_iff.2 hfor)]
      · rw [applyEvent_first h hf hm hph h8 hs, State.ownTicket_own ht hu fun _ => mt foreignTicket_iff.1 hfor,
          if_neg (Nat.not_le.2 happ)]
      · rw [collectEvent_reads h hf hm hph h8, State.ownTicket_own ht hu fun hs => mt foreignTicket_iff.1 (hown hs),
          if_neg (Nat.not_lt.2 happ), State.atBox_of_looks hv]
      · rw [applyEvent_later h hf hm hph h8 hs, State.atHeader_of_looks ht, if_neg (Nat.not_le.2 happ)]
      · rw [applyEvent_commits h hf hm h8]
      · rw [finishEvent_reads h hf hm hph h8 hs ht happ hu]
        exact congrArg _ (State.atBox_of_looks hv _)
      · rw [applyEvent_helps h hf hm hph h8, State.helpStep_of_looks ht]
  · rw [exec_objAnnounceStep hoff, announceEvent_moves hx hr hm]
  · rw [exec_objFinishStep hoff, finishEvent_finishes hx hr hm h8]
  · rw [State.countStep_of_running k hb hr hh]
    generalize k { r with mid := .idle, lines := [] } = q
    cases hq : q.phase with
    | complete status => simp only [ObjRun.counted_of_complete hq, hq]
    | _ => simp only [ObjRun.counted_of_incomplete (q := q) (by simp [hq]), hq]

end Sys2Proof.Machine
end

section
/-!
PROOFS of the collectives and `redux.yadd` (10 R217 to R220): the present members, the status p15, what each form writes, and
the checks of `redux.yadd` in their order.
-/
namespace Sys2Proof.Machine

/-! ### The present members and the status (R217) -/

/-- A word that lists its own operands finds the present members of the table. -/
theorem membersOf_presentLanes {i : Instr} {s : State} {ops : List Opnd} {b : Fld}
    (hops : ∀ r, ops.all (inWindow r) = (opnds i).all (inWindow r)) :
    membersOf (s.r.w b) (s.presentLanes (collTraps ops b)) = s.members i b := by
  have hinfo (r : Regs) : (infoOf i).inWindow r = (opnds i).all (inWindow r) := rfl
  simp only [membersOf, State.presentLanes, State.members, collTraps, hops, hinfo, List.filter_filter]
  refine List.filter_congr fun x _ => ?_
  simp [Bool.and_comm]

/-- Only the fibres that the mask names bear on the status. -/
theorem allPresent_eq (mask : Word) (here : List Fibre) :
    allPresent mask here = allThere mask (membersOf mask here) := by
  unfold allPresent allThere
  congr 1
  funext l
  cases hl : mask.getLsbD l
  case false => rfl
  case true =>
    rw [membersOf, List.any_filter]
    congr 2
    funext x
    by_cases hx : x.id.fid = l <;> simp [hx, hl]

section
variable {s : State} {ops : List Opnd} {b : Fld} {put : Word → List Fibre → State → State}

theorem collWord_unnamed (h : (s.r.w b).getLsbD s.f.id.fid = false) :
    collWord s ops b put = .trap 0x0E 0 ((s.r.w b).setWidth 64) := by
  simp [collWord, h]

theorem collWord_named (h : (s.r.w b).getLsbD s.f.id.fid = true) :
    collWord s ops b put = .regs fun t => put (s.r.w b) (s.presentLanes (collTraps ops b))
      (t.onRegs fun r => r.setP 15 (allPresent (s.r.w b) (s.presentLanes (collTraps ops b)))) := by
  simp [collWord, h]

end

/-! ### What each form makes of the members (R218, R219) -/

/-- A shuffle reads the cell of its source lane where that lane is a present member, and else the fibre's own. -/
theorem shflWord_eq (s : State) (d a b : Fld) (form : Nat) :
    shflWord s d a b form = collCell s d b [src .w a] fun l =>
      fromLane l (shflLane form s.f.id.fid (s.r.cell (b.toNat + 1)).val.toNat) a (s.r.w a) := by
  unfold shflWord
  dsimp only
  congr 1
  funext l
  simp only [fromLane, beq_eq_decide]
  cases List.find? _ l <;> rfl

theorem lanesOf_eq (l : List Fibre) : lanesOf l = laneBits l := List.foldl_map

/-- An upward shuffle past lane 0 names no lane (R219). -/
theorem shflLane_up (fid v : Nat) : shflLane 2 fid v = if v ≤ fid then some (fid - v) else none := by
  simp only [shflLane, ← Nat.not_lt, ite_not]

/-- A downward shuffle past lane 31 names no lane (R219). -/
theorem shflLane_down (fid v : Nat) : shflLane 3 fid v = if fid + v ≤ 31 then some (fid + v) else none := by
  simp only [shflLane, ← Nat.not_lt, ite_not]

/-- The least of the members' cells as signed numbers. -/
theorem pickCell_least (l : List Fibre) (a : Fld) :
    pickCell true (l.map fun x => x.regs.w a) =
      l.foldl (fun m x => if (x.regs.w a).slt m then x.regs.w a else m) 0x7FFFFFFF#32 := List.foldl_map

/-- The greatest of the members' cells as signed numbers. -/
theorem pickCell_greatest (l : List Fibre) (a : Fld) :
    pickCell false (l.map fun x => x.regs.w a) =
      l.foldl (fun m x => if m.slt (x.regs.w a) then x.regs.w a else m) 0x80000000#32 := List.foldl_map

/-! ### The operands of a collective (R18, R217) -/

/-- The pair that a mask stands in holds the mask. -/
theorem inWindow_pair_and_mask (r : Regs) (b : Fld) :
    (inWindow r (use .d b) && inWindow r (src .w b)) = inWindow r (use .d b) := by
  have hle : b.toNat + 2 ≤ r.n → b.toNat + 1 ≤ r.n := (Nat.le_succ _).trans
  exact Bool.and_eq_left_iff_imp.2 fun h => decide_eq_true (hle (of_decide_eq_true h))

/-- The window that holds a collective's operands and the pair of its mask holds the mask too. -/
theorem all_inWindow_mask (r : Regs) (l : List Opnd) (b : Fld) :
    (l ++ [use .d b]).all (inWindow r) = (l ++ [use .d b, src .w b]).all (inWindow r) := by
  simp only [List.all_append, List.all_cons, List.all_nil, Bool.and_true, inWindow_pair_and_mask]

/-- The same with the pair of the mask named before the source. -/
theorem all_inWindow_source_last (r : Regs) (o1 o2 : Opnd) (b : Fld) :
    [o1, use .d b, o2].all (inWindow r) = [o1, o2, use .d b, src .w b].all (inWindow r) := by
  refine Eq.trans ?_ (all_inWindow_mask r [o1, o2] b)
  simp [Bool.and_comm]

/-- A shuffle reads both cells of the pair. -/
theorem all_inWindow_shuffle (r : Regs) (o1 o2 : Opnd) (b : Fld) :
    [o1, use .d b, o2].all (inWindow r) = [o1, o2, src .d b].all (inWindow r) := by
  have hpair : inWindow r (use .d b) = inWindow r (src .d b) := rfl
  simp [hpair, Bool.and_comm]

/-! ### Collectives of the table -/

/-- The word is a collective of the mask w[B]: its own operands are those of the table, and on a state that stands in the window
of issue it writes `k` of its present members. -/
def IsCollective (i : Instr) (s : State) (b : Fld) (k : List Fibre → Regs → Regs) : Prop :=
  ∃ ops put, bodyOf i s = collWord s ops b put ∧ (∀ r, ops.all (inWindow r) = (opnds i).all (inWindow r)) ∧
    ∀ (here : List Fibre) (f : Regs → Regs), (f s.r).base = s.r.base →
      put (s.r.w b) here (s.onRegs f) = (s.onRegs f).onRegs (k (membersOf (s.r.w b) here))

section
variable {i : Instr} {s : State} {d a b : Fld} {ops : List Opnd}

theorem isCollective_of_cell {k : List Fibre → Word} (hb : bodyOf i s = collCell s d b ops k)
    (hops : ∀ r, ([dst .w d, use .d b] ++ ops).all (inWindow r) = (opnds i).all (inWindow r)) :
    IsCollective i s b fun l r => r.setW d (k l) := by
  refine ⟨_, _, hb, hops, fun here f hf => ?_⟩
  simp only [State.putW, State.onRegs, Regs.setW]
  rw [← hf]

theorem isCollective_of_vote {k : List Bool → Bool} (hb : bodyOf i s = voteWord s d a b k)
    (hops : ∀ r, [dst .p d, src .p a, use .d b].all (inWindow r) = (opnds i).all (inWindow r)) :
    IsCollective i s b fun l r => r.setP d.toNat (k (l.map fun x => x.regs.p a.toNat)) :=
  ⟨_, _, hb, hops, fun _ _ _ => rfl⟩

end

/-- Each word of the table is a collective that writes what the table says (R218, R219). -/
theorem isCollective_of_collective {i : Instr} {s : State} {b : Fld} {k : List Fibre → Regs → Regs}
    (h : collective i s = some (b, k)) : IsCollective i s b k := by
  unfold collective at h
  dsimp only at h
  split at h <;> cases h
  case h_1 d a => -- shfl
    exact isCollective_of_cell (shflWord_eq ..) fun r => all_inWindow_shuffle r ..
  case h_2 d a => -- shfl.xor
    exact isCollective_of_cell (shflWord_eq ..) fun r => all_inWindow_shuffle r ..
  case h_3 d a => -- shfl.up
    simp only [← shflLane_up]
    exact isCollective_of_cell (shflWord_eq ..) fun r => all_inWindow_shuffle r ..
  case h_4 d a => -- shfl.down
    simp only [← shflLane_down]
    exact isCollective_of_cell (shflWord_eq ..) fun r => all_inWindow_shuffle r ..
  case h_5 d a => -- vote.any
    simpa only [List.any_map, Function.comp_def, id] using
      isCollective_of_vote (i := .voteAny d a b) (s := s) (k := fun l => l.any id) rfl fun r => all_inWindow_mask r [_, _] _
  case h_6 d a => -- vote.all
    simpa only [List.all_map, Function.comp_def, id] using
      isCollective_of_vote (i := .voteAll d a b) (s := s) (k := fun l => l.all id) rfl fun r => all_inWindow_mask r [_, _] _
  case h_7 d a => -- ballot
    simp only [← lanesOf_eq]
    exact isCollective_of_cell rfl fun r => all_inWindow_source_last r ..
  case h_8 d a => -- redux.add
    simp only [← List.foldl_map]
    exact isCollective_of_cell rfl fun r => all_inWindow_source_last r ..
  case h_9 d a => -- redux.min
    simp only [← pickCell_least]
    exact isCollective_of_cell rfl fun r => all_inWindow_source_last r ..
  case h_10 d a => -- redux.max
    simp only [← pickCell_greatest]
    exact isCollective_of_cell rfl fun r => all_inWindow_source_last r ..
  case h_11 d a => -- match
    simp only [← lanesOf_eq]
    exact isCollective_of_cell rfl fun r => all_inWindow_source_last r ..
  case h_12 d => -- present
    simp only [← lanesOf_eq]
    exact isCollective_of_cell rfl fun r => all_inWindow_mask r [_] _

/-! ### What a collective leaves (R217) -/

section
variable {i : Instr} {s : State} {b : Fld} {k : List Fibre → Regs → Regs}

/-- A collective whose mask names its own fibre writes the status, and then its result over it (R217). -/
theorem exec_of_collective_named (hc : CanIssue i s) (h : collective i s = some (b, k))
    (hm : (s.r.w b).getLsbD s.f.id.fid = true) :
    exec i s = .next (s.wrote i fun r => k (s.members i b) (r.setP 15 (allThere (s.r.w b) (s.members i b)))) := by
  obtain ⟨ops, put, hb, hops, hput⟩ := isCollective_of_collective h
  have hmem := membersOf_presentLanes (s := s) (b := b) hops
  have hwrites (f : Regs → Regs) (hf : (f s.r).base = s.r.base) := hmem ▸ hput _ f hf
  rw [collWord_named hm, allPresent_eq, hmem] at hb
  exact exec_regs hc hb fun pc => hwrites (fun r => Regs.setP { r with pc := pc } 15 _) rfl

/-- A collective whose mask leaves its own fibre out traps (R217). -/
theorem exec_of_collective_unnamed (hc : CanIssue i s) (h : collective i s = some (b, k))
    (hm : (s.r.w b).getLsbD s.f.id.fid = false) :
    exec i s = .next (s.traps 0x0E 0 ((s.r.w b).setWidth 64)).tick := by
  obtain ⟨ops, put, hb, -, -⟩ := isCollective_of_collective h
  have htrap := hb.trans (collWord_unnamed hm)
  exact exec_trap hc (isEvent_of_bodyOf htrap nofun) htrap

end

/-! ### `redux.yadd` (R220) -/

/-- The checks of its own that a fibre passes to be present for `redux.yadd`: its header and its precision (R220). -/
theorem presentLanes_reduxTraps (s : State) (d a b : Fld) :
    s.presentLanes (reduxTraps d a b) =
      (s.presentLanes (collTraps [dst .y d, src .y a, use .d b] b)).filter fun x : Fibre =>
        (x.regs.y a).valid x.regs.lw && decide (prcL x.regs.prc ≤ x.regs.lw) := by
  rw [State.presentLanes, State.presentLanes, List.filter_filter]
  refine List.filter_congr fun x _ => ?_
  have hlen : decide (prcL x.regs.prc ≤ x.regs.lw) = !decide (x.regs.lw < prcL x.regs.prc) := by
    simp only [← decide_not, Nat.not_lt]
  simp only [reduxTraps, hlen, Bool.not_or, Bool.not_not, Bool.and_comm, Bool.and_left_comm]

/-- The present members whose values `redux.yadd` adds. -/
theorem membersOf_reduxTraps (s : State) (d a b : Fld) :
    membersOf (s.r.w b) (s.presentLanes (reduxTraps d a b)) = s.summands d a b := by
  have hmem : membersOf (s.r.w b) (s.presentLanes (collTraps [dst .y d, src .y a, use .d b] b)) =
      s.members (.reduxYadd d a b) b := membersOf_presentLanes fun r => all_inWindow_mask r [_, _] b
  rw [presentLanes_reduxTraps, State.summands, ← hmem, membersOf, membersOf, List.filter_comm]

section
variable {s : State} {d a b : Fld}

theorem exec_reduxYadd_unnamed (hc : CanIssue (.reduxYadd d a b) s) (hm : (s.r.w b).getLsbD s.f.id.fid = false) :
    exec (.reduxYadd d a b) s = .next (s.traps 0x0E 0 ((s.r.w b).setWidth 64)).tick := by
  have hb : reduxYaddWord s d a b = .trap 0x0E 0 ((s.r.w b).setWidth 64) := by simp [reduxYaddWord, hm]
  exact exec_trap hc rfl hb

theorem exec_reduxYadd_badHeader (hc : CanIssue (.reduxYadd d a b) s) (hm : (s.r.w b).getLsbD s.f.id.fid = true)
    (hv : (s.r.y a).valid s.r.lw = false) :
    exec (.reduxYadd d a b) s = .next (s.traps 0x0F 0 (BitVec.ofNat 64 (2 ^ 63 + a.toNat))).tick := by
  have hb : reduxYaddWord s d a b = .trap 0x0F 0 (BitVec.ofNat 64 (2 ^ 63 + a.toNat)) := by
    simp [reduxYaddWord, hm, hv, trapHeader]
  exact exec_trap hc rfl hb

/-- Past the mask and the header come the checks of the rounding in their order, and then the commit with the status. -/
theorem reduxYaddWord_rounds (hm : (s.r.w b).getLsbD s.f.id.fid = true) (hv : (s.r.y a).valid s.r.lw = true) :
    reduxYaddWord s d a b =
      if s.r.lw < prcL s.r.prc then .trap 0x06 1 (BitVec.ofNat 64 (prcL s.r.prc + 256 * s.r.lw))
      else if prcRM s.r.prc = .rsr ∧ s.f.drawWaits = true then .wait
      else if enabled s.r.prc (s.reduxDone d a b).flags = true then .trap 0x05 (s.reduxDone d a b).flags.toNat 0#64
      else .commit .seq fun t => (((s.reduxDone d a b).effect s t).markRedux t.f.nextSer).onRegs fun r =>
        r.setP 15 (allThere (s.r.w b) (s.summands d a b)) := by
  have hnever (x : Exact) : ¬(s.shortOf x none = true ∧ pxEnabled s.r.prc = true) := fun h => nomatch h.1
  have hround := yRound_eq s 2 d [a]
    (exactSum (prcRM s.r.prc = .rdn) ((s.summands d a b).map fun x => (x.regs.y a).value)) none
  rw [if_neg (hnever _), ← State.reduxDone] at hround
  simp only [reduxYaddWord, hm, hv, Bool.not_true, Bool.false_eq_true, if_false, allPresent_eq, membersOf_reduxTraps, hround]
  split_ifs <;> rfl

/-- What `redux.yadd` leaves once its mask names the fibre and its header is sound: its draw may have to wait (log 15) before its
enabled flags are judged. -/
theorem exec_reduxYadd_rounds (hc : CanIssue (.reduxYadd d a b) s) (hm : (s.r.w b).getLsbD s.f.id.fid = true)
    (hv : (s.r.y a).valid s.r.lw = true) :
    exec (.reduxYadd d a b) s = .next
      (if s.r.lw < prcL s.r.prc then (s.traps 0x06 1 (BitVec.ofNat 64 (prcL s.r.prc + 256 * s.r.lw))).tick
      else if prcRM s.r.prc = .rsr ∧ s.f.drawWaits = true then s.tick
      else if enabled s.r.prc (s.reduxDone d a b).flags = true then (s.traps 0x05 (s.reduxDone d a b).flags.toNat 0#64).tick
      else s.committed (.reduxYadd d a b) .seq fun t =>
        (((s.reduxDone d a b).effect s t).markRedux t.f.nextSer).onRegs fun r =>
          r.setP 15 (allThere (s.r.w b) (s.summands d a b))) := by
  have hb : bodyOf (.reduxYadd d a b) s = _ := reduxYaddWord_rounds hm hv
  split_ifs at hb ⊢
  · exact exec_trap hc rfl hb
  · exact exec_wait hc rfl hb
  · exact exec_trap hc rfl hb
  · exact exec_commit hc rfl hb

theorem reduxYadd_passesConv : (infoOf (.reduxYadd d a b)).passesConv = false := by
  have hmaj : (infoOf (.reduxYadd d a b)).maj = 0x25 := majOf_fx (i := .reduxYadd d a b) rfl
  simp [Info.passesConv, Info.pipe, hmaj, pipeOfMaj]

/-- With no converting load unresolved, only an access of a fibre that has ended could still be waited for, and not where such an
access keeps no registers, as `Access.orphaned` leaves it (R158, R212). -/
theorem drawWaits_of_convPending {x : Fibre} (hconv : x.convPending = 0)
    (horphan : ∀ e ∈ x.acc, e.orphan = true → e.ckpt = none) : x.drawWaits = false := by
  obtain ⟨hacc, hdlv⟩ : (∀ e ∈ x.acc, ¬e.converts = true) ∧ ∀ v ∈ x.dlv, ¬v.converting = true := by
    simpa [Fibre.convPending] using hconv
  unfold Fibre.drawWaits
  rw [Bool.or_eq_false_iff, List.any_eq_false, List.any_eq_false]
  refine ⟨fun e he hdraws => ?_, fun v hv hdraws => ?_⟩
  · obtain ⟨hldy, hrsr⟩ := Bool.and_eq_true_iff.1 hdraws
    have hop : e.op.converting = true := by
      unfold AccOp.converting
      split at hldy
      next hk => rw [hk]
      next => cases hldy
    cases ho : e.orphan
    case false => exact hacc e he (by simp [Access.converts, hop, ho])
    case true => simp [horphan e he ho] at hrsr
  · obtain ⟨hldy, -⟩ := Bool.and_eq_true_iff.1 hdraws
    refine hdlv v hv ?_
    unfold Deliv.converting
    split at hldy
    next hk => rw [hk]
    next => cases hldy

theorem drawWaits_of_canIssue_reduxYadd (hc : CanIssue (.reduxYadd d a b) s)
    (horphan : ∀ e ∈ s.f.acc, e.orphan = true → e.ckpt = none) : s.f.drawWaits = false := by
  have hfree := hc.free
  simp only [Info.mustWait, reduxYadd_passesConv, Bool.or_eq_false_iff] at hfree
  obtain ⟨⟨⟨⟨⟨-, hconv⟩, -⟩, -⟩, -⟩, -⟩ := hfree
  exact drawWaits_of_convPending (by simpa using hconv) horphan

/-- An enabled flag traps wherever the accesses of ended fibres keep no registers. -/
theorem exec_reduxYadd_enabled (hc : CanIssue (.reduxYadd d a b) s) (hm : (s.r.w b).getLsbD s.f.id.fid = true)
    (hv : (s.r.y a).valid s.r.lw = true) (hl : prcL s.r.prc ≤ s.r.lw)
    (horphan : ∀ e ∈ s.f.acc, e.orphan = true → e.ckpt = none)
    (hf : enabled s.r.prc (s.reduxDone d a b).flags = true) :
    exec (.reduxYadd d a b) s = .next (s.traps 0x05 (s.reduxDone d a b).flags.toNat 0#64).tick := by
  rw [exec_reduxYadd_rounds hc hm hv, if_neg (Nat.not_lt.2 hl),
    if_neg (by simp [drawWaits_of_canIssue_reduxYadd hc horphan]), if_pos hf]

/-- With no trap and no wait of its own the word commits: the rounded sum, and then the status (R217, R220). -/
theorem exec_reduxYadd_clear (hc : CanIssue (.reduxYadd d a b) s) (hm : (s.r.w b).getLsbD s.f.id.fid = true)
    (hv : (s.r.y a).valid s.r.lw = true) (hl : prcL s.r.prc ≤ s.r.lw) (hclear : (s.reduxDone d a b).Clear s) :
    exec (.reduxYadd d a b) s = .next (s.committed (.reduxYadd d a b) .seq fun t =>
      (((s.reduxDone d a b).effect s t).markRedux t.f.nextSer).onRegs fun r =>
        r.setP 15 (allThere (s.r.w b) (s.summands d a b))) := by
  have hnodraw : ¬(prcRM s.r.prc = .rsr ∧ s.f.drawWaits = true) := fun ⟨hr, hd⟩ =>
    absurd (hclear.draws (decide_eq_true hr)) (by simp [hd])
  rw [exec_reduxYadd_rounds hc hm hv, if_neg (Nat.not_lt.2 hl), if_neg hnodraw, if_neg (by simp [hclear.flags])]

end

/-! ### The clause that fails -/

/-- The registers of a fibre that rounds to 24 bits under RSR with every flag enabled, its handler at 0x2000, y0 a signalling NaN
and w6 the mask of lane 0. -/
def snanUnderRsr : Regs :=
  { Regs.fresh 64 1000 0x1040#64 [0#32, 0#32, 0#32, 0#32, 0#32, 0#32, 1#32, 0#32] with
    prc := 0xFC000518#32, tvec := 0x2000#64, lw := 24, ys := [⟨0x4#32, [0#32], true⟩, YReg.zero 24, YReg.zero 24] }

/-- Such a fibre, with an `ldy` of an ended fibre of its identifier that still keeps registers of mode RSR. -/
def orphanDraws : State :=
  let s := State.reset.placeWord 32 0x70000004
  { s with f := { s.f with
      regs := snanUnderRsr
      acc := [{ newAccess (.ldy 7) 0#64 0 16 .none [] with orphan := true, ckpt := some snanUnderRsr }] } }

theorem canIssue_orphanDraws : CanIssue (.reduxYadd 2 0 6) orphanDraws where
  powered := rfl
  noTrapDue := rfl
  noObject := rfl
  whole := rfl
  noFaultMet := rfl
  fields := by decide
  window := by decide
  full := by decide
  free := by decide
  crew := by decide
  live := by decide

/-- Refutes O37, by its clause of enabled flags alone, which lacks a premise on the draw: at `orphanDraws` an `ldy` of an ended
fibre keeps registers of mode RSR, so `redux.yadd` waits with its draw (log 15) where the clause has it trap. `CanIssue` allows
that state, though `Access.orphaned` itself leaves an access no registers. Every other clause holds
(`exec_of_collective_named`, `exec_of_collective_unnamed`, `exec_reduxYadd_unnamed`, `exec_reduxYadd_badHeader`,
`exec_reduxYadd_rounds`, `exec_reduxYadd_clear`), and this one holds too where the accesses of ended fibres keep no registers
(`exec_reduxYadd_enabled`). -/
theorem not_collectives : ¬ Obligations.Collectives := by
  unfold Obligations.Collectives
  rintro ⟨-, hredux⟩
  obtain ⟨-, -, -, hrounds⟩ := hredux 2 0 6 orphanDraws canIssue_orphanDraws
  obtain ⟨htrap, -⟩ := hrounds (by decide) (by decide) (by decide)
  have hwait : exec (.reduxYadd 2 0 6) orphanDraws = .next orphanDraws.tick := by
    rw [exec_reduxYadd_rounds canIssue_orphanDraws (by decide) (by decide), if_neg (by decide), if_pos (by decide)]
  have hsame := (htrap (by decide)).symm.trans hwait
  have hpc := congrArg (fun t => t.r.pc) (Host.Outcome.next.inj hsame)
  exact absurd hpc (by decide)

end Sys2Proof.Machine
end

section
/-!
PROOFS that every step keeps the canonical form of memory, and what a device reset leaves (12 R237, R238, log 3).
-/
namespace Sys2Proof.Machine

/-! ### Every step keeps the canonical form -/

theorem event_wf {k : State → State} (hk : ∀ u, u.mem.wf = true → (k u).mem.wf = true) {s t : State}
    (hw : s.mem.wf = true) (h : event k s = .next t) : t.mem.wf = true := by
  unfold event at h
  split at h
  · cases h
  · cases h
    exact hk s hw

/-- Each event is one operation, whose own lemma says that it leaves memory alone (`X_mem`) or keeps its form (`X_wf`). -/
theorem exec_event_wf {i : Instr} (he : isEvent i = true) {s t : State} (hw : s.mem.wf = true)
    (h : exec i s = .next t) : t.mem.wf = true := by
  unfold isEvent at he
  split at he
  case h_2 core part => -- the senior's forced issue
    delta exec at h
    exact event_wf (fun u hu => forcedIssue_keeps (P := fun m => m.wf = true) bodyOf_wf u core part hu) hw h
  case h_66 => -- device reset
    cases h
    exact resetDevice_wf s hw
  case h_73 => cases he -- a word
  all_goals
    delta exec at h
    exact event_wf (fun u hu => by simp [hu]) hw h

theorem exec_wf {i : Instr} {s t : State} (hw : s.mem.wf = true) (h : exec i s = .next t) : t.mem.wf = true := by
  cases he : isEvent i with
  | true => exact exec_event_wf he hw h
  | false =>
    rw [issueInfo_of_exec he h]
    exact issueInfo_keeps (P := fun m => m.wf = true) (infoOf i) (bodyOf i) s (bodyOf_wf i s.atIssue) hw

theorem firstChange_wf {s : State} (hw : s.mem.wf = true) (l : List Instr) : (firstChange s l).mem.wf = true := by
  induction l with
  | nil => exact hw
  | cons e rest ih =>
    unfold firstChange
    split
    next t hexec =>
      split
      · exact ih
      · exact exec_wf hw hexec
    next => exact ih

/-- A step without an agenda: a clock, or an event of the device's own (log 4). -/
theorem unscheduled_wf {s : State} (hw : s.mem.wf = true) :
    (if s.turn % 2 = 0 then s.partClock (turnCore s.turn) (turnPart s.turn) else s.ownEvent).mem.wf = true := by
  split
  · exact State.partClock_keeps (P := fun m => m.wf = true) bodyOf_wf s _ _ hw
  · unfold State.ownEvent
    exact firstChange_wf hw _

/-- Settles O7: whatever a step runs, an instruction, an event or a clock, keeps the canonical form. -/
theorem stepKeepsMemory : Obligations.StepKeepsMemory := by
  unfold Obligations.StepKeepsMemory
  intro s t hw h
  cases ha : s.agenda with
  | cons e rest =>
    rw [step_cons ha] at h
    cases hexec : exec e { s with agenda := rest } with
    | next u =>
      rw [hexec] at h
      cases h
      exact exec_wf (s := { s with agenda := rest }) (t := u) hw hexec
    | fault x => rw [hexec] at h; cases h
    | refused x => rw [hexec] at h; cases h
  | nil =>
    cases hoff : s.off with
    | true => simp [step, ha, hoff] at h
    | false =>
      rw [step_of_no_agenda ha hoff] at h
      obtain rfl := Host.Outcome.next.inj h
      exact unscheduled_wf hw

/-! ### What a device reset leaves -/

/-- A core that holds nothing is not listed. -/
theorem core_reset (k : Nat) : State.reset.core k = Core.blank k := by
  unfold State.core
  split
  next h =>
    subst h
    rfl
  next => rfl

/-- The standard core map takes the first 64 of the 68 cores of each die (log 2). -/
theorem coreMapReset_nodup : coreMapReset.Nodup :=
  List.Nodup.map (fun a b (h : a / 64 * 68 + a % 64 = b / 64 * 68 + b % 64) => by omega) List.nodup_range

/-- Settles O3, field by field of the reset state. -/
theorem resetState : Obligations.ResetState := by
  unfold Obligations.ResetState
  refine ⟨rfl, rfl, rfl, rfl, rfl, rfl, State.reset_mem_wf, rfl, fun _ => rfl, ?_, rfl, rfl, ?_, rfl, rfl, rfl, rfl,
    core_reset, ?_, coreMapReset_nodup⟩
  · exact fun x hx => List.eq_of_mem_replicate hx
  · intro q hq
    rw [List.eq_of_mem_replicate hq]
  · exact List.length_map _ |>.trans List.length_range

end Sys2Proof.Machine
end

section
/-!
PROOFS of the REDs of a deterministic node (12 R245, 13 R267, 15 R298, R299): the checks of the word, and where a RED that passes
them is held.
-/
namespace Sys2Proof.Machine

/-! ### What the word asks for -/

theorem bodyOf_of_redOf {i : Instr} {s : State} {op z : Nat} {va : DWord} {bs : List Byte}
    (h : redOf i s = some (op, va, z, bs)) :
    ∃ a b sc, va = s.r.d a ∧ z = redSize op ∧ bs = (bytesOfCells (s.r.run b (if op = 8 then 2 else 1))).take z ∧
      bodyOf i s = redWord s a b op sc := by
  unfold redOf at h
  dsimp only at h
  split at h
  case h_10 => cases h
  all_goals
    cases h
    exact ⟨_, _, _, rfl, rfl, rfl, rfl⟩

section
variable {s : State} {a b : Fld} {op : Nat} {sc : BitVec 3} (hdet : s.n.spec.det = true)
include hdet

theorem redWord_misaligned (h : (s.r.d a).toNat % redSize op ≠ 0) :
    redWord s a b op sc = .trap 0x03 0 (s.r.d a) := by
  simp [redWord, hdet, h]

variable (h0 : (s.r.d a).toNat % redSize op = 0)
include h0

theorem redWord_refused {code ia : Nat} (hx : s.xlat s.n (s.r.d a).toNat (redSize op) .both = .bad code ia) :
    redWord s a b op sc = .fault code 0 (s.r.d a) ia := by
  simp [redWord, hdet, h0, hx]

variable {ia : Nat} {tracked : Bool} (hx : s.xlat s.n (s.r.d a).toNat (redSize op) .both = .ok ia tracked)
include hx

/-- While the walk is busy the word stays, and its try counts (R240). -/
theorem redWord_busy {sub e : Nat} (hwalk : (s.walkRun ia (redSize op) .both).1 = some (0, sub, e))
    (hspent : s.spent (.word s.f.id (s.r.d a).toNat) = false) :
    redWord s a b op sc = .hold fun t => t.tryAgain (.word t.f.id (s.r.d a).toNat) := by
  simp [redWord, hdet, h0, hx, hwalk, State.busyWord, hspent]

theorem redWord_walkFault {code sub e : Nat} (hwalk : (s.walkRun ia (redSize op) .both).1 = some (code, sub, e))
    (hcode : code ≠ 0) : redWord s a b op sc = .fault code sub (s.r.d a) e := by
  simp [redWord, hdet, h0, hx, hwalk]

theorem redWord_noRoom (hwalk : (s.walkRun ia (redSize op) .both).1 = none) (hroom : s.redRoom s.n s.c.num = false) :
    redWord s a b op sc = .fault 0x49 0 (s.r.d a) ia := by
  simp [redWord, hdet, h0, hx, hwalk, hroom]

theorem redWord_holds (hwalk : (s.walkRun ia (redSize op) .both).1 = none) (hroom : s.redRoom s.n s.c.num = true)
    (hidle : s.spillBusy = false) :
    redWord s a b op sc = .commit .seq fun t =>
      t.holdRed s.r.pc op ia (s.r.d a) ((bytesOfCells (s.r.run b (if op = 8 then 2 else 1))).take (redSize op)) := by
  simp [redWord, hdet, h0, hx, hwalk, hroom, hidle, WordRes.regs]

end

/-! ### Walks do not depend on the fibre -/

/-- The state with another current fibre and other tries. -/
def State.asFibre (s : State) (b : Fibre) (l : List (TryKey × Nat)) : State := { s with f := b, tries := l }

/-- An answer together with the state that goes on, with another fibre. -/
def refibred {α : Type} (b : Fibre) (l : List (TryKey × Nat)) (p : α × State) : α × State := (p.1, p.2.asFibre b l)

section
variable (s : State) (b : Fibre) (l : List (TryKey × Nat))

@[simp] theorem placeOf_asFibre (ia : Nat) : (s.asFibre b l).placeOf ia = s.placeOf ia := by
  unfold State.placeOf State.massifSize
  rfl

@[simp] theorem inUnit_asFibre (u pa size : Nat) : (s.asFibre b l).inUnit u pa size = s.inUnit u pa size := by
  have hstack : ∀ k, (s.asFibre b l).stackSize k = s.stackSize k := fun k => by
    unfold State.stackSize State.isRetired
    rfl
  simp only [State.inUnit, State.placed, placeOf_asFibre, hstack]

@[simp] theorem leaf_asFibre (u ia : Nat) (e : DWord) (size : Nat) (need : Need) :
    (s.asFibre b l).leaf u ia e size need = s.leaf u ia e size need := by
  simp only [State.leaf, placeOf_asFibre, inUnit_asFibre]

theorem entry_asFibre (u key addr : Nat) : (s.asFibre b l).entry u key addr = refibred b l (s.entry u key addr) := by
  unfold State.entry State.asFibre refibred
  dsimp only
  split
  · split
    · rfl
    · split <;> rfl
  · rfl

theorem tableWalk_asFibre (ia : Nat) (need : Need) :
    (s.asFibre b l).tableWalk ia need = refibred b l (s.tableWalk ia need) := by
  unfold State.tableWalk
  simp only [show (s.asFibre b l).walkers = s.walkers from rfl, entry_asFibre]
  split
  · rfl
  · generalize s.entry _ _ _ = p
    obtain ⟨e, s1⟩ := p
    simp only [refibred, inUnit_asFibre, leaf_asFibre, entry_asFibre]
    split
    · rfl
    · rfl
    · split
      · rfl
      · generalize s1.entry _ _ _ = p2
        obtain ⟨e2, s2⟩ := p2
        dsimp only
        split <;> rfl
    · rfl

theorem walk_asFibre (ia : Nat) (need : Need) : (s.asFibre b l).walk ia need = refibred b l (s.walk ia need) := by
  have harena : (s.asFibre b l).arenaAt ia = s.arenaAt ia := rfl
  have hgrants : ∀ id, (s.asFibre b l).peerGrants id ia need = s.peerGrants id ia need := fun _ => rfl
  unfold State.walk
  simp only [placeOf_asFibre, harena, hgrants, tableWalk_asFibre]
  split
  · rfl
  · rfl
  · split <;> rfl

theorem ownXlat_asFibre (n : Node) (va size : Nat) (need : Need) :
    (s.asFibre b l).ownXlat n va size need = s.ownXlat n va size need := by
  simp only [State.ownXlat, State.rangeXlat, State.placed, placeOf_asFibre] <;> rfl

theorem walkRun_asFibre (ia size : Nat) (need : Need) :
    (s.asFibre b l).walkRun ia size need = refibred b l (s.walkRun ia size need) := by
  unfold State.walkRun
  generalize splitLines ia size = runs
  refine List.foldl_hom (refibred b l) (init := (none, s)) fun p y => ?_
  obtain ⟨stop, t⟩ := p
  cases stop with
  | some e => rfl
  | none =>
    dsimp only [refibred]
    rw [walk_asFibre]
    generalize t.walk _ need = r
    obtain ⟨res, t1⟩ := r
    cases res <;> rfl

end

/-! ### Where a RED is held -/

theorem holdFull_room {s : State} {core : Nat} (h : s.holdCount core < 8192) : s.holdFull core = false :=
  decide_eq_false (Nat.not_le.2 h)

theorem holdFull_full {s : State} {core : Nat} (h : 8192 ≤ s.holdCount core) : s.holdFull core = true := decide_eq_true h

theorem redRoom_buffer {s : State} {n : Node} {core : Nat} (h : s.holdCount core < 8192) : s.redRoom n core = true :=
  Bool.or_eq_true_iff.2 (.inl (decide_eq_true h))

theorem redRoom_area {s : State} {n : Node} {core : Nat} (h : s.spillCount n.spec.nid core < n.spec.rsn) :
    s.redRoom n core = true := Bool.or_eq_true_iff.2 (.inr (decide_eq_true h))

theorem redRoom_full {s : State} {n : Node} {core : Nat} (h : 8192 ≤ s.holdCount core)
    (harea : n.spec.rsn ≤ s.spillCount n.spec.nid core) : s.redRoom n core = false :=
  Bool.or_eq_false_iff.2 ⟨decide_eq_false (Nat.not_lt.2 h), decide_eq_false (Nat.not_lt.2 harea)⟩

/-- The current fibre's gang holds a RED that its word has issued (R267). -/
def State.withHeld (s : State) (op ia : Nat) (va : DWord) (bs : List Byte) (spilled : Bool) : State :=
  { s with
    g := { s.g with held := s.g.held ++ [{
      cid := s.f.id.cid, fid := s.f.id.fid, ser := s.f.nextSer, op := op, ia := ia, data := bs
      arena := if va.toNat / 2 ^ 56 = 0xA5 then some (va.toNat / 2 ^ 44 % 4096) else none
      spilled := spilled, core := s.c.num, no := s.issueNo }] }
    f := { s.f with nextSer := s.f.nextSer + 1 } }

section
variable {s : State} {pc va : DWord} {op ia : Nat} {bs : List Byte}

theorem holdRed_kept (hroom : s.redRoom s.n s.c.num = true)
    (hstop : s.holdFull s.c.num = true → s.spillStop s.n s.c.num = none) :
    s.holdRed pc op ia va bs = (s.wordDone s.f.id).keepRed op ia va bs := by
  have hgo : (if s.holdFull s.c.num then s.spillStop s.n s.c.num else none) = none := by
    split
    · exact hstop ‹_›
    · rfl
  simp [State.holdRed, hroom, hgo]

/-- A spill area that cannot be written fails the node (R448, log 62). -/
theorem holdRed_unwritable {code sub e : Nat} (hroom : s.redRoom s.n s.c.num = true) (hfull : s.holdFull s.c.num = true)
    (hstop : s.spillStop s.n s.c.num = some (code, sub, e)) (hcode : code ≠ 0) :
    s.holdRed pc op ia va bs =
      (s.wordDone s.f.id).nodeFails s.f.id pc code sub (BitVec.ofNat 64 (s.nextSpill s.n s.c.num)) e := by
  unfold State.holdRed
  simp [hroom, hfull, hstop]

theorem keepRed_buffered (hfull : s.holdFull s.c.num = false) : s.keepRed op ia va bs = s.withHeld op ia va bs false := by
  simp [State.keepRed, State.withHeld, hfull]

end

/-- What a write at a home leaves of what a held RED records. -/
def SameIssue (s t : State) : Prop := t.f = s.f ∧ t.c.num = s.c.num ∧ t.issueNo = s.issueNo

theorem setCore_num (s : State) (x : Core) : (s.setCore x).c.num = s.c.num := by
  unfold State.setCore
  split
  next h => exact h.symm
  next => rfl

theorem sameIssue_sentTo (s : State) (core ia : Nat) : SameIssue s (s.sentTo core ia) :=
  ⟨by simp [State.sentTo], setCore_num .., by simp [State.sentTo]⟩

theorem sameIssue_engineWrite (s : State) (core nid gid cid ia : Nat) (bs : List Byte) :
    SameIssue s (s.engineWrite core nid gid cid ia bs) := by
  unfold State.engineWrite
  refine List.foldlRecOn (motive := SameIssue s) _ _ ⟨rfl, rfl, rfl⟩ fun t ht x _ => ?_
  dsimp only
  split
  · obtain ⟨m, v, hw⟩ := t.homeWrite_frame (x.1 * 128 + x.2.1) ((bs.drop (x.1 * 128 + x.2.1 - ia)).take x.2.2)
    rw [hw]
    obtain ⟨hf, hc, hn⟩ := sameIssue_sentTo { t with mem := m, walkers := v } core (x.1 * 128 + x.2.1)
    obtain ⟨hf', hc', hn'⟩ := ht
    exact ⟨hf.trans hf', hc.trans hc', hn.trans hn'⟩
  · exact ht

theorem sameIssue_spillWrite (s : State) (n : Node) (core : Nat) : SameIssue s (s.spillWrite n core) := by
  unfold State.spillWrite
  split
  · exact sameIssue_engineWrite ..
  · exact ⟨rfl, rfl, rfl⟩

section
variable {s : State} {va : DWord} {op ia : Nat} {bs : List Byte} (hfull : s.holdFull s.c.num = true)
include hfull

/-- Without an entry of the node's own in the buffer, the RED goes to the spill area itself. -/
theorem keepRed_spilled (hold : s.oldestHeld s.f.id.nid s.c.num = none) :
    s.keepRed op ia va bs = (s.spillWrite s.n s.c.num).withHeld op ia va bs true := by
  obtain ⟨hf, hc, hn⟩ := sameIssue_spillWrite s s.n s.c.num
  simp [State.keepRed, State.withHeld, hfull, hold, hf, hc, hn]

/-- The oldest entry of the node's own in the buffer makes room for the RED. -/
theorem keepRed_moved {no gid : Nat} (hold : s.oldestHeld s.f.id.nid s.c.num = some (no, gid)) :
    s.keepRed op ia va bs = ((s.spillWrite s.n s.c.num).onGang s.f.id.nid gid fun g =>
      { g with held := spillFirst s.c.num no g.held }).withHeld op ia va bs false := by
  obtain ⟨hf, hc, hn⟩ := sameIssue_spillWrite s s.n s.c.num
  simp [State.keepRed, State.withHeld, hfull, hold, hf, hc, hn]

end

/-- Where the buffer has room the RED lies there. -/
theorem holdRed_buffered {s : State} {pc va : DWord} {op ia : Nat} {bs : List Byte} (h : s.holdCount s.c.num < 8192) :
    s.holdRed pc op ia va bs = (s.wordDone s.f.id).withHeld op ia va bs false := by
  rw [holdRed_kept (redRoom_buffer h) fun hf => absurd hf (by simp [holdFull_room h])]
  exact keepRed_buffered (s := s.wordDone s.f.id) (holdFull_room h)

section
variable {s : State} {pc va : DWord} {op ia pa : Nat} {tr : Bool} {bs : List Byte}

theorem spillWrite_done (hentry : s.ownXlat s.n (s.nextSpill s.n s.c.num) 16 .both = .ok pa tr) :
    (s.wordDone s.f.id).spillWrite s.n s.c.num =
      (s.wordDone s.f.id).ownWrite pa ((List.range 16).map (Config.spillByte s.issueNo)) := by
  have hown : (s.wordDone s.f.id).ownXlat s.n (s.nextSpill s.n s.c.num) 16 .both = .ok pa tr :=
    (ownXlat_asFibre s s.f _ s.n _ 16 .both).trans hentry
  unfold State.spillWrite
  rw [show (s.wordDone s.f.id).nextSpill s.n s.c.num = s.nextSpill s.n s.c.num from rfl, hown]
  rfl

variable (harea : s.spillCount s.n.spec.nid s.c.num < s.n.spec.rsn) (hfull : 8192 ≤ s.holdCount s.c.num)
include harea hfull

/-- Where the next entry of the spill area has no translation, the node fails (R448). -/
theorem holdRed_untranslated {code e : Nat} (hbad : s.ownXlat s.n (s.nextSpill s.n s.c.num) 16 .both = .bad code e) :
    s.holdRed pc op ia va bs =
      (s.wordDone s.f.id).nodeFails s.f.id pc 0x42 0 (BitVec.ofNat 64 (s.nextSpill s.n s.c.num)) e :=
  holdRed_unwritable (redRoom_area harea) (holdFull_full hfull) (by simp [State.spillStop, hbad]) (by decide)

variable (hentry : s.ownXlat s.n (s.nextSpill s.n s.c.num) 16 .both = .ok pa tr)
  (hfree : (s.walkRun pa 16 .both).1 = none)
include hentry hfree

theorem holdRed_spilled (hold : s.oldestHeld s.f.id.nid s.c.num = none) :
    s.holdRed pc op ia va bs =
      ((s.wordDone s.f.id).ownWrite pa ((List.range 16).map (Config.spillByte s.issueNo))).withHeld op ia va bs true := by
  rw [holdRed_kept (redRoom_area harea) fun _ => by simp [State.spillStop, hentry, hfree], ← spillWrite_done hentry]
  exact keepRed_spilled (s := s.wordDone s.f.id) (holdFull_full hfull) hold

theorem holdRed_moved {no gid : Nat} (hold : s.oldestHeld s.f.id.nid s.c.num = some (no, gid)) :
    s.holdRed pc op ia va bs =
      (((s.wordDone s.f.id).ownWrite pa ((List.range 16).map (Config.spillByte s.issueNo))).onGang s.f.id.nid gid fun g =>
        { g with held := spillFirst s.c.num no g.held }).withHeld op ia va bs false := by
  rw [holdRed_kept (redRoom_area harea) fun _ => by simp [State.spillStop, hentry, hfree], ← spillWrite_done hentry]
  exact keepRed_moved (s := s.wordDone s.f.id) (holdFull_full hfull) hold

end

/-- The oldest entry is one of the node's own in the buffer, and none of them is older. -/
theorem oldestHeld_least {s : State} {nid core no gid : Nat} (h : s.oldestHeld nid core = some (no, gid)) :
    (∃ g ∈ s.allGangs, g.nid = nid ∧ g.gid = gid ∧ ∃ h ∈ g.held, h.core = core ∧ h.spilled = false ∧ h.no = no) ∧
      ∀ g ∈ s.allGangs, g.nid = nid → ∀ h ∈ g.held, h.core = core → h.spilled = false → no ≤ h.no := by
  obtain ⟨hin, hleast⟩ := sortOn_head h
  constructor
  · simp only [List.mem_flatMap, List.mem_filter, List.mem_map, decide_eq_true_eq, Bool.and_eq_true, Bool.not_eq_true',
      Prod.mk.injEq] at hin
    obtain ⟨g, ⟨hg, hnid⟩, x, ⟨hx, hcore, hsp⟩, hno, hgid⟩ := hin
    exact ⟨g, hg, hnid, hgid, x, hx, hcore, hsp, hno⟩
  · intro g hg hnid x hx hcore hsp
    refine hleast (x.no, g.gid) ?_
    simp only [List.mem_flatMap, List.mem_filter, List.mem_map, decide_eq_true_eq]
    exact ⟨g, ⟨hg, hnid⟩, x, ⟨hx, by simp [hcore, hsp]⟩, rfl⟩

/-- Settles O35: the checks of `redWord` in their order; a RED that passes them is held by `holdRed`, whose three outcomes are
those of `keepRed` and of a spill area that cannot be written. -/
theorem heldReds : Obligations.HeldReds := by
  unfold Obligations.HeldReds
  intro i s op va z bs hc hdet hred
  obtain ⟨a, b, sc, rfl, rfl, rfl, hb⟩ := bodyOf_of_redOf hred
  refine ⟨fun h => ?_, fun h0 code ia hx => ?_, fun h0 ia tracked hx => ?_⟩
  · have hb := hb.trans (redWord_misaligned hdet h)
    exact exec_trap hc (isEvent_of_bodyOf hb nofun) hb
  · have hb := hb.trans (redWord_refused hdet h0 hx)
    exact exec_fault hc (isEvent_of_bodyOf hb nofun) hb
  · refine ⟨fun sub e hwalk hspent => ?_, fun code sub e hwalk hcode => ?_, fun hwalk => ⟨fun hfull harea => ?_,
      fun hbuf => ?_, fun hfull harea => ⟨fun pa tr hentry hfree => ?_, fun code e hentry => ?_⟩⟩,
      fun no gid hold => oldestHeld_least hold⟩
    · have hb := hb.trans (redWord_busy hdet h0 hx hwalk hspent)
      exact exec_hold hc (isEvent_of_bodyOf hb nofun) hb
    · have hb := hb.trans (redWord_walkFault hdet h0 hx hwalk hcode)
      exact exec_fault hc (isEvent_of_bodyOf hb nofun) hb
    · have hb := hb.trans (redWord_noRoom hdet h0 hx hwalk (redRoom_full hfull harea))
      exact exec_fault hc (isEvent_of_bodyOf hb nofun) hb
    · have hidle : s.spillBusy = false := by simp [State.spillBusy, holdFull_room hbuf]
      have hb := hb.trans (redWord_holds hdet h0 hx hwalk (redRoom_buffer hbuf) hidle)
      rw [exec_commit hc (isEvent_of_bodyOf hb nofun) hb]
      exact congrArg Host.Outcome.next (committed_congr fun pc => holdRed_buffered hbuf)
    · have hentry : s.ownXlat s.n (s.nextSpill s.n s.c.num) 16 .both = .ok pa tr := hentry
      have hidle : s.spillBusy = false := by simp [State.spillBusy, State.spillStop, hentry, hfree]
      have hb := hb.trans (redWord_holds hdet h0 hx hwalk (redRoom_area harea) hidle)
      rw [exec_commit hc (isEvent_of_bodyOf hb nofun) hb]
      refine congrArg Host.Outcome.next (committed_congr fun pc => ?_)
      let t := s.onRegs fun r => { r with pc := pc }
      have hentry' := (ownXlat_asFibre s t.f t.tries s.n _ 16 .both).trans hentry
      have hfree' := (congrArg Prod.fst (walkRun_asFibre s t.f t.tries pa 16 .both)).trans hfree
      cases hold : s.oldestHeld s.f.id.nid s.c.num with
      | none => exact holdRed_spilled (s := t) harea hfull hentry' hfree' hold
      | some first => exact holdRed_moved (s := t) harea hfull hentry' hfree' hold
    · have hentry : s.ownXlat s.n (s.nextSpill s.n s.c.num) 16 .both = .bad code e := hentry
      have hidle : s.spillBusy = false := by simp [State.spillBusy, State.spillStop, hentry]
      have hb := hb.trans (redWord_holds hdet h0 hx hwalk (redRoom_area harea) hidle)
      rw [exec_commit hc (isEvent_of_bodyOf hb nofun) hb]
      refine congrArg Host.Outcome.next (committed_congr fun pc => ?_)
      let t := s.onRegs fun r => { r with pc := pc }
      exact holdRed_untranslated (s := t) harea hfull ((ownXlat_asFibre s t.f t.tries s.n _ 16 .both).trans hentry)

end Sys2Proof.Machine
end

section
/-!
PROOFS of the attempts of the memory system (05 R122 to R124, 12 R240, R246, 15 R289, R292, R293, 23 R429): which way an access
performs, and what it comes to there.
-/
namespace Sys2Proof.Machine

section
variable {s t u : State} {x : Site} {a : Access}

/-! ### The way that an access performs -/

theorem perform_load {sg : Bool} (hop : a.op = .load sg) (hspad : a.spad = false) (hhalf : a.half = none) :
    s.perform x a = s.performLoad x a 0 a.size fun t bs => t.performed x.fib.id a (loadCells sg bs) none := by
  simp [State.perform, hop, hspad, hhalf]

theorem perform_quad {sg : Bool} {done : Option Bool} (hop : a.op = .load sg) (hspad : a.spad = false)
    (hhalf : a.half = some done) : s.perform x a = s.performQuad x a done := by
  simp [State.perform, hop, hspad, hhalf]

theorem perform_store (hop : a.op = .store) (hspad : a.spad = false) : s.perform x a = s.performStore x a := by
  simp [State.perform, hop, hspad]

theorem perform_spadLoad {sg : Bool} (hop : a.op = .load sg) (hspad : a.spad = true) :
    s.perform x a = s.performSpad x a := by
  simp [State.perform, hop, hspad]

theorem perform_spadStore (hop : a.op = .store) (hspad : a.spad = true) : s.perform x a = s.performSpad x a := by
  simp [State.perform, hop, hspad]

/-- The AMOs and REDs, which read and write in one access (R292, R297). -/
def AccOp.Atomic (o : AccOp) : Prop := (∃ op ar, o = .amo op ar) ∨ ∃ op, o = .red op

theorem perform_atomic (hop : a.op.Atomic) :
    s.perform x a = if s.atHome a then s.performAtHome x a else s.performInL1 x a := by
  obtain ⟨op, ar, hop⟩ | ⟨op, hop⟩ := hop <;> simp [State.perform, hop]

/-! ### Loads -/

/-- After its walk, a run without an error is read through the L1 (R246, R253). -/
theorem fetchRun_reads {ia size : Nat} {need : Need} {bs : List Byte} (hwalk : s.walkRun ia size need = (none, t))
    (hgood : t.badRun ia size = false) (herr : (t.core x.core).errRun ia size = false)
    (hread : t.readL1 x.core ia size x.node.ctx a.tracked .load = (some bs, u)) :
    s.fetchRun x a ia size need = (.inl bs, u) := by
  simp [State.fetchRun, hwalk, hgood, herr, hread]

theorem performLoad_miss {off size : Nat} {bs : List Byte} {k : State → List Byte → State}
    (herr : (s.core x.core).errRun (a.ia + off) size = false) (hmiss : (s.core x.core).holds (a.ia + off) size = false)
    (hreach : s.reaches x.core (a.ia + off) = true) (hgo : s.missWaits x.core (a.ia + off) size = false)
    (hfetch : s.fetchRun x a (a.ia + off) size .load = (.inl bs, u)) : s.performLoad x a off size k = k u bs := by
  simp [State.performLoad, herr, hmiss, hreach, hgo, hfetch]

/-! ### Stores -/

/-- The second half of a store is walked no more (log 56). -/
theorem performStore_rest {high : Bool} (hop : a.op = .store) (hspad : a.spad = false) (hhalf : a.half = some (some high)) :
    s.performStore x a =
      (s.storeL1 x.core (a.ia + halfOff (!high)) ((a.data.drop (halfOff (!high))).take 8) x.node.ctx a.tracked
        x.crew).performed x.fib.id a [] none := by
  simp [State.performStore, Access.rest, hop, hspad, hhalf]

theorem rest_none (hhalf : ∀ high, a.half ≠ some (some high)) : a.rest = none := by
  unfold Access.rest
  split
  next high hop hh => exact absurd hh (hhalf high)
  next => rfl

/-- A store that no half of has performed is walked. -/
theorem performStore_walkFails {e : Nat × Nat × Nat} (hhalf : ∀ high, a.half ≠ some (some high))
    (hwalk : s.walkRun a.ia a.size .store = (some e, t)) : s.performStore x a = t.walkFailed x.fib.id a e := by
  simp [State.performStore, rest_none hhalf, hwalk]

theorem performStore_whole (hhalf : a.half = none) (hwalk : s.walkRun a.ia a.size .store = (none, t)) :
    s.performStore x a =
      (t.storeL1 x.core a.ia (a.data.take a.size) x.node.ctx a.tracked x.crew).performed x.fib.id a [] none := by
  simp [State.performStore, rest_none (a := a) (by simp [hhalf]), hhalf, hwalk]

theorem performStore_first (hhalf : a.half = some none) (hwalk : s.walkRun a.ia a.size .store = (none, t)) :
    s.performStore x a =
      (t.storeL1 x.core (a.ia + halfOff (a.nextHalf none)) ((a.data.drop (halfOff (a.nextHalf none))).take 8) x.node.ctx
        a.tracked x.crew).halfDone x.fib.id a (a.nextHalf none) a.data := by
  simp [State.performStore, rest_none (a := a) (by simp [hhalf]), hhalf, hwalk]

/-! ### The scratchpad (05 R120) -/

section
variable {offs : List Nat} (hrun : x.node.spadRun (a.va.extractLsb' 0 32) a.size = some offs)
include hrun

theorem performSpad_firstHalf {sg : Bool} (hop : a.op = .load sg) (hhalf : a.half = some none) :
    s.performSpad x a = s.halfDone x.fib.id a (a.nextHalf none)
      (x.gang.spadBytes ((offs.drop (halfOff (a.nextHalf none))).take 8)) := by
  simp [State.performSpad, hrun, hop, hhalf]

theorem performSpad_secondHalf {sg high : Bool} (hop : a.op = .load sg) (hhalf : a.half = some (some high)) :
    s.performSpad x a =
      let bs := x.gang.spadBytes ((offs.drop (halfOff (!high))).take 8)
      s.performed x.fib.id a (loadCells false (if high then bs ++ a.data else a.data ++ bs)) none := by
  simp [State.performSpad, hrun, hop, hhalf, Access.nextHalf]

theorem performSpad_store (hop : a.op = .store) (hhalf : a.half = none) :
    s.performSpad x a =
      (s.onGang x.gang.nid x.gang.gid fun g => g.spadPut offs a.data).performed x.fib.id a [] none := by
  simp [State.performSpad, hrun, hop, hhalf]

theorem performSpad_storeHalf {done : Option Bool} (hop : a.op = .store) (hhalf : a.half = some done) :
    s.performSpad x a =
      let high := a.nextHalf done
      let u := s.onGang x.gang.nid x.gang.gid fun g =>
        g.spadPut ((offs.drop (halfOff high)).take 8) ((a.data.drop (halfOff high)).take 8)
      if done.isNone then u.halfDone x.fib.id a high a.data else u.performed x.fib.id a [] none := by
  cases done <;> simp [State.performSpad, hrun, hop, hhalf]

end

/-! ### AMO and RED -/

/-- What an atomic access writes over the bytes that it has read in the L1 (R291, R297). -/
def State.writesL1 (s : State) (x : Site) (a : Access) (old : List Byte) : State :=
  match a.writes old with
  | none => s
  | some bs => s.storeL1 x.core a.ia bs x.node.ctx a.tracked x.crew

/-- One that performs in the L1 reads and writes there, after a walk that asks for both (R293). -/
theorem performInL1_atomic {old : List Byte} (hop : a.op.Atomic)
    (hready : (s.core x.core).holds a.ia a.size = true ∨
      (s.reaches x.core a.ia = true ∧ s.missWaits x.core a.ia a.size = false))
    (hfetch : s.fetchRun x a a.ia a.size .both = (.inl old, u)) :
    s.performInL1 x a = (u.writesL1 x a old).performed x.fib.id a (cellsOfBytes (a.size / 4) old) none := by
  have hreached : ¬((!(s.core x.core).holds a.ia a.size) = true ∧ (!s.reaches x.core a.ia) = true) := by
    rintro ⟨hmiss, hcut⟩
    obtain h | ⟨h, -⟩ := hready
    · simp [h] at hmiss
    · simp [h] at hcut
  have hgo : ¬((!(s.core x.core).holds a.ia a.size) = true ∧ s.missWaits x.core a.ia a.size = true) := by
    rintro ⟨hmiss, hwaits⟩
    obtain h | ⟨-, h⟩ := hready
    · simp [h] at hmiss
    · simp [h] at hwaits
  unfold State.performInL1
  obtain ⟨op, ar, hop⟩ | ⟨op, hop⟩ := hop
  all_goals
    rw [hop]
    dsimp only
    rw [if_neg hreached, if_neg hgo, hfetch]
    rfl

theorem need_atomic (hop : a.op.Atomic) : a.op.need = .both := by
  obtain ⟨op, ar, hop⟩ | ⟨op, hop⟩ := hop <;> rw [hop] <;> rfl

/-- One that performs at its home, without a release of its own, is walked and sent (R261). -/
theorem performAtHome_sent (hop : a.op.Atomic) (hplain : a.op.releases = false) (hreach : s.reaches x.core a.ia = true)
    (hwalk : s.walkRun a.ia a.size .both = (none, t)) : s.performAtHome x a = t.sendHome x a := by
  simp [State.performAtHome, hreach, need_atomic hop, hwalk, hplain]

/-- An AMO whose home cannot be reached faults, and its write counts as lost (R429, R430, log 60). -/
theorem performAtHome_unreached {op : Nat} {ar : Bool} (hop : a.op = .amo op ar) (hreach : s.reaches x.core a.ia = false) :
    s.performAtHome x a =
      let id := x.fib.id
      let t := s.accFails id a.ser 0x42 0 a.ia
      (t.onFibre id fun b => b.sees 0#32 (t.lossBits x.core a.ia).2).tell (.lostWrite a.ia id.nid id.gid id.cid) := by
  simp [State.performAtHome, State.unreached, hreach, hop, AccOp.mayBeLost]

end

/-- Settles O48: the way that an access performs (`State.perform`), and the lemma about what it comes to there. -/
theorem attempts : Obligations.Attempts := by
  unfold Obligations.Attempts
  intro s who ser i x a hoff hx ha hmay hi id crew atomic fails
  have hexec {t : State} (hp : s.perform x a = t) : exec i s = .next t := hp ▸ attempt_eq hoff hx ha hmay hi
  refine ⟨fun sg hop hspad hhalf herr hhit => ?_,
    fun sg t u bs hop hspad hhalf herr hmiss hreach hgo hwalk hgood herr' hread => ?_,
    fun sg done hop hspad hhalf => ?_, fun t hop hspad hwalk => ⟨fun hhalf => ?_, fun hhalf => ?_⟩,
    fun high hop hspad hhalf => ?_, fun t ia hop hspad hhalf hwalk => ?_,
    fun offs hspad hrun => ⟨fun hop hhalf => ?_, fun done hhalf => ⟨fun sg hop => ?_, fun hop => ?_⟩⟩,
    fun t u old hop hhere hready hwalk hgood herr hread => ?_, fun t hop hhome hreach hwalk => ?_,
    fun op ar hop hhome hreach => ?_⟩
  · exact hexec ((perform_load hop hspad hhalf).trans (performLoad_hit herr hhit))
  · exact hexec ((perform_load hop hspad hhalf).trans
      (performLoad_miss herr hmiss hreach hgo (fetchRun_reads hwalk hgood herr' hread)))
  · intro high at_ herr hhit bs
    refine hexec ((perform_quad hop hspad hhalf).trans ?_)
    cases done with
    | none => exact performLoad_hit herr hhit
    | some h => exact performLoad_hit herr hhit
  · exact hexec ((perform_store hop hspad).trans (performStore_whole hhalf hwalk))
  · exact hexec ((perform_store hop hspad).trans (performStore_first hhalf hwalk))
  · refine hexec ((perform_store hop hspad).trans ((performStore_rest hop hspad hhalf).trans ?_))
    cases high <;> rfl
  · exact hexec ((perform_store hop hspad).trans (performStore_walkFails hhalf hwalk))
  · exact hexec ((perform_spadStore hop hspad).trans (performSpad_store hrun hop hhalf))
  · refine hexec ((perform_spadLoad hop hspad).trans ?_)
    cases done with
    | none => exact performSpad_firstHalf hrun hop hhalf
    | some h => exact performSpad_secondHalf hrun hop hhalf
  · refine hexec ((perform_spadStore hop hspad).trans ((performSpad_storeHalf hrun hop hhalf).trans ?_))
    cases done <;> rfl
  · exact hexec ((perform_atomic hop).trans ((if_neg (by simp [hhere])).trans
      (performInL1_atomic hop hready (fetchRun_reads hwalk hgood herr hread))))
  · have hatomic : a.op.Atomic := hop.imp_left fun ⟨op, h⟩ => ⟨op, false, h⟩
    have hplain : a.op.releases = false := by obtain ⟨op, h⟩ | ⟨op, h⟩ := hop <;> rw [h] <;> rfl
    exact hexec ((perform_atomic hatomic).trans ((if_pos hhome).trans (performAtHome_sent hatomic hplain hreach hwalk)))
  · exact hexec ((perform_atomic (.inl ⟨op, ar, hop⟩)).trans ((if_pos hhome).trans
      (performAtHome_unreached hop hreach)))

end Sys2Proof.Machine
end

section
/-!
PROOFS of what leaves an L1 and what reaches a home (12 R246, R249, R262, 13 R261, R263, 15 R292, R303, R304, 23 R427, R428).
-/
namespace Sys2Proof.Machine

section
variable {s t : State}

/-! ### Evictions -/

theorem foldl_same {α β : Type} {f : β → α → β} {b : β} {l : List α} (h : ∀ a ∈ l, f b a = b) : l.foldl f b = b :=
  List.foldlRecOn (motive := (· = b)) l f rfl fun _ hc a ha => hc ▸ h a ha

/-- Without a half performed store on its core, no line has anything to wait for (R124, log 56). -/
theorem finishLine_same {core ln : Nat} (h : ∀ b ∈ s.fibresOn core, ∀ a ∈ b.acc, a.rest = none) :
    s.finishLine core ln = s := by
  unfold State.finishLine
  exact foldl_same fun b hb => foldl_same fun a ha => by rw [h b hb a ha]

theorem evict_held {core ln : Nat} {l : L1Line} (h : (s.core core).line? ln = some l) :
    evict s core ln = ((s.finishLine core ln).lineLeaves core ln).onCore core fun c => c.dropLine ln := by
  rw [evict, h]
  rfl

theorem lineLeaves_clean {core ln : Nat} {l : L1Line} (h : (s.core core).line? ln = some l) (hdm : l.dm = 0#128) :
    s.lineLeaves core ln = s := by
  simp [State.lineLeaves, h, hdm]

/-- The dirty bytes of a line leave for their home. -/
theorem lineLeaves_dirty {core ln : Nat} {l : L1Line} (h : (s.core core).line? ln = some l) (hdm : l.dm ≠ 0#128)
    (herr : l.err = false) :
    s.lineLeaves core ln = { (s.onCore core fun c => c.setLine { l with dm := 0#128 }).sentTo core (ln * 128) with
      flight := s.flight ++ [⟨core, .writeBack l.ctx l.crew l.tracked, ln * 128, l.dirty⟩] } := by
  simp [State.lineLeaves, h, hdm, herr]

/-! ### Arrivals -/

/-- Something that has bytes and is the first of its core to come to their lines, by a path in service (R249, R427). -/
structure ArrivesFirst (s : State) (k : Nat) (y : Flight) : Prop where
  place : s.flight[k]? = some y
  bytes : y.bytes ≠ []
  reached : s.reaches y.core y.ia = true
  path : s.pathUp y.core y.ia = true
  first : ((s.flight.take k).any fun z => z.core = y.core && z.bytes != [] && y.bytes != [] &&
    decide (lineOf z.ia ≤ lineOf (y.ia + y.bytes.length - 1)) &&
    decide (lineOf y.ia ≤ lineOf (z.ia + z.bytes.length - 1))) = false

theorem homeArrive_cut {k : Nat} {y : Flight} (hk : s.flight[k]? = some y) (hbytes : y.bytes ≠ [])
    (hcut : s.reaches y.core y.ia = false) : s.homeArrive k = s.lose k := by
  simp [State.homeArrive, hk, hbytes, hcut]

theorem homeArrive_writeBack {k ctx pa : Nat} {crew : Nat × Nat} {tracked : Bool} {y : Flight} (ha : ArrivesFirst s k y)
    (hop : y.op = .writeBack ctx crew tracked) (hwalk : s.walk y.ia .store = (.frame pa, t)) :
    s.homeArrive k = { t.triesDone (.writeBack y.core (lineOf y.ia)) with
      flight := dropAt k t.flight, mem := t.mem.writeMasked pa y.bytes } := by
  unfold State.homeArrive
  simp only [ha.place, ha.reached, ha.path, ha.first, hop, hwalk]
  simp

theorem homeArrive_access {k ser : Nat} {who : FibId} {op : AccOp} {y : Flight} (ha : ArrivesFirst s k y)
    (hop : y.op = .access who ser op) : s.homeArrive k = s.arriveAccess k y who ser := by
  unfold State.homeArrive
  simp only [ha.place, ha.reached, ha.path, ha.first, hop]
  simp

/-- What an access writes over the old bytes at its home (R291, R297). -/
def State.writesHome (s : State) (a : Access) (old : List Byte) : State :=
  match a.writes old with
  | none => s
  | some bs => (s.homeWrite a.ia bs).2

/-- What an access returns of the old bytes (R291, R300). -/
def Access.cellsOf (a : Access) (old : List Byte) : List Word :=
  match a.op with
  | .lda => loadCells false old
  | _ => cellsOfBytes (a.size / 4) old

/-- An access reads and writes at its home in one step (R292). -/
theorem arriveAccess_performs {k ser : Nat} {who : FibId} {y : Flight} {b : Fibre} {a : Access} {u : State}
    {old : List Byte} (hb : s.fibre? who = some b) (ha : b.entry? ser = some a)
    (hwalk : s.walkRun a.ia a.size a.op.need = (none, t)) (hgood : t.badRun a.ia a.size = false)
    (hread : State.homeBytes { t.triesDone (.arrival who ser) with flight := dropAt k t.flight } a.ia a.size = (some old, u)) :
    s.arriveAccess k y who ser =
      (if a.acquires then (u.writesHome a old).acquire y.core a.scope else u.writesHome a old).performed who a
        (a.cellsOf old) none := by
  have hgood' : State.badRun { t.triesDone (.arrival who ser) with flight := dropAt k t.flight } a.ia a.size = false := hgood
  unfold State.arriveAccess
  simp only [hb, ha, hwalk, hgood', hread]
  rfl

/-! ### Flush markers -/

/-- A marker on a retraining path sets FSTAT.SLOW and stays (R304, R428). -/
theorem markerAck_slow {k ser : Nat} {y : Flight} {who : FibId} {homes : List Nat} {b : Fibre}
    (hk : s.flight[k]? = some y) (hop : y.op = .marker who ser homes)
    (htrain : homes.any (s.retraining (s.dieOf y.core)) = true) (hb : s.fibre? who = some b)
    (horphan : ∀ a, b.entry? ser = some a → a.orphan = false) (hlive : b.life = .live) :
    s.markerAck k = s.setFibre (b.always fun r => r.setLoss 4#32 0#32) := by
  have hown : (b.entry? ser).any Access.orphan = false := by
    cases h : b.entry? ser with
    | none => rfl
    | some a => exact horphan a h
  unfold State.markerAck
  simp only [hk, hop, htrain, if_true]
  simp [State.onFibre, hb, hown, Fibre.sees, hlive]

/-- A marker that everything before it has passed ends the wait of its fence (R263). -/
theorem markerAck_fence {k ser : Nat} {y : Flight} {who : FibId} {homes : List Nat} {x : Site} {a : Access}
    {rel acq chk : Bool} (hk : s.flight[k]? = some y) (hop : y.op = .marker who ser homes)
    (hpassed : ((s.flight.take k).any fun z => z.core = y.core) = false)
    (htrain : homes.any (s.retraining (s.dieOf y.core)) = false)
    (hx : State.site? { s with flight := dropAt k s.flight } who = some x) (ha : x.fib.entry? ser = some a)
    (hfence : a.op = .fence rel acq chk) :
    s.markerAck k = State.fenceDone { s with flight := dropAt k s.flight } x a rel acq chk := by
  unfold State.markerAck
  simp only [hk, hop, htrain, hpassed]
  simp [State.markerDone, hx, ha, hfence]

end

/-- Settles O49: what `evict`, `homeArrive` and `markerAck` come to in each case. -/
theorem homeArrivals : Obligations.HomeArrivals := by
  unfold Obligations.HomeArrivals
  intro s hoff
  refine ⟨fun core line l0 h0 => ⟨finishLine_same, fun l hl => ⟨fun hdm => ?_, fun hdm herr => ?_⟩⟩,
    fun k y hk hbytes hcut => ?_, fun k y hk hbytes hreach hpath hfirst => ?_,
    fun k y who ser homes hk hop => ⟨fun htrain b hb horphan hlive => ?_,
      fun hpassed htrain x a rel acq chk hx ha hfence => ?_⟩⟩
  · rw [exec_l1Eviction hoff, evict_held h0, lineLeaves_clean hl hdm]
  · rw [exec_l1Eviction hoff, evict_held h0, lineLeaves_dirty hl hdm herr]
  · rw [exec_homeArrival hoff, homeArrive_cut hk hbytes hcut]
  · have harrives : ArrivesFirst s k y := ⟨hk, hbytes, hreach, hpath, hfirst⟩
    refine ⟨fun ctx crew tracked pa t hop hwalk => ?_, fun who ser op b a t old u hop hb ha hwalk hgood hread => ?_⟩
    · rw [exec_homeArrival hoff, homeArrive_writeBack harrives hop hwalk]
      rfl
    · rw [exec_homeArrival hoff, homeArrive_access harrives hop, arriveAccess_performs hb ha hwalk hgood hread]
      rfl
  · rw [exec_flushMarkerAck hoff, markerAck_slow hk hop htrain hb horphan hlive]
  · rw [exec_flushMarkerAck hoff, markerAck_fence hk hop hpassed htrain hx ha hfence]

end Sys2Proof.Machine
end

section
/-!
PROOFS of the reports of faults and of the host's answers (12 R241, 22 R408 to R410, R412).
-/
namespace Sys2Proof.Machine

section
variable {s t : State}

/-- A fault that an access has met is reported once no older converting load can still discard the word (R158, R241). -/
theorem memoryFault_access {who : FibId} {ser code sub ia : Nat} {b : Fibre} {a : Access} (hb : s.fibre? who = some b)
    (ha : b.entry? ser = some a) (hstage : a.stage = .faulted code sub ia) (hcode : code ≠ 0x40)
    (hconv : b.olderConv ser (fun _ => true) = false) :
    memoryFault s who ser =
      (s.onAcc who ser fun e => { e with stage := .reported }).actOn [⟨b.id, b.regs.pc, code, sub, a.va, ia⟩] := by
  simp [memoryFault, hb, ha, Access.item, hstage, hcode, hconv]

/-- The batch that the report of a crew's page faults makes, once the crew has stopped (R410). -/
noncomputable def State.batch (s : State) (nid gid cid : Nat) : Batch :=
  let runs := ((s.gang? nid gid).bind fun g => g.crew? cid).any fun c => c.state == .running
  let mets := (s.crewAll nid gid cid).filterMap Fibre.met
  let t := s.stopRuns nid gid cid
  (t.crewAll nid gid cid).foldl (Batch.fibre runs mets) ⟨t, [], []⟩

/-- A batch that holds a fault is reported in one record, its crew is suspended, and the other codes follow (R408, R410). -/
theorem pageReport_batch {nid gid cid : Nat} {first : FaultItem} {rest : List FaultItem}
    (hitems : sortOn (fun i => i.id.fid) (s.batch nid gid cid).items = first :: rest) :
    pageReport s nid gid cid =
      ((((s.batch nid gid cid).st.report ⟨0x40, 0, (s.batch nid gid cid).pages, nid, gid, cid,
        laneMask ((s.batch nid gid cid).items.map fun y => y.id.fid), first.pc, first.va, first.ia⟩).suspend nid gid cid
        0x40).actAll (((s.crewAll nid gid cid).filterMap Fibre.met).filter fun y => y.code ≠ 0x40)) := by
  unfold State.batch at hitems
  unfold pageReport
  simp only [hitems]
  rfl

/-- The oldest record that waits is written where an entry is free and can be walked (R408). -/
theorem recordWrite_written {x : FaultRec} {rest : List FaultRec} (hwait : s.faultq.waiting = x :: rest)
    (hfree : s.faultq.tail - s.faultq.head < s.faultq.size)
    (hwrite : s.homeWrite (s.faultq.base + 256 * (s.faultq.tail % s.faultq.size)) x.bytes = (true, t)) :
    recordWrite s = { t with faultq := { s.faultq with waiting := rest, tail := s.faultq.tail + 1 } } := by
  have hroom : ¬(s.faultq.size = 0 ∨ s.faultq.size ≤ s.faultq.tail - s.faultq.head) := by omega
  simp only [recordWrite, hwait, if_neg hroom, hwrite]

/-- What RESUME makes of the gang of a suspended crew, whose fibres `mine` picks: the crew runs, and the copies that met a fault are
made again (R409, R412). -/
def Gang.resumes (g : Gang) (cid : Nat) (mine : FibId → Bool) : Gang :=
  { g.onCrew cid fun c => { c with state := match c.state with | .suspended _ => .running | x => x } with
    cpbs := mapIf (fun c => mine c.who) CpbOp.again g.cpbs }

/-- The fibres of a crew. -/
def ofCrew (nid gid cid : Nat) (i : FibId) : Bool := decide (i.nid = nid ∧ i.gid = gid ∧ i.cid = cid)

section
variable {nid gid cid code : Nat} {g : Gang} {c : Crew} (hg : s.gang? nid gid = some g) (hc : g.crew? cid = some c)
  (hstate : c.state = .suspended code)
include hg hc hstate

theorem resumeCrew_suspended :
    resumeCrew s nid gid cid = (s.onGang nid gid fun g => g.resumes cid (ofCrew nid gid cid)).mapFibres
      (ofCrew nid gid cid) fun b => Fibre.resumed { b with acc := replayFrom [] b.acc } := by
  simp only [resumeCrew, hg, Option.bind_some, hc, hstate]
  rfl

theorem failCrew_suspended : failCrew s nid gid cid = s.failNode nid code := by
  simp [failCrew, hg, hc, hstate]

end

/-- A node that fails is failing, and resumes no continuation (R409). -/
theorem node?_failNode {nid code : Nat} {n : Node} (h0 : nid ≠ 0) (hn : s.node? nid = some n) (hfail : n.failing = none)
    (hlive : n.live = true) :
    (s.failNode nid code).node? nid = some { n with failing := some code, conts := [] } := by
  have hstate : ¬(n.failing.isSome = true ∨ n.state = .completed ∨ n.state = .failed ∨ n.state = .refused) := by
    simp only [hfail, Option.isSome_none, Bool.false_eq_true, false_or]
    rintro (h | h | h) <;> simp [Node.live, h] at hlive
  have hnid := State.node?_nid hn
  have hset := State.node?_setNode (s := s) { n with failing := some code, conts := [] } (hnid ▸ h0)
  simp only [State.failNode, hn, if_neg hstate]
  exact hnid ▸ hset

end

/-- Settles O50: what each event of a fault and each answer of the host comes to. -/
theorem faultAnswers : Obligations.FaultAnswers := by
  unfold Obligations.FaultAnswers
  intro s hoff
  refine ⟨fun who ser b a code sub ia hb ha hstage hcode hconv => ?_, fun nid gid cid => ?_,
    fun x rest t hwait _ hfree hwrite => ?_, fun nid gid cid g c code hg hc hstate => ⟨?_, ?_⟩,
    fun nid => exec_endCommand hoff nid, fun nid code n h0 hn hfail hlive => node?_failNode h0 hn hfail hlive⟩
  · rw [exec_memorySideFault hoff, memoryFault_access hb ha hstage hcode hconv]
  · intro runs mets t x first rest hitems
    rw [exec_pageFaultReport hoff, pageReport_batch hitems]
    rfl
  · rw [exec_faultRecordWrite hoff, recordWrite_written hwait hfree hwrite]
  · rw [exec_resume hoff, resumeCrew_suspended hg hc hstate]
    rfl
  · rw [exec_fail hoff, failCrew_suspended hg hc hstate]

end Sys2Proof.Machine
end

section
/-!
PROOFS that links fail and come back (12 R249, 23 R424 to R430, R433, R434): sublinks and paths by their state, and the requests
of peers.
-/
namespace Sys2Proof.Machine

section
variable {s t : State}

/-! ### What fibres see of a link (R430) -/

/-- A live fibre's registers record a loss. -/
theorem sees_regs {b : Fibre} (h : b.life = .live) (f l : Word) : (b.sees f l).regs = b.regs.setLoss f l := by
  simp [Fibre.sees, h, Fibre.always, Fibre.landedIf]

/-- The current fibre is the only one that counts under its identifier. -/
theorem mem_ids_current (hlive : s.f.life = .live) (hit : Fibre → Bool) :
    s.f.id ∈ (s.allFibres.filter hit).map Fibre.id ↔ hit s.f = true := by
  simp only [List.mem_map, List.mem_filter, State.allFibres, List.mem_cons, decide_eq_true_eq]
  constructor
  · rintro ⟨b, ⟨⟨rfl | ⟨-, hother⟩, -⟩, hhit⟩, hid⟩
    · exact hhit
    · exact absurd hid hother
  · exact fun hhit => ⟨s.f, ⟨⟨.inl rfl, hlive⟩, hhit⟩, rfl⟩

/-- A fibre has something under way that a test picks. -/
def State.hitBy (s : State) (p : Nat → Trip → Bool) (b : Fibre) : Bool :=
  match s.site? b.id with
  | some x => (s.trips b).any (p x.core)
  | none => false

theorem linkEvent_eq (s : State) (bits : Word) (p : Nat → Trip → Bool) :
    s.linkEvent bits p =
      s.mapFibres ((s.allFibres.filter (s.hitBy p)).map Fibre.id).contains fun b => b.sees 0#32 bits := rfl

/-- The current fibre sees the event where it has something under way that the test picks. -/
theorem linkEvent_r {bits : Word} {p : Nat → Trip → Bool} {x : Site} (hx : s.site? s.f.id = some x)
    (hlive : s.f.life = .live) :
    (s.linkEvent bits p).r = if (s.trips s.f).any (p x.core) then s.r.setLoss 0#32 bits else s.r := by
  have hhit : s.hitBy p s.f = (s.trips s.f).any (p x.core) := by simp [State.hitBy, hx]
  have hr : (s.linkEvent bits p).r = if s.hitBy p s.f then (s.f.sees 0#32 bits).regs else s.r := by
    simp only [linkEvent_eq, State.mapFibres, State.r, List.contains_iff_mem, mem_ids_current hlive]
    split <;> rfl
  rw [hr, hhit, sees_regs hlive]

/-! ### Die sublinks (R424 to R428) -/

section
variable {link sub : Nat}

theorem sublinkRetrain_up (h : s.sublink link sub = .up) :
    sublinkRetrain s link sub =
      (s.linkEvent 1#32 (s.rodeSublink link sub)).setSublink link sub (.retraining 1) := by
  simp [sublinkRetrain, h]

theorem sublinkRetrain_retraining {n : Nat} (h : s.sublink link sub = .retraining n) :
    sublinkRetrain s link sub =
      if n < 3 then (s.linkEvent 1#32 (s.rodeSublink link sub)).setSublink link sub (.retraining (n + 1)) else s := by
  simp [sublinkRetrain, h]

theorem sublinkReturn_retraining {n : Nat} (h : s.sublink link sub = .retraining n) :
    sublinkReturn s link sub = s.setSublink link sub .up := by
  simp [sublinkReturn, h]

theorem sublinkFail_third (h : s.sublink link sub = .retraining 3) :
    sublinkFail s link sub =
      (s.setSublink link sub .failed).loseCut (s.setSublink link sub .failed).flight.length := by
  simp [sublinkFail, h]

theorem sublinkFail_same (h : s.sublink link sub = .up ∨ s.sublink link sub = .failed) : sublinkFail s link sub = s := by
  obtain h | h := h <;> simp [sublinkFail, h]

end

/-! ### Network paths (R426 to R430) -/

section
variable {peer path : Nat}

theorem pathRetrain_up (h : s.pathState peer path = .up) (hpath : path < 18) :
    pathRetrain s peer path = (s.linkEvent 4#32 fun _ => s.rodePath peer path).setPath peer path (.retraining 1) := by
  simp [pathRetrain, h, Config.ports, hpath]

variable {n : Nat} (h : s.pathState peer path = .retraining n)
include h

theorem pathRetrain_retraining :
    pathRetrain s peer path =
      if n < 3 then (s.linkEvent 4#32 fun _ => s.rodePath peer path).setPath peer path (.retraining (n + 1)) else s := by
  simp [pathRetrain, h]

theorem pathReturn_retraining : pathReturn s peer path = s.setPath peer path .up := by
  simp [pathReturn, h]

theorem pathFail_notCut (hcut : (s.setPath peer path .failed).pathless peer = false ∨
    peer ∈ (s.setPath peer path .failed).fabric.unreachable) :
    pathFail s peer path = s.setPath peer path .failed := by
  obtain hcut | hcut := hcut <;> simp [pathFail, h, hcut]

theorem pathFail_cut (hcut : (s.setPath peer path .failed).pathless peer = true)
    (hnew : peer ∉ (s.setPath peer path .failed).fabric.unreachable) :
    pathFail s peer path =
      let u := (s.setPath peer path .failed).onFabric fun f => { f with unreachable := f.unreachable ++ [peer] }
      State.loseCut (u.linkEvent 16#32 fun _ y => y.home == 16 + peer) u.flight.length := by
  simp [pathFail, h, hcut, hnew]

end

theorem pathless_iff {peer : Nat} :
    s.pathless peer = true ↔ ∀ p < 18, s.fabric.portUp.getD p false = true → s.pathState peer p = .failed := by
  simp only [State.pathless, Config.ports, List.all_eq_true, List.mem_range, Bool.or_eq_true, Bool.not_eq_true', beq_iff_eq]
  refine forall₂_congr fun p _ => ?_
  cases s.fabric.portUp.getD p false <;> simp

/-! ### Requests of peers (R433) -/

section
variable {peer offset : Nat} {op : PeerOp}

/-- A peer's request is against the permissions or the size of the window, or longer than a packet. -/
def State.outsideWindow (s : State) (offset : Nat) (op : PeerOp) : Prop :=
  ((peerNeed op).r ∧ !s.fabric.exportR) ∨ ((peerNeed op).w ∧ !s.fabric.exportW) ∨
    s.fabric.exportSize < offset + peerSize op ∨ 4096 < peerSize op

/-- The IA that a peer's request names. -/
def State.peerIa (s : State) (offset : Nat) : Nat := s.fabric.exportBase + offset

/-- A peer's request is refused: by the window, because its bytes lie in no one place, or because their walk fails or has been
tried too often (R240). -/
def State.refusesPeer (s : State) (peer offset : Nat) (op : PeerOp) : Prop :=
  s.outsideWindow offset op ∨ s.placed (s.peerIa offset) (peerSize op) = false ∨
    ∃ code sub e, (code ≠ 0 ∨ s.spent (.peer peer (s.peerIa offset)) = true) ∧
      (s.walkRun (s.peerIa offset) (peerSize op) (peerNeed op)).1 = some (code, sub, e)

theorem peerPacket_refused (h : s.refusesPeer peer offset op) :
    peerPacket s peer offset op = (s.triesDone (.peer peer (s.peerIa offset))).tell (.peerRefused peer) := by
  unfold peerPacket
  dsimp only
  split
  · rfl
  next hwindow =>
    split
    · rfl
    next hplaced =>
      obtain h | h | ⟨code, sub, e, hwhy, hwalk⟩ := h
      · exact absurd h hwindow
      · exact absurd (by rw [← State.peerIa, h]; rfl) hplaced
      · rw [← State.peerIa]
        generalize s.walkRun _ _ _ = p at hwalk
        obtain ⟨stop, t⟩ := p
        cases hwalk
        cases code with
        | zero => simp [hwhy.resolve_left (by simp)]
        | succ n => rfl

section
variable (h : ¬s.refusesPeer peer offset op)
include h

/-- A request that is not refused stands inside the window, in one place, and its walk may be tried. -/
theorem inside_of_not_refused :
    ¬s.outsideWindow offset op ∧ s.placed (s.peerIa offset) (peerSize op) = true ∧
      ∀ sub e, (s.walkRun (s.peerIa offset) (peerSize op) (peerNeed op)).1 = some (0, sub, e) →
        s.spent (.peer peer (s.peerIa offset)) = false := by
  refine ⟨fun hout => h (.inl hout), ?_, fun sub e hwalk => ?_⟩
  · by_contra hplaced
    exact h (.inr (.inl (by simpa using hplaced)))
  · by_contra hspent
    exact h (.inr (.inr ⟨0, sub, e, .inr (by simpa using hspent), hwalk⟩))

/-- While the walk is busy the packet waits for its next try (R240). -/
theorem peerPacket_busy {sub e : Nat}
    (hwalk : (s.walkRun (s.peerIa offset) (peerSize op) (peerNeed op)).1 = some (0, sub, e)) :
    peerPacket s peer offset op = { s.tryAgain (.peer peer (s.peerIa offset)) with
      agenda := s.agenda ++ [.peerPacketArrival peer offset op] } := by
  obtain ⟨hwindow, hplaced, hspent⟩ := inside_of_not_refused h
  have hspent := hspent sub e hwalk
  unfold State.outsideWindow at hwindow
  unfold peerPacket
  dsimp only
  rw [if_neg hwindow, ← State.peerIa, hplaced]
  generalize s.walkRun _ _ _ = p at hwalk
  obtain ⟨stop, t⟩ := p
  cases hwalk
  simp [hspent]

theorem peerPacket_performed {v : State}
    (hwalk : s.walkRun (s.peerIa offset) (peerSize op) (peerNeed op) = (none, v)) :
    peerPacket s peer offset op = (v.triesDone (.peer peer (s.peerIa offset))).peerDoes peer (s.peerIa offset) op := by
  obtain ⟨hwindow, hplaced, -⟩ := inside_of_not_refused h
  unfold State.outsideWindow at hwindow
  unfold peerPacket
  dsimp only
  rw [if_neg hwindow, ← State.peerIa, hplaced, hwalk]
  rfl

end
end

theorem peerDoes_store {peer ia : Nat} {data : List Byte} (h : s.cutOff ia = false) :
    s.peerDoes peer ia (.store data) = (s.homeWrite ia data).2 := by
  simp [State.peerDoes, State.deviceWrite, h]

theorem peerReads_good {ia size : Nat} {old : List Byte} {k : List Byte → State → State} (hgood : s.badRun ia size = false)
    (hread : s.homeBytes ia size = (some old, t)) : s.peerReads ia size k = k old t := by
  simp [State.peerReads, hgood, hread]

end

/-- Settles O58: sublinks and paths by their state, and the requests of peers. -/
theorem linksKeepBytes : Obligations.LinksKeepBytes := by
  unfold Obligations.LinksKeepBytes
  intro s hoff
  refine ⟨fun link sub => exec_flitCrcFail hoff link sub, fun peer path => exec_transportResend hoff peer path,
    fun bits p x hx hlive => linkEvent_r hx hlive, fun link sub hsub => ?_, fun peer path => ?_,
    fun peer offset op => ?_⟩
  · intro l become seen
    have hset (t : State) (x : LinkState) : become t x = t.setSublink link sub x := (if_pos hsub).symm
    refine ⟨fun h => ?_, fun n h => ⟨?_, ?_⟩, fun h => ?_, fun h => ?_⟩
    · rw [exec_dieSublinkRetrain hoff, sublinkRetrain_up h, hset]
    · rw [exec_dieSublinkRetrain hoff, sublinkRetrain_retraining h, hset]
    · rw [exec_sublinkReturnToService hoff, sublinkReturn_retraining h, hset]
    · have hflight : (s.setSublink link sub .failed).flight = s.flight := by rw [← hset]
      rw [exec_dieSublinkFail hoff, sublinkFail_third h, hset, hflight]
    · rw [exec_dieSublinkFail hoff, sublinkFail_same h]
  · intro seen
    refine ⟨fun h hpath => ?_, fun n h => ⟨?_, ?_, ?_⟩⟩
    · rw [exec_networkPathRetrain hoff, pathRetrain_up h hpath]
    · rw [exec_networkPathRetrain hoff, pathRetrain_retraining h]
    · rw [exec_pathReturnToService hoff, pathReturn_retraining h]
    · intro t cut
      refine ⟨fun hcut => ?_, fun hcut hnew => ?_⟩
      · rw [exec_networkPathFail hoff, pathFail_notCut h (hcut.imp_left fun h => ?_)]
        exact Bool.eq_false_iff.2 fun hp => h (pathless_iff.1 hp)
      · rw [exec_networkPathFail hoff, pathFail_cut h (pathless_iff.2 hcut) hnew]
        rfl
  · intro need size ia refused becomes
    have hneed : peerNeed op = need := by cases op <;> rfl
    have hsize : peerSize op = size := by cases op <;> rfl
    have hrefused : s.refusesPeer peer offset op ↔ refused := by
      simp only [State.refusesPeer, State.outsideWindow, hneed, hsize, or_assoc, Bool.not_eq_true']
      rfl
    rw [← hrefused]
    have hbecomes {t : State} (h : peerPacket s peer offset op = t) : becomes t := h ▸ exec_peerPacketArrival hoff ..
    refine ⟨fun h => hbecomes (peerPacket_refused h), fun h sub e hwalk => ?_, fun h v hwalk => ?_⟩
    · exact hbecomes (peerPacket_busy h (sub := sub) (e := e) (by rw [hneed, hsize]; exact hwalk))
    · have hdoes := peerPacket_performed h (v := v) (by rw [hneed, hsize]; exact hwalk)
      intro t away
      refine ⟨fun data hop haway => ?_, fun old u hgood hread => ⟨fun len hop => ?_, fun k data hop => ?_, fun k data hop => ?_⟩⟩
      · subst hop
        exact hbecomes (hdoes.trans (peerDoes_store haway))
      · subst hop
        exact hbecomes (hdoes.trans (peerReads_good hgood hread))
      · subst hop
        exact hbecomes (hdoes.trans (peerReads_good hgood hread))
      · subst hop
        exact hbecomes (hdoes.trans (peerReads_good hgood hread))

end Sys2Proof.Machine
end

section
/-!
PROOFS of the task engine's steps (13 R267, 19 R366 to R372, R374, R376, R384): launch queues and the judging of a launch,
the manifest, signals, task rings, continuations and RED batches.
-/
namespace Sys2Proof.Machine

section
variable {s t : State}

/-! ### The reads of a launch (R366) -/

theorem part_read {rd : Nat → Nat → ReadRes} {host : Bool} {field a size : Nat} {bs : List Byte} {failed : List Nat}
    {k : List Byte → List Nat → LaunchRes} (h : rd a size = .ok bs) :
    part rd host field a size true failed k = k bs failed := by
  simp [part, h]

/-- In a launch of the host a read goes on in every case but a busy one: a field whose read cannot be made is noted. -/
theorem part_ok {rd : Nat → Nat → ReadRes} {field a size : Nat} {wanted : Bool} {failed : List Nat}
    {k : List Byte → List Nat → LaunchRes} {l : Launch} (h : part rd true field a size wanted failed k = .ok l) :
    ∃ bs f, k bs f = .ok l ∧ (f = failed ∨ f = field :: failed) := by
  unfold part at h
  split at h
  · exact ⟨_, _, h, .inl rfl⟩
  · split at h
    · exact ⟨_, _, h, .inl rfl⟩
    · exact ⟨_, _, h, .inr rfl⟩
    · cases h

/-- A launch whose spec has been read holds that spec, and only SUCC and EXT can name what could not be read. -/
theorem readLaunch_ok {rd : Nat → Nat → ReadRes} {addr : Nat} {sp : List Byte} {l : Launch} (hsp : rd addr 128 = .ok sp)
    (h : readLaunch rd true addr = .ok l) : l.sp = sp ∧ 0 ∉ l.failed := by
  rw [readLaunch, part_read hsp] at h
  obtain ⟨succ, f1, h, hf1⟩ := part_ok h
  obtain ⟨ext, f2, h, hf2⟩ := part_ok h
  obtain ⟨mani, f3, h, hf3⟩ := part_ok h
  cases h
  refine ⟨rfl, ?_⟩
  rcases hf1 with rfl | rfl <;> rcases hf2 with rfl | rfl <;> rcases hf3 with rfl | rfl <;> simp

/-! ### Launch queues (R366, R368) -/

/-- A queue is served where no lower one can be. -/
theorem specAccept_first {q : Nat} (hlow : ∀ k < min q 8, s.serveQueue k = none) (h : s.serveQueue q = some t) :
    specAccept s q = t := by
  have hnone : ((List.range (min q 8)).any fun k => (s.serveQueue k).isSome) = false := by
    simpa [Option.isSome_eq_false_iff] using hlow
  simp [specAccept, hnone, h]

/-- The reads of a queue's next entry. -/
def State.readEntry (s : State) (q : Nat) : LaunchRes :=
  readLaunch (fun a size => (s.readIa a size).orSpent (s.spent (.launch q a))) true (s.queue q).headAt

/-- Judging a queue's entry, with the tries that the read of its header has had. -/
def State.judgeEntry (s : State) (q : Nat) (l : Launch) : Judged :=
  s.judge true (s.spent (.launch q (headerKey (num l.sp 0 8)))) l

section
variable {q : Nat} {l : Launch} (hne : (s.queue q).head ≠ (s.queue q).tail)
include hne

theorem serveQueue_busyRead {f a ia : Nat} (h : s.readEntry q = .busy f a ia) :
    s.serveQueue q = some (s.tryAgain (.launch q a)) := by
  rw [State.readEntry] at h
  simp [State.serveQueue, hne, h]

section
variable (hread : s.readEntry q = .ok l) (h0 : 0 ∉ l.failed)
include hread h0

theorem serveQueue_busyHeader (h : s.judgeEntry q l = .busy) :
    s.serveQueue q = some (s.tryAgain (.launch q (headerKey (num l.sp 0 8)))) := by
  rw [State.readEntry] at hread
  rw [State.judgeEntry] at h
  simp [State.serveQueue, hne, hread, h0, h]

theorem serveQueue_refused {code : Nat} (h : s.judgeEntry q l = .refuse code) :
    s.serveQueue q = some ((s.deviceWrite ((s.queue q).headAt + 120) (leBytes 4 (5 + 256 * code))).headOn q) := by
  rw [State.readEntry] at hread
  rw [State.judgeEntry] at h
  simp [State.serveQueue, hne, hread, h0, h]

theorem serveQueue_accepted {entry : DWord} {ctx : Nat} (h : s.judgeEntry q l = .accept entry)
    (hctx : s.freeLaunch = some ctx) :
    s.serveQueue q = some ((s.accept (s.specOf l (s.queue q).headAt (num l.sp 8 4) entry) ctx).headOn q) := by
  rw [State.readEntry] at hread
  rw [State.judgeEntry] at h
  simp [State.serveQueue, hne, hread, h0, h, hctx]

end

end

/-! ### The rules of a launch (R364 to R366) -/

/-- Every rule of a launch with its offset. -/
def State.launchRules (s : State) (host : Bool) (l : Launch) : List (Nat × Bool) :=
  ((s.specRules host l.sp).filter fun x => x.1 ≤ 80) ++ s.pointedRules l ++ (s.specRules host l.sp).filter fun x => 80 < x.1

/-- The least offset at which a rule is broken. -/
def State.firstOffset (s : State) (host : Bool) (l : Launch) : Option Nat :=
  (sortOn Prod.fst ((s.launchRules host l).filter fun x => !x.2)).head?.map Prod.fst

/-- The image header is read (log 66). -/
def Launch.headed (l : Launch) : Prop :=
  num l.sp 0 8 % 64 = 0 ∧ num l.sp 80 8 % 64 = 0 ∧ l.ext ≠ [] ∧ rangesOk l.ext = true

/-- The rules at one offset hold. -/
def State.rulesHold (s : State) (host : Bool) (l : Launch) (off : Nat) : Prop :=
  ∀ x ∈ s.launchRules host l, x.1 = off → x.2 = true

theorem mem_launchRules {host : Bool} {l : Launch} {x : Nat × Bool} :
    x ∈ s.launchRules host l ↔ x ∈ s.specRules host l.sp ∨ x ∈ s.pointedRules l := by
  have := Nat.lt_or_ge 80 x.1
  simp only [State.launchRules, List.mem_append, List.mem_filter, decide_eq_true_eq]
  tauto

theorem firstOffset_some {host : Bool} {l : Launch} {c : Nat} (h : s.firstOffset host l = some c) :
    ¬s.rulesHold host l c ∧ ∀ k < c, s.rulesHold host l k := by
  obtain ⟨x, hx, rfl⟩ := Option.map_eq_some_iff.1 h
  obtain ⟨hmem, hleast⟩ := sortOn_head hx
  obtain ⟨hin, hbroken⟩ := List.mem_filter.1 hmem
  refine ⟨fun hold => by simp [hold x hin rfl] at hbroken, fun k hk y hy hyk => ?_⟩
  by_contra hfalse
  have := hleast y (List.mem_filter.2 ⟨hy, by simpa using hfalse⟩)
  omega

theorem firstOffset_none {host : Bool} {l : Launch} (h : s.firstOffset host l = none) (k : Nat) : s.rulesHold host l k := by
  rw [State.firstOffset, Option.map_eq_none_iff, List.head?_eq_none_iff, sortOn_eq_nil, List.filter_eq_nil_iff] at h
  exact fun x hx _ => by simpa using h x hx

/-! ### Rules as the fields of a spec say them -/

theorem readHeader_inl {spent : Bool} {l : Launch} {c : Nat} (h : s.readHeader spent l = some (.inl c)) : c = 0 ∨ c = 16 := by
  unfold State.readHeader at h
  dsimp only at h
  split at h
  · cases h
  · cases h; exact .inl rfl
  · split at h
    · cases h; exact .inr rfl
    · cases h

/-- An extension block of no bytes breaks the rules of the task ring. -/
theorem extOk_nil (det : Bool) : extOk [] det = false := by
  simp [extOk, isPow2, num, leNat]

theorem rangesOk_of_extOk {ext : List Byte} {det : Bool} (h : extOk ext det = true) : rangesOk ext = true := by
  simp only [extOk, Bool.and_eq_true] at h
  tauto

theorem specStages_eq (sp : List Byte) : specStages sp = num sp 17 1 % 16 := by simp [specStages, bitsOf]

theorem specRole_eq (sp : List Byte) (i : Nat) : specRole sp i = num sp 18 2 / 4 ^ i % 4 := by
  simp [specRole, bitsOf, pow_mul]

theorem specCrews_eq (sp : List Byte) (i : Nat) : specCrews sp i = num sp 20 4 / 16 ^ i % 16 := by
  simp [specCrews, bitsOf, pow_mul]

/-- In a list of rules with one rule for each offset, that rule alone decides about its offset. -/
theorem rules_at {rules : List (Nat × Bool)} {i off : Nat} {b : Bool} (hkeys : (rules.map Prod.fst).Nodup)
    (h : rules[i]? = some (off, b)) : (∀ x ∈ rules, x.1 = off → x.2 = true) ↔ b = true := by
  have hmem : (off, b) ∈ rules := List.mem_of_getElem? h
  refine ⟨fun hall => hall _ hmem rfl, fun hb x hx hoff => ?_⟩
  rw [List.inj_on_of_nodup_map hkeys hx hmem hoff]
  exact hb

theorem specRules_keys (host : Bool) (sp : List Byte) : (s.specRules host sp).map Prod.fst =
    [0, 8, 12, 16, 17, 18, 20, 24, 28, 30, 32, 34, 36, 39, 48, 68, 72, 80, 88, 96, 104, 112, 124] := rfl

theorem pointedRules_keys (l : Launch) : (s.pointedRules l).map Prod.fst = [72, 80] := rfl

theorem rulesHold_iff {host : Bool} {l : Launch} {off : Nat} : s.rulesHold host l off ↔
    (∀ x ∈ s.specRules host l.sp, x.1 = off → x.2 = true) ∧ ∀ x ∈ s.pointedRules l, x.1 = off → x.2 = true := by
  simp only [State.rulesHold, mem_launchRules, or_imp, forall_and]

/-- What is asked at one offset: the rules there hold, and the image header, where it is read, does not name it. -/
def State.fieldRules (s : State) (host spent : Bool) (l : Launch) (off : Nat) : Prop :=
  s.rulesHold host l off ∧ (l.headed → s.readHeader spent l ≠ some (.inl off))

/-- The image header names no field but IMAGE and ENT. -/
theorem fieldRules_headless {host spent : Bool} {l : Launch} {off : Nat} (h : off ∉ [0, 16]) :
    s.fieldRules host spent l off ↔ s.rulesHold host l off :=
  and_iff_left fun _ hc => h (by simpa using readHeader_inl hc)

/-- At an offset that points to nothing the rule of the field itself decides. -/
theorem rulesHold_own {host : Bool} {l : Launch} {i off : Nat} {b : Bool} (h : (s.specRules host l.sp)[i]? = some (off, b))
    (hoff : off ∉ [72, 80]) : s.rulesHold host l off ↔ b = true := by
  rw [rulesHold_iff, rules_at (by rw [specRules_keys]; decide) h]
  refine and_iff_left fun x hx hxo => absurd ?_ hoff
  rw [← hxo, ← pointedRules_keys l]
  exact List.mem_map_of_mem hx

theorem fieldRules_own {host spent : Bool} {l : Launch} {i off : Nat} {b : Bool}
    (h : (s.specRules host l.sp)[i]? = some (off, b)) (hoff : off ∉ [72, 80]) (hhead : off ∉ [0, 16]) :
    s.fieldRules host spent l off ↔ b = true :=
  (fieldRules_headless hhead).trans (rulesHold_own h hoff)

/-- At SUCC and EXT the rule of what the field points to is added. -/
theorem fieldRules_pointed {host spent : Bool} {l : Launch} {i j off : Nat} {b c : Bool}
    (h : (s.specRules host l.sp)[i]? = some (off, b)) (hp : (s.pointedRules l)[j]? = some (off, c)) (hhead : off ∉ [0, 16]) :
    s.fieldRules host spent l off ↔ b = true ∧ c = true := by
  rw [fieldRules_headless hhead, rulesHold_iff, rules_at (by rw [specRules_keys]; decide) h,
    rules_at (by rw [pointedRules_keys]; decide) hp]

/-- Nothing is asked at an offset where no field with a rule begins. -/
theorem fieldRules_free {host spent : Bool} {l : Launch} {off : Nat}
    (h : off ∉ [0, 8, 12, 16, 17, 18, 20, 24, 28, 30, 32, 34, 36, 39, 48, 68, 72, 80, 88, 96, 104, 112, 124]) :
    s.fieldRules host spent l off := by
  have hkeys := specRules_keys (s := s) host l.sp
  have hpointed := pointedRules_keys (s := s) l
  rw [fieldRules_headless (by simp at h ⊢; omega), rulesHold_iff]
  refine ⟨fun x hx hoff => absurd ?_ h, fun x hx hoff => absurd ?_ h⟩
  · rw [← hkeys, ← hoff]
    exact List.mem_map_of_mem hx
  · have hmem : x.1 ∈ [72, 80] := hpointed ▸ List.mem_map_of_mem hx
    rw [← hoff]
    simp at hmem ⊢
    omega

/-- The roles of the stages in use are none of them 3, and those of the others are 0. -/
theorem roleRule_iff {sp : List Byte} :
    ((((List.range 8).filter fun i => i < specStages sp).all fun i => specRole sp i != 3) &&
      ((List.range 8).filter fun i => specStages sp ≤ i).all fun i => specRole sp i == 0) = true ↔
    ∀ i < 8, (i < num sp 17 1 % 16 → num sp 18 2 / 4 ^ i % 4 ≠ 3) ∧
      (num sp 17 1 % 16 ≤ i → num sp 18 2 / 4 ^ i % 4 = 0) := by
  simp only [Bool.and_eq_true, List.all_eq_true, List.mem_filter, List.mem_range, decide_eq_true_eq, bne_iff_ne, beq_iff_eq,
    specStages_eq, specRole_eq, and_imp]
  exact ⟨fun ⟨hin, hout⟩ i hi => ⟨hin i hi, hout i hi⟩, fun h => ⟨fun i hi => (h i hi).1, fun i hi => (h i hi).2⟩⟩

/-- Just the stages in use have crews, and the gang has room for them all. -/
theorem crewRule_iff {sp : List Byte} :
    ((((List.range 8).filter fun i => i < specStages sp).all fun i => specCrews sp i != 0) &&
      (((List.range 8).filter fun i => specStages sp ≤ i).all fun i => specCrews sp i == 0) &&
      decide (total ((List.range 8).map (specCrews sp)) ≤ Config.crewsPerGang)) = true ↔
    (∀ i < 8, (num sp 20 4 / 16 ^ i % 16 = 0 ↔ num sp 17 1 % 16 ≤ i)) ∧
      total ((List.range 8).map fun i => num sp 20 4 / 16 ^ i % 16) ≤ 32 := by
  rw [Bool.and_eq_true, decide_eq_true_eq, show specCrews sp = fun i => _ from funext (specCrews_eq sp)]
  refine and_congr ?_ Iff.rfl
  simp only [Bool.and_eq_true, List.all_eq_true, List.mem_filter, List.mem_range, decide_eq_true_eq, bne_iff_ne, beq_iff_eq,
    specStages_eq, and_imp]
  refine ⟨fun ⟨hin, hout⟩ i hi => ⟨fun h0 => ?_, hout i hi⟩, fun h => ⟨fun i hi hst h0 => ?_, fun i hi => (h i hi).2⟩⟩
  · exact Nat.le_of_not_lt fun hst => hin i hi hst h0
  · exact absurd ((h i hi).1 h0) (Nat.not_le.2 hst)

/-- Every successor waits and does not fail. -/
theorem succOk_iff {bs : List Byte} {n : Nat} : s.succOk (succNids bs n) = true ↔
    ∀ i < n, ∃ x, s.node? (num bs (4 * i) 4) = some x ∧ x.state = .waiting ∧ x.failing = none := by
  simp [State.succOk, succNids, Option.any_eq_true]

/-- A field is in order where what is asked at its offset holds. -/
theorem fieldOk_iff {host spent : Bool} {l : Launch} {off : Nat} :
    l.fieldOk s host spent off ↔ s.fieldRules host spent l off := by
  unfold Launch.fieldOk
  split
  · rw [State.fieldRules, rulesHold_own (i := 0) rfl (by decide)]
    simp [Launch.headed]
  · rw [fieldRules_own (i := 1) rfl (by decide) (by decide)]
    simp [Option.any_eq_false, and_assoc]
  · rw [fieldRules_own (i := 2) rfl (by decide) (by decide)]
    simp
  · rw [State.fieldRules, rulesHold_own (i := 3) rfl (by decide)]
    simp [Launch.headed]
  · rw [fieldRules_own (i := 4) rfl (by decide) (by decide)]
    simp [specStages_eq, and_assoc]
  · rw [fieldRules_own (i := 5) rfl (by decide) (by decide)]
    exact roleRule_iff.symm
  · rw [fieldRules_own (i := 6) rfl (by decide) (by decide)]
    exact crewRule_iff.symm
  · rw [fieldRules_own (i := 7) rfl (by decide) (by decide)]
    simp
  · rw [fieldRules_own (i := 8) rfl (by decide) (by decide)]
    simp only [Bool.and_eq_true, decide_eq_true_eq, beq_iff_eq, and_assoc]
    simp [bitsOf]
  · rw [fieldRules_own (i := 9) rfl (by decide) (by decide)]
    simp [bitsOf]
  · rw [fieldRules_own (i := 10) rfl (by decide) (by decide)]
    simp [and_assoc]
  · rw [fieldRules_own (i := 11) rfl (by decide) (by decide)]
    simp
  · rw [fieldRules_own (i := 12) rfl (by decide) (by decide)]
    simp
  · rw [fieldRules_own (i := 13) rfl (by decide) (by decide)]
    simp
  · rw [fieldRules_own (i := 14) rfl (by decide) (by decide)]
    simp
  · rw [fieldRules_own (i := 15) rfl (by decide) (by decide)]
    simp only [decide_eq_true_eq]
    rfl
  · rw [fieldRules_pointed (i := 16) (j := 0) rfl rfl (by decide)]
    simp [succOk_iff, specNsucc]
    tauto
  · rw [fieldRules_pointed (i := 17) (j := 1) rfl rfl (by decide)]
    simp
    grind
  · rw [fieldRules_own (i := 18) rfl (by decide) (by decide)]
    rfl
  · rw [fieldRules_own (i := 19) rfl (by decide) (by decide)]
    rfl
  · rw [fieldRules_own (i := 20) rfl (by decide) (by decide)]
    rfl
  · rw [fieldRules_own (i := 21) rfl (by decide) (by decide)]
    rfl
  · rw [fieldRules_own (i := 22) rfl (by decide) (by decide)]
    simp
  · exact iff_of_true trivial (fieldRules_free (by simp; grind))

/-- Where the header is not read some rule is broken: IMAGE, EXT, or what stands in the extension block. -/
theorem headed_of_rules {host : Bool} {l : Launch} (h : ∀ off, s.rulesHold host l off) : l.headed := by
  have himage : (num l.sp 0 8 % 64 == 0) = true := (rulesHold_own (i := 0) rfl (by decide)).1 (h 0)
  obtain ⟨hown, hpointed⟩ := (fieldRules_pointed (spent := true) (i := 17) (j := 1) rfl rfl (by decide)).1
    ((fieldRules_headless (by decide)).2 (h 80))
  simp only [Bool.and_eq_true] at hpointed
  obtain ⟨⟨-, hext⟩, -⟩ := hpointed
  refine ⟨by simpa using himage, by simpa using hown, fun hnil => ?_, rangesOk_of_extOk hext⟩
  rw [hnil, extOk_nil] at hext
  cases hext

/-- The image header is read where no rule of its own stands in the way (log 66). -/
theorem headed_iff {host : Bool} {l : Launch} :
    ¬((firstBroken ((s.specRules host l.sp).filter fun x => x.1 = 80 || x.1 = 0)).isSome ∨ l.ext = [] ∨ !rangesOk l.ext) ↔
      l.headed := by
  have hrules : (s.specRules host l.sp).filter (fun x => x.1 = 80 || x.1 = 0) =
      [(0, num l.sp 0 8 % 64 == 0), (80, num l.sp 80 8 % 64 == 0)] := by
    simp [State.specRules]
  have hfirst : ¬(firstBroken [(0, num l.sp 0 8 % 64 == 0), (80, num l.sp 80 8 % 64 == 0)]).isSome ↔
      num l.sp 0 8 % 64 = 0 ∧ num l.sp 80 8 % 64 = 0 := by
    simp [firstBroken]
  rw [hrules, not_or, not_or, hfirst, Launch.headed, and_assoc]
  simp

/-! ### The judgement (R366, R367) -/

section
variable {host spent : Bool} {l : Launch}

theorem judge_headless (h : ¬l.headed) : s.judge host spent l = .refuse ((s.firstOffset host l).getD 0) := 
  if_pos (not_not.1 (mt headed_iff.1 h))

section
variable (hl : l.headed)
include hl

theorem judge_busy (h : s.readHeader spent l = none) : s.judge host spent l = .busy := by
  simp only [State.judge, if_neg (headed_iff.2 hl), h]

theorem judge_named {c : Nat} (h : s.readHeader spent l = some (.inl c)) :
    s.judge host spent l = .refuse ((s.firstOffset host l).elim c fun x => min x c) := by
  simp only [State.judge, if_neg (headed_iff.2 hl), h]
  show Judged.refuse (match s.firstOffset host l with | some x => min x c | none => c) = _
  cases s.firstOffset host l <;> rfl

theorem judge_read {entry : DWord} (h : s.readHeader spent l = some (.inr entry)) :
    s.judge host spent l = (s.firstOffset host l).elim (.accept entry) .refuse := by
  simp only [State.judge, if_neg (headed_iff.2 hl), h]
  show (match s.firstOffset host l with | some code => Judged.refuse code | none => Judged.accept entry) = _
  cases s.firstOffset host l <;> rfl

end

/-- The image header counts with the rules: the lesser offset is the first. -/
theorem fieldRules_named (hl : l.headed) {c code : Nat} (hr : s.readHeader spent l = some (.inl c))
    (hcode : (s.firstOffset host l).elim c (fun x => min x c) = code) :
    ¬s.fieldRules host spent l code ∧ ∀ k < code, s.fieldRules host spent l k := by
  have hhead {k : Nat} (hk : k < c) : s.readHeader spent l ≠ some (.inl k) := by
    rw [hr]
    simpa using hk.ne'
  cases hf : s.firstOffset host l with
  | none =>
    rw [hf] at hcode
    obtain rfl : c = code := hcode
    exact ⟨fun hc => hc.2 hl hr, fun k hk => ⟨firstOffset_none hf k, fun _ => hhead hk⟩⟩
  | some x =>
    rw [hf] at hcode
    obtain rfl : min x c = code := hcode
    obtain ⟨hbroken, hbelow⟩ := firstOffset_some hf
    refine ⟨fun hc => ?_, fun k hk => ⟨hbelow k (by omega), fun _ => hhead (by omega)⟩⟩
    rcases Nat.le_total x c with hle | hle
    · rw [Nat.min_eq_left hle] at hc
      exact hbroken hc.1
    · rw [Nat.min_eq_right hle] at hc
      exact hc.2 hl hr

/-- Where the image header names nothing the first broken rule is the first field that is not in order. -/
theorem fieldRules_first (hr : l.headed → ∀ k, s.readHeader spent l ≠ some (.inl k)) {code : Nat}
    (hf : s.firstOffset host l = some code) :
    ¬s.fieldRules host spent l code ∧ ∀ k < code, s.fieldRules host spent l k := by
  obtain ⟨hbroken, hbelow⟩ := firstOffset_some hf
  exact ⟨fun hc => hbroken hc.1, fun k hk => ⟨hbelow k hk, fun hl => hr hl k⟩⟩

/-- A refusal names the first field that is not in order. -/
theorem judge_refuse {code : Nat} (h : s.judge host spent l = .refuse code) :
    ¬s.fieldRules host spent l code ∧ ∀ k < code, s.fieldRules host spent l k := by
  by_cases hl : l.headed
  · cases hr : s.readHeader spent l with
    | none => rw [judge_busy hl hr] at h; cases h
    | some r =>
      cases r with
      | inl c =>
        rw [judge_named hl hr] at h
        exact fieldRules_named hl hr (Judged.refuse.inj h)
      | inr entry =>
        rw [judge_read hl hr] at h
        cases hf : s.firstOffset host l with
        | none => rw [hf] at h; cases h
        | some x =>
          rw [hf] at h
          obtain rfl : x = code := Judged.refuse.inj h
          exact fieldRules_first (fun _ k => by rw [hr]; nofun) hf
  · rw [judge_headless hl] at h
    cases hf : s.firstOffset host l with
    | none => exact absurd (headed_of_rules (firstOffset_none hf)) hl
    | some x =>
      rw [hf] at h
      obtain rfl : x = code := Judged.refuse.inj h
      exact fieldRules_first (fun hc => absurd hc hl) hf

theorem judge_accept {entry : DWord} (h : s.judge host spent l = .accept entry) (k : Nat) : s.fieldRules host spent l k := by
  by_cases hl : l.headed
  · cases hr : s.readHeader spent l with
    | none => rw [judge_busy hl hr] at h; cases h
    | some r =>
      cases r with
      | inl c => rw [judge_named hl hr] at h; cases h
      | inr e =>
        rw [judge_read hl hr] at h
        cases hf : s.firstOffset host l with
        | none => exact ⟨firstOffset_none hf k, fun _ => by rw [hr]; nofun⟩
        | some x => rw [hf] at h; cases h
  · rw [judge_headless hl] at h
    cases h

end

/-! ### The manifest (R384) -/

/-- A code names the first field of a manifest that differs, none where it is 0, and code 7 the first entry of MAP. -/
def State.FirstDiffers (s : State) (m sp : List Byte) (code e : Nat) : Prop :=
  (∀ k, 1 ≤ k → k < code → s.manifestField m sp k) ∧ (code = 0 → ∀ k, s.manifestField m sp k) ∧
    (code ≠ 0 → ¬s.manifestField m sp code) ∧
    (code = 7 → num m (96 + 2 * e) 2 ≠ s.coreMap.getD e 0 ∧ ∀ j < e, num m (96 + 2 * j) 2 = s.coreMap.getD j 0)

/-- The first `c` fields of a manifest equal what they are compared against. -/
def State.SameTo (s : State) (m sp : List Byte) (c : Nat) : Prop := ∀ k, 1 ≤ k → k ≤ c → s.manifestField m sp k

section
variable {m sp : List Byte} {c code e : Nat}

theorem sameTo_zero : s.SameTo m sp 0 := fun k h1 h0 => by omega

theorem State.SameTo.succ (h : s.SameTo m sp c) (hc : s.manifestField m sp (c + 1)) : s.SameTo m sp (c + 1) :=
  fun k h1 hk => (Nat.le_or_eq_of_le_succ hk).elim (h k h1) fun he => he ▸ hc

/-- The comparison ends at the next field, or that field agrees too and the comparison goes on. -/
theorem State.SameTo.step {q : Prop} [Decidable q] {r : Nat × Nat} (h : s.SameTo m sp c)
    (hcode : (if q then (c + 1, 0) else r) = (code, e)) (hq : ¬q ↔ s.manifestField m sp (c + 1)) (hc : c ≠ 6)
    (hrest : s.SameTo m sp (c + 1) → r = (code, e) → s.FirstDiffers m sp code e) : s.FirstDiffers m sp code e := by
  split at hcode
  next hdiff =>
    cases hcode
    exact ⟨fun k h1 hk => h k h1 (by omega), nofun, fun _ hf => hq.2 hf hdiff, fun h7 => absurd h7 (by omega)⟩
  next hsame => exact hrest (h.succ (hq.1 hsame)) hcode

/-- A manifest has eight fields. -/
theorem State.SameTo.all (h : s.SameTo m sp 8) (k : Nat) : s.manifestField m sp k := by
  by_cases hk : 1 ≤ k ∧ k ≤ 8
  · exact h k hk.1 hk.2
  · unfold State.manifestField
    split <;> trivial

/-- The comparison takes the fields in order, and the entries of MAP in theirs. -/
theorem compareManifest_first (h : s.compareManifest m sp = (code, e)) : s.FirstDiffers m sp code e := by
  unfold State.compareManifest at h
  refine sameTo_zero.step h (not_or.trans (and_congr not_not not_not)) (by decide) fun h1 h => ?_
  refine h1.step h not_not (by decide) fun h2 h => ?_
  refine h2.step h (by simp [State.manifestField, bitsOf]) (by decide) fun h3 h => ?_
  refine h3.step h not_not (by decide) fun h4 h => ?_
  refine h4.step h not_not (by decide) fun h5 h => ?_
  refine h5.step h not_not (by decide) fun h6 h => ?_
  dsimp only at h
  split at h
  next j hmap =>
    obtain ⟨hdiff, hj, hbelow⟩ := List.find?_range_eq_some.1 hmap
    cases h
    exact ⟨fun k h1 hk => h6 k h1 (by omega), nofun, fun _ hall => of_decide_eq_true hdiff (hall e (List.mem_range.1 hj)),
      fun _ => ⟨of_decide_eq_true hdiff, fun i hi => by simpa using hbelow i hi⟩⟩
  next hmap =>
    have h7 : s.SameTo m sp 7 := h6.succ fun k hk => by simpa using List.find?_eq_none.1 hmap k (List.mem_range.2 hk)
    refine h7.step h not_not (by decide) fun h8 h => ?_
    cases h
    exact ⟨fun k h1 h0 => h8 k h1 (by omega), fun _ => h8.all, fun h => absurd rfl h, nofun⟩

section
variable {mani spec : Nat}

theorem manifestCompare_read
    (hm : (s.readIa mani 608).orSpent (s.spent (.manifest mani)) = .ok m)
    (hsp : (s.readIa spec 128).orSpent (s.spent (.manifest spec)) = .ok sp) :
    manifestCompare s mani spec = ((s.triesDone (.manifest mani)).triesDone (.manifest spec)).tell
      (.manifest (s.compareManifest m sp).1 (s.compareManifest m sp).2) := by
  simp [manifestCompare, hm, hsp]

theorem manifestCompare_busy {ia : Nat} (h : (s.readIa mani 608).orSpent (s.spent (.manifest mani)) = .busy ia) :
    manifestCompare s mani spec =
      { s.tryAgain (.manifest mani) with agenda := s.agenda ++ [.compareManifest mani spec] } := by
  simp [manifestCompare, h]

end

end

/-! ### Signals and task rings (R371, R374) -/

/-- A signal on its way reaches its node, which is runnable once the last has come. -/
theorem signalArrives_node {k : Nat} {x : Signal} {n : Node} (hx : s.signals[k]? = some x) (hn : s.node? x.nid = some n) :
    let t : State := { s with signals := dropAt k s.signals }
    signalArrives s k =
      if n.counter = 0 then t.setFlag x.nid 16
      else
        let u := t.setNode { n with counter := n.counter - 1 }
        if n.counter = 1 ∧ n.state = .waiting ∧ n.failing = none then u.nodeState x.nid .runnable else u := by
  intro t
  have ht : t.node? x.nid = some n := hn
  rw [signalArrives, hx]
  show t.signal x.nid = _
  rw [State.signal, ht]

theorem refill_entry {core : Nat} {n : Node} {bs : List Byte} (hroom : (s.core core).queue.length < Config.taskQueue)
    (hn : (sortOn Node.ctx (s.allNodes.filter fun n => n.open_ && (n.ring core).used != 0)).head? = some n)
    (hread : s.readOwn n .both (n.ringVa core (n.ring core).rh) 32 = .ok bs) :
    refill s core = ((s.triesDone (.ring n.spec.nid core)).setNode
      (n.setRing { n.ring core with rh := ((n.ring core).rh + 1) % 2 ^ 32 })).onCore core fun c =>
        { c with queue := c.queue ++ [⟨n.spec.nid, cellsOfBytes 8 bs⟩] } := by
  rw [refill, if_neg (by omega), hn]
  simp [hread, ReadRes.orSpent]

/-! ### Continuations (R376) -/

section
variable {nid k : Nat} {n : Node} {c : Cont} {bs : List Byte} (hn : s.node? nid = some n) (hc : n.conts[k]? = some c)
include hn hc

theorem contResume_takes (htaken : c.taken = false) (hread : s.readVa n .load c.va.toNat 80 = .ok bs) :
    contResume s nid k = (s.triesDone (.record nid c.va.toNat)).contTake n k c := by
  simp [contResume, hn, hc, htaken, hread, ReadRes.orSpent]

theorem contResume_waits (htaken : c.taken = true) (hready : s.contReady c = false) : contResume s nid k = s := by
  simp [contResume, hn, hc, htaken, hready]

section
variable (htaken : c.taken = true) (hready : s.contReady c = true)
include htaken hready

theorem contResume_goes (hread : s.readVa n .load c.va.toNat 80 = .ok bs) :
    contResume s nid k = (s.triesDone (.record nid c.va.toNat)).contGoes n k c bs := by
  simp [contResume, hn, hc, htaken, hready, hread, ReadRes.orSpent]

theorem contResume_fails {code sub ia : Nat} (hread : s.readVa n .load c.va.toNat 80 = .fail code sub ia) :
    contResume s nid k = (s.triesDone (.record nid c.va.toNat)).nodeFails c.who 0#64 code sub c.va ia := by
  simp [contResume, hn, hc, htaken, hready, hread, ReadRes.orSpent]

end

end

theorem recordPut_ok {n : Node} {c : Cont} {ia : Nat} {tr : Bool} (h : s.xlat n c.va.toNat 80 .load = .ok ia tr) (bs : List Byte) :
    s.recordPut n c bs = s.deviceWrite (ia + 11) bs := by
  unfold State.recordPut
  rw [h]

/-! ### RED batches (R267) -/

/-- In a list that rises by a key, what comes before the first hit has missed. -/
theorem find?_sorted {α : Type} {key : α → Nat} {l : List α} {p : α → Bool} {x y : α}
    (hl : l.Pairwise fun a b => key a ≤ key b) (hx : l.find? p = some x) (hy : y ∈ l) (hlt : key y < key x) : p y = false := by
  obtain ⟨-, before, after, rfl, hbefore⟩ := List.find?_eq_some_iff_append.1 hx
  rw [List.pairwise_append, List.pairwise_cons] at hl
  obtain ⟨-, ⟨hafter, -⟩, -⟩ := hl
  rcases List.mem_append.1 hy with hb | ha
  · simpa using hbefore y hb
  · rcases List.mem_cons.1 ha with rfl | ha
    · omega
    · have := hafter y ha
      omega

/-- The next batch is that of a gang whose accesses have performed, and every lower GID of the node has had its batch. -/
theorem nextBatch_some {n : Node} {g : Gang} (h : s.nextBatch n = some g) :
    g ∈ s.allGangs ∧ g.nid = n.spec.nid ∧ s.redsReady g = true ∧ g.gid ∉ n.batched ∧
      ∀ x ∈ s.allGangs, x.nid = n.spec.nid → x.gid < g.gid → x.gid ∈ n.batched := by
  have hmem (x : Gang) : x ∈ s.gangsOf n.spec.nid ↔ x ∈ s.allGangs ∧ x.nid = n.spec.nid := by
    simp [State.gangsOf, mem_sortOn]
  unfold State.nextBatch at h
  dsimp only at h
  split at h
  · cases h
  next x hx =>
    obtain ⟨hgo, hxg⟩ := Option.ite_none_right_eq_some.1 h
    obtain rfl : x = g := Option.some.inj hxg
    obtain ⟨hin, hnid⟩ := (hmem x).1 (List.mem_of_find?_eq_some hx)
    refine ⟨hin, hnid, (Bool.and_eq_true_iff.1 hgo).1, by simpa using List.find?_some hx, fun y hy hny hlt => ?_⟩
    simpa using find?_sorted (sortOn_sorted Gang.gid _) hx ((hmem y).2 ⟨hy, hny⟩) hlt

section
variable {nid : Nat} {n : Node} {g : Gang} (hn : s.node? nid = some n) (hdet : n.spec.det = true) (hlive : n.failing = none)
  (hnext : s.nextBatch n = some g)
include hn hdet hlive hnext

theorem batchApply_empty (h : g.held = []) :
    batchApply s nid = s.onNode nid fun n => { n with batched := n.batched ++ [g.gid] } := by
  simp [batchApply, hn, hdet, hlive, hnext, h, batchOrder, sortOn]

theorem batchApply_first {h : HeldRed} {rest : List HeldRed} (horder : batchOrder g.held = h :: rest) :
    batchApply s nid = s.applyRed g h := by
  simp [batchApply, hn, hdet, hlive, hnext, horder]

end

section
variable {g : Gang} {h : HeldRed}

/-- The state in which a RED meets its home: its lines have left the L1 of the core that issued it. -/
def State.redLeft (s : State) (h : HeldRed) : State :=
  (linesOf h.ia (redSize h.op)).foldl (fun u ln => u.flushLine h.core ln) s

variable (hfree : ((linesOf h.ia (redSize h.op)).any fun ln => (s.redLeft h).inFlight h.core ln) = false)
include hfree

theorem applyRed_lost (hreach : (s.redLeft h).reaches h.core h.ia = false) :
    s.applyRed g h = ((s.redLeft h).tell (.lostWrite h.ia g.nid g.gid h.cid)).redGone g h := by
  rw [State.redLeft] at hfree hreach
  simp only [State.applyRed, hfree, hreach]
  rfl

theorem applyRed_written {u v : State} {old : List Byte} (hreach : (s.redLeft h).reaches h.core h.ia = true)
    (hup : (s.redLeft h).pathUp h.core h.ia = true) (hwalk : (s.redLeft h).walkRun h.ia (redSize h.op) .both = (none, u))
    (hgood : u.badRun h.ia (redSize h.op) = false) (hbytes : u.homeBytes h.ia (redSize h.op) = (some old, v)) :
    s.applyRed g h = State.redGone
      ((v.homeWrite h.ia (leBytes (redSize h.op) (redNew h.op (leNat old) h.data))).2.sentTo h.core h.ia) g h := by
  rw [State.redLeft] at hfree hreach hup hwalk
  simp [State.applyRed, hfree, hreach, hup, hwalk, hgood, hbytes]

end

end

/-- Settles O54: launch queues by `serveQueue` and the judgement of a launch by what is asked at each offset, the manifest by
its first field that differs, and the other steps by their lemmas. -/
theorem nodeSteps : Obligations.NodeSteps := by
  unfold Obligations.NodeSteps
  intro s hoff
  refine ⟨fun q tail => exec_launchQueueTailWrite hoff q tail, fun q sp l hlow hne => ?_,
    fun host spent l => ⟨fun code h => ?_, fun entry h k => ?_⟩,
    fun mani spec => ?_, fun m sp code e h => ?_, fun k x n hx hn => ?_, fun core n bs hroom hn hread => ?_,
    fun nid k n c hn hc => ?_, fun n g h => nextBatch_some h, fun nid n g hn hdet hlive hnext => ?_⟩
  · intro addr key spent passed
    refine ⟨fun f a ia h => ?_, fun hsp hread => ?_⟩
    · rw [exec_nodeSpecAccept hoff, specAccept_first hlow (serveQueue_busyRead hne h)]
    · obtain ⟨rfl, h0⟩ := readLaunch_ok (by simp only [hsp, ReadRes.orSpent] : _ = ReadRes.ok sp) hread
      refine ⟨fun h => ?_, fun code h => ?_, fun entry ctx h hctx => ?_⟩
      · rw [exec_nodeSpecAccept hoff, specAccept_first hlow (serveQueue_busyHeader hne hread h0 h)]
      · rw [exec_nodeSpecAccept hoff, specAccept_first hlow (serveQueue_refused hne hread h0 h)]
        rfl
      · rw [exec_nodeSpecAccept hoff, specAccept_first hlow (serveQueue_accepted hne hread h0 h hctx)]
        rfl
  · obtain ⟨hbroken, hbelow⟩ := judge_refuse h
    exact ⟨mt fieldOk_iff.1 hbroken, fun k hk => fieldOk_iff.2 (hbelow k hk)⟩
  · exact fieldOk_iff.2 (judge_accept h k)
  · intro rd done
    refine ⟨fun m sp hm hsp => ?_, fun e h => ?_⟩
    · rw [exec_compareManifest hoff, manifestCompare_read hm hsp]
    · rw [exec_compareManifest hoff, manifestCompare_busy h]
  · exact compareManifest_first h
  · intro t
    rw [exec_dependenceSignal hoff, signalArrives_node hx hn]
  · rw [exec_taskQueueRefill hoff, refill_entry hroom hn hread]
  · obtain rfl := State.node?_nid hn
    intro s'
    refine ⟨fun bs htaken hread => ?_, fun htaken hready => ?_, fun bs htaken hready hread => ?_,
      fun code sub ia htaken hready hread => ?_, fun t bs ia tr h => recordPut_ok h bs⟩
    · rw [exec_continuationResume hoff, contResume_takes hn hc htaken hread]
      rfl
    · rw [exec_continuationResume hoff, contResume_waits hn hc htaken hready]
    · rw [exec_continuationResume hoff, contResume_goes hn hc htaken hready hread]
      rfl
    · rw [exec_continuationResume hoff, contResume_fails hn hc htaken hready hread]
  · refine ⟨fun h => ?_, fun h rest horder => ?_⟩
    · rw [exec_redBatchApply hoff, batchApply_empty hn hdet hlive hnext h]
    · intro z t gone hfree
      have hfirst := batchApply_first hn hdet hlive hnext horder
      refine ⟨fun hreach => ?_, fun u v old hreach hup hwalk hgood hbytes => ?_⟩
      · rw [exec_redBatchApply hoff, hfirst, applyRed_lost hfree hreach]
        rfl
      · rw [exec_redBatchApply hoff, hfirst, applyRed_written hfree hreach hup hwalk hgood hbytes]
        rfl

end Sys2Proof.Machine
end

section
/-!
PROOFS of the steps of a gang's engines (13 R270 to R272, 16 R314 to R316, R323, R325, R333, 17 R344, R350, R353): copy operations,
copies of a fibre, and the matrix engine.
-/
namespace Sys2Proof.Machine

section
variable {s t : State} {nid gid x core seq : Nat} {g : Gang} {n : Node} {o : CopyOp}

/-! ### An operation starts, and goes on when nothing holds it (R315, R316, R344) -/

section
variable (hg : s.gang? nid gid = some g) (hn : s.node? nid = some n) (hcore : g.core? = some core)
include hg hn hcore

theorem copyStart_first (ho : ((g.ctxAt x).ops.find? fun o => !o.started) = some o)
    (hcbk : (Block.of o.block).fmt = 7 → ∀ e ∈ (g.ctxAt x).ops, ¬(e.form = formCbk ∧ e.seq < o.seq)) :
    copyStart s nid gid x = s.onCopy g x o.seq fun e => { e with
      started := true
      stale := s.staleRuns n ((Block.of o.block).firstRuns o.form (g.indexList (Block.of o.block) o.form))
      cbt := (g.ctxAt x).cbt
      known := distinct (((Block.of o.block).firstRuns o.form (g.indexList (Block.of o.block) o.form)).filterMap Run.slot) } := by
  have hgo : ¬((Block.of o.block).fmt = 7 ∧
      ((g.ctxAt x).ops.any fun e => e.form = formCbk && decide (e.seq < o.seq)) = true) := by
    simpa [List.any_eq_true] using hcbk
  simp only [copyStart, hg, hn, hcore, ho, if_neg hgo]

theorem copyComplete_started (ho : ((g.ctxAt x).ops.find? fun o => o.seq = seq) = some o) (hstarted : o.started = true)
    (hpaged : o.paged = false) (hcbk : o.form = formCbk → ∀ e ∈ (g.ctxAt x).ops, ¬(e.form = formCbk ∧ e.seq < o.seq)) :
    copyComplete s nid gid x seq = if o.stale then s.copyEnds g x o 5 else s.copyStep n g core x o := by
  have hgo : ¬(!o.started ∨ o.paged) := by simp [hstarted, hpaged]
  have hfirst : ¬(o.form = formCbk ∧
      ((g.ctxAt x).ops.any fun e => e.form = formCbk && decide (e.seq < o.seq)) = true) := by
    simpa [List.any_eq_true] using hcbk
  simp only [copyComplete, hg, hn, hcore, ho, if_neg hgo, if_neg hfirst]

end

/-- The host resumes an operation that waits on a page (R316). -/
theorem copyPageResume_paged (hg : s.gang? nid gid = some g) (h : ∃ o ∈ (g.ctxAt x).ops, o.seq = seq ∧ o.paged = true) :
    Sys2Proof.Machine.copyPageResume s nid gid x seq = s.onCopy g x seq fun o => { o with paged := false } := by
  have hany : ((g.ctxAt x).ops.any fun o => o.seq = seq && o.paged) = true := by
    simpa [List.any_eq_true] using h
  simp only [Sys2Proof.Machine.copyPageResume, hg, hany, if_true]

/-! ### The moves of an operation (R271, R272, R344) -/

theorem versionRun_plain {b : Block} {form : Nat} (ha : form ≠ formAtom) (hc : form ≠ formCons) : b.versionRun form = [] := by
  simp [Block.versionRun, ha, hc]

theorem versionRun_atom {b : Block} : b.versionRun formAtom = [⟨b.aux, 8, .both, true⟩] := rfl

theorem versionRun_cons {b : Block} : b.versionRun formCons = [⟨b.aux, 8, .load, true⟩] := rfl

/-- The checks of an operation have passed: its tries are spent no more. -/
def State.copyChecked (t : State) (g : Gang) (x : Nat) (o : CopyOp) : State := t.triesDone (.copy g.nid g.gid x o.seq)

/-- The runs that a part writes, at their IAs. -/
def Block.writes (b : Block) (form : Nat) (idx : List Nat) (row : Nat) (ias : List Nat) : List (Nat × Nat) :=
  ((ias.zip (b.partRuns form idx row)).filter fun y => y.2.need.w).map fun y => (y.1, y.2.size)

section
variable {v : Nat} {ias : List Nat} (hphase : o.phase = .moving v) (hrow : o.row < (Block.of o.block).parts o.form)
  (hruns : s.checkRuns n core o.known
    ((Block.of o.block).partRuns o.form (g.indexList (Block.of o.block) o.form) o.row) = (.ok ias, t))
include hphase hrow hruns

/-- A part is moved, or the operation is torn where a part of an `s2g.atom` is lost. -/
theorem copyStep_part :
    let u := t.copyChecked g x o
    let b := Block.of o.block
    let runs := b.partRuns o.form (g.indexList b o.form) o.row
    let writes := b.writes o.form (g.indexList b o.form) o.row ias
    let torn := o.form = formAtom ∧ ∃ y ∈ writes, t.reachesRun core y.1 y.2 = false
    (torn → s.copyStep n g core x o = u.copyTorn g core x o writes) ∧
    (¬torn → s.copyStep n g core x o = (u.movePart g core x o ias).onCopy g x o.seq fun e => { e with
      row := e.row + 1
      known := distinct (e.known ++ runs.filterMap Run.slot)
      homes := distinct (e.homes ++ u.homesOf writes) }) := by
  intro u b runs writes torn
  have hreaches : u.reachesRun core = t.reachesRun core := rfl
  have hiff : (o.form = formAtom ∧ !(writes.all fun y => u.reachesRun core y.1 y.2)) ↔ torn := by
    simp [torn, hreaches, List.all_eq_false]
  simp only [State.copyStep, hphase, if_pos hrow, hruns]
  exact ⟨fun h => if_pos (hiff.2 h), fun h => if_neg (mt hiff.1 h)⟩

end

theorem copyStep_torn (hphase : o.phase = .torn) (hmark : s.marking g x o.seq = false) :
    s.copyStep n g core x o = s.copyEnds g x o 3 := by
  simp [State.copyStep, hphase, hmark]

/-- Every part of an operation without a version check at its end is moved. -/
theorem copyStep_moved {v : Nat} (hphase : o.phase = .moving v) (hrow : (Block.of o.block).parts o.form ≤ o.row)
    (hform : o.form ≠ formCons) :
    s.copyStep n g core x o =
      if toSpad o.form = true ∨ o.form = formCbk then s.copyEnds g x o 0 else s.markCopy g core x o v := by
  simp only [State.copyStep, hphase, if_neg (Nat.not_lt.2 hrow), if_neg hform, State.copyMoved]

theorem copyStep_flushed {v : Nat} (hphase : o.phase = .flushing v) (hform : o.form ≠ formAtom)
    (hmark : s.marking g x o.seq = false) : s.copyStep n g core x o = s.copyEnds g x o 0 := by
  simp [State.copyStep, hphase, hmark, hform]

theorem copyStep_begins (hphase : o.phase = .begin) (ha : o.form ≠ formAtom) (hc : o.form ≠ formCons) :
    s.copyStep n g core x o =
      (s.copyChecked g x o).onCopy g x o.seq fun e => { e with phase := .moving 0, row := 0 } := by
  simp only [State.copyStep, hphase, versionRun_plain ha hc, State.checkRuns]
  rfl

/-! ### `s2g.atom` and its version word (R271) -/

section
variable {ia : Nat} (hform : o.form = formAtom)
  (hruns : s.checkRuns n core o.known [⟨(Block.of o.block).aux, 8, .both, true⟩] = (.ok [ia], t))
include hform hruns

theorem copyStep_atom_begins (hphase : o.phase = .begin) :
    let u := t.copyChecked g x o
    s.copyStep n g core x o = if u.versionAt ia % 2 = 1 then u.copyEnds g x o 2
      else u.onCopy g x o.seq fun e => { e with phase := .looked (u.versionAt ia), row := 0 } := by
  simp only [State.copyStep, hphase, hform, versionRun_atom, hruns]
  exact if_pos hform

theorem copyStep_atom_claims {v : Nat} (hphase : o.phase = .looked v) :
    let u := t.copyChecked g x o
    s.copyStep n g core x o = if u.versionAt ia ≠ v then u.copyEnds g x o 2
      else (u.engineWrite core g.nid g.gid o.crew ia (leBytes 8 (v + 1))).onCopy g x o.seq fun e =>
        { e with phase := .moving v, homes := u.homesOf [(ia, 8)] } := by
  simp only [State.copyStep, hphase, hform, versionRun_atom, hruns]
  rfl

theorem copyStep_atom_releases {v : Nat} (hphase : o.phase = .flushing v) (hmark : s.marking g x o.seq = false) :
    s.copyStep n g core x o = ((t.copyChecked g x o).engineWrite core g.nid g.gid o.crew ia
      (leBytes 8 ((v + 2) % 2 ^ 64))).copyEnds g x o 0 := by
  simp only [State.copyStep, hphase, hmark, hform, versionRun_atom, hruns]
  rfl

end

/-! ### `g2s.cons` and its attempts (R272) -/

section
variable {ia : Nat} (hform : o.form = formCons)
  (hruns : s.checkRuns n core o.known [⟨(Block.of o.block).aux, 8, .load, true⟩] = (.ok [ia], t))
include hform hruns

theorem copyStep_cons_begins (hphase : o.phase = .begin) :
    let u := t.copyChecked g x o
    s.copyStep n g core x o = if u.versionAt ia % 2 = 1 then (u.acquire core 4).copyAgain g x o
      else (u.acquire core 4).onCopy g x o.seq fun e => { e with phase := .moving (u.versionAt ia), row := 0 } := by
  have ha : o.form ≠ formAtom := by rw [hform]; decide
  simp only [State.copyStep, hphase, hform, versionRun_cons, hruns]
  exact if_neg ha

theorem copyStep_cons_moved {v : Nat} (hphase : o.phase = .moving v) (hrow : (Block.of o.block).parts o.form ≤ o.row) :
    let u := t.copyChecked g x o
    s.copyStep n g core x o = if u.versionAt ia = v then u.copyEnds g x o 0 else u.copyAgain g x o := by
  simp only [State.copyStep, hphase, if_neg (Nat.not_lt.2 hrow), if_pos hform]
  rw [hform, versionRun_cons, hruns]
  exact if_pos hform

end

/-! ### What a move leaves (R270, R316, R344) -/

/-- A row of `g2g` is written as the engine reads it. -/
theorem movePart_g2g {from_ into : Nat} (hform : o.form = formG2g) (hfmt : (Block.of o.block).fmt = 0) :
    s.movePart g core x o [from_, into] =
      s.engineWrite core g.nid g.gid o.crew into ((s.engineBytes core from_ (Block.of o.block).len).1.getD []) := by
  have hcbk : o.form ≠ formCbk := by rw [hform]; decide
  have hparts : (Block.of o.block).partRuns o.form (g.indexList (Block.of o.block) o.form) o.row =
      [.source ((Block.of o.block).ga + o.row * (Block.of o.block).gp) (Block.of o.block).len,
        ⟨(Block.of o.block).aux + o.row * (Block.of o.block).so, (Block.of o.block).len, .store, false⟩] := by
    rw [hform]
    simp [Block.partRuns, hfmt, formG2g, formCbk, formS2g, formAtom]
  simp only [State.movePart, if_neg hcbk, hfmt, hparts]
  simp [hform, Run.source, State.readRow, formG2g, formCons]

/-- The markers of an operation other than `s2g.atom` go to the homes that it has written, but its own die's. -/
theorem markCopy_plain (hform : o.form ≠ formAtom) (v : Nat) : s.markCopy g core x o v =
    State.onCopy { s with flight := s.flight ++
      [⟨core, .engineMarker g.nid g.gid x o.seq (o.homes.filter fun h => h != s.dieOf core), 0, []⟩] } g x o.seq fun e =>
        { e with phase := .flushing v } := by
  simp [State.markCopy, hform]

/-- Granules of a destination in the scratchpad are set with done or torn alone. -/
theorem copyEnds_plain {status : Nat} (h1 : status ≠ 1) (h0 : status = 0 → toSpad o.form = false) :
    s.copyEnds g x o status = s.onGang g.nid g.gid fun h => h.onCtx x fun c => c.complete o.seq status := by
  have hgran : ¬(toSpad o.form = true ∧ status ≤ 1) := fun ⟨hspad, hle⟩ => by
    rw [h0 (by omega)] at hspad
    cases hspad
  simp only [State.copyEnds, if_neg hgran]

section
variable (c : CopyCtx) (status : Nat)

theorem complete_completed_last (h : (c.ops.filter fun o => o.seq ≠ seq) = []) :
    (c.complete seq status).completed = c.issued := by
  simp only [CopyCtx.complete, h]

theorem complete_completed_next {rest : List CopyOp} (h : (c.ops.filter fun o => o.seq ≠ seq) = o :: rest) :
    (c.complete seq status).completed = o.seq - 1 := by
  simp only [CopyCtx.complete, h]

theorem complete_stat_done : (c.complete seq 0).stat = c.stat := rfl

variable {status} (hstatus : status ≠ 0)
include hstatus

/-- The first failure is kept in STAT with its status and number. -/
theorem complete_stat_first (h : c.stat.extractLsb' 8 8 = 0#8) : (c.complete seq status).stat =
    c.stat ||| BitVec.ofNat 32 (2 ^ (status - 1)) ||| BitVec.ofNat 32 (256 * status + 65536 * (seq % 65536)) := by
  simp only [CopyCtx.complete, statAfter, if_neg hstatus, if_pos h]

theorem complete_stat_later (h : c.stat.extractLsb' 8 8 ≠ 0#8) :
    (c.complete seq status).stat = c.stat ||| BitVec.ofNat 32 (2 ^ (status - 1)) := by
  simp only [CopyCtx.complete, statAfter, if_neg hstatus, if_neg h]

end

/-! ### Copies of a fibre (R325, R337) -/

section
variable {k : Nat} {c : CpbOp} (hstage : c.stage = .issued)
include hstage

theorem cpbLand_issued (hg : s.gang? nid gid = some g) (hn : s.node? nid = some n) (hcore : g.core? = some core)
    (hc : g.cpbs[k]? = some c) (hfree : ((s.fibre? c.who).any fun b => b.holdsCopy c.ser) = false) :
    cpbLand s nid gid k = s.readCpb n g core k c := by
  simp [cpbLand, hg, hn, hcore, hc, hstage, Stage.replaying, hfree]

/-- A copy whose source is within reach, mapped and free of errors lands with the bytes that the engine reads. -/
theorem readCpb_lands {u : State} {bs : List Byte} (hlen : c.len ≠ 0)
    (hflight : ((linesOf c.ia c.len).any fun ln => s.inFlight core ln) = false) (hreach : s.reaches core c.ia = true)
    (hup : s.pathUp core c.ia = true) (hwalk : s.walkRun c.ia c.len .load = (none, t)) (hgood : t.badRun c.ia c.len = false)
    (herr : (t.core core).errRun c.ia c.len = false) (hread : t.engineBytes core c.ia c.len = (some bs, u)) :
    s.readCpb n g core k c = u.landCpb g k c bs := by
  simp [State.readCpb, hstage, hlen, hflight, hreach, hup, hwalk, hgood, herr, hread]

end

end

/-! ### The turns of the matrix engine (R333) -/

theorem firstTurn_mem {l : List (Nat × Nat × Nat)} {k : Nat × Nat × Nat} (h : firstTurn l = some k) : k ∈ l := by
  induction l generalizing k with
  | nil => cases h
  | cons y rest ih =>
    rw [firstTurn] at h
    cases hr : firstTurn rest with
    | none =>
      rw [hr] at h
      cases h
      exact List.mem_cons_self
    | some z =>
      rw [hr] at h
      have hk : (if turnBefore z y then z else y) = k := Option.some.inj h
      split at hk
      · exact hk ▸ List.mem_cons_of_mem y (ih hr)
      · exact hk ▸ List.mem_cons_self

/-- The turn is that of a gang of the core with a word to take. -/
theorem matrixTurn_some {s : State} {core : Nat} {k : Nat × Nat × Nat} (h : s.matrixTurn core = some k) :
    ∃ g ∈ s.gangsOn core, g.matq ≠ [] ∧ g.turnKey = k := by
  have hkeys : k ∈ ((s.gangsOn core).filter fun g => g.matq != []).map Gang.turnKey := by
    unfold State.matrixTurn at h
    dsimp only at h
    split at h
    · exact firstTurn_mem h
    · exact (List.mem_filter.1 (firstTurn_mem h)).1
  obtain ⟨g, hg, rfl⟩ := List.mem_map.1 hkeys
  obtain ⟨hon, hword⟩ := List.mem_filter.1 hg
  exact ⟨g, hon, by simpa using hword, rfl⟩

section
variable {s : State} {nid gid pick core : Nat} {g : Gang} {n : Node} {o : MOp} {rest : List MOp}
  (hg : s.gang? nid gid = some g) (hn : s.node? nid = some n) (hcore : g.core? = some core) (hq : g.matq = o :: rest)
include hg hn hcore hq

theorem matrixTake_other (hturn : s.matrixTurn core ≠ some g.turnKey) : matrixTake s nid gid pick = s := by
  simp only [matrixTake, hg, hn, hcore, hq, if_pos hturn]

section
variable (hturn : s.matrixTurn core = some g.turnKey)
include hturn

/-- In a chain that may be reordered the k-step that the pick names is taken (R104). -/
theorem matrixTake_picked {k j : Nat} (h : g.picked n.spec.det pick = some (k, j)) :
    matrixTake s nid gid pick =
      (s.setGang (g.takeStep n.spec.seed k j)).onCore core fun c => { c with mturn := some g.turnKey } := by
  simp only [matrixTake, hg, hn, hcore, hq, if_neg (not_not.2 hturn), h]

variable (h : g.picked n.spec.det pick = none)
include h

theorem matrixTake_mma {t type a b : Nat} {sp : Bool} {left : List Nat} (hw : o.word = .mma t type sp a b left) :
    matrixTake s nid gid pick =
      (s.setGang (g.takeStep n.spec.seed 0 (left.headD 0))).onCore core fun c => { c with mturn := some g.turnKey } := by
  simp only [matrixTake, hg, hn, hcore, hq, if_neg (not_not.2 hturn), h, hw]

theorem matrixTake_word (hw : ∀ t type sp a b left, o.word ≠ .mma t type sp a b left) : matrixTake s nid gid pick =
    (s.setGang { g.takeWord n.spec.seed o with matq := rest }).onCore core fun c => { c with mturn := some g.turnKey } := by
  cases hword : o.word with
  | mma t type sp a b left => exact absurd hword (hw t type sp a b left)
  | _ => simp only [matrixTake, hg, hn, hcore, hq, if_neg (not_not.2 hturn), h, hword]

end

end

/-- The oldest word, an `mma`, takes a k-step, and leaves the queue with its last. -/
theorem takeStep_head {g : Gang} {o : MOp} {rest : List MOp} {t type a b : Nat} {sp : Bool} {left : List Nat}
    (hq : g.matq = o :: rest) (hw : o.word = .mma t type sp a b left) (seed : DWord) (j : Nat) :
    g.takeStep seed 0 j = { g.kStep seed o t type sp a b j with
      matq := if (left.filter fun q => q ≠ j) = [] then rest
        else { o with word := .mma t type sp a b (left.filter fun q => q ≠ j) } :: rest } := by
  have hkept : (g.kStep seed o t type sp a b j).matq = o :: rest := hq
  simp only [Gang.takeStep, hq, List.getElem?_cons_zero, hw, hkept]
  split <;> rfl

/-- Settles O57: copy operations by the lemmas of `copyStep`, one for each move, copies of a fibre by `readCpb_lands`, and the
matrix engine by whose turn it is and what the word is. -/
theorem engineSteps : Obligations.EngineSteps := by
  unfold Obligations.EngineSteps
  intro s nid gid g n hoff hg hn
  refine ⟨fun x core o hcore ho hcbk => ?_, fun x seq core o hcore ho hstarted hpaged hcbk => ?_,
    fun t core x o from_ into hform hfmt => movePart_g2g hform hfmt, fun x core o v hform => markCopy_plain hform v,
    fun x o status _ h1 h0 => copyEnds_plain h1 h0, fun c seq status => ⟨rfl, complete_completed_last c status,
      fun o rest => complete_completed_next c status, fun h => h ▸ complete_stat_done c,
      complete_stat_first c, complete_stat_later c⟩,
    fun x seq h => ?_, fun k core c hcore hc hfree hstage hlen hflight hreach hup t u bs hwalk hgood herr hread => ?_,
    fun pick core o rest hcore hq => ⟨fun hturn => ?_, fun hturn => ?_⟩, fun core k h => matrixTurn_some h,
    fun seed o rest t type sp a b j left hq hw => ?_⟩
  · intro runs
    rw [exec_copyOpStart hoff, copyStart_first hg hn hcore ho hcbk]
    rfl
  · intro b set done wrote becomes
    have hcomplete := copyComplete_started hg hn hcore ho hstarted hpaged hcbk
    refine ⟨fun hstale => ?_, fun hstale => ?_⟩
    · show exec _ s = _
      rw [exec_copyOpComplete hoff, hcomplete, if_pos hstale]
    · have hbecomes {t : State} (h : s.copyStep n g core x o = t) : becomes t := by
        show exec _ s = _
        rw [exec_copyOpComplete hoff, hcomplete, hstale, ← h]
        rfl
      refine ⟨fun v t ias hphase hrow hruns => ?_, fun hphase hmark => hbecomes (copyStep_torn hphase hmark),
        fun v hphase hrow hform => hbecomes (copyStep_moved hphase hrow hform),
        fun v hphase hform hmark => hbecomes (copyStep_flushed hphase hform hmark),
        fun hphase ha hc => hbecomes (copyStep_begins hphase ha hc), fun ia t hform hruns => ?_, fun ia t hform hruns => ?_⟩
      · obtain ⟨htorn, hwhole⟩ := copyStep_part hphase hrow hruns
        exact ⟨fun h => hbecomes (hwhole h), fun h => hbecomes (htorn h)⟩
      · exact ⟨fun hphase => hbecomes (copyStep_atom_begins hform hruns hphase),
          fun v hphase => hbecomes (copyStep_atom_claims hform hruns hphase),
          fun v hphase hmark => hbecomes (copyStep_atom_releases hform hruns hphase hmark)⟩
      · exact ⟨fun hphase => hbecomes (copyStep_cons_begins hform hruns hphase),
          fun v hphase hrow => hbecomes (copyStep_cons_moved hform hruns hphase hrow)⟩
  · rw [exec_copyPageResume hoff, copyPageResume_paged hg h]
    rfl
  · rw [exec_cpbLanding hoff, cpbLand_issued hstage hg hn hcore hc hfree,
      readCpb_lands hstage hlen hflight hreach hup hwalk hgood herr hread]
    rfl
  · rw [exec_matrixWordTake hoff, matrixTake_other hg hn hcore hq hturn]
  · intro took
    have htook {h : Gang} (hh : matrixTake s nid gid pick =
        (s.setGang h).onCore core fun c => { c with mturn := some g.turnKey }) : took h :=
      (exec_matrixWordTake hoff ..).trans (congrArg _ hh)
    exact ⟨fun k j h => htook (matrixTake_picked hg hn hcore hq hturn h),
      fun h => ⟨fun t type sp a b left hw => htook (matrixTake_mma hg hn hcore hq hturn h hw),
        fun hw => htook (matrixTake_word hg hn hcore hq hturn h hw)⟩⟩
  · rw [takeStep_head hq hw]
    rfl

end Sys2Proof.Machine
end

section
/-!
PROOFS of what an atomic access makes of the old bytes (15 R291, R297, R300).
-/
namespace Sys2Proof.Machine

/-! ### Little-endian bytes -/

theorem leNat_leBytes (k x : Nat) : leNat (leBytes k x) = x % 256 ^ k := by
  induction k generalizing x with
  | zero => rw [leBytes, leNat, pow_zero, Nat.mod_one]
  | succ k ih => rw [leBytes, leNat, ih, BitVec.toNat_ofNat, pow_succ' 256, Nat.mod_mul]

/-- A value of `n` bits comes back from its bytes. -/
@[simp] theorem leNat_leBytes_toNat {n k : Nat} (v : BitVec n) (h : n = 8 * k := by rfl) :
    leNat (leBytes k v.toNat) = v.toNat := by
  subst h
  exact (leNat_leBytes ..).trans (Nat.mod_eq_of_lt (v.isLt.trans_eq (pow_mul 2 8 k)))

@[simp] theorem take_leBytes (k x : Nat) : (leBytes k x).take k = leBytes k x :=
  List.take_of_length_le (length_leBytes k x).le

@[simp] theorem take_leBytes_append (k x : Nat) (l : List Byte) : (leBytes k x ++ l).take k = leBytes k x :=
  List.take_left' (length_leBytes k x)

@[simp] theorem drop_leBytes_append (k x : Nat) (l : List Byte) : (leBytes k x ++ l).drop k = l :=
  List.drop_left' (length_leBytes k x)

/-! ### The operations on words and doublewords -/

/-- The results of the word operations by their XFN: the sum, the bitwise forms, min and max with and without a sign, and
`swap` (R291). -/
def wordResults (old b : Word) : List (Nat × Word) :=
  [(0, old + b), (1, old &&& b), (2, old ||| b), (3, old ^^^ b), (4, if old.sle b then old else b),
    (5, if old.sle b then b else old), (6, if old ≤ b then old else b), (7, if old ≤ b then b else old), (8, b)]

/-- `wordOp` has the operations of that table but `swap`, which is the last. -/
theorem lookup_wordResults {op : Nat} {old b r : Word} (h : (wordResults old b).lookup op = some r) :
    (op < 8 ∧ wordOp op old b = r) ∨ (op = 8 ∧ b = r) := by
  match op, h with
  | 0, h | 1, h | 2, h | 3, h => exact .inl ⟨by decide, Option.some.inj h⟩
  | 4, h | 5, h =>
    refine .inl ⟨by decide, .trans ?_ (Option.some.inj h)⟩
    simp [wordOp, BitVec.sle_iff_toInt_le]
  | 6, h | 7, h =>
    refine .inl ⟨by decide, .trans ?_ (Option.some.inj h)⟩
    simp [wordOp, BitVec.le_def]
  | 8, h => exact .inr ⟨rfl, Option.some.inj h⟩
  | _ + 9, h => exact nomatch h

/-- The forms of 4 bytes (R291, R297). -/
theorem amoSize_word {op : Nat} (h : op < 10) : amoSize op = 4 := if_pos h

theorem redSize_word {op : Nat} (h : op < 6) : redSize op = 4 := by
  rw [redSize, if_neg (by omega), if_neg (by omega)]

theorem amoNew_wordOp {op : Nat} (h : op < 8) (old b : Word) :
    amoNew op old.toNat (leBytes 4 b.toNat) = some (wordOp op old b).toNat := by
  simp [amoNew, h, amoSize_word (h.trans (by decide : 8 < 10))]

theorem amoNew_swap (old b : Word) : amoNew 8 old.toNat (leBytes 4 b.toNat) = some b.toNat := by
  simp [amoNew, amoSize]

/-- `cas` takes the value to compare with from the first half of its data, and the new one from the second (R291, R292). -/
theorem amoNew_cas (old b new : Word) :
    amoNew 9 old.toNat (leBytes 4 b.toNat ++ leBytes 4 new.toNat) = if old = b then some new.toNat else none := by
  simp [amoNew, amoSize, BitVec.toNat_inj]

theorem amoNew_addD (x y : DWord) : amoNew 10 x.toNat (leBytes 8 y.toNat) = some (x + y).toNat := by
  simp [amoNew, amoSize]

theorem redNew_wordOp {op : Nat} (h : op < 6) (old b : Word) :
    redNew op old.toNat (leBytes 4 b.toNat) = (wordOp op old b).toNat := by
  simp [redNew, h, redSize_word h]

theorem redNew_addD (x y : DWord) : redNew 8 x.toNat (leBytes 8 y.toNat) = (x + y).toNat := by
  simp [redNew, redSize]

/-! ### What an access writes -/

section
variable {a : Access} {op : Nat}

theorem writes_amo {ar : Bool} (h : a.op = .amo op ar) (old : List Byte) :
    a.writes old = (amoNew op (leNat old) a.data).map (leBytes a.size) := by
  rw [Access.writes, h]

theorem writes_red (h : a.op = .red op) (old : List Byte) :
    a.writes old = some (leBytes a.size (redNew op (leNat old) a.data)) := by
  rw [Access.writes, h]

theorem writes_str (h : a.op = .str) (old : List Byte) : a.writes old = some (a.data.take a.size) := by
  rw [Access.writes, h]

end

/-- Settles O36: AMO and RED share `wordOp`; the other operations are read off their bytes one by one. -/
theorem atomicResults : Obligations.AtomicResults := by
  unfold Obligations.AtomicResults
  intro a old b x y w d
  refine ⟨fun ar op r hop hsize hdata hr => ?_, fun ar hop hsize new hdata => ?_, fun ar hop hsize hdata => ?_,
    fun hop hsize hdata => ?_⟩
  · obtain ⟨hlt, rfl⟩ | ⟨rfl, rfl⟩ := lookup_wordResults hr
    · obtain hop | ⟨hop, hred⟩ := hop
      · simp [writes_amo hop, hsize, hdata, w, amoNew_wordOp hlt]
      · simp [writes_red hop, hsize, hdata, w, redNew_wordOp hred]
    · obtain hop | ⟨-, hred⟩ := hop
      · simp [writes_amo hop, hsize, hdata, w, amoNew_swap]
      · exact absurd hred (by decide)
  · rw [writes_amo hop, hsize, hdata, leNat_leBytes_toNat, amoNew_cas]
    split <;> rfl
  · obtain hop | hop := hop
    · simp [writes_amo hop, hsize, hdata, d, amoNew_addD]
    · simp [writes_red hop, hsize, hdata, d, redNew_addD]
  · rw [writes_str hop, hsize, hdata, take_leBytes]

end Sys2Proof.Machine
end

section
/-!
PROOFS of the words that order memory: the fences, `wbr`, `invr` and `pref` (15 R303, R305, R306, R308).
-/
namespace Sys2Proof.Machine

section
variable {s : State} {a b : Fld}

/-- A length of 0 names no line (R305). -/
theorem rangeWord_empty (op : AccOp) (scope : BitVec 3) (h : (s.r.w b).toNat = 0) :
    rangeWord s a b op scope = .commit .seq id := if_pos h

theorem rangeWord_refused {code ia : Nat} (op : AccOp) (scope : BitVec 3) (h : (s.r.w b).toNat ≠ 0)
    (hx : s.xlat s.n (s.r.d a).toNat (s.r.w b).toNat .load = .bad code ia) :
    rangeWord s a b op scope = .fault code 0 (s.r.d a) ia := by
  simp only [rangeWord, if_neg h, hx]

theorem rangeWord_issues {ia : Nat} {tracked : Bool} (op : AccOp) (scope : BitVec 3) (h : (s.r.w b).toNat ≠ 0)
    (hx : s.xlat s.n (s.r.d a).toNat (s.r.w b).toNat .load = .ok ia tracked) :
    rangeWord s a b op scope = .commit .seq fun t => t.issueNow
      { accessOf op (s.r.w b).toNat .none [] scope.toNat with va := s.r.d a, ia := ia, tracked := tracked } := by
  simp only [rangeWord, if_neg h, hx]
  rfl

/-- `pref` does nothing for no bytes, and nothing that is modelled at a scope wider than `core` (R308, log 47). -/
theorem prefWord_idle {scope : BitVec 3} (h : (s.r.w b).toNat = 0 ∨ 2 ≤ scope.toNat) :
    prefWord s a b scope = .commit .seq id := if_pos h

theorem prefWord_lines {scope : BitVec 3} (h : ¬((s.r.w b).toNat = 0 ∨ 2 ≤ scope.toNat)) :
    prefWord s a b scope = .commit .seq fun t =>
      (List.range (min 512 (((s.r.d a).toNat + (s.r.w b).toNat - 1) / 128 - (s.r.d a).toNat / 128 + 1))).foldl
        (fun u k => u.prefLine (if k = 0 then (s.r.d a).toNat else ((s.r.d a).toNat / 128 + k) * 128)) t := if_neg h

end

theorem bodyOf_of_rangeForm {i : Instr} {a b : Fld} {sc : BitVec 3} (h : i = .wbr a b sc ∨ i = .invr a b sc) (s : State) :
    ∃ op, bodyOf i s = rangeWord s a b op sc := by
  obtain rfl | rfl := h
  · exact ⟨.wbr, rfl⟩
  · exact ⟨.invr, rfl⟩

/-- A fence gives its access to the memory system as it is, and a range does once its translation allows it (R303, R306). -/
theorem bodyOf_of_orderAccess {i : Instr} {s : State} {x : Access} (h : orderAccess i s = some x) :
    bodyOf i s = .commit .seq fun t => t.issueNow x := by
  unfold orderAccess at h
  dsimp only at h
  split at h
  case h_1 | h_2 | h_3 => -- fences
    cases h
    rfl
  case h_4 | h_5 => -- wbr, invr
    split_ifs at h with hlen
    split at h
    case h_1 => cases h
    case h_2 hx =>
      cases h
      exact rangeWord_issues _ _ hlen hx
  case h_6 => cases h

/-- Settles O34: what each word asks for at issue, by its length, its translation and its scope; that `pref` changes nothing at
a scope wider than `core` is log 47. -/
theorem orderingWords : Obligations.OrderingWords := by
  unfold Obligations.OrderingWords
  intro i s hc
  refine ⟨fun x hx => ?_, fun a b sc hi => ?_, fun a b sc hi => ?_⟩
  · have hb := bodyOf_of_orderAccess hx
    exact exec_commit hc (isEvent_of_bodyOf hb nofun) hb
  · obtain ⟨op, hb⟩ := bodyOf_of_rangeForm hi s
    refine ⟨fun hlen => ?_, fun hlen code ia hx => ?_⟩
    · have hb := hb.trans (rangeWord_empty op sc hlen)
      exact exec_commit hc (isEvent_of_bodyOf hb nofun) hb
    · have hb := hb.trans (rangeWord_refused op sc hlen hx)
      exact exec_fault hc (isEvent_of_bodyOf hb nofun) hb
  · subst hi
    exact ⟨fun h => exec_commit hc rfl (prefWord_idle h),
      fun hlen hsc => exec_commit hc rfl (prefWord_lines (not_or.2 ⟨hlen, Nat.not_le.2 hsc⟩))⟩

end Sys2Proof.Machine
end

section
/-!
PROOFS of the words of the engines: a fibre's own copies, the copy contexts and their timeline, and the matrix engine (16 R314 to
R329, 17 R336 to R357).
-/
namespace Sys2Proof.Machine

/-! ### Copies of a fibre (R337, R338) -/

section
variable {s : State} {d a b : Fld} {tag : Nat}

/-- The copy that a `cpb` puts under way, with its tag's counter one more (R324, R337). -/
def State.copyUnderWay (s : State) (d a b : Fld) (tag ia : Nat) (t : State) : State :=
  { t with
    g := { t.g with cpbs := t.g.cpbs ++ [⟨s.f.id, s.f.nextSer, tag, s.r.d a, ia, (s.r.w d).toNat, (s.r.w b).toNat, .issued⟩] }
    f := { t.f with
      nextSer := t.f.nextSer + 1
      regs := { t.r with bt := t.r.bt.modify tag (· + 1) } } }

theorem cpbWord_long (h : 32 < (s.r.w d).toNat) : cpbWord s d a b tag = .illegal := if_pos h

theorem cpbWord_misaligned (h : (s.r.w d).toNat ≤ 32) (h0 : (s.r.w b).toNat % 32 ≠ 0) :
    cpbWord s d a b tag = .trap 0x03 0 ((s.r.w b).setWidth 64) := (if_neg (Nat.not_lt.2 h)).trans (if_pos h0)

theorem cpbWord_outside (h : (s.r.w d).toNat ≤ 32) (h0 : (s.r.w b).toNat % 32 = 0)
    (hr : s.n.spadBytes < (s.r.w b).toNat + 32) : cpbWord s d a b tag = .trap 0x10 0 ((s.r.w b).setWidth 64) :=
  (if_neg (Nat.not_lt.2 h)).trans ((if_neg (not_not.2 h0)).trans (if_pos hr))

/-- A source of at least one byte is translated once the length and the offset have passed (R337). -/
theorem cpbWord_refused {code ia : Nat} (h : (s.r.w d).toNat ≤ 32) (h0 : (s.r.w b).toNat % 32 = 0)
    (hr : (s.r.w b).toNat + 32 ≤ s.n.spadBytes) (hl : (s.r.w d).toNat ≠ 0)
    (hx : s.xlat s.n (s.r.d a).toNat (s.r.w d).toNat .load = .bad code ia) :
    cpbWord s d a b tag = .fault code 0 (s.r.d a) ia := by
  simp only [cpbWord, if_neg (Nat.not_lt.2 h), if_neg (not_not.2 h0), if_neg (Nat.not_lt.2 hr), if_neg hl, hx]

/-- A `cpb` whose source stands at `ia`, a source of no bytes at 0, waits at a count of 63 or puts its copy under way (R337). -/
theorem cpbWord_copies {ia : Nat} (h : (s.r.w d).toNat ≤ 32) (h0 : (s.r.w b).toNat % 32 = 0)
    (hr : (s.r.w b).toNat + 32 ≤ s.n.spadBytes)
    (hx : ((s.r.w d).toNat = 0 ∧ ia = 0) ∨
      ((s.r.w d).toNat ≠ 0 ∧ ∃ tracked, s.xlat s.n (s.r.d a).toNat (s.r.w d).toNat .load = .ok ia tracked)) :
    ∃ k, (cpbWord s d a b tag = if 63 ≤ s.r.bt.getD tag 0 then .wait else .commit .seq k) ∧
      ∀ pc : DWord, k (s.onRegs fun r => { r with pc := pc }) =
        s.copyUnderWay d a b tag ia (s.onRegs fun r => { r with pc := pc }) := by
  rcases hx with ⟨hl, rfl⟩ | ⟨hl, tracked, hx⟩
  · simp only [cpbWord, if_neg (Nat.not_lt.2 h), if_neg (not_not.2 h0), if_neg (Nat.not_lt.2 hr), if_pos hl]
    exact ⟨_, rfl, fun _ => rfl⟩
  · simp only [cpbWord, if_neg (Nat.not_lt.2 h), if_neg (not_not.2 h0), if_neg (Nat.not_lt.2 hr), if_neg hl, hx]
    exact ⟨_, rfl, fun _ => rfl⟩

end

/-- `cpw` and `cpw.le` wait for a count of their tag that is low enough (R338). -/
theorem bodyOf_of_cpwForm {i : Instr} {s : State} {tag limit : Nat}
    (h : (∃ g : BitVec 2, i = .cpw g ∧ tag = g.toNat ∧ limit = 0) ∨
      (∃ (a : Fld) (g : BitVec 2), i = .cpwLe a g ∧ tag = g.toNat ∧ limit = (s.r.w a).toNat)) :
    isEvent i = false ∧ bodyOf i s = if s.r.bt.getD tag 0 ≤ limit then .commit .seq id else .wait := by
  obtain ⟨g, rfl, rfl, rfl⟩ | ⟨a, g, rfl, rfl, rfl⟩ := h <;> exact ⟨rfl, rfl⟩

/-- Settles O39: the checks of `cpbWord` in their order, and the count that `cpwWord` waits for. -/
theorem fibreCopies : Obligations.FibreCopies := by
  unfold Obligations.FibreCopies
  refine ⟨fun d a b g s hc => ⟨fun h => ?_, fun h h0 => ?_, fun h h0 hr => ?_, fun h h0 hr => ⟨fun hl code ia hx => ?_,
    fun ia hx => ?_⟩⟩, fun i s tag limit hc h => ?_⟩
  · exact exec_illegal hc rfl (cpbWord_long h) rfl
  · exact exec_trap hc rfl (cpbWord_misaligned h h0)
  · exact exec_trap hc rfl (cpbWord_outside h h0 hr)
  · exact exec_fault hc rfl (cpbWord_refused h h0 hr hl hx)
  · obtain ⟨k, hb, hk⟩ := cpbWord_copies h h0 hr hx
    obtain ⟨hgo, hwait⟩ := exec_unless_held hc rfl hb
    exact ⟨fun hn => (hgo (Nat.not_le.2 hn)).trans (congrArg _ (committed_congr hk)), hwait⟩
  · obtain ⟨he, hb⟩ := bodyOf_of_cpwForm h
    exact ⟨fun hle => exec_commit hc he (hb.trans (if_pos hle)),
      fun hlt => exec_wait hc he (hb.trans (if_neg (Nat.not_le.2 hlt)))⟩

/-! ### Words of a whole crew (R336) -/

/-- Once the release of R270 is over for the crew, an engine word acts on the operands of the fibre of lowest FID (R336). -/
theorem engineWord_ready {s : State} (k : Regs → WordRes) (h : s.engineReady = true) : engineWord s k = k s.lead.regs :=
  if_neg (by simpa [State.engineReady] using h)

/-- The fibre of lowest FID does the engine's part for its crew. -/
theorem leadDoes_eq (s : State) (k : Gang → Gang) : s.leadDoes k = s.engineDoes k := by
  funext t
  exact if_congr decide_eq_true_iff rfl rfl

/-- The pair that an engine word writes lies in the window of its own fibre. -/
theorem putD_engineDoes (s : State) (d : Fld) (v : DWord) (k : Gang → Gang) (pc : DWord) :
    s.putD d v (s.engineDoes k (s.onRegs fun r => { r with pc := pc })) =
      (s.engineDoes k (s.onRegs fun r => { r with pc := pc })).onRegs fun r => r.setD d v := by
  unfold State.engineDoes
  split <;> rfl

theorem putW_engineDoes (s : State) (d : Fld) (v : Word) (k : Gang → Gang) (pc : DWord) :
    s.putW d v (s.engineDoes k (s.onRegs fun r => { r with pc := pc })) =
      (s.engineDoes k (s.onRegs fun r => { r with pc := pc })).onRegs fun r => r.setW d v := by
  unfold State.engineDoes
  split <;> rfl

/-! ### Copy contexts (R341, R343, R346, R347) -/

section
variable {s : State} {d a : Fld} {x form : Nat}

/-- A copy word is the one `cpt` of its form. -/
theorem bodyOf_of_copyForm {i : Instr} (h : copyForm i = some (form, d, a, x)) :
    isEvent i = false ∧ (infoOf i).word = encode false i ∧
      ∃ y : BitVec 3, y.toNat = x ∧ bodyOf i s = cptWord s d a y form := by
  unfold copyForm at h
  split at h
  case h_8 => cases h
  all_goals
    cases h
    exact ⟨rfl, rfl, _, rfl, rfl⟩

/-- The operation that a copy word gives to its context, under the context's next sequence number (R314, R315). -/
def State.copyOp (s : State) (form : Nat) (block : List Word) (x : Nat) : CopyOp where
  seq := (s.g.ctxAt x).issued + 1
  form := form
  block := block
  crew := s.f.id.cid
  started := false
  paged := false
  stale := false
  cbt := []
  row := 0
  known := []
  attempt := 0
  homes := []
  phase := .begin

/-- The context accepts an operation. -/
def CopyCtx.accepts (c : CopyCtx) (op : CopyOp) : CopyCtx := { c with issued := op.seq, ops := c.ops ++ [op] }

theorem cptWord_accepts (y : BitVec 3) (hr : s.engineReady = true)
    (hb : (Block.of (s.lead.regs.run a 8)).check form s.n.spadBytes = none) :
    cptWord s d a y form =
      if 32 ≤ (s.g.ctxAt y.toNat).ops.length then .wait
      else .commit .seq fun t =>
        s.putD d (BitVec.ofNat 64 ((s.g.ctxAt y.toNat).issued + 1)) (s.engineDoes
          (fun g => g.onCtx y.toNat fun c => c.accepts (s.copyOp form (s.lead.regs.run a 8) y.toNat)) t) := by
  simp only [cptWord, engineWord_ready _ hr, hb, leadDoes_eq]
  rfl

/-- A block that breaks a rule traps, with the word in TVAL for a field and the value that breaks it otherwise (R341). -/
theorem cptWord_refused {code v : Nat} (y : BitVec 3) (hr : s.engineReady = true)
    (hb : (Block.of (s.lead.regs.run a 8)).check form s.n.spadBytes = some (code, v)) :
    cptWord s d a y form = if code = 0x02 then .illegal else .trap code 0 (BitVec.ofNat 64 v) := by
  simp only [cptWord, engineWord_ready _ hr, hb]
  split
  · next hv => cases hv; rfl
  · next hn hv =>
    cases hv
    exact (if_neg hn).symm
  · next hv => cases hv

end

/-- A check that fails: the word itself is named where the code is 0x02, and else a value. -/
theorem exec_refused {i : Instr} {s : State} {code : Nat} {v : DWord} (hc : CanIssue i s) (he : isEvent i = false)
    (hw : (infoOf i).word = encode false i) (hb : bodyOf i s = if code = 0x02 then .illegal else .trap code 0 v) :
    exec i s = .next (s.traps code 0 (if code = 0x02 then wordVal (encode false i) 7 else v)).tick := by
  by_cases h : code = 0x02
  · subst h
    exact exec_illegal hc he hb hw
  · rw [if_neg h] at hb ⊢
    exact exec_trap hc he hb

/-- Settles O40: every form is `cptWord`, which checks the block and then the room in the context. -/
theorem copyWords : Obligations.CopyWords := by
  unfold Obligations.CopyWords
  intro i s form d a x hc hf hr
  obtain ⟨he, hw, y, rfl, hb⟩ := bodyOf_of_copyForm (s := s) hf
  refine ⟨fun hk hroom => ?_, fun hk hfull => ?_, fun code v hk => ?_⟩
  · rw [(exec_unless_held hc he (hb.trans (cptWord_accepts y hr hk))).1 (Nat.not_le.2 hroom)]
    exact congrArg _ (committed_congr fun pc => putD_engineDoes _ _ _ _ pc)
  · exact (exec_unless_held hc he (hb.trans (cptWord_accepts y hr hk))).2 hfull
  · exact exec_refused hc he hw (hb.trans (cptWord_refused y hr hk))

section
variable {s : State} {d a : Fld} {x : BitVec 3}

theorem twaitWord_ready (hr : s.engineReady = true) : twaitWord s a x =
    if (s.g.ctxAt x.toNat).issued < (s.lead.regs.d a).toNat then .regs (s.putP 15 false)
    else if (s.g.ctxAt x.toNat).completed < (s.lead.regs.d a).toNat then .wait else .regs (s.putP 15 true) :=
  engineWord_ready _ hr

theorem timelineWord_ready (v : Nat) (hr : s.engineReady = true) :
    timelineWord s d v = .regs (s.putD d (BitVec.ofNat 64 v)) := engineWord_ready _ hr

theorem tstatWord_ready (hr : s.engineReady = true) : tstatWord s d x = .commit .seq fun t =>
    s.putW d (s.g.ctxAt x.toNat).stat
      (s.engineDoes (fun g => g.onCtx x.toNat fun c => { c with stat := 0#32 }) t) := by
  rw [tstatWord, engineWord_ready _ hr, leadDoes_eq]
  rfl

end

/-- Settles O41: each word of the timeline group on the context's numbers. -/
theorem timelineWords : Obligations.TimelineWords := by
  unfold Obligations.TimelineWords
  intro s hr
  refine ⟨fun a x hc => ⟨fun h => ?_, fun h h' => ?_, fun h h' => ?_⟩, fun d x hc => ?_, fun d x hc => ?_, fun d x hc => ?_⟩
  · exact exec_regs hc ((twaitWord_ready hr).trans (if_pos h)) fun _ => rfl
  · exact exec_regs hc ((twaitWord_ready hr).trans ((if_neg (Nat.not_lt.2 h')).trans (if_neg (Nat.not_lt.2 h)))) fun _ => rfl
  · exact exec_wait hc rfl ((twaitWord_ready hr).trans ((if_neg (Nat.not_lt.2 h')).trans (if_pos h)))
  · exact exec_regs hc (timelineWord_ready _ hr) fun _ => rfl
  · exact exec_regs hc (timelineWord_ready _ hr) fun _ => rfl
  · rw [exec_commit hc rfl (tstatWord_ready hr)]
    exact congrArg _ (committed_congr fun pc => putW_engineDoes _ _ _ _ pc)

/-! ### Matrix words (R326, R327, R351 to R357) -/

/-- A check of a matrix word that fails, by its trap code and the offset in TVAL (R71, R341). -/
def WordRes.refusal (x : Nat × Word) : WordRes := if x.1 = 0x02 then .illegal else .trap x.1 0 (x.2.setWidth 64)

/-- A matrix word behind its checks: the first that fails refuses it, and then it waits for room in the queue (R353). -/
def State.toMatrix (s : State) (stop : Option (Nat × Word)) (w : MWord) : WordRes :=
  match stop with
  | some x => .refusal x
  | none => if 32 ≤ s.g.matq.length then .wait else .commit .seq (s.engineDoes fun g => g.queueWord w)

/-- An offset out of its alignment comes before one out of the scratchpad (R326). -/
theorem offsetCheck_eq (s : State) (o : Word) (align len : Nat) : offsetCheck s o align len =
    (if o.toNat % align ≠ 0 then some (0x03, o)
     else if s.n.spadBytes < o.toNat + len then some (0x10, o) else none).map .refusal := by
  unfold offsetCheck
  split_ifs <;> rfl

section
variable {s : State} {d a b : Fld} (hr : s.engineReady = true)
include hr

/-- A word that names a tile is refused without that tile, before its own checks (R327). -/
theorem tileWord_toMatrix {t : Nat} {checks : Regs → Option WordRes} {w : Regs → MWord} (stop : Option (Nat × Word))
    (h : checks s.lead.regs = stop.map .refusal) :
    tileWord s t checks w = s.toMatrix (if shpT s.g.shp ≤ t then some (0x02, 0#32) else stop) (w s.lead.regs) := by
  simp only [tileWord, engineWord_ready _ hr, leadDoes_eq, h]
  by_cases ht : shpT s.g.shp ≤ t
  · simp only [if_pos ht]
    rfl
  · simp only [if_neg ht]
    cases stop <;> rfl

/-- An `mma` of a type, of which type 0 alone takes K16 tiles, by its checks in their order (R326, R351, log 59). -/
theorem mmaWord_toMatrix {p k8 : Bool} {k : BitVec 4} {type : Nat} (hk : decide (type = 0) = !k8) :
    mmaWord s d a b p k type = s.toMatrix
      (if shpT s.g.shp ≤ d.toNat ∨ k8 ≠ shpK8 s.g.shp ∨ p ≠ shpSp s.g.shp then some (0x02, 0#32)
       else if (s.lead.regs.w a).toNat % 128 ≠ 0 then some (0x03, s.lead.regs.w a)
       else if (s.lead.regs.w b).toNat % 128 ≠ 0 then some (0x03, s.lead.regs.w b)
       else if s.n.spadBytes < (s.lead.regs.w a).toNat +
           (if p then (if k8 then 48 else 40) else 32) * shpM s.g.shp * (k.toNat + 1) then some (0x10, s.lead.regs.w a)
       else if s.n.spadBytes < (s.lead.regs.w b).toNat + (if p then 64 else 32) * shpN s.g.shp * (k.toNat + 1) then
         some (0x10, s.lead.regs.w b)
       else none)
      (.mma d.toNat type p (s.lead.regs.w a).toNat (s.lead.regs.w b).toNat (List.range (k.toNat + 1))) := by
  have hrow : (if type = 0 then 40 else 48) = if k8 then 48 else 40 := by
    cases k8 <;> simp_all
  have htype : (decide (type = 0) = shpK8 s.g.shp) = (k8 ≠ shpK8 s.g.shp) := by
    rw [hk]
    cases k8 <;> simp
  rw [ite_or]
  refine tileWord_toMatrix hr _ ?_
  simp only [hrow, htype, offsetCheck_eq]
  split_ifs <;> rfl

/-- The moves between a tile and the scratchpad, at a number of bytes for each element (R356, R357). -/
theorem accMove_toMatrix {size : Nat} {w : Nat → MWord} :
    accMove s d a size w = s.toMatrix
      (if shpT s.g.shp ≤ d.toNat then some (0x02, 0#32)
       else if (s.lead.regs.w a).toNat % 16 ≠ 0 then some (0x03, s.lead.regs.w a)
       else if s.n.spadBytes < (s.lead.regs.w a).toNat + size * shpM s.g.shp * shpN s.g.shp then some (0x10, s.lead.regs.w a)
       else none)
      (w (s.lead.regs.w a).toNat) :=
  tileWord_toMatrix hr _ (offsetCheck_eq ..)

theorem chainBegin_toMatrix :
    chainBegin s d a = s.toMatrix
      (if shpT s.g.shp ≤ d.toNat ∨ 1 < (s.lead.regs.w a).toNat then some (0x02, 0#32) else none)
      (.chainB d.toNat ((s.lead.regs.w a).getLsbD 0)) := by
  rw [ite_or]
  refine tileWord_toMatrix hr _ ?_
  split_ifs <;> rfl

/-- A matrix word is its operands behind the checks of `matrixStop`. -/
theorem bodyOf_of_matrixWord {i : Instr} {t : Nat} {w : MWord} (h : matrixWord i s = some (t, w)) :
    bodyOf i s = s.toMatrix (matrixStop i s) w := by
  unfold matrixWord at h
  dsimp only at h
  split at h
  case h_1 | h_2 | h_3 | h_4 => -- mma
    cases h
    exact mmaWord_toMatrix hr rfl
  case h_5 | h_7 | h_11 => -- acc.zero, acc.chain.e, acc.flush
    cases h
    exact tileWord_toMatrix (checks := fun _ => none) (w := fun _ => _) hr none rfl
  case h_6 => -- acc.chain.b
    cases h
    exact chainBegin_toMatrix hr
  case h_8 | h_9 | h_10 => -- acc.st, acc.ld
    cases h
    exact accMove_toMatrix hr
  case h_12 => cases h

/-- `shape` gives SHP of its grant, or 0 where there is none, and never waits (R327, R328, R349). -/
theorem shapeWord_grants : shapeWord s d a =
    match grantOf (s.lead.regs.run a 4) s.freeAcc with
    | none => .commit .seq fun t => s.putRun d (List.replicate 4 0#32)
        (s.engineDoes (fun g => Gang.queueWord { g with shp := 0#32 } (.shape 0#32)) t)
    | some (m, n, k, u) => .commit .seq fun t => s.putRun d ([m, n, k, u].map (BitVec.ofNat 32))
        (s.engineDoes (fun g => Gang.queueWord { g with shp := shpOf (s.lead.regs.run a 4) m n k u }
          (.shape (shpOf (s.lead.regs.run a 4) m n k u))) t) := by
  simp only [shapeWord, engineWord_ready _ hr, leadDoes_eq]
  cases grantOf (s.lead.regs.run a 4) s.freeAcc <;> rfl

theorem setpromWord_queues : setpromWord s a b =
    if shpT s.g.shp = 0 ∨ (s.lead.regs.w a).toNat = 0 ∨ 64 < (s.lead.regs.w a).toNat ∨ 1 < (s.lead.regs.w b).toNat then .illegal
    else if 32 ≤ s.g.matq.length then .wait
    else .commit .seq (s.engineDoes fun g =>
      Gang.queueWord { g with promP := (s.lead.regs.w a).toNat, promRsr := (s.lead.regs.w b).toNat == 1 } .setprom) := by
  simp only [setpromWord, engineWord_ready _ hr, leadDoes_eq]
  rfl

end

theorem putRun_engineDoes (s : State) (d : Fld) (vs : List Word) (k : Gang → Gang) (pc : DWord) :
    s.putRun d vs (s.engineDoes k (s.onRegs fun r => { r with pc := pc })) =
      (s.engineDoes k (s.onRegs fun r => { r with pc := pc })).onRegs fun r => r.setRun (r.base + d.toNat) vs := by
  unfold State.engineDoes
  split <;> rfl

/-- The words of the matrix engine stand in TVAL as they are encoded. -/
theorem word_of_matrixWord {i : Instr} {s : State} {x : Nat × MWord} (h : matrixWord i s = some x) :
    isEvent i = false ∧ (infoOf i).word = encode false i := by
  unfold matrixWord at h
  dsimp only at h
  split at h
  case h_12 => cases h
  all_goals exact ⟨rfl, rfl⟩

/-- Settles O42: each word behind its checks, `shape` by its grant and `acc.setprom` by its operands. -/
theorem matrixWords : Obligations.MatrixWords := by
  unfold Obligations.MatrixWords
  intro s hr
  refine ⟨fun i t w hc hw => ?_, fun d a hc => ⟨fun m n k t hg => ?_, fun hg => ?_⟩,
    fun a b hc => ⟨fun ht hp hp' hm hroom => ?_, fun h => ?_⟩⟩
  · obtain ⟨he, hword⟩ := word_of_matrixWord hw
    have hb := bodyOf_of_matrixWord hr hw
    refine ⟨fun hn hroom => ?_, fun hn hfull => ?_, fun code o ho => ?_⟩
    · rw [hn] at hb
      exact (exec_unless_held hc he hb).1 (Nat.not_le.2 hroom)
    · rw [hn] at hb
      exact (exec_unless_held hc he hb).2 hfull
    · rw [ho] at hb
      exact exec_refused hc he hword hb
  · have hb := shapeWord_grants (d := d) (a := a) hr
    rw [hg] at hb
    rw [exec_commit hc rfl hb]
    exact congrArg _ (committed_congr fun pc => putRun_engineDoes _ _ _ _ pc)
  · have hb := shapeWord_grants (d := d) (a := a) hr
    rw [hg] at hb
    rw [exec_commit hc rfl hb]
    exact congrArg _ (committed_congr fun pc => putRun_engineDoes _ _ _ _ pc)
  · have hok : ¬(shpT s.g.shp = 0 ∨ (s.lead.regs.w a).toNat = 0 ∨ 64 < (s.lead.regs.w a).toNat ∨
        1 < (s.lead.regs.w b).toNat) := by omega
    exact exec_commit hc rfl ((setpromWord_queues hr).trans ((if_neg hok).trans (if_neg (Nat.not_le.2 hroom))))
  · exact exec_illegal hc rfl ((setpromWord_queues hr).trans (if_pos h)) rfl

end Sys2Proof.Machine
end

section
/-!
PROOFS of the words of the task engine and of the arena table, and of a double trap (20 R387 to R397, 19 R373 to R376, 22 R419).
-/
namespace Sys2Proof.Machine

/-! ### Double traps (R419) -/

/-- The system fault of a double trap: one record, with the refused code in SUB and its TVAL in VA, and the crew is suspended
(R405, R408, R419). -/
theorem raise_doubleTrap (s : State) (first val : DWord) (code : Nat) :
    s.raise [⟨s.f.id, first, 0x46, code, val, 0⟩] =
      (State.report ((s.wordDone s.f.id).triesDone (.fetch s.f.id)) ⟨0x46, code, [], s.f.id.nid, s.f.id.gid, s.f.id.cid,
        BitVec.ofNat 32 (2 ^ s.f.id.fid), first, val, 0⟩).suspend s.f.id.nid s.f.id.gid s.f.id.cid 0x46 := by
  have hmask : laneMask [s.f.id.fid] = BitVec.ofNat 32 (2 ^ s.f.id.fid) := BitVec.zero_or
  rw [raise_one s _ (show 0x46 ≠ 0x40 by decide), ← hmask]
  rfl

/-- A trap is refused for any one of the conditions of R31. -/
theorem trapRefused_of {r : Regs} (h : r.tcause.getLsbD 31 = true ∨ r.tvec = 0#64 ∨ r.wq < 12) : r.trapRefused = true := by
  unfold Regs.trapRefused
  rcases h with h | h | h <;> simp [h]

/-- A system word waits while a converting load is unresolved, so that none is where it may issue (R158). -/
theorem convPending_of_sysWord {i : Instr} {s : State} (hc : CanIssue i s) (hmaj : (infoOf i).maj = 0x38) :
    s.f.convPending = 0 := by
  have hpass : (infoOf i).passesConv = false := by
    rw [Info.passesConv, Info.pipe, hmaj]
    rfl
  have hfree := hc.free
  simp only [Info.mustWait, hpass, Bool.or_eq_false_iff] at hfree
  obtain ⟨⟨⟨⟨⟨-, hconv⟩, -⟩, -⟩, -⟩, -⟩ := hfree
  simpa using hconv

/-- `trap` and `brk` are system words that trap after their commit (R138). -/
theorem bodyOf_of_trapWord {i : Instr} (s : State) {code : Nat}
    (hi : (∃ b : Fld, i = .trap b ∧ code = 0x0D) ∨ (i = .brk ∧ code = 0x0C)) :
    ∃ sub, bodyOf i s = .after code sub ∧ (infoOf i).maj = 0x38 := by
  obtain ⟨b, rfl, rfl⟩ | ⟨rfl, rfl⟩ := hi
  · obtain ⟨hb, hmaj, -⟩ := trapWord_info s (.inl ⟨b, rfl, rfl, rfl⟩)
    exact ⟨_, hb, hmaj⟩
  · obtain ⟨hb, hmaj, -⟩ := trapWord_info s (.inr ⟨rfl, rfl, rfl⟩)
    exact ⟨_, hb, hmaj⟩

/-- A `trap` or `brk` whose trap is refused commits nothing (R419). -/
theorem exec_after_refused {i : Instr} {s : State} {code sub : Nat} (hc : CanIssue i s) (hb : bodyOf i s = .after code sub)
    (hmaj : (infoOf i).maj = 0x38) (hr : s.r.trapRefused = true) :
    exec i s = .next (s.raise [⟨s.f.id, s.r.pc, 0x46, code, 0#64, 0⟩]).tick := by
  rw [exec_word i (isEvent_of_bodyOf hb nofun), issueOne_eq hc, evalChain_one hc, hb]
  simp only [if_pos hr, faultRes_apply, State.faults, convPending_of_sysWord hc hmaj, Nat.lt_irrefl, if_false]

/-- Settles O29: the trap is refused, and its system fault is a record and the crew's suspension. -/
theorem doubleTrap : Obligations.DoubleTrap := by
  unfold Obligations.DoubleTrap
  intro s h
  have hr := trapRefused_of h
  refine ⟨fun first tepc val code sub => ?_, fun i code hc hi => ?_⟩
  · exact (if_pos hr).trans (raise_doubleTrap s first val code)
  · obtain ⟨sub, hb, hmaj⟩ := bodyOf_of_trapWord s hi
    rw [exec_after_refused hc hb hmaj hr, raise_doubleTrap]

/-! ### Arena words (R395 to R397) -/

theorem aptr_live {s : State} {k slot : Nat} (hk : s.n.arenas.getD k none = some slot)
    (h : (s.arena slot).state = .live ∧ (s.arena slot).nid = s.n.spec.nid) :
    s.aptr k = arenaPtr slot (s.arena slot).gen := by
  simp only [State.aptr, hk, if_pos h]

theorem aptr_null {s : State} {k : Nat}
    (h : ∀ slot, s.n.arenas.getD k none = some slot → ¬((s.arena slot).state = .live ∧ (s.arena slot).nid = s.n.spec.nid)) :
    s.aptr k = 0#64 := by
  unfold State.aptr
  cases hk : s.n.arenas.getD k none with
  | none => rfl
  | some slot => exact if_neg (h slot hk)

/-- What `arena.check` asks of a pointer and a length (R397). -/
theorem arenaPass_eq (s : State) (p : DWord) (len : Nat) : s.arenaPass p len =
    decide (p.extractLsb' 56 8 = 0xA5#8 ∧ (s.arena (ptrSlot p)).state = .live ∧
      (s.arena (ptrSlot p)).gen = p.extractLsb' 36 8 ∧ (p.extractLsb' 0 36).toNat + len ≤ (s.arena (ptrSlot p)).size) := by
  rw [Bool.eq_iff_iff]
  simp [State.arenaPass, and_assoc]

/-- Settles O46: `aptr` by the entry of its index, `ainfo` and `check` by the entry that the pointer names. -/
theorem arenaWords : Obligations.ArenaWords := by
  unfold Obligations.ArenaWords
  intro s
  refine ⟨fun d a hc => ⟨fun hk => ?_, fun hk slot hs hl hn => ?_, fun hk hno => ?_⟩, fun d a hc => ?_, fun a b hc => ?_⟩
  · exact exec_illegal hc rfl (if_pos hk) rfl
  · have hb : bodyOf (.arenaAptr d a) s = .regs (s.putD d (arenaPtr slot (s.arena slot).gen)) :=
      (if_neg (Nat.not_lt.2 hk)).trans (by rw [aptr_live hs ⟨hl, hn⟩])
    exact exec_regs hc hb fun _ => rfl
  · have hb : bodyOf (.arenaAptr d a) s = .regs (s.putD d 0#64) :=
      (if_neg (Nat.not_lt.2 hk)).trans (by rw [aptr_null hno])
    exact exec_regs hc hb fun _ => rfl
  · have hb : bodyOf (.arenaAinfo d a) s = .regs (s.putRun d (s.ainfo (s.r.d a))) := rfl
    exact exec_regs hc hb fun _ => rfl
  · have hb : bodyOf (.arenaCheck a b) s = .regs (s.putP 15 (s.arenaPass (s.r.d a) (s.r.w b).toNat)) := rfl
    rw [arenaPass_eq] at hb
    exact exec_regs hc hb fun _ => rfl

/-! ### The release of a task word (R387) -/

section
variable {s : State} {act : Bool → WordRes} {ser : Nat}

theorem releaseFirst_begins (h : s.f.rel = none) : releaseFirst s act = .release State.beginRelease := by
  simp only [releaseFirst, h]

theorem releaseFirst_waits (h : s.f.rel = some (ser, none)) : releaseFirst s act = .wait := by
  simp only [releaseFirst, h]

/-- Once the release is done the word acts, after the end of its release. -/
theorem releaseFirst_commits {lost : Bool} {ctl : Ctl} {k : State → State} (h : s.f.rel = some (ser, some lost))
    (ha : act lost = .commit ctl k) : releaseFirst s act = .commit ctl fun t => k (t.endRelease lost) := by
  simp only [releaseFirst, h, ha]

/-- What keeps the word from its commit stands as it is. -/
theorem releaseFirst_stops {lost : Bool} (h : s.f.rel = some (ser, some lost)) (ha : ∀ ctl k, act lost ≠ .commit ctl k) :
    releaseFirst s act = act lost := by
  simp only [releaseFirst, h]

end

/-- The fibre after a release: a loss sets FSTAT.LOSTP while it lives (R387). -/
theorem endRelease_f (s : State) (lost : Bool) :
    (s.endRelease lost).f = if lost then ({ s.f with rel := none } : Fibre).sees 1#32 0#32 else { s.f with rel := none } := by
  cases lost <;> rfl

theorem endRelease_regs (s : State) (lost : Bool) : (s.endRelease lost).f.rel = none ∧ (s.f.life = .live →
    (s.endRelease lost).r = if lost then { s.r with fstat := s.r.fstat ||| 1#32 } else s.r) := by
  rw [State.r, endRelease_f]
  cases lost with
  | false => exact ⟨rfl, fun _ => rfl⟩
  | true =>
    by_cases hl : s.f.life = .live <;> simp [Fibre.sees, Fibre.always, Fibre.landedIf, Regs.setLoss, hl]

theorem Fibre.sees_base (b : Fibre) (f l : Word) : (b.sees f l).regs.base = b.regs.base := by
  unfold Fibre.sees
  split <;> rfl

/-- The end of a release leaves the window where it is. -/
theorem endRelease_base (s : State) (lost : Bool) : (s.endRelease lost).r.base = s.r.base := by
  rw [State.r, endRelease_f]
  cases lost with
  | false => rfl
  | true => exact Fibre.sees_base ..

/-! ### Signals (R391) -/

/-- The node of a current handle is found under its NID. -/
theorem State.node?_of_current {s : State} {h : DWord} {n : Node} (hn : s.current h = some n) :
    s.node? n.spec.nid = some n := by
  unfold State.current at hn
  dsimp only at hn
  split at hn
  · cases hn
  · next m hm =>
    split_ifs at hn
    cases hn
    rwa [State.node?_nid hm]

section
variable {s : State} {h : DWord} {n : Node}

theorem sendSignal_dropped (hn : s.current h = none) : s.sendSignal h = s.tell (.signalDropped (h.extractLsb' 0 32).toNat) := by
  simp only [State.sendSignal, hn]

/-- A signal to a current handle is its node's (R371). -/
theorem sendSignal_current (hn : s.current h = some n) : s.sendSignal h =
    if n.counter = 0 then s.setFlag n.spec.nid 16
    else if n.counter = 1 ∧ n.state = .waiting ∧ n.failing = none then
      (s.setNode { n with counter := n.counter - 1 }).nodeState n.spec.nid .runnable
    else s.setNode { n with counter := n.counter - 1 } := by
  simp only [State.sendSignal, hn, State.signal, State.node?_of_current hn]
end

/-! ### Task queues (R374, R375) -/

section
variable {s : State} {pc : DWord} {cells : List Word}

theorem queueTakes_iff : s.queueTakes = true ↔ (s.n.ring s.c.num).rt = (s.n.ring s.c.num).rh ∧ s.c.queue.length < 32 := by
  rw [State.queueTakes, Bool.and_eq_true, beq_iff_eq, decide_eq_true_iff]
  rfl

theorem not_queueTakes (h : (s.n.ring s.c.num).rt ≠ (s.n.ring s.c.num).rh ∨ 32 ≤ s.c.queue.length) : ¬s.queueTakes = true := by
  rw [queueTakes_iff]
  omega

theorem enqueue_queue (ht : s.queueTakes = true) :
    s.enqueue pc cells = { s with c := { s.c with queue := s.c.queue ++ [⟨s.n.spec.nid, cells⟩] } } := if_pos ht

theorem enqueue_overflow (ht : ¬s.queueTakes = true) (hr : s.n.spec.tqn ≤ (s.n.ring s.c.num).used) :
    s.enqueue pc cells = s.setFlag s.n.spec.nid 18 := (if_neg ht).trans (if_pos hr)

variable (ht : ¬s.queueTakes = true) (hr : (s.n.ring s.c.num).used < s.n.spec.tqn)
include ht hr

theorem enqueue_ring {ia : Nat} {tracked : Bool}
    (hx : s.ownXlat s.n (s.n.ringVa s.c.num (s.n.ring s.c.num).rt) 32 .both = .ok ia tracked)
    (hw : (s.walkRun ia 32 .both).1 = none) :
    s.enqueue pc cells = State.ownWrite
      { s with n := s.n.setRing { s.n.ring s.c.num with rt := ((s.n.ring s.c.num).rt + 1) % 2 ^ 32 } } ia (bytesOfCells cells) := by
  simp only [State.enqueue, if_neg ht, if_neg (Nat.not_le.2 hr), hx, hw]

theorem enqueue_unreachable {code ia : Nat}
    (hx : s.ownXlat s.n (s.n.ringVa s.c.num (s.n.ring s.c.num).rt) 32 .both = .bad code ia) :
    s.enqueue pc cells =
      s.nodeFails s.f.id pc 0x42 0 (BitVec.ofNat 64 (s.n.ringVa s.c.num (s.n.ring s.c.num).rt)) ia := by
  simp only [State.enqueue, if_neg ht, if_neg (Nat.not_le.2 hr), hx]
  rfl

end

section
variable {s : State} {x : Site} {a : Access}

theorem findOn_nothing {n : Node} {k : Nat} (h : (s.core k).queue.find? (fun e => e.nid = n.spec.nid) = none)
    (hr : (n.ring k).used = 0) : s.findOn n k = .nothing := by
  simp [State.findOn, h, hr]

theorem findOn_refill {n : Node} {k : Nat} (h : (s.core k).queue.find? (fun e => e.nid = n.spec.nid) = none)
    (hr : (n.ring k).used ≠ 0) : s.findOn n k = .refill := by
  simp [State.findOn, h, hr]

theorem findOn_entry {n : Node} {k : Nat} {e : TaskEntry}
    (h : (s.core k).queue.find? (fun e => e.nid = n.spec.nid) = some e) : s.findOn n k = .entry k e.cells := by
  simp [State.findOn, h]

/-- The search passes the cores that hold nothing. -/
theorem findIn_append {n : Node} {l r : List Nat} (h : ∀ k ∈ l, s.findOn n k = .nothing) : s.findIn n (l ++ r) = s.findIn n r := by
  induction l with
  | nil => rfl
  | cons k l ih =>
    have hk : s.findOn n k = .nothing := h k List.mem_cons_self
    simp only [List.cons_append, State.findIn, hk]
    exact ih fun j hj => h j (List.mem_cons_of_mem _ hj)

theorem findIn_cons {n : Node} {k : Nat} {r : List Nat} (h : s.findOn n k ≠ .nothing) : s.findIn n (k :: r) = s.findOn n k := by
  simp only [State.findIn]

/-- The own core comes first (R375). -/
theorem findEntry_own {n : Node} {core : Nat} (h : s.findOn n core ≠ .nothing) : s.findEntry n core = s.findOn n core :=
  findIn_cons h

/-- Where the own core holds nothing, the lowest other core that holds something is found (R375). -/
theorem findEntry_other {n : Node} {core k : Nat} (hown : s.findOn n core = .nothing) (hk : k < s.coreMap.length) (hne : k ≠ core)
    (hlow : ∀ j < k, j ≠ core → s.findOn n j = .nothing) (h : s.findOn n k ≠ .nothing) : s.findEntry n core = s.findOn n k := by
  obtain ⟨m, hm⟩ := Nat.exists_eq_add_of_lt hk
  have hsplit : (List.range s.coreMap.length).filter (fun j => j ≠ core) =
      (List.range k).filter (fun j => j ≠ core) ++
        k :: (((List.range m).map Nat.succ).map (k + ·)).filter fun j => j ≠ core := by
    rw [hm, Nat.add_assoc, List.range_add, List.range_succ_eq_map, List.filter_append, List.map_cons,
      List.filter_cons_of_pos (by simpa using hne)]
    rfl
  have hbelow : ∀ j ∈ core :: (List.range k).filter (fun j => j ≠ core), s.findOn n j = .nothing := by
    simpa [hown] using hlow
  rw [State.findEntry, hsplit, ← List.cons_append, findIn_append hbelow, findIn_cons h]

theorem findEntry_nothing {n : Node} {core : Nat} (hown : s.findOn n core = .nothing)
    (h : ∀ j < s.coreMap.length, j ≠ core → s.findOn n j = .nothing) : s.findEntry n core = .nothing := by
  have hall : ∀ j ∈ core :: (List.range s.coreMap.length).filter (fun j => j ≠ core), s.findOn n j = .nothing := by
    simpa [hown] using h
  rw [State.findEntry, ← List.append_nil (_ :: _), findIn_append hall]
  rfl

theorem performDeq_takes {k : Nat} {cells : List Word} (h : s.findEntry x.node x.core = .entry k cells) :
    s.performDeq x a = State.performed
      ((s.onCore k fun c => { c with queue := dropEntry x.node.spec.nid c.queue }).acquire x.core 4) x.fib.id a cells (some true) := by
  simp only [State.performDeq, h]

theorem performDeq_waits (h : s.findEntry x.node x.core = .refill) : s.performDeq x a = s := by
  simp only [State.performDeq, h]

theorem performDeq_nothing (h : s.findEntry x.node x.core = .nothing) : s.performDeq x a = s.comesToNothing x.fib.id a := by
  simp only [State.performDeq, h]

end

/-! ### Words whose action follows a release (R387, R390 to R392) -/

section
variable {i : Instr} {s : State} {k : State → State} {ser : Nat} (h : taskAction i s = some k)
include h

/-- A task word with an action is a word behind a release: `task.enq` alone may find its ring busy (R240). -/
theorem bodyOf_of_taskAction : isEvent i = false ∧ ∃ act, bodyOf i s = releaseFirst s act ∧ act true = .commit .seq id ∧
    (((∀ a, i = .taskEnq a → s.ringBusy = false ∨ s.spent (.word s.f.id (s.n.ringVa s.c.num (s.n.ring s.c.num).rt)) = true) →
        act false = .commit .seq k) ∧
      ∀ a, i = .taskEnq a → s.ringBusy = true → s.spent (.word s.f.id (s.n.ringVa s.c.num (s.n.ring s.c.num).rt)) = false →
        act false = .hold fun t => t.tryAgain (.word t.f.id (s.n.ringVa s.c.num (s.n.ring s.c.num).rt))) := by
  unfold taskAction at h
  split at h
  case h_1 | h_2 => -- task.tdep, task.tsig
    cases h
    exact ⟨rfl, _, rfl, rfl, fun _ => rfl, nofun⟩
  case h_3 a => -- task.enq
    cases h
    refine ⟨rfl, _, rfl, rfl, fun hgo => ?_, fun _ _ hbusy hleft => ?_⟩
    · rcases hgo a rfl with hfree | hspent
      · simp [hfree, WordRes.regs]
      · simp [hspent, State.busyWord, WordRes.regs]
    · simp [hbusy, hleft, State.busyWord]
  case h_4 => cases h

end

theorem bodyOf_taskNself (s : State) (d : Fld) :
    bodyOf (.taskNself d) s = .regs (s.putD d (BitVec.ofNat 64 (s.n.spec.nid + 2 ^ 32 * s.n.ctx))) := rfl

theorem bodyOf_taskDeq (s : State) (d : Fld) : bodyOf (.taskDeq d) s =
    .commit .seq fun t => t.issueNow (accessOf .deq 0 (.cells (s.r.base + d.toNat) 8 []) [] 0) := rfl

/-- Settles O43: task words behind their release, signals by the node that the handle names, `enqueue` by where it finds room,
and `performDeq` by what the search finds first. -/
theorem taskWords : Obligations.TaskWords := by
  unfold Obligations.TaskWords
  refine ⟨fun s => ⟨fun d hc => ?nself, fun i k hc ha => ?action, fun lost => ?lost, fun h hn => ?dropped, fun h n hn => ?signal⟩,
    fun s pc cells => ?enq, fun s d hc => ?deq, fun s x a => ?perform⟩
  case nself => exact exec_regs hc (bodyOf_taskNself s d) fun _ => rfl
  case action =>
    obtain ⟨he, act, hb, hlost, hgo, hbusy⟩ := bodyOf_of_taskAction ha
    refine ⟨fun hr => ?_, fun ser hr => ?_, fun ser hr => ?_, fun ser hr => ⟨fun h => ?_, fun a hi h h' => ?_⟩⟩
    · exact exec_release hc he (hb.trans (releaseFirst_begins hr))
    · exact exec_wait hc he (hb.trans (releaseFirst_waits hr))
    · exact exec_commit hc he (hb.trans (releaseFirst_commits hr hlost))
    · exact exec_commit hc he (hb.trans (releaseFirst_commits hr (hgo h)))
    · have hact := hbusy a hi h h'
      exact exec_hold hc he (hb.trans ((releaseFirst_stops hr (by simp [hact])).trans hact))
  case lost => exact endRelease_regs s lost
  case dropped => exact sendSignal_dropped hn
  case signal =>
    rw [sendSignal_current hn]
    refine ⟨fun h0 => if_pos h0, fun h1 => ?_, fun h1 hs hf => ?_⟩
    · rw [if_neg (by omega), if_neg (by omega)]
    · rw [if_neg (by omega), if_pos ⟨h1, hs, hf⟩, h1]
  case enq =>
    refine ⟨fun hr hq => enqueue_queue (queueTakes_iff.2 ⟨hr, hq⟩), fun hfull hn => ?_, fun hfull hn => ?_⟩
    · exact enqueue_overflow (not_queueTakes hfull) hn
    · exact ⟨fun ia tracked hx hw => enqueue_ring (not_queueTakes hfull) hn hx hw, fun code ia hx => enqueue_unreachable (not_queueTakes hfull) hn hx⟩
  case deq => exact exec_commit hc rfl (bodyOf_taskDeq s d)
  case perform =>
    refine ⟨fun e he => ?_, fun ho hr => ?_, fun ho hr => ⟨fun k hk hne hlow => ⟨fun e he => ?_, fun hk0 hrk => ?_⟩, fun hall => ?_⟩⟩
    · have hf := findOn_entry he
      exact performDeq_takes ((findEntry_own (by simp [hf])).trans hf)
    · have hf := findOn_refill ho hr
      exact performDeq_waits ((findEntry_own (by simp [hf])).trans hf)
    all_goals have hown := findOn_nothing ho hr
    · have hf := findOn_entry he
      exact performDeq_takes
        ((findEntry_other hown hk hne (fun j hj hjn => (hlow j hj hjn).elim findOn_nothing) (by simp [hf])).trans hf)
    · have hf := findOn_refill hk0 hrk
      exact performDeq_waits
        ((findEntry_other hown hk hne (fun j hj hjn => (hlow j hj hjn).elim findOn_nothing) (by simp [hf])).trans hf)
    · exact performDeq_nothing (findEntry_nothing hown fun j hj hjn => (hall j hj hjn).elim findOn_nothing)

end Sys2Proof.Machine
end

section
/-!
PROOFS of `task.cont` and `task.tnode` (20 R389, R394, 19 R366, R369, R370, R376).
-/
namespace Sys2Proof.Machine

/-! ### `task.cont` (R394) -/

/-- No release is under way that a word waits for. -/
theorem releasing_false {s : State} (hr : ∀ ser, s.f.rel ≠ some (ser, none)) : ¬(s.f.rel.any fun x => x.2.isNone) = true := by
  rw [Option.any_eq_true]
  rintro ⟨⟨ser, done⟩, hs, hd⟩
  cases done with
  | none => exact hr ser hs
  | some lost => cases hd

section
variable {s : State} {a b : Fld}

/-- What `task.cont` does once its release is done: it commits only where that lost a write, and else suspends the fibre. -/
def State.contAct (s : State) (a b : Fld) (ia : Nat) (lost : Bool) : WordRes :=
  if lost then .commit .seq id else .commit .gone fun t => t.suspendInto s.r (s.r.d a) ia (s.r.w b)

theorem contAct_lost {ia : Nat} : s.contAct a b ia true = .commit .seq id := rfl

theorem contAct_kept {ia : Nat} :
    s.contAct a b ia false = .commit .gone fun t => t.suspendInto s.r (s.r.d a) ia (s.r.w b) := rfl

/-- A cell that the control word keeps is empty. -/
abbrev keptEmpty (s : State) (b : Fld) : Bool := (List.range 16).any fun k => (s.r.w b).getLsbD k && !(s.r.cell k).full

theorem contWord_illegal (h : contBad (s.r.w b) s.r.n = true) : contWord s a b = .illegal := if_pos h

variable (hbad : contBad (s.r.w b) s.r.n = false)
include hbad

theorem contWord_waits (h : keptEmpty s b = true) : contWord s a b = .wait :=
  (if_neg (ne_true_of_eq_false hbad)).trans (if_pos h)

variable (hfull : keptEmpty s b = false)
include hfull

theorem contWord_misaligned (h : (s.r.d a).toNat % 16 ≠ 0) : contWord s a b = .trap 0x03 0 (s.r.d a) :=
  (if_neg (ne_true_of_eq_false hbad)).trans ((if_neg (ne_true_of_eq_false hfull)).trans (if_pos h))

variable (h0 : (s.r.d a).toNat % 16 = 0)
include h0

theorem contWord_refused {code ia : Nat} (hx : s.xlat s.n (s.r.d a).toNat 80 .both = .bad code ia) :
    contWord s a b = .fault code 0 (s.r.d a) ia := by
  simp only [contWord, if_neg (ne_true_of_eq_false hbad), if_neg (ne_true_of_eq_false hfull), if_neg (not_not.2 h0), hx]

variable {ia : Nat} {tracked : Bool} (hx : s.xlat s.n (s.r.d a).toNat 80 .both = .ok ia tracked)
include hx

/-- A release under way is waited for before the record is walked again. -/
theorem contWord_releasing {ser : Nat} (hr : s.f.rel = some (ser, none)) : contWord s a b = .wait := by
  simp only [contWord, if_neg (ne_true_of_eq_false hbad), if_neg (ne_true_of_eq_false hfull), if_neg (not_not.2 h0), hx]
  exact (if_pos (by simp [hr])).trans (releaseFirst_waits hr)

variable (hr : ∀ ser, s.f.rel ≠ some (ser, none))
include hr

/-- A home that no way leads to (log 60). -/
theorem contWord_unreached (hre : s.reaches s.c.num ia = false) : contWord s a b = .fault 0x42 0 (s.r.d a) ia := by
  simp only [contWord, if_neg (ne_true_of_eq_false hbad), if_neg (ne_true_of_eq_false hfull), if_neg (not_not.2 h0), hx,
    if_neg (releasing_false hr), hre]
  rfl

variable (hre : s.reaches s.c.num ia = true)
include hre

theorem contWord_busy {e : Nat} (hw : (s.walkRun ia 80 .both).1 = some (0, 0, e)) :
    contWord s a b = s.busyWord (s.r.d a).toNat (.fault 0x48 3 (s.r.d a) e) := by
  simp only [contWord, if_neg (ne_true_of_eq_false hbad), if_neg (ne_true_of_eq_false hfull), if_neg (not_not.2 h0), hx,
    if_neg (releasing_false hr), hre, hw]
  rfl

theorem contWord_acts (hw : (s.walkRun ia 80 .both).1 = none) : contWord s a b = releaseFirst s (s.contAct a b ia) := by
  simp only [contWord, if_neg (ne_true_of_eq_false hbad), if_neg (ne_true_of_eq_false hfull), if_neg (not_not.2 h0), hx,
    if_neg (releasing_false hr), hre, hw]
  rfl

end

/-- A walk that is still to be tried again keeps its word at work (R240). -/
theorem busyWord_again {s : State} {va : Nat} (failed : WordRes) (h : s.spent (.word s.f.id va) = false) :
    s.busyWord va failed = .hold fun t => t.tryAgain (.word t.f.id va) := if_neg (ne_true_of_eq_false h)

theorem busyWord_spent {s : State} {va : Nat} (failed : WordRes) (h : s.spent (.word s.f.id va) = true) :
    s.busyWord va failed = failed := if_pos h

theorem busyWord_not_commit {s : State} {va : Nat} {failed : WordRes} (h : ∀ ctl k, failed ≠ .commit ctl k) (ctl : Ctl)
    (k : State → State) : s.busyWord va failed ≠ .commit ctl k := by
  unfold State.busyWord
  split
  · exact h ctl k
  · nofun

/-- Settles O45: the checks of `contWord` in the order of log 16, and its act once the release is done. -/
theorem continuations : Obligations.Continuations := by
  unfold Obligations.Continuations
  intro a b s hc
  refine ⟨fun hbad => ?_, fun hbad hempty => ?_, fun hbad hfull => ⟨fun h0 => ?_, fun h0 code ia hx => ?_,
    fun ia tracked h0 hx => ⟨fun ser hr => ?_, fun hr => ⟨fun hre => ?_, fun hre e hw hsp => ?_,
      fun hre hw => ⟨fun hn => ?_, fun ser hl => ?_, fun ser hl => ?_⟩⟩⟩⟩⟩
  · exact exec_illegal hc rfl (contWord_illegal hbad) rfl
  · exact exec_wait hc rfl (contWord_waits hbad hempty)
  · exact exec_trap hc rfl (contWord_misaligned hbad hfull h0)
  · exact exec_fault hc rfl (contWord_refused hbad hfull h0 hx)
  · exact exec_wait hc rfl (contWord_releasing hbad hfull h0 hx hr)
  · exact exec_fault hc rfl (contWord_unreached hbad hfull h0 hx hr hre)
  · exact exec_hold hc rfl ((contWord_busy hbad hfull h0 hx hr hre hw).trans (busyWord_again _ hsp))
  · exact exec_release hc rfl ((contWord_acts hbad hfull h0 hx hr hre hw).trans (releaseFirst_begins hn))
  · rw [exec_commit hc rfl ((contWord_acts hbad hfull h0 hx hr hre hw).trans (releaseFirst_commits hl contAct_lost))]
    rfl
  · rw [exec_commit hc rfl ((contWord_acts hbad hfull h0 hx hr hre hw).trans (releaseFirst_commits hl contAct_kept))]
    rfl

/-! ### What writes at homes leave alone -/

/-- What a write at a home may change: memory, what walk units keep, the cores' notes of homes, and what the host is told. -/
def State.AfterWrite (s t : State) : Prop :=
  ∃ (m : Memory) (v : List WalkUnit) (l : List Note) (c : Core) (cs : List Core),
    t = { s with mem := m, walkers := v, notes := l, c := c, cores := cs }

theorem State.AfterWrite.trans {s t u : State} (h : s.AfterWrite t) (h' : t.AfterWrite u) : s.AfterWrite u := by
  obtain ⟨m, v, l, c, cs, rfl⟩ := h
  obtain ⟨m', v', l', c', cs', rfl⟩ := h'
  exact ⟨m', v', l', c', cs', rfl⟩

theorem State.afterWrite_tell (s : State) (x : Note) : s.AfterWrite (s.tell x) := ⟨s.mem, s.walkers, _, s.c, s.cores, rfl⟩

theorem State.afterWrite_homeWrite (s : State) (ia : Nat) (bs : List Byte) : s.AfterWrite (s.homeWrite ia bs).2 := by
  obtain ⟨m, v, hw⟩ := s.homeWrite_frame ia bs
  exact ⟨m, v, s.notes, s.c, s.cores, hw⟩

theorem State.afterWrite_setCore (s : State) (x : Core) : s.AfterWrite (s.setCore x) := by
  unfold State.setCore
  split
  · exact ⟨s.mem, s.walkers, s.notes, x, s.cores, rfl⟩
  · exact ⟨s.mem, s.walkers, s.notes, s.c, _, rfl⟩

theorem State.afterWrite_sentTo (s : State) (core ia : Nat) : s.AfterWrite (s.sentTo core ia) := s.afterWrite_setCore _

/-- The device's own writes (R427). -/
theorem State.afterWrite_deviceWrite (s : State) (ia : Nat) (bs : List Byte) : s.AfterWrite (s.deviceWrite ia bs) := by
  unfold State.deviceWrite
  split
  · exact s.afterWrite_tell _
  · exact s.afterWrite_homeWrite ia bs

/-- The writes of a core at its homes, of which each line is written or lost (R263, R427). -/
theorem State.afterWrite_engineWrite (s : State) (core nid gid cid ia : Nat) (bs : List Byte) :
    s.AfterWrite (s.engineWrite core nid gid cid ia bs) := by
  unfold State.engineWrite
  refine List.foldlRecOn (motive := s.AfterWrite) _ _ ⟨s.mem, s.walkers, s.notes, s.c, s.cores, rfl⟩ fun t ht x _ => ?_
  dsimp only
  split
  · exact ht.trans ((t.afterWrite_homeWrite _ _).trans (State.afterWrite_sentTo _ _ _))
  · exact ht.trans (t.afterWrite_tell _)

section
variable {s t : State} (h : s.AfterWrite t)
include h

theorem State.AfterWrite.f : t.f = s.f := by
  obtain ⟨m, v, l, c, cs, rfl⟩ := h
  rfl

theorem State.AfterWrite.nextNid : t.nextNid = s.nextNid := by
  obtain ⟨m, v, l, c, cs, rfl⟩ := h
  rfl

theorem State.AfterWrite.coreMap : t.coreMap = s.coreMap := by
  obtain ⟨m, v, l, c, cs, rfl⟩ := h
  rfl

theorem State.AfterWrite.node? (nid : Nat) : t.node? nid = s.node? nid := by
  obtain ⟨m, v, l, c, cs, rfl⟩ := h
  rfl

end

section
variable {s : State} {nid : Nat} {n : Node}

theorem putStatus_of_node (hn : s.node? nid = some n) : ∃ due, s.putStatus nid =
    (s.setNode { n with statusDue := due }).deviceWrite (n.spec.addr + 120) (leBytes 4 n.status) := by
  simp only [State.putStatus, hn]
  exact ⟨_, rfl⟩

theorem putStatus_f (s : State) (nid : Nat) : (s.putStatus nid).f = s.f := by
  cases hn : s.node? nid with
  | none => simp only [State.putStatus, hn]
  | some n =>
    obtain ⟨due, hp⟩ := putStatus_of_node hn
    rw [hp, (State.afterWrite_deviceWrite ..).f, State.setNode_f]

theorem putStatus_nextNid (s : State) (nid : Nat) : (s.putStatus nid).nextNid = s.nextNid := by
  cases hn : s.node? nid with
  | none => simp only [State.putStatus, hn]
  | some n =>
    obtain ⟨due, hp⟩ := putStatus_of_node hn
    rw [hp, (State.afterWrite_deviceWrite ..).nextNid, State.setNode_nextNid]

/-- A node whose STATUS is written stands as before, but that the write may still be due (R367). -/
theorem node?_putStatus (h0 : nid ≠ 0) (hn : s.node? nid = some n) :
    ∃ due, (s.putStatus nid).node? nid = some { n with statusDue := due } := by
  obtain ⟨due, hp⟩ := putStatus_of_node hn
  have hnid := State.node?_nid hn
  have hset := State.node?_setNode (s := s) { n with statusDue := due } (hnid ▸ h0)
  refine ⟨due, ?_⟩
  rw [hp, (State.afterWrite_deviceWrite ..).node?]
  exact hnid ▸ hset

end

/-! ### Making nodes (R366, R369, R370, R389) -/

/-- A spec is read alike wherever the core map is the same. -/
theorem specOf_congr {s t : State} (h : t.coreMap = s.coreMap) (l : Launch) (addr nid : Nat) (entry : DWord) :
    t.specOf l addr nid entry = s.specOf l addr nid entry := by
  simp only [State.specOf, h]

section
variable {s : State} {spent : Bool} {l : Launch} {ia : Nat}

theorem submit_refused {code : Nat} (h : s.judge false spent l = .refuse code) :
    s.submit spent l ia = (BitVec.ofNat 64 (2 ^ 32), s.ownWrite (ia + 120) (leBytes 4 (5 + 256 * code))) := by
  simp only [State.submit, h]
  rfl

variable {entry : DWord} (h : s.judge false spent l = .accept entry)
include h

theorem submit_noContext (hc : s.freeLaunch = none) : s.submit spent l ia = (BitVec.ofNat 64 (2 ^ 32 * 2), s) := by
  simp only [State.submit, h, hc]
  rfl

theorem submit_noNid {ctx : Nat} (hc : s.freeLaunch = some ctx) (hn : 2 ^ 32 ≤ s.nextNid) :
    s.submit spent l ia = (BitVec.ofNat 64 (2 ^ 32 * 3), s) := by
  simp only [State.submit, h, hc, if_pos hn]
  rfl

/-- The write of the NID into the spec, with the next NID taken. -/
def State.nidWritten (s : State) (ia : Nat) : State :=
  State.ownWrite { s with nextNid := s.nextNid + 1 } (ia + 8) (leBytes 4 s.nextNid)

omit h in
theorem nidWritten_f : (s.nidWritten ia).f = s.f :=
  (State.afterWrite_engineWrite { s with nextNid := s.nextNid + 1 } ..).f

/-- An accepted spec is a fresh node under the next NID (R370, R389). -/
theorem submit_makes {ctx : Nat} (hc : s.freeLaunch = some ctx) (hn : s.nextNid < 2 ^ 32) : s.submit spent l ia =
    ((Node.fresh (s.specOf l ia s.nextNid entry) ctx).handle,
      ((s.nidWritten ia).setNode (Node.fresh (s.specOf l ia s.nextNid entry) ctx)).putStatus s.nextNid) := by
  have hmap : (s.nidWritten ia).coreMap = s.coreMap := (State.afterWrite_engineWrite ..).coreMap
  rw [← specOf_congr hmap]
  simp only [State.submit, h, hc, if_neg (Nat.not_le.2 hn)]
  rfl

end

/-- What a submission does leaves the fibre that submits as it is. -/
theorem submit_f (s : State) (spent : Bool) (l : Launch) (ia : Nat) : (s.submit spent l ia).2.f = s.f := by
  cases hj : s.judge false spent l with
  | busy => simp only [State.submit, hj]
  | refuse code =>
    rw [submit_refused hj]
    exact (State.afterWrite_engineWrite ..).f
  | accept entry =>
    cases hc : s.freeLaunch with
    | none => rw [submit_noContext hj hc]
    | some ctx =>
      rcases Nat.lt_or_ge s.nextNid (2 ^ 32) with hn | hn
      · rw [submit_makes hj hc hn, putStatus_f, State.setNode_f, nidWritten_f]
      · rw [submit_noNid hj hc hn]

/-! ### `task.tnode` (R389) -/

/-- `task.tnode` reads its spec again as it commits, and writes the pair that its submission gives. -/
def State.makes (s : State) (d : Fld) (spent : Bool) (l : Launch) (va : DWord) (ia : Nat) (t : State) : State :=
  let x := t.submit spent (match t.readMaker va with | .ok m => m | _ => l) ia
  s.putD d x.1 x.2

section
variable {s : State} {d a : Fld}

theorem tnodeWord_misaligned (h0 : (s.r.d a).toNat % 128 ≠ 0) : tnodeWord s d a = .trap 0x03 0 (s.r.d a) := by
  simp only [tnodeWord, if_pos h0]

variable (h0 : (s.r.d a).toNat % 128 = 0)
include h0

theorem tnodeWord_refused {code ia : Nat} (hx : s.xlat s.n (s.r.d a).toNat 128 .load = .bad code ia) :
    tnodeWord s d a = .fault code 0 (s.r.d a) ia := by
  simp only [tnodeWord, if_neg (not_not.2 h0), hx]

variable {ia : Nat} {tracked : Bool} (hx : s.xlat s.n (s.r.d a).toNat 128 .load = .ok ia tracked)
include hx

section
variable (hr : s.f.rel = none)
include hr

/-- The spec is walked before the release begins (R386, R406, log 40). -/
theorem tnodeWord_begins {bs : List Byte} (hb : s.readHome ia 128 .load = .ok bs) :
    tnodeWord s d a = .release State.beginRelease := by
  simp only [tnodeWord, if_neg (not_not.2 h0), hx, hr, hb]
  exact releaseFirst_begins hr

theorem tnodeWord_unreadable {code sub e : Nat} (hb : s.readHome ia 128 .load = .fail code sub e) :
    tnodeWord s d a = .fault code sub (s.r.d a) e := by
  simp only [tnodeWord, if_neg (not_not.2 h0), hx, hr, hb]
  rfl

theorem tnodeWord_busy {e : Nat} (hb : s.readHome ia 128 .load = .busy e) :
    tnodeWord s d a = s.busyWord (s.r.d a).toNat (.fault 0x48 3 (s.r.d a) e) := by
  simp only [tnodeWord, if_neg (not_not.2 h0), hx, hr, hb]
  rfl

end

variable {ser : Nat}

theorem tnodeWord_releasing (hr : s.f.rel = some (ser, none)) : tnodeWord s d a = .wait := by
  simp only [tnodeWord, if_neg (not_not.2 h0), hx, hr]
  exact releaseFirst_waits hr

theorem tnodeWord_lost (hr : s.f.rel = some (ser, some true)) :
    tnodeWord s d a = .commit .seq fun t => s.putD d (BitVec.ofNat 64 (2 ^ 32 * 4)) (t.endRelease true) := by
  simp only [tnodeWord, if_neg (not_not.2 h0), hx, hr]
  exact releaseFirst_commits hr rfl

section
variable (hr : s.f.rel = some (ser, some false))
include hr

theorem tnodeWord_specBusy {field v e : Nat} (hm : s.readMaker (s.r.d a) = .busy field v e) :
    tnodeWord s d a = s.busyWord v (.fault 0x48 3 (BitVec.ofNat 64 v) e) := by
  simp only [tnodeWord, if_neg (not_not.2 h0), hx, hr, hm]
  exact releaseFirst_stops hr (busyWord_not_commit nofun)

theorem tnodeWord_specBad {field v code sub e : Nat} (hm : s.readMaker (s.r.d a) = .bad field v code sub e) :
    tnodeWord s d a = .fault code sub (BitVec.ofNat 64 v) e := by
  simp only [tnodeWord, if_neg (not_not.2 h0), hx, hr, hm]
  exact releaseFirst_stops hr nofun

variable {l : Launch} (hm : s.readMaker (s.r.d a) = .ok l)
include hm

theorem tnodeWord_imageBusy (hj : s.judge false (s.spent (.word s.f.id (num l.sp 0 8))) l = .busy) :
    tnodeWord s d a = s.busyWord (num l.sp 0 8) .wait := by
  simp only [tnodeWord, if_neg (not_not.2 h0), hx, hr, hm, if_pos hj]
  exact releaseFirst_stops hr (busyWord_not_commit nofun)

theorem tnodeWord_makes (hj : s.judge false (s.spent (.word s.f.id (num l.sp 0 8))) l ≠ .busy) :
    tnodeWord s d a = .commit .seq fun t =>
      s.makes d (s.spent (.word s.f.id (num l.sp 0 8))) l (s.r.d a) ia (t.endRelease false) := by
  simp only [tnodeWord, if_neg (not_not.2 h0), hx, hr, hm, if_neg hj, Option.isSome_some, if_true]
  refine (releaseFirst_commits hr (if_neg Bool.false_ne_true)).trans (congrArg (WordRes.commit .seq) (funext fun t => ?_))
  unfold State.makes
  cases (t.endRelease false).readMaker (s.r.d a) <;> rfl

end

end

theorem bodyOf_taskTnode {s : State} {d a : Fld} : bodyOf (.taskTnode d a) s = tnodeWord s d a := rfl

/-- A pair is written in the window that stands at issue, where the window is still the same. -/
theorem putD_of_base {s t : State} (h : t.r.base = s.r.base) (d : Fld) (v : DWord) :
    s.putD d v t = t.onRegs fun r => r.setD d v := by
  unfold State.putD
  rw [← h]
  rfl

/-- Settles O44: `task.tnode` by what it reads of its spec before and after its release, and the submission by what the rules
make of the spec. -/
theorem makingNodes : Obligations.MakingNodes := by
  unfold Obligations.MakingNodes
  refine ⟨fun d a s hc => ⟨fun h0 => ?_, fun h0 code ia hx => ?_, fun ia tracked h0 hx =>
    ⟨fun ser hr => ?_, fun hr => ⟨fun bs hb => ?_, fun code sub e hb => ?_, fun e hb => ⟨fun hsp => ?_, fun hsp => ?_⟩⟩,
      fun ser hr => ?_, fun ser hr => ⟨fun l hm => ⟨fun hj => ?_, fun hj hsp => ?_⟩, fun field v code sub e hm => ?_,
        fun field v e hm => ⟨fun hsp => ?_, fun hsp => ?_⟩⟩⟩⟩, fun s spent l ia => ⟨fun code hj => ?_, fun entry hj =>
          ⟨fun hcx => ?_, fun ctx hcx => ⟨fun hn => ?_, fun hpos hn => ?_⟩⟩⟩⟩
  · exact exec_trap hc rfl (bodyOf_taskTnode.trans (tnodeWord_misaligned h0))
  · exact exec_fault hc rfl (bodyOf_taskTnode.trans (tnodeWord_refused h0 hx))
  · exact exec_wait hc rfl (bodyOf_taskTnode.trans (tnodeWord_releasing h0 hx hr))
  · exact exec_release hc rfl (bodyOf_taskTnode.trans (tnodeWord_begins h0 hx hr hb))
  · exact exec_fault hc rfl (bodyOf_taskTnode.trans (tnodeWord_unreadable h0 hx hr hb))
  · exact exec_hold hc rfl ((bodyOf_taskTnode.trans (tnodeWord_busy h0 hx hr hb)).trans (busyWord_again _ hsp))
  · rw [BitVec.ofNat_toNat, BitVec.setWidth_eq]
    exact exec_fault hc rfl ((bodyOf_taskTnode.trans (tnodeWord_busy h0 hx hr hb)).trans (busyWord_spent _ hsp))
  · rw [exec_commit hc rfl (bodyOf_taskTnode.trans (tnodeWord_lost h0 hx hr))]
    exact congrArg _ (committed_congr fun pc => putD_of_base (endRelease_base _ _) _ _)
  · rw [exec_commit hc rfl (bodyOf_taskTnode.trans (tnodeWord_makes h0 hx hr hm hj))]
    dsimp only
    refine congrArg _ (committed_congr fun pc => (putD_of_base (by rw [State.r, submit_f]; rfl) _ _).trans ?_)
    cases (State.endRelease _ _).readMaker _ <;> rfl
  · have hw := tnodeWord_imageBusy (d := d) h0 hx hr hm (hsp ▸ hj)
    exact exec_hold hc rfl ((bodyOf_taskTnode.trans hw).trans (busyWord_again _ hsp))
  · exact exec_fault hc rfl (bodyOf_taskTnode.trans (tnodeWord_specBad h0 hx hr hm))
  · exact exec_hold hc rfl ((bodyOf_taskTnode.trans (tnodeWord_specBusy h0 hx hr hm)).trans (busyWord_again _ hsp))
  · exact exec_fault hc rfl ((bodyOf_taskTnode.trans (tnodeWord_specBusy h0 hx hr hm)).trans (busyWord_spent _ hsp))
  · rw [submit_refused hj]
    exact ⟨rfl, rfl⟩
  · exact submit_noContext hj hcx
  · exact submit_noNid hj hcx hn
  · rw [submit_makes hj hcx hn]
    refine ⟨rfl, ?_, rfl, ?_⟩
    · rw [putStatus_nextNid, State.setNode_nextNid]
      exact (State.afterWrite_engineWrite ..).nextNid
    · have hne : (Node.fresh (s.specOf l ia s.nextNid entry) ctx).spec.nid ≠ 0 := Nat.pos_iff_ne_zero.1 hpos
      exact node?_putStatus (Nat.pos_iff_ne_zero.1 hpos) (State.node?_setNode _ hne)

end Sys2Proof.Machine
end

section
/-!
PROOFS of the end of a node and of the birth and death of its arenas (19 R377, R379, R380).
-/
namespace Sys2Proof.Machine

section
variable {s : State} {nid slot : Nat} {n : Node}

/-! ### Arenas (R379, R380) -/

theorem arenaBirth_allocates (hn : s.node? nid = some n) (hb : n.born = false) (hs : n.state = .runnable)
    (hf : n.failing = none) : arenaBirth s nid =
      ((s.allocateAll n 0 n.spec.areqs).elim s fun t => t.onNode nid fun n => { n with born := true }) := by
  have hgo : ¬(n.born = true ∨ n.state ≠ .runnable ∨ n.failing.isSome = true) := by simp [hb, hs, hf]
  simp only [arenaBirth, hn, if_neg hgo]
  cases s.allocateAll n 0 n.spec.areqs <;> rfl

/-- A request takes the first slot that is free or dead, and the room that is found for it (R379). -/
theorem allocate_takes {i ia col : Nat} {r : AReq} (h0 : r.size ≠ 0)
    (hs : (List.range Config.arenaSlots).find? (fun k => (s.arena k).state = .free || (s.arena k).state = .dead) = some slot)
    (hr : s.roomFor r = some (ia, col)) : s.allocate n i r = some
      (let t := s.setArena slot ⟨(s.arena slot).gen, .live, r.place, col, n.spec.nid, r.size * 65536, ia,
        if r.hv then n.spec.succ.getD r.hix 0 else 0xFFFFFFFF, false⟩
       State.onNode { t with mem := t.mem.blank ia (ia + r.size * 65536) } n.spec.nid fun n =>
        { n with arenas := n.arenas.set i (some slot) }) := by
  simp only [State.allocate, if_neg h0, hs, hr]

/-- The steps of a death: the drop of what is left, and then the end (R377, R380). -/
theorem arenaDrained_dying (h : (s.arena slot).state = .dying) : arenaDrained s slot =
    if (s.arena slot).dropped = false then (if s.arenaBusy slot then s else s.arenaDrop slot)
    else if s.ownerEnding (s.arena slot).nid then s
    else s.setArena slot { s.arena slot with state := .dead, dropped := false } := by
  simp only [arenaDrained, if_neg (not_not.2 h), Bool.not_eq_true']

/-! ### The end of a node (R377) -/

variable (hn : s.node? nid = some n)
include hn

theorem nodeEnds_statusDue (hd : n.statusDue = true) : nodeEnds s nid = s.putStatus nid := by
  simp only [nodeEnds, hn, if_pos hd]

variable (hd : n.statusDue = false)
include hd

theorem nodeEnds_begins (hc : n.closing = false) (hl : n.live = true) (ho : s.nodeOver n = true) :
    nodeEnds s nid = (s.endBegins n).writeBackNode n := by
  simp [nodeEnds, hn, hd, hc, hl, ho]

variable (hc : n.closing = true)
include hc

theorem nodeEnds_draining (hl : n.live = true) (hw : s.endDrained n = false) : nodeEnds s nid = s.writeBackNode n := by
  simp [nodeEnds, hn, hd, hc, hl, hw]

theorem nodeEnds_fails {code : Nat} (hl : n.live = true) (hw : s.endDrained n = true) (hf : n.failing = some code) :
    nodeEnds s nid = ((s.discardTasks n).onNode nid fun n => { n with code := code }).nodeState nid .failed := by
  simp [nodeEnds, hn, hd, hc, hl, hw, hf]

theorem nodeEnds_completes (hl : n.live = true) (hw : s.endDrained n = true) (hf : n.failing = none) :
    nodeEnds s nid = s.completes n := by
  simp [nodeEnds, hn, hd, hc, hl, hw, hf]

/-- Once its dying arenas are gone, nothing of the node is left but what it came to. -/
theorem nodeEnds_forgets (hl : n.live = false) (ha : ∀ x ∈ s.arenas, ¬(x.2.nid = nid ∧ x.2.state = .dying)) :
    nodeEnds s nid = s.forget nid := by
  have hgone : (s.arenas.any fun x => x.2.nid == nid && x.2.state == .dying) = false := by
    simpa using ha
  simp [nodeEnds, hn, hd, hc, hl, hgone]

end

end Sys2Proof.Machine

namespace Sys2Proof
open Sys2Proof.Machine

/-- Settles O55: births and deaths of arenas by their own steps, and a node's end by the step of R377 that it has come to. -/
theorem nodeEnds : Obligations.NodeEnds := by
  unfold Obligations.NodeEnds
  intro s hoff
  refine ⟨fun nid n hn hb hs hf => ?_, fun n i r slot ia col h0 hs hr => allocate_takes h0 hs hr, fun slot h => ?_,
    fun nid n hn hd => ?_, fun nid n hn hd => ⟨fun hc hl ho => ?_, fun hc hl => ⟨fun hw => ?_, fun hw => ⟨fun code hf => ?_,
      fun hf => ?_⟩⟩, fun hc hl ha => ?_⟩⟩
  · rw [exec_arenaBirth hoff, arenaBirth_allocates hn hb hs hf]
    cases s.allocateAll n 0 n.spec.areqs <;> rfl
  · rw [exec_arenaDrained hoff, arenaDrained_dying h]
  all_goals rw [exec_nodeCompletion hoff]
  · rw [nodeEnds_statusDue hn hd]
  · rw [nodeEnds_begins hn hd hc hl ho]
  · rw [nodeEnds_draining hn hd hc hl hw]
  · rw [nodeEnds_fails hn hd hc hl hw hf]
  · rw [nodeEnds_completes hn hd hc hl hw hf]
    rw [State.completes, State.node?_nid hn]
    rfl
  · rw [nodeEnds_forgets hn hd hc hl ha]
    rfl

end Sys2Proof
end
